-- ==== Sys2Proof/Word.lean ====
section
/-! DEFINITION. The words of the module: bytes, 64-bit registers and byte strings (spec 00, R4 and R5). -/

namespace Sys2Proof

/-- One byte; bit 0 is the least significant (R4). -/
abbrev Byte := BitVec 8

/-- One BAR2 register (R9). -/
abbrev Word64 := BitVec 64

/-- A byte string, byte 0 first. -/
abbrev Bytes := List Byte

end Sys2Proof
end

