-- ==== Sys2Proof/Syntax.lean ====
section
/-! DEFINITION. The commands of the module: `Instr`, one constructor per row of spec/opcode_table.json, with the operands
that the spec gives the step, and the operand types. The table gives no row any field or bit, so the operands are read
from the chapters (log entry 1). An operand that reports what the physical world did (a bit error, a self-test's
outcome, a sensor's reading) is an observation: the spec makes it an input of the step. -/

namespace Sys2Proof

/-- Who writes a BAR2 register (R14, R395, R397). Boot code is code on Easel while BOOT_MODE is 1. -/
inductive Writer where
  | host | bootCode | easel
deriving DecidableEq, Repr

/-- Who submits a flash descriptor (R385): the hardware port of the spine die, a mailbox caller, or a fetch port. The
commit controller of PD19 and the scrub use the hardware port too. -/
inductive Caller where
  | hardware | commit | mailbox | bootCode | fetchBootRom | fetchEasel | fetchLoader
deriving DecidableEq, Repr

/-- A descriptor's fields under R383 but for ROUTINE, which the command's row names. -/
structure Desc where
  space : Nat
  die : Nat
  block : Nat
  page : Nat
  sectors : Nat
  dflags : Nat
  offset : Nat
  reserved : Nat
  tag : Nat
  buffer : Nat
  value : Nat
deriving DecidableEq, Repr

/-- What the dies did for one descriptor (R384, R389): whether a program or erase status was good, the bits corrected
in each 4 KiB codeword at level 0 (none: the level-0 decode failed), the retry level at which all decoded (none:
uncorrectable at level 7), the corrected bits that read as 1 and as 0 (R492), and PROBE's bit counts (R374). -/
structure FlashObs where
  good : Bool
  corrected : List (Option Nat)
  level : Option Nat
  n1 : Nat
  n0 : Nat
  sentinels : List Nat
deriving DecidableEq, Repr

/-- Bits that flip in a value that an executing stroke forms (R441 to R445): `unit` is the bank (array × 2 + bank) of an accumulator of an MMA
or PRELOAD, else the position of the written sheet; `element` the cell or element; `mask` the bits. -/
structure Upset where
  unit : Nat
  element : Nat
  mask : Nat
deriving DecidableEq, Repr

/-- What physics does to an executing stroke and its monitors report: values that flip, a fault in the residue path itself, which cannot be
told from one in a value (`mismatch`, R446), corrected and uncorrectable tile-store words at operand fetch (R57), corrected stroke-memory
words and an uncorrectable one (R78, R81). -/
structure StrokeObs where
  upsets : List Upset
  mismatch : Bool
  storeCe : Nat
  storeUe : Nat
  strokeCe : Nat
  strokeUe : Bool
deriving DecidableEq, Repr

/-- One request presented to an arbiter in a cycle (R142): requester port (at a hard station's ingress and at a hatch port the module stream),
the station that asks, whose STATIONS entry gives the priority (0xFF: the CXL.mem window), its context, the store line that it asks a tile's
bank for, and whether it lost the mutual-exclusion race of R28 and so is not registered. -/
structure ArbReq where
  port : Nat
  station : Nat
  context : Nat
  line : Nat
  lostRace : Bool
deriving DecidableEq, Repr

/-- Bytes that the wire changed on a sheet in flight: (offset in the sheet as R122 orders it, exclusive-or mask). -/
abbrev WireError := List (Nat × Byte)

/-- Where a vendor I/O request came from: an I/O submission queue, or the front entry of a query ring (R405, R412). -/
inductive ReqSrc where
  | queue (sq cid : Nat)
  | ring (r : Nat)
deriving DecidableEq, Repr

/-- One frame that a decode engine produced for a unit, in presentation order: the codec standards of R319 give it, not the
spec. `discontinuity` is the frame duration, in PTS units, when a discontinuity_indicator stands before the frame (R326);
`syntaxError`: the engine met one in it; `spans` are the parts [from, to) of the unit that its coded picture takes, `refs` the numbers of the
frames that it references (R321); `luma` are the luma samples decoded, `rgb` the cropped picture after R329 steps 1 to 3 as values over 65,535, pixel by pixel
in rows, three channels each. -/
structure Frame where
  pts : Nat
  discontinuity : Option Nat
  intra : Bool
  syntaxError : Bool
  spans : List (Nat × Nat)
  refs : List Nat
  decoded : Bool
  luma : Nat
  width : Nat
  height : Nat
  rgb : List Nat
deriving DecidableEq, Repr

/-- What an engine reports at the end of a unit (R320, R321, R326): whether its stream exceeds the profile, level or format that R319 gives its
codec, whose standard says so; the PTS of the first access unit; the frames; whether a check of the station's arithmetic failed twice (R447). -/
structure UnitObs where
  unsupported : Bool
  pts0 : Nat
  frames : List Frame
  checkFailed : Bool
deriving DecidableEq, Repr

/-- The module-internal structures of R451. -/
inductive Structure451 where
  | mappingTable | listDirectory (index : Nat) | stagingSector (lba : Nat) | migrationEntry (k : Nat)
  | marginEntry (index k : Nat) | control (code : Nat)
deriving DecidableEq, Repr

/-- A pass of PROBE or an issue of SHUFFLE for a context; `checkFailed`: the station's check of what it forms failed twice (R447). -/
structure Checked where
  ctx : Nat
  checkFailed : Bool
deriving DecidableEq, Repr

/-- What a returning read shows: the device addresses of lines that it could not correct, with the structure of R451 that a line held, and
whether FEED's check of what it forms from them failed twice (R447). -/
structure ReadObs where
  lost : List (Nat × Option Structure451)
  checkFailed : Bool
deriving DecidableEq, Repr

/-- One item found by another member in a folio search (R280): its handle's order key, its key word, and whether it was poisoned. -/
structure RemoteRec where
  h : Nat
  margin : Bool
  list : Nat
  pos : Nat
  key : BitVec 64
  poison : Bool
deriving DecidableEq, Repr

/-- What another member sends for a query (R278, R280, R281): the items whose distance it computed, whether it met poison, and its records in
the order of R252. -/
structure RemoteFound where
  module : Nat
  scanned : Nat
  poison : Bool
  recs : List RemoteRec
deriving DecidableEq, Repr

/-- A host-visible reading of the sensors at a 1 ms window (R515, R516, R518): mean input power of the window in W,
input millivolts, sensor readings in 0.125 °C steps (signed), coolant flow in 0.01 L/min. -/
structure PowerObs where
  meanW : Nat
  /-- The highest 10 µs sample of the window. -/
  peakW : Nat
  inputMv : Nat
  temps : List Int
  flow : Nat
deriving DecidableEq, Repr

/-- The media a patrol walks (R456). -/
inductive PatrolMedium where
  | t0 | t1 | tileStore | bulk
deriving DecidableEq, Repr

/-- What a patrol read found (R457); a line that cannot be corrected may hold part of a structure of R451. -/
inductive PatrolObs where
  | clean | corrected | rewrittenSince | uncorrectable (hit : Option Structure451)
deriving DecidableEq, Repr

/-- Why the input failed (R503, R560). -/
inductive InputCause where
  | underVoltage | overVoltage | hotSwapFault | removeReq
deriving DecidableEq, Repr

/-- An EMIT at the head of issue slot `slot`, with the corrected and uncorrectable tile-store words that it reads (R57). -/
structure EmitObs where
  slot : Nat
  ce : Nat
  ue : Nat
deriving DecidableEq, Repr

/-- Issue slot `slot`, and whether the stroke memory or the list table does not give its head, an uncorrectable error (R78). -/
structure HeadObs where
  slot : Nat
  ue : Bool
deriving DecidableEq, Repr

/-- The commands: one constructor per row of spec/opcode_table.json, in the table's order. -/
inductive Instr where
  -- The stipple tile: the head stroke of issue slot `n` of tile `p`.
  | nop (p n : Nat)
  | mma (p n : Nat)
  | preload (p n : Nat)
  | drain (p n : Nat)
  | ctbl (p n : Nat)
  | vop (p n : Nat)
  | func (p n : Nat)
  | reduce (p n : Nat)
  | cvt (p n : Nat)
  | signpack (p n : Nat)
  | emit (p : Nat) (o : EmitObs)
  | release (p n : Nat)
  | copy (p n : Nat)
  | invalidStroke (p : Nat) (o : HeadObs)
  /-- The `k`-th executing stroke of tile `p` completes. -/
  | strokeComplete (p k : Nat) (obs : StrokeObs)
  | firstNanTrap (p : Nat)
  | handshakeTimeout (p : Nat)
  | clockChange (p : Nat)
  | quiesceTimeout (p : Nat)
  | cntClr (p : Nat)
  | test (p : Nat)
  | selfTestEnd (p : Nat) (pass : Bool)
  | islandTransferAck (boundary : Nat)
  | arbiterGrant (resource ports : Nat) (reqs : List ArbReq)
  | escalation (resource port : Nat)
  /-- The oldest sheet in flight on module stream `s` reaches its consumer's ingress; `checkFailed` says whether the
  consumer station's internal check fails on it twice (R447). `far`: on a stream that another member produces, the hatch
  port by which the sheet comes and its bytes as a slot of R54. -/
  | sheetIngress (s : Nat) (err : WireError) (checkFailed : Bool) (far : Option (Nat × Bytes))
  | resend (s : Nat)
  | creditReturn (s : Nat)
  -- Selector registers: the 64-bit value written.
  | glbSmonSel (v : BitVec 64)
  | glbHmonSel (v : BitVec 64)
  | tierMonSel (v : BitVec 64)
  | tblSel (v : BitVec 64)
  | glbCtxSel (v : BitVec 64)
  | glbMcSel (v : BitVec 64)
  | rtvIdxSel (v : BitVec 64)
  | ltrVocSel (v : BitVec 64)
  | ltrMonSel (v : BitVec 64)
  | decMonSel (v : BitVec 64)
  | hlkMonSel (v : BitVec 64)
  | intCeSel (v : BitVec 64)
  | calMonSel (v : BitVec 64)
  | calLogSel (v : BitVec 64)
  | pwrTempSel (v : BitVec 64)
  | clear
  | go (space : Bool)
  | abort
  /-- Per codeword read: the bucket, and whether it stayed uncorrectable at level 7. -/
  | scrubPassEnd (codewords : List (Nat × Bool))
  | lock (w : Writer)
  | csRegionWrite (w : Writer) (v : BitVec 64)
  | mailboxGo (w : Writer)
  | registerWrite (w : Writer) (offset size : Nat) (v : BitVec 64)
  -- Stylus ROM descriptors, with the priority of the submitting station.
  | read (c : Caller) (d : Desc) (prio : Nat)
  | program (c : Caller) (d : Desc) (prio : Nat)
  | erase (c : Caller) (d : Desc) (prio : Nat)
  | probe (c : Caller) (d : Desc) (prio : Nat)
  | calRead (c : Caller) (d : Desc) (prio : Nat)
  | csRead (c : Caller) (d : Desc) (prio : Nat)
  | csProgram (c : Caller) (d : Desc) (prio : Nat)
  | csErase (c : Caller) (d : Desc) (prio : Nat)
  | csFetch (c : Caller) (d : Desc) (prio : Nat)
  | rbRead (c : Caller) (d : Desc) (prio : Nat)
  | rbAdvance (c : Caller) (d : Desc) (prio : Nat)
  | badDescriptor (c : Caller) (raw : Bytes)
  /-- The operation with descriptor number `id` finishes. -/
  | descriptorComplete (id : Nat) (obs : FlashObs)
  -- Images, contexts and objects.
  | imageLoad (cid ctx : Nat) (imageId : BitVec 64)
  | loadAllocation (ctx : Nat)
  /-- `faults`: logical tiles that entered FAULT while LOADING; `poisoned`: the image could not be read (R172). -/
  | loadComplete (ctx : Nat) (faults : List Nat) (poisoned : Bool)
  | replacementDrained (ctx : Nat)
  | imageStore (cid : Nat) (record : Bytes)
  | cachePin (cid : Nat) (imageId : BitVec 64)
  | cacheUnpin (cid : Nat) (imageId : BitVec 64)
  | ctxConfigure (cid : Nat) (record : Bytes)
  | ctxRelease (cid ctx : Nat)
  | ctxStart (cid ctx : Nat)
  | ctxStop (cid ctx : Nat)
  | ctxUnload (cid ctx : Nat)
  | tableLoad (cid : Nat) (record : Bytes)
  | indexLoad (cid : Nat) (record : Bytes)
  | vocabularyLoad (cid : Nat) (record : Bytes)
  | normalisationLoad (cid : Nat) (record : Bytes)
  | grammarLoad (cid : Nat) (record : Bytes)
  | objectUnload (cid kind : Nat) (id : BitVec 64)
  | windowMap (cid : Nat) (entries : Bytes)
  | windowUnmap (cid : Nat) (entries : Bytes)
  | deferredUnmap (k : Nat)
  | versionStepTable (cid : Nat) (id : BitVec 64)
  | versionStepIndex (cid : Nat) (id : BitVec 64)
  /-- The oldest version step stamped S reaches its time on this member. -/
  | versionSwitch (index : Bool) (id : BitVec 64)
  | hotGrow (cid pages : Nat) (id : BitVec 64)
  | nanClear (cid ctx : Nat)
  | fairCopy (cid : Nat) (id : BitVec 64)
  | fairCopyEnd (id : BitVec 64) (poisoned : Bool)
  | mediaThresholds (cid : Nat) (record : Bytes)
  | ringCreate (cid address ring slots cq ctx : Nat)
  | ringDelete (cid ring : Nat)
  | ringDeleteDone (ring : Nat)
  /-- The module rereads TAIL and takes the entries it finds, given as the bytes read with RdCurr. -/
  | ringTailSnoop (ring tail : Nat) (entries : List Bytes)
  | indexCommit (sq cid ctx ops : Nat) (id : BitVec 64) (data : Bytes)
  | commitEpoch (id : BitVec 64)
  | query (src : ReqSrc) (ctx : Nat) (record : Bytes)
  | frontOpen (sq cid ctx : Nat) (record : Bytes)
  | frontStep (src : ReqSrc) (ctx handle token : Nat)
  | frontClose (sq cid ctx handle : Nat)
  | deliveryJob (sq cid ctx : Nat) (record : Bytes)
  | batchJob (sq cid ctx : Nat) (record : Bytes)
  | admissionGrant
  | completionPost (rid : Nat)
  -- NVM and admin commands.
  | nvmRead (sq cid nsid slba count : Nat)
  | nvmWrite (sq cid nsid slba : Nat) (data : Bytes)
  | writeZeroes (sq cid nsid slba count : Nat)
  | flush (sq cid nsid : Nat)
  | datasetManagement (sq cid nsid : Nat) (ranges : List (Nat × Nat))
  | identify (cid cns nsid : Nat)
  | createIoSubmissionQueue (cid qid size cqid : Nat)
  | createIoCompletionQueue (cid qid size vector : Nat)
  | deleteIoSubmissionQueue (cid qid : Nat)
  | deleteIoCompletionQueue (cid qid : Nat)
  | getLogPage (cid lid lsp lsi offset len : Nat) (rae : Bool)
  | setFeatures (cid fid : Nat) (value : BitVec 32)
  | getFeatures (cid fid dword11 : Nat)
  | asynchronousEventRequest (cid : Nat)
  | abortCommand (cid sq target : Nat)
  | firmwareImageDownload (cid offset : Nat) (data : Bytes)
  | firmwareCommit (cid slot action : Nat)
  | formatNvm (cid nsid ses : Nat)
  | sanitize (cid action : Nat)
  | invalidCommandOpcode (cid opcode : Nat)
  | shutdownNotification
  | controllerReset
  | functionLevelReset
  /-- The decoder's base in host address space and its size. -/
  | decoderCommit (base bytes : Nat)
  | decoderDecommit
  | hostWindowRead (offset len : Nat)
  | hostWindowWrite (offset : Nat) (data : Bytes)
  | cxlLinkTrain (rate width : Nat) (latencyFlit : Bool)
  | perst (low : Bool)
  -- Tiers, feeder, tables.
  | moveIssue
  | moveDeadline
  | moveComplete (k : Nat)
  | stationDeadline (ctx station batch : Nat)
  | tierReadReturn (k : Nat) (obs : ReadObs)
  | hotRowCopyEnd (table : BitVec 64) (version row : Nat)
  | hotReadWindow
  -- Retrieval, decode and delivery.
  | probePass (on : Checked)
  | folioMerge (rid : Nat) (remote : List RemoteFound)
  | decodeEngineGrant (engine : Nat)
  | decodeUnitEnd (engine : Nat) (obs : UnitObs)
  | shuffleIssue (on : Checked)
  | deliverWrite (ctx port : Nat)
  -- Flash media management.
  | stagingProgram (good : Bool)
  | foldStart
  | foldJournal (good : Bool)
  | mappingCheckpoint
  | wearCheck
  | foldStripeClose
  | stripeVerify (stripe : Nat) (buckets : List Nat)
  | eraseIntent (die block : Nat) (slc : Bool)
  | mediaStageWindow
  -- Integrity.
  | patrolRead (m : PatrolMedium) (obs : PatrolObs)
  | correctableError (source address : Nat)
  | ceLeak
  | recordPersist
  -- Fault tolerance and folio.
  | reStencil (p : Nat) (selfTests : List Bool)
  | spareDailyTest (failed : List Nat)
  | membershipFrame (member : Nat) (faulted easelAlive : Bool)
  | memberLoss (member : Nat)
  | selfFence
  | memberRejoin (member : Nat)
  | remirrorEnd (member : Nat)
  /-- The offset to the master measured by a mark, in ns; none when no path reaches the master. -/
  | timingMark (offset : Option Int)
  | folioJoin (count : Nat)
  | timeFloor
  | portCheck (port : Nat) (folioId : BitVec 64) (peer peerPort : Nat)
  | portRetrain (port lanes : Nat)
  | hatchLinkFailure (port : Nat)
  | hatchAckTimeout (port : Nat)
  | hatchReplay (port k : Nat)
  | detourEnd (port : Nat)
  | managementFrame (dest : Nat) (payload : Bytes)
  -- Calibration.
  | protectedWindowEnd
  | tileCalInterval (p : Nat)
  | levelTrack (unit : Nat) (slc : Bool)
  | levelSweep (unit : Nat) (slc : Bool)
  | levelSweepAdopt (unit : Nat) (slc : Bool) (buckets : List Nat)
  -- Power.
  | inputFailure (cause : InputCause)
  | commitComplete
  | bankExhausted
  | inputReturn
  | insertion (sbAddr : Nat)
  | powerUpStep (flow : Nat)
  | domainGoodTimeout (domain : Nat)
  -- Boot.
  | bootRom
  | stage1
  /-- `failed`: the tiles whose self-test under R530 fails, when that rule runs. -/
  | easelFirmwareStart (failed : List Nat)
  | restore
  | bootStageTimeout
  | bankMeasurement
  | bankMeasurementEnd (mJ : Nat)
  | throttleWindow (obs : PowerObs)
  | surge (watts : Nat)
  | thermalStop (sensor : Nat) (reading : Int)
  | firmwareConfirm
  -- Easel.
  | easelDispatch (serviceNs : Nat)
  | overloadEnd
  | telemetryFrame
  | decimationTick
  | watchdogExpiry
  -- Sideband.
  | powerOn (member : Nat)
  | testStart (member kind : Nat)
  | testEnd (failed : List Nat)
  | testStatus (member : Nat)
  | telemetryRead (member select start : Nat)
  | recordsRead (member source start : Nat)
  | ceClear (member source : Nat)
  | readNvmeMiDataStructure (dtyp portId : Nat)
  | subsystemHealthStatusPoll
  | controllerHealthStatusPoll
  | configurationGet (id : Nat)
  | configurationSet (id value : Nat)
  | vpdRead (offset len : Nat)
  | tunnelledAdmin (opcode dword10 : Nat)
  -- SPDM over DOE.
  | getVersion
  | getCapabilities
  | negotiateAlgorithms (asym hash : Nat)
  | getDigests
  | getCertificate (slot offset len : Nat)
  | challenge (slot : Nat) (nonce : Bytes)
  | getMeasurements (index : Nat) (signed : Bool) (nonce : Bytes)
  | spdmUnsupported (code : Nat)
  -- Debug port.
  | nonce
  | password (level : Nat) (text : Bytes)
  | response (level : Nat) (sigR sigS : Nat)
  -- The remaining rows.
  | canaryFail (p : Nat)
  | hatchLaneLoss (port lanes : Nat)
  | bankCharged (mV : Nat)
  | managementRingBreak (member : Nat)
  | backInvalidateResponse (line : Nat)
  | completionQueueDoorbell (cq head : Nat)
  | hotReset
  | healthSnapshotRefresh
  | firmwareRestartEnd
deriving DecidableEq, Repr

end Sys2Proof
end

