-- ==== Sys2Proof/Machine/Maps.lean ====
section
/-! DEFINITION. Finite maps from numbers as lists of pairs with strictly rising keys: the canonical form in which State
holds sparse data, so that equal maps with equal listings are equal data. -/

namespace Sys2Proof.Machine

/-- A finite map from numbers: (key, value) pairs, keys strictly rising. -/
abbrev SMap (α : Type) := List (Nat × α)

variable {α β : Type}

/-- The value listed at `k`. -/
def mapFind : SMap α → Nat → Option α
  | [], _ => none
  | (j, a) :: t, k => if j = k then some a else if k < j then none else mapFind t k

/-- `m` with `v` listed at `k`. -/
def mapPut : SMap α → Nat → α → SMap α
  | [], k, v => [(k, v)]
  | (j, a) :: t, k, v =>
    if k < j then (k, v) :: (j, a) :: t
    else if k = j then (k, v) :: t
    else (j, a) :: mapPut t k v

/-- `m` with nothing listed at `k`. -/
def mapDrop : SMap α → Nat → SMap α
  | [], _ => []
  | (j, a) :: t, k => if j = k then t else if k < j then (j, a) :: t else (j, a) :: mapDrop t k

/-- The value at `k`, or `d`. -/
def mapGet (m : SMap α) (k : Nat) (d : α) : α := (mapFind m k).getD d

/-- `m` with the value at `k`, if one is listed, passed through `f`. -/
def mapUpd (m : SMap α) (k : Nat) (f : α → α) : SMap α :=
  match mapFind m k with
  | some a => mapPut m k (f a)
  | none => m

/-- Every listed value passed through `f`, which also sees the key. -/
def mapAll (m : SMap α) (f : Nat → α → β) : SMap β := m.map fun p => (p.1, f p.1 p.2)

/-- The pairs of `m` that satisfy `q`. -/
def mapFilter (m : SMap α) (q : Nat → α → Bool) : SMap α := m.filter fun p => q p.1 p.2

/-- The lowest number in [`from`, `from + fuel`) that `m` does not list. -/
def mapFree (m : SMap α) : Nat → Nat → Option Nat
  | _, 0 => none
  | k, fuel + 1 => if (mapFind m k).isNone then some k else mapFree m (k + 1) fuel

/-- The canonical form: keys strictly rising. -/
def mapWf : SMap α → Bool
  | [] => true
  | [_] => true
  | (j, _) :: (k, b) :: t => decide (j < k) && mapWf ((k, b) :: t)

/-- Memory cells (address, byte): the canonical list of Host.Cell. -/
abbrev Cells := List Host.Cell

/-- What an unlisted address reads as. The spec gives RAM no contents before a write (log entry 5). -/
def blankByte : Byte := 0

/-- The byte at `a`. -/
def cellRead (m : Cells) (a : Nat) : Byte := mapGet m a blankByte

/-- `m` with byte `b` at `a`; writing what an unlisted address reads as removes the entry. -/
def cellWrite (m : Cells) (a : Nat) (b : Byte) : Cells :=
  if b = blankByte then mapDrop m a else mapPut m a b

/-- `n` bytes from `a`. -/
def cellsRead (m : Cells) (a : Nat) : Nat → Bytes
  | 0 => []
  | n + 1 => cellRead m a :: cellsRead m (a + 1) n

/-- `m` with the bytes `bs` from `a` on. -/
def cellsWrite (m : Cells) (a : Nat) : Bytes → Cells
  | [] => m
  | b :: bs => cellsWrite (cellWrite m a b) (a + 1) bs

/-- The canonical form of a memory: addresses strictly rising, no entry equal to what an unlisted address reads as. -/
def cellsWf (m : Cells) : Bool := mapWf m && m.all fun c => c.2 != blankByte

/-- The same under the name that a reader looks for. -/
abbrev Memory.wf (m : Cells) : Bool := cellsWf m

end Sys2Proof.Machine
end

