-- ==== Sys2Proof/Machine/Bytes.lean ====
section
/-! DEFINITION. Byte order and fields of byte strings: multi-byte values are little-endian (R5) unless a rule says
big-endian. -/

namespace Sys2Proof.Machine

/-- The little-endian value of a byte string. -/
def leNat : Bytes → Nat
  | [] => 0
  | b :: bs => b.toNat + 256 * leNat bs

/-- `n` little-endian bytes of `v`. -/
def leBytes : Nat → Nat → Bytes
  | 0, _ => []
  | n + 1, v => BitVec.ofNat 8 v :: leBytes n (v / 256)

/-- The big-endian value of a byte string. -/
def beNat (bs : Bytes) : Nat := bs.foldl (fun a b => a * 256 + b.toNat) 0

/-- `n` big-endian bytes of `v`. -/
def beBytes (n v : Nat) : Bytes := (leBytes n v).reverse

/-- The bytes [off, off + len) of `bs`; bytes past the end are left out. -/
def slice (bs : Bytes) (off len : Nat) : Bytes := (bs.drop off).take len

/-- The little-endian value of the `n` bytes at `off`. -/
def fieldAt (bs : Bytes) (off n : Nat) : Nat := leNat (slice bs off n)

def u8 (bs : Bytes) (off : Nat) : Nat := fieldAt bs off 1
def u16 (bs : Bytes) (off : Nat) : Nat := fieldAt bs off 2
def u32 (bs : Bytes) (off : Nat) : Nat := fieldAt bs off 4
def u64 (bs : Bytes) (off : Nat) : Nat := fieldAt bs off 8

/-- Bytes [off, off + n) are zero. -/
def zeroAt (bs : Bytes) (off n : Nat) : Bool := (slice bs off n).all (· == 0)

/-- `n` zero bytes. -/
def zeros (n : Nat) : Bytes := List.replicate n 0

/-- `bs` cut or padded with zeros to `n` bytes. -/
def padTo (bs : Bytes) (n : Nat) : Bytes := bs.take n ++ zeros (n - bs.length)

/-- `bs` with `v` laid over it from `off` on. -/
def overlay (bs : Bytes) (off : Nat) (v : Bytes) : Bytes := bs.take off ++ v ++ bs.drop (off + v.length)

/-- Consecutive pieces of `n` bytes; the last may be shorter. -/
def pieces (n : Nat) (bs : List α) : List (List α) :=
  (List.range ((bs.length + n - 1) / n)).map fun i => (bs.drop (i * n)).take n

/-- The bits of a byte string, byte 0 first and bit 0 of each byte first. -/
def bitsOf (bs : Bytes) : List Bool := bs.flatMap fun b => (List.range 8).map fun i => b.getLsbD i

/-- The bits [lo, lo + n) of `v`. -/
def bitsAt (v lo n : Nat) : Nat := v / 2 ^ lo % 2 ^ n

/-- Whether bit `i` of `v` is set. -/
def bitSet (v i : Nat) : Bool := v.testBit i

/-- `a + b`, held at `m` (a count that saturates at all ones). -/
def satAdd (m a b : Nat) : Nat := min m (a + b)

/-- All ones in `n` bits. -/
def ones (n : Nat) : Nat := 2 ^ n - 1

/-- The two's complement of an integer in `n` bits. -/
def twos (n : Nat) (v : Int) : Nat := (v % (2 ^ n : Int)).toNat

/-- The integer that `n` bits in two's complement hold. -/
def signedOf (n v : Nat) : Int := if v % 2 ^ n < 2 ^ (n - 1) then (v % 2 ^ n : Nat) else (v % 2 ^ n : Nat) - (2 ^ n : Int)

/-- `ceil(a / b)`. -/
def ceilDiv (a b : Nat) : Nat := (a + b - 1) / b

/-- A 64-bit register from its fields: (lowest bit, width, value); a value keeps its low `width` bits. -/
def regOf (fs : List (Nat × Nat × Nat)) : BitVec 64 :=
  BitVec.ofNat 64 (fs.foldl (fun a f => a + f.2.2 % 2 ^ f.2.1 * 2 ^ f.1) 0)

def b2n (b : Bool) : Nat := if b then 1 else 0

/-- Update of the `i`-th element of a list. -/
def listUpd : List α → Nat → (α → α) → List α
  | [], _, _ => []
  | a :: t, 0, f => f a :: t
  | a :: t, i + 1, f => a :: listUpd t i f

/-- `a` put into a list before the first element that it comes before or ties with. -/
def insertBy (le : α → α → Bool) (a : α) : List α → List α
  | [] => [a]
  | b :: t => if le a b then a :: b :: t else b :: insertBy le a t

/-- A list sorted by `le`, ties in their order. -/
def sortBy (le : α → α → Bool) : List α → List α
  | [] => []
  | a :: t => insertBy le a (sortBy le t)

/-- `l` without its `i`-th element. -/
def listDrop : List α → Nat → List α
  | [], _ => []
  | _ :: t, 0 => t
  | a :: t, i + 1 => a :: listDrop t i

end Sys2Proof.Machine
end

