-- ==== Sys2Proof/Machine/Num.lean ====
section
/-! DEFINITION. Exact numbers: NaN, signed infinities, and dyadic rationals with a signed zero, with the operations that
the module computes exactly before its one rounding (R96, R102, R106, R108, R110). -/

namespace Sys2Proof.Machine

/-- A value: NaN, an infinity, or (-1)^neg × m × 2^e. A zero keeps its sign (R110). -/
inductive ExNum where
  | nan
  | inf (neg : Bool)
  | fin (neg : Bool) (m : Nat) (e : Int)
deriving DecidableEq, Repr

namespace ExNum

def zero : ExNum := .fin false 0 0

def isNan : ExNum → Bool
  | .nan => true
  | _ => false

def isZero : ExNum → Bool
  | .fin _ m _ => m == 0
  | _ => false

def isNeg : ExNum → Bool
  | .nan => false
  | .inf n => n
  | .fin n _ _ => n

def neg : ExNum → ExNum
  | .nan => .nan
  | .inf n => .inf (!n)
  | .fin n m e => .fin (!n) m e

def ofInt (v : Int) : ExNum := .fin (decide (v < 0)) v.natAbs 0

/-- v × 2^e. -/
def ofIntExp (v e : Int) : ExNum := .fin (decide (v < 0)) v.natAbs e

/-- The signed integer of a finite value in units of 2^e, for an `e` not above the value's own exponent. -/
def scaled (n : Bool) (m : Nat) (x e : Int) : Int :=
  let v : Int := (m * 2 ^ (x - e).toNat : Nat)
  if n then -v else v

/-- Exact sum. An infinity meeting its opposite is NaN; an exact zero sum is -0 only when both operands are -0 (R104,
R110). -/
def add : ExNum → ExNum → ExNum
  | .nan, _ => .nan
  | _, .nan => .nan
  | .inf a, .inf b => if a = b then .inf a else .nan
  | .inf a, .fin .. => .inf a
  | .fin .., .inf b => .inf b
  | .fin a m e, .fin b n f =>
    if m = 0 then (if n = 0 then .fin (a && b) 0 0 else .fin b n f)
    else if n = 0 then .fin a m e
    else
      let g := min e f
      let v := scaled a m e g + scaled b n f g
      if v = 0 then zero else .fin (decide (v < 0)) v.natAbs g

/-- Exact product. An infinity times zero is NaN (R104). -/
def mul : ExNum → ExNum → ExNum
  | .nan, _ => .nan
  | _, .nan => .nan
  | .inf a, y => if y.isZero then .nan else .inf (a != y.isNeg)
  | x, .inf b => if x.isZero then .nan else .inf (x.isNeg != b)
  | .fin a m e, .fin b n f => .fin (a != b) (m * n) (e + f)

def sub (x y : ExNum) : ExNum := add x y.neg

/-- x < y on numbers that are not NaN, with -0 below +0 (R109). -/
def lt : ExNum → ExNum → Bool
  | .nan, _ => false
  | _, .nan => false
  | .inf a, .inf b => a && !b
  | .inf a, .fin .. => a
  | .fin .., .inf b => !b
  | .fin a m e, .fin b n f =>
    if m = 0 ∧ n = 0 then a && !b
    else
      let g := min e f
      decide (scaled a m e g < scaled b n f g)

/-- x < y with the two zeros equal. -/
def ltv (x y : ExNum) : Bool := if x.isZero && y.isZero then false else lt x y

/-- maximumNumber of IEEE 754-2019 (R109). -/
def maxN (x y : ExNum) : ExNum :=
  match x, y with
  | .nan, y => y
  | x, .nan => x
  | x, y => if lt x y then y else x

/-- minimumNumber of IEEE 754-2019 (R109). -/
def minN (x y : ExNum) : ExNum :=
  match x, y with
  | .nan, y => y
  | x, .nan => x
  | x, y => if lt y x then y else x

/-- x × 2^k. -/
def shift (x : ExNum) (k : Int) : ExNum :=
  match x with
  | .fin n m e => .fin n m (e + k)
  | x => x

/-- floor(log2 |x|) of a finite non-zero value. -/
def log2 : ExNum → Int
  | .fin _ m e => (m.log2 : Int) + e
  | _ => 0

/-- |x| as (m, e). -/
def mag : ExNum → Nat × Int
  | .fin _ m e => (m, e)
  | _ => (0, 0)

/-- m × 2^e in units of 2^q, truncated towards zero. -/
def truncTo (m : Nat) (e q : Int) : Nat :=
  if q ≤ e then m * 2 ^ (e - q).toNat
  else if (m.log2 : Int) + 1 < q - e then 0
  else m / 2 ^ (q - e).toNat

/-- m × 2^e in units of 2^q, rounded to nearest with ties away from zero (R96). -/
def nearTo (m : Nat) (e q : Int) : Nat :=
  if q ≤ e then m * 2 ^ (e - q).toNat
  else if (m.log2 : Int) + 1 < q - e then 0
  else (m / 2 ^ ((q - e).toNat - 1) + 1) / 2

/-- The exponent of the unit in the last place of m × 2^e in a binary format of `p` bits with least exponent `emin`. -/
def ulp (m : Nat) (e : Int) (p : Nat) (emin : Int) : Int := max emin ((m.log2 : Int) + e - (p - 1 : Nat))

/-- Round to nearest, ties away, into a binary format of `p` bits and least exponent `emin`, with no upper bound. -/
def near (x : ExNum) (p : Nat) (emin : Int) : ExNum :=
  match x with
  | .fin n m e => if m = 0 then .fin n 0 0 else let q := ulp m e p emin; .fin n (nearTo m e q) q
  | x => x

/-- Stochastic rounding of an exact sum into FP32 with the draw r (R103), with no upper bound: the part below the unit in
the last place is taken to 16 bits as d, and the magnitude goes up when d + r ≥ 65,536. -/
def stochastic (x : ExNum) (r : Nat) : ExNum :=
  match x with
  | .fin n m e =>
    if m = 0 then .fin n 0 0
    else
      let q := ulp m e 24 (-149)
      let k := truncTo m e q
      let d := truncTo m e (q - 16) % 65536
      .fin n (if 65536 ≤ d + r % 65536 then k + 1 else k) q
  | x => x

/-- Whether |x| of a finite value is 2^k or more. -/
def atLeastPow (x : ExNum) (k : Int) : Bool :=
  match x with
  | .fin _ m _ => m != 0 && decide (k ≤ x.log2)
  | _ => false

/-- A finite value beyond what FP32 and BF16 hold becomes an infinity (R97, R104): both formats end below 2^128. -/
def bound (x : ExNum) : ExNum := if atLeastPow x 128 then .inf x.isNeg else x

/-- floor(x) of a finite value. -/
def floor : ExNum → Int
  | .fin n m e =>
    if 0 ≤ e then scaled n m e 0
    else
      let d := 2 ^ (-e).toNat
      if n then -(((m + d - 1) / d : Nat) : Int) else ((m / d : Nat) : Int)
  | _ => 0

end ExNum

/-- Binary floats by (exponent bits, fraction bits, bias): the exact value of a code with its subnormals, the top exponent
taken as an ordinary one. -/
def floatVal (eb fb : Nat) (bias : Int) (c : Nat) : ExNum :=
  let f := c % 2 ^ fb
  let x := c / 2 ^ fb % 2 ^ eb
  let n := bitSet c (eb + fb)
  if x = 0 then .fin n f (1 - bias - fb) else .fin n (f + 2 ^ fb) ((x : Int) - bias - fb)

/-- IEEE-style floats, with infinities and NaNs at the top exponent. -/
def ieeeVal (eb fb : Nat) (bias : Int) (c : Nat) : ExNum :=
  if c / 2 ^ fb % 2 ^ eb = 2 ^ eb - 1 then (if c % 2 ^ fb = 0 then .inf (bitSet c (eb + fb)) else .nan)
  else floatVal eb fb bias c

/-- FP32 and BF16 (R85). -/
def fp32Val (w : BitVec 32) : ExNum := ieeeVal 8 23 127 w.toNat
def bf16Val (w : BitVec 16) : ExNum := ieeeVal 8 7 127 w.toNat

/-- The code of a finite value that the float format holds exactly. -/
def floatCode (eb fb : Nat) (bias : Int) (n : Bool) (m : Nat) (q : Int) : Nat :=
  let sign := if n then 2 ^ (eb + fb) else 0
  if m = 0 then sign
  else
    let x : Int := (m.log2 : Int) + q + bias
    if x ≤ 0 then sign + ExNum.truncTo m q (1 - bias - fb)
    else sign + x.toNat * 2 ^ fb + (ExNum.truncTo m q ((m.log2 : Int) + q - fb)) % 2 ^ fb

/-- FP32 code of a value after one rounding (R96, R97, R111). -/
def fp32Code (x : ExNum) : BitVec 32 :=
  match (x.near 24 (-149)).bound with
  | .nan => 0x7FC00000
  | .inf n => if n then 0xFF800000 else 0x7F800000
  | .fin n m q => BitVec.ofNat 32 (floatCode 8 23 127 n m q)

/-- FP32 code of a value that is already rounded to FP32's unit (R103, R104). -/
def fp32Exact (x : ExNum) : BitVec 32 :=
  match x.bound with
  | .nan => 0x7FC00000
  | .inf n => if n then 0xFF800000 else 0x7F800000
  | .fin n m q => BitVec.ofNat 32 (floatCode 8 23 127 n m q)

/-- BF16 code of a value after one rounding. -/
def bf16Code (x : ExNum) : BitVec 16 :=
  match (x.near 8 (-133)).bound with
  | .nan => 0x7FC0
  | .inf n => if n then 0xFF80 else 0x7F80
  | .fin n m q => BitVec.ofNat 16 (floatCode 8 7 127 n m q)

/-- log₂ e and ln 2 to 384 fraction bits: FUNC's EXP and LOG use the constants themselves (R58), and these decide every
rounding of an FP32 or BF16 argument (log entry 12). -/
def log2eScaled : Nat :=
  56845078940614522728101780116048406937627153348395906275478809373627524763440110703606128611859398762446676743930215
def ln2Scaled : Nat :=
  27311389503436327984859642001965014295881604093268141717219425985154158335678826923825841039545353940567474963094288

def log2e : ExNum := .fin false log2eScaled (-384)
def ln2 : ExNum := .fin false ln2Scaled (-384)

end Sys2Proof.Machine
end

