-- ==== Sys2Proof/Machine/TileData.lean ====
section
/-! DEFINITION. The data of sheets, streams and stipple tiles (spec 02 and 04). -/

namespace Sys2Proof.Machine

/-- A sheet (R118): the fields of its header, its 32 E8M0 scales and its data bytes (R54). -/
structure Sheet where
  stream : BitVec 16
  format : BitVec 8
  shape : BitVec 8
  seq : BitVec 32
  flags : BitVec 16
  valid : BitVec 16
  tag : BitVec 32
  origin : BitVec 64
  check : BitVec 32
  scales : Bytes
  data : Bytes
  /-- Bytes [24, 28) of the header, which a producer writes as zero and CHECK covers (R118, R122). -/
  rsv : BitVec 32 := 0
deriving DecidableEq, Repr

/-- No sheet: what an operation answers where R61 has left no slot empty. -/
def Sheet.none : Sheet := ⟨0, 0, 0, 0, 0, 0, 0, 0, 0, [], [], 0⟩

/-- Roles of a tile (R20), in the codes of TILE_ID.ROLE (R73). -/
inductive Role where
  | service | spare | retired
deriving DecidableEq, Repr

/-- Tile states (R70), in the order of their codes. -/
inductive TileState where
  | off | spareIdle | testing | loading | ready | running | quiescing | fault | retired
deriving DecidableEq, Repr

/-- What a slot of a buffer holds when it is not free (R56): a sheet that is present, one that an executing stroke will
make present, or one released ahead of the consume head. -/
inductive SlotState where
  | present | reserved | releasedAhead
deriving DecidableEq, Repr

structure TSlot where
  st : SlotState
  /-- The sheet arrived on the buffer's stream; otherwise a stroke of the tile wrote it (R123, R124). -/
  arrived : Bool
  sheet : Sheet
deriving DecidableEq, Repr

/-- A buffer of the tile store (R55, R83): its descriptor, its consume head as a slot index, and its slots by index. -/
structure Buffer where
  resident : Bool
  stream : Nat
  base : Nat
  slotLines : Nat
  slots : Nat
  head : Nat
  ring : SMap TSlot
deriving DecidableEq, Repr

/-- Selectors of a route (R128), in the order of their codes (R163). -/
inductive Selector where
  | single | rotate | broadcast | byTag
deriving DecidableEq, Repr

/-- An outbound route (R128): module stream numbers, and ROTATE's position and count of sheets sent there. -/
structure Route where
  selector : Selector
  group : Nat
  streams : List Nat
  pos : Nat
  sent : Nat
deriving DecidableEq, Repr

/-- A valid list-table entry (R163). -/
structure ListEntry where
  first : Nat
  last : Nat
  islot : Nat
deriving DecidableEq, Repr

/-- An issue slot that runs lists (R61, R76): the list entry it is in and the stroke address at its head. -/
structure IssueSlot where
  list : Nat
  pc : Nat
deriving DecidableEq, Repr

/-- A loaded function table (R58, R59, R164): 1,024 pairs (v, s) of FP32. -/
structure FTab where
  kind : Nat
  lowTail : Nat
  highTail : Nat
  lo : BitVec 32
  hi : BitVec 32
  entries : List (BitVec 32 × BitVec 32)
deriving DecidableEq, Repr

/-- One stroke of a chain as it ran (R49, R63): its stroke-memory word and the sheets it used, so that a rerun uses the
same operands. -/
structure ChainStep where
  stroke : BitVec 128
  srcA : List Sheet
  srcB : List Sheet
  poison : Bool
deriving DecidableEq, Repr

/-- An open chain of one array and bank (R49): its accumulator kind, its strokes, the slots whose release waits for the
drain (R62), and whether it was repeated (R63). -/
structure Chain where
  fp : Bool
  steps : List ChainStep
  rels : List (Nat × Nat)
  /-- Every slot that the chain has used, which no release frees before its DRAIN (R62). -/
  used : List (Nat × Nat)
  repeated : Bool
  /-- A residue check in the chain's compute has failed, so its DRAIN is discarded (R63). -/
  bad : Bool
deriving DecidableEq, Repr

/-- One bank of one array (R40): 1,024 cells row by row, the sticky saturation bits (R100), and the open chain. -/
structure Bank where
  cells : List (BitVec 32)
  sats : List Bool
  /-- The running residue of each cell of an INT8 chain (R443). -/
  res : List Nat
  chain : Option Chain
  /-- A NaN arose in the open chain from operands that held none (R65). -/
  nanMade : Bool
deriving DecidableEq, Repr

/-- One array (R40): the Contour-4 tables CTBL loaded, for operands A and B (R44, R90). -/
structure ArrayUnit where
  tables : Option (List (BitVec 16) × List (BitVec 16))
deriving DecidableEq, Repr

/-- A stroke that has issued and not completed (R56, R64): where it stands, the arrays and banks (array × 2 + bank) and
whether the vector unit is busy with it, the (buffer, slot) pairs it writes and those it releases at completion, whether
it was repeated (R63), the sheet in whose making it produced a NaN (R65), and the residue checks it passes. -/
structure Exec where
  addr : Nat
  list : Nat
  stroke : BitVec 128
  arrays : List Nat
  banks : List Nat
  vector : Bool
  writes : List (Nat × Nat)
  rels : List (Nat × Nat)
  repeated : Bool
  nan : Option Sheet
  checks : Nat
deriving DecidableEq, Repr

/-- A tile's NaN record (R82) and whether the spine has had it (R65). -/
structure TileNan where
  seq : BitVec 32
  stream : Nat
  station : Nat
  list : Nat
  stroke : Nat
  sent : Bool
deriving DecidableEq, Repr

/-- The counters of R80 and R81. -/
structure TileCounts where
  issued : Nat
  stallIn : Nat
  stallOut : Nat
  stallBank : Nat
  arrayBusy : Nat
  repeats : Nat
  checks : Nat
  storeCe : Nat
  storeUe : Nat
  strokeCe : Nat
deriving DecidableEq, Repr

/-- The calibration data of a tile (R495, R496, R501). `canary` and `residue` are the evidence of the open interval,
`held` a failed interval whose step is held, `lastRepeats` REPEATS at the last evaluation, `lastFail` the stamp of the
last step or failed interval. -/
structure TileCal where
  stepsUp : Nat
  stepsDown : Nat
  exhausted : Bool
  held : Bool
  heldCause : Nat
  lastRepeats : Nat
  quietFrom : Nat
  /-- The number of the interval in which the tile was evaluated last (R495). -/
  interval : Nat
deriving DecidableEq, Repr

/-- One stipple tile. -/
structure Tile where
  role : Role
  st : TileState
  freq : Nat
  vofs : Int
  runFreq : Nat
  /-- A pending change of (FREQ, VOFS) that waits for a stroke boundary (R64, R74). -/
  change : Option (Nat × Int)
  station : Nat
  context : Nat
  placed : Bool
  mode : Nat
  logical : Nat
  nlists : Nat
  buffers : SMap Buffer
  routes : SMap Route
  strokes : List (BitVec 128)
  lists : SMap ListEntry
  islots : SMap IssueSlot
  /-- The rotating pointer over the issue slots (R61). -/
  turn : Nat
  arrays : SMap ArrayUnit
  banks : SMap Bank
  ftabs : SMap FTab
  exec : List Exec
  /-- The plate image is being replaced (R71): QUIESCING ends in READY. -/
  replacing : Bool
  faults : BitVec 7
  testRuns : Nat
  testFails : Nat
  testBusy : Bool
  lastPass : Bool
  counts : TileCounts
  nan : Option TileNan
  cal : TileCal
deriving DecidableEq, Repr

/-- A stream (R126 to R137, R148). -/
structure Stream where
  ctx : Nat
  localNo : Nat
  format : Nat
  shape : Nat
  srcFmt : Nat
  grid : Option (List (BitVec 16))
  prod : Nat
  cons : Nat
  prodTile : Option Nat
  consTile : Option Nat
  consBuf : Nat
  slots : Nat
  region : Nat
  hatchModule : Nat
  hatchStream : Nat
  credits : Nat
  /-- Credits on their way back to the producer (R62, R134). -/
  returning : Nat
  /-- Sheets sent and not yet accepted, oldest first; the producer holds a copy of each (R136). -/
  inflight : List Sheet
  /-- EMIT slots released when the consumer accepts: (tile, buffer, slot) per sheet in flight (R132). -/
  holds : List (Option (Nat × Nat × Nat))
  /-- The consumer has asked for the oldest sheet again (R136). -/
  resendAsked : Bool
  /-- The oldest sheet in flight is already a resend. -/
  resent : Bool
  nextSend : BitVec 32
  nextAccept : BitVec 32
  present : Nat
  accepted : Nat
  resends : Nat
  substitutes : Nat
  zeroNs : Nat
  lastTag : BitVec 32
  lastOrigin : BitVec 64
  /-- Sheets that a hard-station producer holds until it may send them, oldest first (R131, R133), and whether each is new data, whose check
  value is formed when it goes out (R123, R124). -/
  queue : List (Sheet × Bool)
  /-- Credits that a hard-station consumer keeps while its own outputs are blocked (R133). -/
  owed : Nat
  /-- Sheets that DECODE has taken from the ingress queue and keeps in their slots (R328), oldest first. -/
  inbox : List Sheet
  /-- Sheets present in the ingress queue and not yet taken, oldest first; their slots lie in T0 (R129). -/
  arrived : List Sheet
deriving DecidableEq, Repr

/-- A requester registered at an arbiter (R142): its port, station, context, priority, the number of times in a row that
higher-priority requests passed it over, and whether it is escalated (R36). -/
structure Requester where
  port : Nat
  station : Nat
  context : Nat
  priority : Nat
  passes : Nat
  escalated : Bool
deriving DecidableEq, Repr

/-- An arbiter (R142): its registered requests by port, its rotating pointer, the last port granted. -/
structure Arbiter where
  waiting : SMap Requester
  pointer : Nat
  granted : Option Nat
deriving DecidableEq, Repr

/-- Transfers at an island boundary (R27): whether one awaits its acknowledge, how many have completed. -/
structure Boundary where
  outstanding : Bool
  done : Nat
deriving DecidableEq, Repr

end Sys2Proof.Machine
end

