-- ==== Sys2Proof/Machine/Formats.lean ====
section
/-! DEFINITION. The number formats of R85: element packing (R86), block scales (R87, R88), Contour-4 (R90 to R93) and the
conversions of R96 to R98, R110 and R111. -/

namespace Sys2Proof.Machine

/-- Data lines of a format, none for a code that R85 does not list (R54). -/
def dataLines (f : Nat) : Option Nat :=
  match f with
  | 0x01 | 0x02 | 0x03 | 0x04 => some 16
  | 0x05 | 0x06 => some 12
  | 0x07 | 0x08 => some 8
  | 0x10 => some 32
  | 0x11 | 0x20 => some 64
  | 0x30 => some 2
  | _ => none

/-- Slot lines of a format (R54). -/
def slotLines (f : Nat) : Option Nat := (dataLines f).map (· + 1)

/-- Bits per element (R85): an element takes one line-bit of each of 512 per line over 1,024 elements. -/
def elemBits (f : Nat) : Nat := (dataLines f).getD 0 / 2

/-- Formats with E8M0 block scales. -/
def hasScales (f : Nat) : Bool := decide (2 ≤ f) && decide (f ≤ 8)

/-- The 1,024 element codes of a sheet's data (R86). -/
def unpack (f : Nat) (data : Bytes) : List Nat :=
  let w := elemBits f
  let v := leNat data
  (List.range 1024).map fun i => v / 2 ^ (w * i) % 2 ^ w

/-- The data bytes of 1,024 element codes. -/
def pack (f : Nat) (codes : List Nat) : Bytes :=
  let w := elemBits f
  leBytes (128 * w) (codes.foldr (fun c a => a * 2 ^ w + c % 2 ^ w) 0)

/-- The value of an element code before its block scale (R85); Contour-4 decodes through its grid. -/
def elemVal (f : Nat) (grid : List (BitVec 16)) (c : Nat) : ExNum :=
  match f with
  | 0x01 => .ofInt (signedOf 8 c)
  | 0x02 => .ofIntExp (signedOf 8 c) (-6)
  | 0x03 => if c % 128 = 127 then .nan else floatVal 4 3 7 c
  | 0x04 => ieeeVal 5 2 15 c
  | 0x05 => floatVal 3 2 3 c
  | 0x06 => floatVal 2 3 1 c
  | 0x07 => floatVal 2 1 1 c
  | 0x08 => bf16Val (grid.getD c 0)
  | 0x10 => bf16Val (BitVec.ofNat 16 c)
  | 0x11 => fp32Val (BitVec.ofNat 32 c)
  | 0x20 => .ofInt (signedOf 32 c)
  | _ => .ofInt (c : Int)

/-- A block's elements under its scale code (R87). -/
def scaledVal (f : Nat) (grid : List (BitVec 16)) (scale : Byte) (c : Nat) : ExNum :=
  if hasScales f then (if scale = 0xFF then .nan else (elemVal f grid c).shift ((scale.toNat : Int) - 127))
  else elemVal f grid c

/-- The 1,024 values of a sheet (R85 to R87). -/
def sheetVals (s : Sheet) (grid : List (BitVec 16) := []) : List ExNum :=
  (unpack s.format.toNat s.data).mapIdx fun i c => scaledVal s.format.toNat grid (s.scales.getD (i / 32) 0) c

/-- e_max of R88. -/
def eMax (f : Nat) : Int :=
  match f with
  | 0x03 => 8
  | 0x04 => 15
  | 0x05 => 4
  | 0x06 => 2
  | 0x07 => 2
  | _ => 0

/-- |x| ≤ |y| of finite values. -/
def magLe (x y : ExNum) : Bool :=
  match x, y with
  | .fin _ m e, .fin _ n f => !ExNum.ltv (.fin false n f) (.fin false m e)
  | _, _ => false

/-- The largest magnitude among the finite values of a list. -/
def maxMag (xs : List ExNum) : ExNum :=
  xs.foldl (fun a x => match x with | .fin _ m e => if magLe a (.fin false m e) then .fin false m e else a | _ => a) .zero

/-- The largest magnitude of a grid (R88). -/
def gridMax (grid : List (BitVec 16)) : ExNum := maxMag (grid.map bf16Val)

/-- The exponent X of a block (R88), clamped to [-127, 127]; 0 when no element is finite and non-zero. -/
def blockExp (f : Nat) (grid : List (BitVec 16)) (xs : List ExNum) : Int :=
  let m := maxMag xs
  if m.isZero then 0
  else
    let x :=
      if f = 0x08 then
        let g := gridMax grid
        let k := m.log2 - g.log2
        if magLe m (g.shift (k - 1)) then k - 1 else if magLe m (g.shift k) then k else k + 1
      else m.log2 - eMax f
    max (-127) (min 127 x)

/-- An integer code: round to nearest with ties away, held to [lo, hi]; NaN gives 0 (R97). DEDUCED: a negative infinity gives lo, the most
negative code, as "Max with the sign of the source" (log entry 126). -/
def intCode (lo hi : Int) (x : ExNum) : Int :=
  match x with
  | .nan => 0
  | .inf n => if n then lo else hi
  | .fin n m e =>
    let v : Int := (ExNum.nearTo m e 0 : Nat)
    max lo (min hi (if n then -v else v))

/-- Whether a value is so large that its integer conversion must saturate: beyond 2^40. -/
def huge (x : ExNum) : Bool := x.atLeastPow 40

/-- `intCode` that does not form a large power for a value that saturates. -/
def satInt (lo hi : Int) (x : ExNum) : Int := if huge x then (if x.isNeg then lo else hi) else intCode lo hi x

/-- A small float's code with saturation (R97): largest finite code `top`, infinity code `infC` where the format has one. -/
def satFloat (eb fb : Nat) (bias : Int) (top : Nat) (infC nanC : Option Nat) (x : ExNum) : Nat :=
  let sign (n : Bool) (c : Nat) := if n then c + 2 ^ (eb + fb) else c
  match x with
  | .nan => nanC.getD 0
  | .inf n => sign n (infC.getD top)
  | .fin n m e =>
    match ExNum.near (.fin n m e) (fb + 1) (1 - bias - fb) with
    | .fin _ k q =>
      if ExNum.ltv (floatVal eb fb bias top) (.fin false k q) then sign n top else floatCode eb fb bias n k q
    | _ => 0

/-- Whether the first grid entry suits x better than the second (R93): nearer, then larger, then of x's sign. -/
def gridBetter (x a b : ExNum) : Bool :=
  let dist (g : ExNum) : ExNum := match ExNum.sub x g with | .fin _ m e => .fin false m e | y => y
  let da := dist a
  let db := dist b
  if ExNum.ltv da db then true
  else if ExNum.ltv db da then false
  else if !magLe a b then true
  else if !magLe b a then false
  else a.isNeg == x.isNeg

/-- Contour-4 code of an element already divided by 2^X (R93). -/
def contourCode (grid : List (BitVec 16)) (x : ExNum) : Nat :=
  match x with
  | .nan => 0
  | .inf n => if n then 0 else 15
  | x =>
    (((List.range 16).map fun k => (k, bf16Val (grid.getD k 0))).foldl
      (fun best g => match best with
        | none => some g
        | some b => if gridBetter x g.2 b.2 then some g else some b) none).elim 0 (·.1)

/-- The code of a value already divided by its block scale (R96, R97, R110, R111). -/
def elemCode (f : Nat) (grid : List (BitVec 16)) (x : ExNum) : Nat :=
  match f with
  | 0x01 => twos 8 (satInt (-128) 127 x)
  | 0x02 => twos 8 (satInt (-127) 127 (x.shift 6))
  | 0x03 => satFloat 4 3 7 0x7E none (some 0x7F) x
  | 0x04 => satFloat 5 2 15 0x7B (some 0x7C) (some 0x7F) x
  | 0x05 => satFloat 3 2 3 0x1F none none x
  | 0x06 => satFloat 2 3 1 0x1F none none x
  | 0x07 => satFloat 2 1 1 0x7 none none x
  | 0x08 => contourCode grid x
  | 0x10 => (bf16Code x).toNat
  | 0x11 => (fp32Code x).toNat
  | 0x20 => twos 32 (satInt (-(2 ^ 31)) (2 ^ 31 - 1) x)
  | _ => match x with | .fin false m _ => if m = 0 then 0 else 1 | .inf false => 1 | _ => 0

/-- One block of 32 values in a format: its scale code and its element codes (R88, R89). -/
def encodeBlock (f : Nat) (grid : List (BitVec 16)) (xs : List ExNum) : Byte × List Nat :=
  if hasScales f then
    if (xs.any ExNum.isNan) && f != 0x03 && f != 0x04 then (0xFF, xs.map fun _ => 0)
    else
      let x := blockExp f grid xs
      (BitVec.ofNat 8 (x + 127).toNat, xs.map fun v => elemCode f grid (v.shift (-x)))
  else (0, xs.map (elemCode f grid))

/-- The scales and data of 1,024 values in a format. -/
def encodeVals (f : Nat) (grid : List (BitVec 16)) (xs : List ExNum) : Bytes × Bytes :=
  let bs := ((List.range 32).map fun r => (xs.drop (32 * r)).take 32).map (encodeBlock f grid)
  (bs.map (·.1), pack f (bs.flatMap (·.2)))

/-- The zero code of a format on a stream whose bound grid is given (R120). -/
def zeroCode (f : Nat) (grid : Option (List (BitVec 16))) : Nat :=
  if f = 0x08 then (grid.map fun g => contourCode g .zero).getD 0 else 0

/-- Whether a grid keeps R91: finite, strictly ascending, each zero or of magnitude in [2⁻¹⁶, 2¹⁶). -/
def gridOk (grid : List (BitVec 16)) : Bool :=
  let vs := grid.map bf16Val
  decide (vs.length = 16) &&
  vs.all (fun v => match v with
    | .fin _ m e => m == 0 || (decide (-16 ≤ (m.log2 : Int) + e) && decide ((m.log2 : Int) + e < 16))
    | _ => false) &&
  (vs.zip vs.tail).all fun p => ExNum.ltv p.1 p.2

/-- The default grid (R92). -/
def defaultGrid : List (BitVec 16) :=
  [0xBF80, 0xBF35, 0xBF0B, 0xBED5, 0xBE9F, 0xBE5D, 0xBE02, 0xBD2C,
   0x3D2C, 0x3E02, 0x3E5D, 0x3E9F, 0x3ED5, 0x3F0B, 0x3F35, 0x3F80]

/-- A sheet's data past VALID as padding (R120): zero codes, and scale 0x7F on the padding rows of an MX block. -/
def padSheet (s : Sheet) (grid : Option (List (BitVec 16)) := none) : Sheet :=
  let f := s.format.toNat
  let live := if s.shape = 0 then 32 * s.valid.toNat else s.valid.toNat
  let z := zeroCode f grid
  { s with
    data := pack f ((unpack f s.data).mapIdx fun i c => if i < live then c else z)
    scales := s.scales.mapIdx fun r e => if hasScales f && decide (live ≤ 32 * r) then 0x7F else e }

/-! Check values (R122). -/

/-- One byte through the reflected CRC-32C. -/
def crcByte (c : BitVec 32) (b : Byte) : BitVec 32 :=
  (List.range 8).foldl (fun c _ => if c.getLsbD 0 then (c >>> 1) ^^^ 0x82F63B78 else c >>> 1) (c ^^^ b.zeroExtend 32)

/-- CRC-32C of a byte string. -/
def crc32c (bs : Bytes) : BitVec 32 := (bs.foldl crcByte 0xFFFFFFFF) ^^^ 0xFFFFFFFF

/-- Bytes [0, 28) of a sheet's header (R118). -/
def sheetHead (s : Sheet) : Bytes :=
  leBytes 2 s.stream.toNat ++ leBytes 1 s.format.toNat ++ leBytes 1 s.shape.toNat ++ leBytes 4 s.seq.toNat ++
  leBytes 2 s.flags.toNat ++ leBytes 2 s.valid.toNat ++ leBytes 4 s.tag.toNat ++ leBytes 8 s.origin.toNat ++
  leBytes 4 s.rsv.toNat

/-- The bytes that a check value covers, in order (R122). -/
def checkedBytes (s : Sheet) : Bytes :=
  sheetHead s ++ padTo s.scales 32 ++ padTo s.data (64 * (dataLines s.format.toNat).getD 0)

/-- The check value of a sheet's contents (R122). -/
def checkOf (s : Sheet) : BitVec 32 := crc32c (checkedBytes s)

/-- The sheet with a check value formed from its contents (R123). -/
def sealSheet (s : Sheet) : Sheet := { s with check := checkOf s }

/-- The sheet's check value after a change of STREAM, SEQ and FLAGS, updated from the old and new header alone (R124):
CRC-32C is affine, so the difference of two sheets of one length depends on the exclusive-or of their bytes. -/
def forward (s : Sheet) (stream : BitVec 16) (seq : BitVec 32) (flags : BitVec 16) : Sheet :=
  let n := { s with stream := stream, seq := seq, flags := flags }
  { n with check := s.check ^^^ checkOf s ^^^ checkOf n }

/-- The sheet with other flags, its check value updated from the header's change alone (R124). -/
def reflag (s : Sheet) (flags : BitVec 16) : Sheet := forward s s.stream s.seq flags

def flagPoison : BitVec 16 := 1
def flagDraft : BitVec 16 := 2
def flagSubst : BitVec 16 := 4
def flagSat : BitVec 16 := 8

def Sheet.poison (s : Sheet) : Bool := s.flags.getLsbD 0
def Sheet.draft (s : Sheet) : Bool := s.flags.getLsbD 1
def Sheet.sat (s : Sheet) : Bool := s.flags.getLsbD 3

/-- The flags that travel from operands (R121). -/
def carried (ss : List Sheet) : BitVec 16 := (ss.foldl (fun a s => a ||| s.flags) 0) &&& 0xB

end Sys2Proof.Machine
end

