-- ==== Sys2Proof/Config.lean ====
section
/-! DEFINITION. What the part fixes and what the spec leaves free. An `opaque` constant has no body: no proof can see its
value, so a claim holds whatever it is. -/

namespace Sys2Proof.Config

/-- Steppings of GLB_IDENT, "per part" (R23). -/
opaque stepMajor : BitVec 8

/-- See `stepMajor`. -/
opaque stepMinor : BitVec 8

/-- The stochastic-rounding draw r of R103, uniform and not reproducible (R117): the k-th draw since reset
(log entry 2). -/
opaque stochastic : Nat → BitVec 32

/-- The result of a product that a grid breaking R91 leaves undefined: the k-th such draw (log entry 2). -/
opaque gridProduct : Nat → BitVec 32

/-- SEQ in the header of a sheet that a stroke writes into a slot, which no rule states (log entry 2). -/
opaque slotSeq : Nat → BitVec 32

/-- Thirty-two fresh random bytes (nonces of R535 and R539), the k-th draw (log entry 2). -/
opaque randomByte : Nat → Nat → BitVec 8

/-- Entry k of the grid by which Contour-4 codes are read or formed where no grid is bound: R94 and R166 leave a stream of FORMAT 0x08 that
DECODE produces, and one of SRC_FMT 0x08 and another FORMAT, without one (log entry 132). -/
opaque openGrid : Nat → BitVec 16

/-- The bit that a conversion into sketch bits gives, of a source code and its position: R99 leaves that target to SIGNPACK, and R166 does not
refuse a stream that asks for it (log entry 132). -/
opaque openSketch : Nat → Nat → BitVec 1

/-- The bulk channel on which a code-store block lies: R34 spreads them over the channels and gives no rule (log entry 130). -/
opaque codeChannel : Nat → BitVec 6

/-- The device secret that the PUF reconstructs from the helper data (R533); the SRAM it reads has no stated contents (log entry 2). -/
opaque pufSecret : Bytes → BitVec 256

/-- The SHA-256 hashes of the five Tchilava public keys in the boot ROM (R522), which the spec does not give: key, byte number. -/
opaque romKeyByte : Nat → Nat → BitVec 8

/-- SHA-256 of the mask ROM's contents, which the spec does not give (R536): byte number. -/
opaque romDigestByte : Nat → BitVec 8

/-- DeviceID's ECDSA private key and the certificates the boot ROM and stage 1 make (R533): the spec gives their purpose,
not their encoding (log entry 3). Arguments: which object, its inputs, the byte number. -/
opaque certByte : Nat → Bytes → Nat → BitVec 8

/-- Length of the certificate of `certByte`. -/
opaque certLength : Nat → Bytes → Nat

/-- A fresh ECDSA signature of a digest with a key (R535, R551): 64 bytes by number (log entry 3). -/
opaque signByte : BitVec 256 → Bytes → Nat → Nat → BitVec 8

/-- Lane-nanoseconds for which LETTER waits on T0 node reads while it takes a text sheet (R305): what its node cache holds is stated nowhere
(log entry 139). The k-th draw. -/
opaque nodeWait : Nat → Nat

/-- A byte that another module sends (a row of a shard it holds, a prompt's token text, a joined record): draw, byte number.
Other modules are outside this model (log entry 20). -/
opaque remoteByte : Nat → Nat → BitVec 8

/-- Whether a row that another module sends was read from a poisoned unit there: draw (log entry 20). -/
opaque remotePoison : Nat → Bool

/-- Whether some other member in service holds a DRAINING version when the head asks, or when it has told this member of a step: draw (R415, log
entry 20). -/
opaque farDraining : Nat → Bool

/-- Whether the copy to a rejoining member has passed the row or list of an update or a margin entry: draw (R481, log entry 20). -/
opaque copyPassed : Nat → Bool

/-- Whether some other member in service refuses a command of the head that is applied on every member: draw (R436, log entry 20). -/
opaque farRefuses : Nat → Bool

/-- Whether the model cache of some other member in service holds the image that the head is told to load: draw (R436, log entry 20). -/
opaque farHolds : Nat → Bool

/-- Whether a commit would take another member's margin list past MARGIN_CAP: draw (R259, log entry 20). -/
opaque farFull : Nat → Bool

/-- Inserts of other members' margin lists that join a list held here in a fair copy, as sketch, key and columns: draw, list (R263, log
entry 20). -/
opaque farInserts : Nat → Nat → List (BitVec 1024 × BitVec 64 × List (BitVec 64))

/-- SCT × 512 + SC × 2 + DNR with which another member completes an I/O command, by draw (log entry 20). -/
opaque remoteStatus : Nat → Nat

/-- A byte of a standard NVMe or SPDM data structure whose contents the spec leaves to that standard: structure, draw, byte number (log
entry 33). -/
opaque stdByte : Nat → Nat → Nat → BitVec 8

/-- A field of an error record whose class the spec does not state (a power loss, a stopped boot, a thermal stop, a refused folio record):
which field, draw (log entry 2). -/
opaque eventField : Nat → Nat → Nat

/-- The supply of a power domain in mV as an error record holds it (R459): domain, draw (log entry 2). -/
opaque supplyMv : Nat → Nat → BitVec 16

/-- Numbers that the Unicode Standard fixes and the spec cites: Hangul bases (R292). -/
def hangulS : Nat := 0xAC00
def hangulL : Nat := 0x1100
def hangulV : Nat := 0x1161
def hangulT : Nat := 0x11A7

/-- Physical tiles (R20). -/
def tiles : Nat := 544

/-- Bulk dies, blocks per bulk die and pages per block (R19, R350). -/
def bulkDies : Nat := 1024
def bulkBlocks : Nat := 3816

/-- Fast dies and their blocks (R19). -/
def fastDies : Nat := 48
def fastBlocks : Nat := 4096

/-- The size of a device page (R176). -/
def pageBytes : Nat := 0x200000

/-- First bytes past T0, T1 and T2 in the device range (R176). -/
def t0End : Nat := 0x040_0000_0000
def t1End : Nat := 0x100_0000_0000
def t2End : Nat := 0x400_0000_0000

end Sys2Proof.Config
end

