-- ==== Sys2Proof/Machine/ImageData.lean ====
section
/-! DEFINITION. The data of a plate image as the module reads it (spec 05; HARD sections in 06, 09, 10 and 11). -/

namespace Sys2Proof.Machine

/-- A STATIONS entry (R157). -/
structure StationEntry where
  number : Nat
  priority : Nat
  draft : Nat
deriving DecidableEq, Repr

/-- A STREAMS entry (R165). -/
structure StreamEntry where
  localNo : Nat
  format : Nat
  shape : Nat
  srcFmt : Nat
  grid : Nat
  prod : Nat
  cons : Nat
  prodTile : Nat
  consTile : Nat
  consBuf : Nat
  queueSlots : Nat
  queueRegion : Nat
  hatchModule : Nat
  hatchStream : Nat
deriving DecidableEq, Repr

/-- A buffer descriptor of a TILE section (R163). -/
structure BufEntry where
  valid : Bool
  resident : Bool
  slotLines : Nat
  slots : Nat
  base : Nat
  stream : Nat
deriving DecidableEq, Repr

/-- A route entry of a TILE section (R163); COUNT 0 is an undefined entry. -/
structure RouteEntry where
  selector : Nat
  count : Nat
  group : Nat
  streams : List Nat
deriving DecidableEq, Repr

/-- A list-table entry of a TILE section (R163). -/
structure ListTabEntry where
  valid : Bool
  first : Nat
  last : Nat
  islot : Nat
deriving DecidableEq, Repr

/-- A TILE section (R162 to R164). -/
structure TileSec where
  logical : Nat
  station : Nat
  mode : Nat
  ftabMask : Nat
  reloc : Nat
  lists : List ListTabEntry
  buffers : List BufEntry
  routes : List RouteEntry
  ftabs : SMap FTab
  strokes : List (BitVec 128)
  /-- Resident sheets: (buffer, slot, sheet). -/
  resident : List (Nat × Nat × Sheet)
deriving DecidableEq, Repr

/-- A REGIONS entry (R167). -/
structure RegionEntry where
  id : Nat
  tier : Nat
  kind : Nat
  size : Nat
  source : Nat
  object : BitVec 64
deriving DecidableEq, Repr

/-- A PREFETCH entry (R168). -/
structure PrefetchEntry where
  region : Nat
  dest : Nat
  firstPage : Nat
  pages : Nat
  trigger : Nat
  triggerStream : Nat
  every : Nat
  leadNs : Nat
  deadlineNs : Nat
deriving DecidableEq, Repr

/-- A DRAFTS entry (R168). -/
structure DraftEntry where
  kind : Nat
  replica : Nat
  deadlineNs : Nat
  sketchStream : Nat
deriving DecidableEq, Repr

/-- A BINDINGS entry (R168). -/
structure BindingEntry where
  kind : Nat
  slot : Nat
  object : BitVec 64
deriving DecidableEq, Repr

/-- A WINDOWS entry (R168). -/
structure WindowEntry where
  station : Nat
  scope : Nat
  windowNs : Nat
deriving DecidableEq, Repr

/-- PROBE's HARD section (R272). -/
structure ProbeSec where
  batchMax : Nat
  batchWaitNs : Nat
  kCap : Nat
  qsketchStream : Nat
  recordStream : Nat
  textStream : Nat
deriving DecidableEq, Repr

/-- PACK's HARD section (R276): its header and its templates, each five token arrays. -/
structure PackSec where
  draftA : BitVec 32
  draftB : BitVec 32
  vocab : Nat
  recordsStream : Nat
  scoreStream : Nat
  sketchScoreStream : Nat
  textStream : Nat
  queryStream : Nat
  templates : List (List (List Nat))
deriving DecidableEq, Repr

/-- A pipeline of LETTER's HARD section (R297). -/
structure PipelineEntry where
  kind : Nat
  vocab : Nat
  norms : List Nat
  inStream : Nat
  outStream : Nat
  copyStream : Nat
  preTok : Option Nat
  sufTok : Option Nat
  maxTokens : Nat
deriving DecidableEq, Repr

/-- A FEED program (R196). -/
structure FeedEntry where
  kind : Nat
  stream : Nat
  start : Nat
  region : Nat
  offset : Nat
  length : Nat
deriving DecidableEq, Repr

/-- SHUFFLE's HARD section (R325). -/
structure ShuffleSec where
  manifest : BitVec 64
  lookahead : Nat
  reqStreams : List Nat
deriving DecidableEq, Repr

/-- DECODE's HARD section (R337). -/
structure DecodeSec where
  mode : Nat
  p : Nat
  resize : Nat
  k : Nat
  stepN : Nat
  outW : Nat
  outH : Nat
  ins : List Nat
  patch : Nat
  copy : Nat
  recordStream : Nat
  caption : Nat
  dpbRegion : Nat
  maxSamples : Nat
  mean : List (BitVec 32)
  std : List (BitVec 32)
  sketchBits : Nat
  threshold : Nat
  retain : Nat
  retainRegion : Nat
  dedupIn : Nat
  verdict : Nat
  accept : Nat
deriving DecidableEq, Repr

/-- A port of DELIVER's HARD section (R337). -/
structure PortEntry where
  module : Nat
  region : Nat
  slots : Nat
  slotBytes : Nat
deriving DecidableEq, Repr

/-- DELIVER's HARD section (R337). -/
structure DeliverSec where
  tokens : Nat
  ports : List PortEntry
deriving DecidableEq, Repr

/-- A plate image (R150 to R169), read from its bytes. -/
structure Image where
  imageId : BitVec 64
  secVersion : Nat
  nanTrap : Bool
  autostart : Bool
  stations : List StationEntry
  softCount : Nat
  streams : List StreamEntry
  placements : List (List Nat)
  tiles : List TileSec
  grids : List (List (BitVec 16))
  regions : List RegionEntry
  regionData : SMap Bytes
  prefetch : List PrefetchEntry
  drafts : List DraftEntry
  bindings : List BindingEntry
  windows : List WindowEntry
  feed : List FeedEntry
  probe : Option ProbeSec
  pack : Option PackSec
  letter : List PipelineEntry
  shuffle : Option ShuffleSec
  decode : Option DecodeSec
  deliver : Option DeliverSec
  /-- DIGEST of the signature block (R169), which measurement 16 + c reports (R536). -/
  digest : Bytes
deriving DecidableEq, Repr

end Sys2Proof.Machine
end

