-- ==== Sys2Proof/Machine/ContextData.lean ====
section
/-! DEFINITION. The data of contexts, loads, requests and the model cache (spec 05, 08, 09, 15). -/

namespace Sys2Proof.Machine

/-- What FEED keeps for a program beside its runs: for a STORE ring, the next slot, the slots written and not read, and the
sheets that wait for one (R197); for a ROWS program, the indices so far of each batch
still on its way, by TAG (R196). -/
structure FeedState where
  next : Nat
  unread : List Nat
  waiting : List Sheet
  counts : List (BitVec 32 × Nat)
deriving DecidableEq, Repr

/-- Context states (R234), in the order of their codes. -/
inductive CtxState where
  | empty | configured | loaded | running | stopping | replacing
deriving DecidableEq, Repr

/-- The context's first-NaN record (R114). -/
structure CtxNan where
  stamp : Nat
  seq : BitVec 32
  stream : Nat
  station : Nat
  trapped : Bool
  tile : Nat
  list : Nat
  stroke : Nat
deriving DecidableEq, Repr

/-- The tier counters of a context (R203). -/
structure TierMon where
  issued : Nat
  hits : Nat
  late : Nat
  dropped : Nat
  draftReads : Nat
  waits : Nat
deriving DecidableEq, Repr

/-- The lettering counters of a context (R318). -/
structure LtrMon where
  bytesIn : Nat
  tokensOut : Nat
  replaced : Nat
  streamSafe : Nat
  cut : Nat
  trunc : Nat
  steps : Nat
  stops : Nat
  refused : Nat
  missNs : Nat
deriving DecidableEq, Repr

/-- The decode counters of a context (R339). -/
structure DecMon where
  pixels : Nat
  kept : Nat
  dropped : Nat
  pictErr : Nat
  skipped : Nat
  resync : Nat
  epoch : Nat
  ended : Nat
  fullNs : Nat
deriving DecidableEq, Repr

/-- A load report (R173). -/
structure LoadReport where
  imageId : BitVec 64
  placement : Nat
  reason : Nat
  sect? : Option Nat
  ent? : Option Nat
  stamp : Nat
  stationMap : List Nat
deriving DecidableEq, Repr

/-- Phases of a load (R171, R174): waiting for the context's earlier load, for the allocation step, for the drain of the
old image, and filling and writing. -/
inductive LoadPhase where
  | queued | draining | allocating | writing
deriving DecidableEq, Repr

/-- A load that was accepted and has not ended (R171 to R175). `order` is its place among the loads that wait for the
allocation lock; `excluded` the tiles retired by its earlier attempts (R172). -/
structure Load where
  /-- The command's identifier; none for a restore (R532). -/
  cid : Option Nat
  imageId : BitVec 64
  image : Image
  phase : LoadPhase
  order : Nat
  placement : Nat
  tileMap : List Nat
  stationMap : List Nat
  regionPages : SMap (List Nat)
  excluded : List Nat
  retried : Bool
deriving DecidableEq, Repr

/-- What the context runs (R153, R160): the image, its placement, the physical tile of each logical tile, the module
number of each soft station, the pages of each region. -/
structure Loaded where
  image : Image
  placement : Nat
  tileMap : List Nat
  stationMap : List Nat
  regionPages : SMap (List Nat)
  /-- Escalated grants per station of this context (R149). -/
  escalations : SMap Nat
deriving DecidableEq, Repr

/-- A command of the host that waits outside admission (R412) or a request before its checks (R242). -/
inductive ReqKind where
  | query | batch | delivery | commit | front
deriving DecidableEq, Repr

/-- Where a request was submitted: an I/O queue, or a ring. -/
structure Origin where
  ring : Option Nat
  sq : Nat
  cid : Nat
deriving DecidableEq, Repr

/-- A result record (R279) before it is written: order key parts, key, and score. -/
structure ResultRec where
  h : Nat
  margin : Bool
  list : Nat
  pos : Nat
  module : Nat
  key : BitVec 64
  score : BitVec 32
  reranked : Bool
  drafted : Bool
  poison : Bool
deriving DecidableEq, Repr

/-- A completion that a request owes once what it wrote is visible (R200, R308): where it goes, the conditions, the upper half
of Dword 0, Dword 1, and whether the request ends with it. -/
structure Post where
  src : Origin
  cond : BitVec 10
  hi : Nat
  dw1 : Nat
  final : Bool
deriving DecidableEq, Repr

/-- A request: offered, waiting or admitted (R241, R242, R469). -/
structure Req where
  rid : Nat
  ctx : Nat
  kind : ReqKind
  src : Origin
  record : Bytes
  payload : Bytes
  objectId : BitVec 64
  admitted : Bool
  batch : Nat
  /-- ORIGIN of its sheets, and that of its first admission, which fixes versions (R470). -/
  origin : Nat
  firstOrigin : Nat
  snapshot : Nat
  /-- Conditions that applied, bit k for position k of the R15 table (R417). -/
  cond : BitVec 10
  /-- The record and the sketch that PROBE has joined for it (R268). -/
  recordIn : Bool
  sketch : Option (BitVec 1024)
  probed : Nat
  scanned : Nat
  /-- This member's records, the merged records (R280), and the words of record sheets that have reached PACK. -/
  localRecs : Option (List ResultRec)
  recs : Option (List ResultRec)
  recsIn : Nat
  /-- What has reached PACK: words of the query's unit, RERANK's scores, words of passages; rows marked late (R275). -/
  queryWords : List Nat
  scores : List (BitVec 32)
  /-- Sketch scores that RERANK has forwarded to PACK (R275). -/
  sketchScores : List (BitVec 32)
  textWords : List Nat
  late : List Nat
  /-- Scatter groups of the batch that FEED has applied (R470), and sheets of its payload that consumers have accepted. -/
  groups : Nat
  accepted : Nat
  /-- Its result is written, or what it asks for is done: the completions in `posts` end it. -/
  done : Bool
  posts : List Post
deriving DecidableEq, Repr

/-- The delivery job of a context (R323, R324, R333). -/
structure Delivery where
  rid : Nat
  epoch : Nat
  seed : BitVec 64
  manifest : BitVec 64
  version : Nat
  rows : Nat
  shards : Nat
  /-- Next local index to issue, per shard this module serves. -/
  nextQ : SMap Nat
  /-- Positions issued whose end record is not written: (position, entry row). -/
  open_ : List (Nat × Nat)
  /-- Positions reissued after a member loss (R338): their samples carry REPEAT. -/
  repeats : List Nat
  /-- Of those, the positions still to be issued again (R470). -/
  again : List Nat
  ended : Nat
  stopped : Bool
  poison : Bool
deriving DecidableEq, Repr

/-- A sample held by DELIVER until record, sheets and verdict are present (R333). -/
structure Sample where
  batch : Nat
  position : Nat
  header : Option Bytes
  sheets : List Sheet
  verdict : Option Nat
deriving DecidableEq, Repr

/-- A position whose end record waits (R333): its header once it has arrived, the batch of its caption tokens, and its samples
written and dropped so far. -/
structure EndRec where
  position : Nat
  header : Option Bytes
  captionBatch : Option Nat
  kept : Nat
  dropped : Nat
  poison : Bool
deriving DecidableEq, Repr

/-- A context (R234 to R242). -/
structure Ctx where
  st : CtxState
  halves : Nat
  tileLimit : Nat
  seqLimit : Nat
  fastPages : Nat
  midPages : Nat
  slowPages : Nat
  overcommit : Bool
  admitted : Nat
  mcEntry : Nat
  loaded : Option Loaded
  load : Option Load
  /-- Loads submitted while one is in progress (R175), and the starts that came before the load completes. -/
  loadQueue : List (Option Nat × BitVec 64)
  pendingStart : List Nat
  /-- Unload commands that wait for the context to reach LOADED (R248). -/
  pendingUnload : List Nat
  report : Option LoadReport
  batchCtr : Nat
  nan : Option CtxNan
  tier : TierMon
  ltr : LtrMon
  dec : DecMon
  delivery : Option Delivery
  samples : List Sample
  ends : List EndRec
  /-- Caption tokens that have reached DELIVER, by batch (R333), and slots written by port (R335). -/
  captions : SMap (List Nat)
  produced : SMap Nat
  /-- The retained sketches of deduplication, oldest first (R332). -/
  retained : List (BitVec 1024)
  /-- PROBE's waiting queries in order of arrival: request number and stamp (R268). -/
  probeWait : List (Nat × Nat)
  /-- FEED's programs by entry (R196, R197). -/
  feeds : SMap FeedState
deriving DecidableEq, Repr

/-- A model-cache entry (R244, R245). -/
structure CacheEntry where
  imageId : BitVec 64
  bytes : Bytes
  pinned : Bool
  validated : Bool
  /-- The order of its last load, or of its store when it has not been loaded. -/
  lastLoad : Nat
deriving DecidableEq, Repr

end Sys2Proof.Machine
end

