-- ==== Sys2Proof/Machine/ObjectData.lean ====
section
/-! DEFINITION. The data of tables, indexes, lettering objects, front-end sequences, and of the memory tiers
(spec 06, 07, 09, 10). -/

namespace Sys2Proof.Machine

/-- A table descriptor (R204). -/
structure TableDesc where
  tableId : BitVec 64
  version : Nat
  storage : Nat
  format : Nat
  writable : Bool
  idx64 : Bool
  put : Bool
  home : Nat
  d : Nat
  combine : Nat
  shards : Nat
  hotRows : Nat
  rows : Nat
  salt : BitVec 64
  partA : BitVec 64
  partB : BitVec 64
  hotReads : Nat
  grid : List (BitVec 16)
  member : List Nat
deriving DecidableEq, Repr

/-- A hot-area entry (R226): its slot, whether it is MOVED, its flip stamp F (R228). -/
structure HotEntry where
  slot : Nat
  moved : Bool
  flip : Nat
deriving DecidableEq, Repr

/-- One row update (R222, R223): the row, a PUT's element codes and stamp, an ADD's exact sums, whether it is poisoned, and
the batch that waits for it (R225). -/
structure Update where
  table : BitVec 64
  version : Nat
  row : Nat
  codes : List Nat
  sums : List ExNum
  stamp : BitVec 64
  poison : Bool
  ctx : Nat
  batch : Nat
  /-- It has waited for room in the migration log, and for a hot slot (R233). -/
  logWaited : Bool
  hotWaited : Bool
deriving DecidableEq, Repr

/-- One version of a table on this module (R216, R219, R226): rows it holds as bytes of STRIDE each, by physical row,
the pages it took, the batches that use it, the hot area. -/
structure TableVer where
  desc : TableDesc
  pages : List Nat
  /-- Device address of the version's first byte of each page is `pages`; a row's bytes lie in the device range. -/
  batches : Nat
  hot : SMap HotEntry
  hotPages : List Nat
  hotSlots : Nat
  /-- Rows whose promotion by reads waits while 256 rows are MOVING (R227). -/
  wanting : List Nat
deriving DecidableEq, Repr

/-- A table slot (R216, R217, R233). -/
structure Table where
  id : BitVec 64
  first : TableDesc
  cur : TableVer
  pend : Option TableVer
  drain : Option TableVer
  stepN : Nat
  /-- Version steps stamped and not yet taken, oldest first: (S, deferred, cid) (R415). -/
  steps : List (Nat × Bool × Nat)
  hotFull : Bool
  updates : Nat
  reduced : Nat
  logWaits : Nat
  hotWaits : Nat
  /-- The stamp from which CURRENT is read (R218), and the stamps of the steps taken, newest first. -/
  since : Nat
  stamps : List Nat
deriving DecidableEq, Repr

/-- An update of a batch before pre-reduction (R222): row, batch position, element codes, poison. -/
structure RawUpdate where
  row : Nat
  pos : Nat
  codes : List Nat
  poison : Bool
deriving DecidableEq, Repr

/-- A scatter batch under way (R221, R222): its number, ORIGIN, the position reached, and its open group. -/
structure ScatterBatch where
  batch : Nat
  origin : Nat
  pos : Nat
  group : List RawUpdate
deriving DecidableEq, Repr

/-- A scatter program of a context at FEED (R220 to R222): index and value sheets that wait for one another, and its batches under way. -/
structure Scatter where
  ctx : Nat
  feed : Nat
  idxs : List Sheet
  vals : List Sheet
  batches : List ScatterBatch
deriving DecidableEq, Repr

/-- An index descriptor (R253). -/
structure IndexDesc where
  indexId : BitVec 64
  version : Nat
  lists : Nat
  sketchBits : Nat
  home : Nat
  columns : Nat
  apart : Bool
  shards : Nat
  items : Nat
  baseEpoch : Nat
  marginCap : Nat
  keydirSlots : Nat
  member : List Nat
  raw : Bytes
deriving DecidableEq, Repr

/-- A partition item of an index list (R255). -/
structure Item where
  sketch : BitVec 1024
  cols : List (BitVec 64)
  key : BitVec 64
  poison : Bool
deriving DecidableEq, Repr

/-- A list of an index (R255). -/
structure IList where
  centroid : BitVec 1024
  items : List Item
deriving DecidableEq, Repr

/-- A handle (R255). -/
structure Handle where
  margin : Bool
  list : Nat
  pos : Nat
deriving DecidableEq, Repr

/-- A margin-list entry (R258): an insert, or a tombstone for a handle; both with their commit epoch. -/
inductive MarginEntry where
  | insert (epoch : Nat) (key : BitVec 64) (sketch : BitVec 1024) (cols : List (BitVec 64))
  | tombstone (epoch : Nat) (handle : Handle)
deriving DecidableEq, Repr

/-- The parts of an index version that take pages (R255, R258). -/
inductive IndexPart where
  | entries | keys | columns | keydir | directory | margin
deriving DecidableEq, Repr

/-- One version of an index on this module: its lists with the items of the shards held here, the key directories of R256 by
shard × KEYDIR_SLOTS + slot, this member's margin list and the margin entries that it mirrors for another member (R477), the
pages by shard and part, and the requests that use it. -/
structure IndexVer where
  desc : IndexDesc
  lists : List IList
  keydir : SMap (BitVec 64 × Handle)
  margin : List MarginEntry
  mirror : List MarginEntry
  areas : List (Nat × IndexPart × List Nat)
  batches : Nat
  /-- Margin entries that an uncorrectable error has poisoned (R451), by position. -/
  badMargin : List Nat
deriving DecidableEq, Repr

/-- A commit accepted and not yet at its epoch (R260): its request, e, and its misses (R262). -/
structure Commit where
  rid : Nat
  epoch : Nat
  misses : Nat
deriving DecidableEq, Repr

/-- An index slot (R257 to R264, R284). -/
structure Index where
  id : BitVec 64
  first : IndexDesc
  cur : IndexVer
  pend : Option IndexVer
  drain : Option IndexVer
  stepN : Nat
  steps : List (Nat × Bool × Nat)
  since : Nat
  /-- E_commit, its stamp C, and the value before it (R260). -/
  eCommit : Nat
  cStamp : Nat
  ePrev : Nat
  commit : Option Commit
  marginFull : Bool
  /-- A fair copy from its acceptance to its switch (R264): its F and cid; `built` once its version is PENDING. -/
  copying : Option (Nat × Nat)
  copyBuilt : Bool
  passes : Nat
  queries : Nat
  short : Nat
  space : Nat
  stale : Nat
  reranked : Nat
  drafted : Nat
deriving DecidableEq, Repr

/-- A trie node (R288). -/
structure TrieNode where
  children : BitVec 256
  base : Nat
  token : Option Nat
deriving DecidableEq, Repr

/-- A vocabulary (R286 to R288): strings by token, with SPECIAL. -/
structure Vocab where
  id : BitVec 64
  tokens : Nat
  byteBase : Nat
  maxBytes : Nat
  ends : List Nat
  nodes : List TrieNode
  /-- By token: SPECIAL, OFFSET in the pool, the string. -/
  strings : List (Bool × Nat × Bytes)
  pages : List Nat
deriving DecidableEq, Repr

/-- A second-stage entry of a normalisation table (R291). -/
structure NormEntry where
  ccc : Nat
  del : Bool
  map : List Nat
deriving DecidableEq, Repr

/-- A normalisation table (R290, R291): entries of the listed code points; a code point that is not listed maps to
itself with CCC 0. -/
structure Norm where
  id : BitVec 64
  compose : Bool
  hangul : Bool
  entries : SMap NormEntry
  pairs : List (Nat × Nat × Nat)
  pages : List Nat
deriving DecidableEq, Repr

/-- A grammar action (R296). -/
inductive GAction where
  | shift (next : Nat) | push (ret next : Nat) | pop
deriving DecidableEq, Repr

/-- A grammar state (R295). -/
structure GState where
  mask : Nat
  pushMask : Option Nat
  popMask : Option Nat
  final : Bool
  dflt : GAction
  excFirst : Nat
  exceptions : List (Nat × GAction)
deriving DecidableEq, Repr

/-- A grammar (R294). A bitmap is the list of its bytes. -/
structure Grammar where
  id : BitVec 64
  vocabId : BitVec 64
  start : Nat
  states : List GState
  masks : List Bytes
  pages : List Nat
deriving DecidableEq, Repr

/-- How a sequence has ended (R308), in the order of the codes. -/
inductive SeqEnd where
  | open_ | stop | endToken | length | dead | grammarFault | closed | poison
deriving DecidableEq, Repr

/-- A front-end sequence (R306 to R315). -/
structure FrontSeq where
  gen : Nat
  rid : Nat
  ctx : Nat
  vocab : BitVec 64
  grammar : Option (BitVec 64)
  stops : List Bytes
  maxTokens : Nat
  bufOffset : Nat
  bufSize : Nat
  tag : BitVec 64
  stepN : Nat
  gstate : Nat
  stack : List Nat
  /-- Bytes of an incomplete character (R312), and the candidate text held back (R313). -/
  charBuf : Bytes
  cand : Bytes
  total : Nat
  mask : Bytes
  fin : SeqEnd
deriving DecidableEq, Repr

/-- The state of an ENCODE pipeline on its text stream (R299 to R305). `need` is N of the open unit once its count is
read; `text` the unit's bytes so far, each with the flags of the sheet that brought it (R302), from which the pending state of R300 follows;
`decided`, `bad` and `ins` the unit's text tokens, substitutions and insertions so far; `marks` the flags of the sheets of the unit's count and
bytes; `words` the token words not yet emitted, with theirs. -/
structure Encode where
  tag : Option (BitVec 32)
  origin : BitVec 64
  countBuf : Bytes
  need : Option Nat
  text : List (Byte × BitVec 16)
  decided : Nat
  bad : Nat
  ins : Nat
  marks : BitVec 16
  words : List (Nat × BitVec 16)
deriving DecidableEq, Repr

/-- A staging copy (R183 to R185): its source page by region, index and, where the region names a table, the version whose page it is
(R182, R201; else 0), the page it takes, whether it is VALID, the batches that pin it, when it was last read. -/
structure Copy where
  ctx : Nat
  region : Nat
  page : Nat
  ver : Nat
  tier : Nat
  dst : Nat
  valid : Bool
  pins : List Nat
  lastRead : Nat
deriving DecidableEq, Repr

/-- A move of the feeder (R186 to R189). -/
structure Move where
  ctx : Nat
  entry : Nat
  region : Nat
  page : Nat
  ver : Nat
  dest : Nat
  issueAt : Nat
  deadline : Nat
  prio : Nat
  stamp : Nat
  batch : Nat
deriving DecidableEq, Repr

/-- Block rows of 32 elements in a stream's format: E8M0 scale and codes. -/
abbrev BlockRows := List (Byte × List Nat)

/-- What a read of a run supplies: the sheets of a SWEEP; one row with its flags; bytes of a unit with their poison. -/
inductive Part where
  | sheets (xs : List Sheet)
  | row (blocks : BlockRows) (poison draft : Bool)
  | span (bytes : Bytes) (poison : Bool)
deriving DecidableEq, Repr

/-- A run of a FEED program (R196, R213): its parts in order, each present once its read has returned. -/
structure Run where
  ctx : Nat
  feed : Nat
  tag : BitVec 32
  origin : BitVec 64
  /-- The batch's indices before this run. -/
  base : Nat
  /-- DRAFT and SAT of the sheet that started it (R121). -/
  flags : BitVec 16
  parts : List (Option Part)
deriving DecidableEq, Repr

/-- A read of a tier for part `part` of a run that has not returned (R182, R191): the region, offset and bytes read; for a row
its index; the deadline, whether it is late, and whether it reads the draft path's replica (R193). A read of a unit's
span (R371) names region 0xFFFF, and its offset lies in user space. `moveDeadline` is that of a move of its page (R203). -/
structure TierRead where
  run : Nat
  part : Nat
  ctx : Nat
  batch : Nat
  region : Nat
  offset : Nat
  bytes : Nat
  row : Option Nat
  deadline : Option Nat
  late : Bool
  replica : Bool
  moveDeadline : Option Nat
deriving DecidableEq, Repr

/-- A window page (R198, R403). -/
structure WinPage where
  hostWrite : Bool
  page : Nat
  owner : Nat
deriving DecidableEq, Repr

/-- An UNMAP held under a result buffer (R403): the entry, and the requests it waits for. -/
structure HeldUnmap where
  cid : Nat
  pages : List Nat
  ctx : Nat
  reqs : List Nat
deriving DecidableEq, Repr

/-- Who holds a device page (R167, R198, R238): the system reserve, a context's region by its number, a context's staging
pool, an object (its kind as R413 numbers it, identifier and version), a window page or delivery ring of a context. -/
inductive PageUse where
  | system | region (ctx id : Nat) | staging (ctx : Nat) | object (kind : Nat) (id : BitVec 64) (version : Nat)
  | window (ctx : Nat) | ring (ctx : Nat)
deriving DecidableEq, Repr

end Sys2Proof.Machine
end

