-- ==== Sys2Proof/Machine/MediaData.lean ====
section
/-! DEFINITION. The data of flash media management and of the Stylus ROM (spec 13 and 14). -/

namespace Sys2Proof.Machine

/-- Bulk block states (R357). -/
inductive BlockState where
  | free | logOpen | logClosed | foldDest | mapped | parity | system | dirty | erasing | retired
deriving DecidableEq, Repr

/-- A bulk block (R354, R357): state, wear units, mode, open sequence of a log block, pages written, the number of its
stripe plus 1 (0 for none), strikes under R364 (2: it is retired once its live data has moved, R379), and whether its
data is to be folded next (R369). -/
structure Block where
  st : BlockState
  wear : Nat
  slc : Bool
  seq : Nat
  pages : Nat
  stripe : Nat
  strikes : Nat
  foldNext : Bool
deriving DecidableEq, Repr

/-- A 4 KiB sector of a page: its data and the logical sector of its tag (R359). -/
structure FSector where
  lba : Nat
  data : Bytes
deriving DecidableEq, Repr

/-- A write that waits for staging (R358): where it came from, its sectors that are still to be staged. -/
structure HeldWrite where
  sq : Nat
  cid : Nat
  lba : Nat
  sectors : List Bytes
deriving DecidableEq, Repr

/-- A sector in the staging area (R358). -/
structure Staged where
  lba : Nat
  data : Bytes
deriving DecidableEq, Repr

/-- A log copy of a sector (R360): open sequence of its block, page, and physical sector number. -/
structure LogCopy where
  seq : Nat
  page : Nat
  phys : Nat
deriving DecidableEq, Repr

/-- A mapping entry (R367). -/
structure MapEntry where
  mapped : Bool
  refresh : Bool
  gen : Nat
  block : Nat
deriving DecidableEq, Repr

/-- A stripe of log blocks or of fold destinations (R362, R363): its group, its data blocks and parity blocks by block
number, whether it is closed, the stamp of its first closed destination, and the blocks already verified. -/
structure Stripe where
  fold : Bool
  group : Nat
  blocks : List Nat
  parity : List Nat
  closed : Bool
  firstClose : Nat
  verified : List Nat
deriving DecidableEq, Repr

/-- A fold in progress (R366). -/
structure Fold where
  n : Nat
  cut : Nat
  dest : Nat
  rest : List Nat
  victim : Option Nat
deriving DecidableEq, Repr

/-- Kinds of ledger record (R372). -/
inductive LedgerKind where
  | intent | done | failed | probed
deriving DecidableEq, Repr

/-- A ledger record (R372). -/
structure LedgerRec where
  kind : LedgerKind
  slc : Bool
  die : Nat
  block : Nat
  wear : Nat
  sentinels : Nat
  seq : Nat
  stamp : Nat
deriving DecidableEq, Repr

/-- Media stages (R380), in the order of their codes. -/
inductive MediaStage where
  | normal | watch | retry | lowSpare | writeStop
deriving DecidableEq, Repr

/-- The counts of the media health log that persist (R381). -/
structure MediaHealth where
  commitIncomplete : Bool
  retired : Nat
  retiredDay : Nat
  dayNo : Nat
  hostWritten : Nat
  mediaWritten : Nat
  ewPpm : Nat
  retryPpm : Nat
  level7 : Nat
  uncorrected : Nat
  progFail : Nat
  eraseFail : Nat
  halfErased : Nat
  lostSectors : Nat
  worstDie : Nat
  worstEwPpm : Nat
  t2Replaced : Nat
  t2Failed : Nat
deriving DecidableEq, Repr

/-- An erase group of T2 (R377, R378): total wear, and whether it is FAILED. -/
structure EraseGroup where
  wear : Nat
  failed : Bool
deriving DecidableEq, Repr

/-- Flash media management. -/
structure Media where
  blocks : SMap Block
  sectors : SMap FSector
  staging : List Staged
  map : SMap MapEntry
  log : SMap (List LogCopy)
  openStripe : Option Nat
  stripes : SMap Stripe
  nextStripe : Nat
  nextSeq : Nat
  nextGroup : Nat
  fold : Option Fold
  /-- Writes that wait for staging, oldest first, and sectors that staging may still take for log space that folds have freed
  (R365). -/
  waiting : List HeldWrite
  quota : Nat
  journal : Nat
  checkpoints : Nat
  ledgers : SMap (List LedgerRec)
  poisoned : SMap Unit
  spareShip : Nat
  stage : MediaStage
  ewWatch : Nat
  retryWatch : Nat
  spareLow : Nat
  /-- The number of the 60 s window that the counts below belong to (R380), and the stamp of the last wear check (R356). -/
  stageWin : Nat
  wearAt : Nat
  winReads : Nat
  winEw : Nat
  winRetry : Nat
  /-- Rates of the last window of 10,000 reads or more, on which the rate-based stages rest (R380). -/
  rateEw : Nat
  rateRetry : Nat
  dieReads : SMap (Nat × Nat)
  health : MediaHealth
  groups : SMap EraseGroup
  fastUsed : SMap Nat
  lastWrite : Nat
  /-- Commit manifest of R375 and whether its marker was written. -/
  manifest : List Nat
  marker : Bool
  commitBegun : Bool
deriving DecidableEq, Repr

/-- Stylus routines (R385). -/
inductive Routine where
  | read | program | erase | probe | calRead | csRead | csProgram | csErase | csFetch | rbRead | rbAdvance
deriving DecidableEq, Repr

/-- A descriptor accepted and not completed (R383, R388). -/
structure Op where
  id : Nat
  routine : Routine
  caller : Caller
  desc : Desc
  prio : Nat
  suspends : Nat
  /-- A code-store operation that runs once more on a replacement block (R392). -/
  retried : Bool
deriving DecidableEq, Repr

/-- A die's work (R388): what runs, what it suspended, what waits. -/
structure Die where
  running : Option Op
  suspended : Option Op
  waiting : List Op
deriving DecidableEq, Repr

/-- A descriptor's completion (R384). -/
structure Cpl where
  id : Nat
  tag : Nat
  status : Nat
  bucket : Nat
  ew : Bool
  level : Nat
  suspends : Nat
  stamp : Nat
deriving DecidableEq, Repr

/-- The Stylus ROM and the PRT registers (R383 to R398). -/
structure Stylus where
  dies : SMap Die
  nextId : Nat
  cpls : List Cpl
  bootMode : Bool
  lock : Bool
  ew : BitVec 12
  wpSel : BitVec 14
  wp : SMap (BitVec 64)
  csSel : BitVec 3
  regions : SMap (BitVec 64)
  mbxDesc : SMap (BitVec 64)
  mbxBusy : Option Nat
  mbxCpl0 : BitVec 64
  mbxCpl1 : BitVec 64
  /-- The two copies of each rollback counter (R393). -/
  counters : SMap (Nat × Nat)
  /-- The code store's bytes, by code-store block × 16 MiB + offset (R34, R391); its pages that read as uncorrectable, by
  block × 1,024 + page; replacement blocks used; blocks that stay unwritable (R392). -/
  cs : Cells
  csBad : List Nat
  csPoolUsed : Nat
  csUnwritable : List Nat
deriving DecidableEq, Repr

end Sys2Proof.Machine
end

