-- ==== Sys2Proof/Machine/HostData.lean ====
section
/-! DEFINITION. The data of the host interface, of folios and of error handling (spec 15, 16, 17, 18). -/

namespace Sys2Proof.Machine

/-- Module statuses (R15), in the order of their table. -/
inductive Status where
  | protection | format | resultSpace | staleVersion | busyRetry | poisoned | nanTrap | degraded | shortResult | success
deriving DecidableEq, Repr

/-- A completion as the module posts it (R416, R417): its queues, its status field, Dwords 0 and 1, and the data that the
command transferred to the host. -/
structure Completion where
  cq : Nat
  sqId : Nat
  sqHead : Nat
  cid : Nat
  sct : Nat
  sc : Nat
  dnr : Bool
  dw0 : BitVec 32
  dw1 : BitVec 32
  /-- The More bit: Error Information holds an entry for the command (R416). -/
  more : Bool
  data : Bytes
deriving DecidableEq, Repr

/-- A completion queue (R408, R422): depth, interrupt vector, the head that the host has written, entries the host has not freed,
completions that wait. -/
structure CQ where
  size : Nat
  vector : Nat
  head : Nat
  unread : Nat
  waiting : List Completion
deriving DecidableEq, Repr

/-- A submission queue. -/
structure SQ where
  size : Nat
  cq : Nat
  /-- Commands taken, modulo `size`: what a completion reports as SQ Head Pointer. -/
  head : Nat
deriving DecidableEq, Repr

/-- A query ring (R405 to R407, R411): entries taken from host memory and not yet offered are in `entries`. -/
structure Ring where
  address : Nat
  slots : Nat
  cq : Nat
  ctx : Nat
  head : Nat
  tail : Nat
  entries : List Bytes
  /-- A RING_DELETE was accepted: its cid. -/
  deleting : Option Nat
deriving DecidableEq, Repr

/-- A vendor I/O command that a STOPPING or REPLACING context holds (R412), or a DELIVERY that waits (R414). -/
structure HeldCmd where
  rid : Nat
deriving DecidableEq, Repr

/-- Something the module sends on the sideband, over DOE, the debug port, the management ring or as a memory read
response: a tag naming the channel, a status, and bytes. -/
inductive Channel where
  | windowRead | decoder | sideband | spdm | debug | managementRing | hatchFrame
deriving DecidableEq, Repr

structure Reply where
  channel : Channel
  status : Nat
  data : Bytes
  /-- Lines of a window read that return CXL poison (R199), as line numbers within the read. -/
  poison : List Nat
deriving DecidableEq, Repr

/-- An entry of the Error Information log (R409): how many came before it, the submission queue and command, SCT × 256 + SC, the LBA and
the namespace. -/
structure ErrorInfo where
  count : Nat
  sq : Nat
  cid : Nat
  status : Nat
  lba : Nat
  nsid : Nat
deriving DecidableEq, Repr

/-- A line that the module is to write once the host has answered its back-invalidate snoop (R404): device line number, data,
memory poison, and the request whose record it is. -/
structure Snoop where
  line : Nat
  data : Bytes
  poison : Bool
  rid : Option Nat
deriving DecidableEq, Repr

/-- The host interface (R400 to R422). -/
structure HostIf where
  rate : Nat
  width : Nat
  latFlit : Bool
  retrains : Nat
  perst : Bool
  ready : Bool
  shutdown : Nat
  /-- Committed HDM decoder size in 256 MiB units, 0 when none (R402), and the size the map was made for. -/
  winSize : Nat
  mapSize : Nat
  /-- The base of the committed decoder in host address space (R461). -/
  winBase : Nat
  window : SMap WinPage
  heldUnmaps : List HeldUnmap
  rings : SMap Ring
  cqs : SMap CQ
  sqs : SMap SQ
  aers : List Nat
  masked : List Nat
  events : List (Nat × Nat)
  features : SMap (BitVec 32)
  /-- Error Information entries, newest first. -/
  errorLog : List ErrorInfo
  posted : List Completion
  replies : List Reply
  /-- Snoops sent and not answered, oldest first (R404). -/
  snoops : List Snoop
  download : Cells
  downloadLen : Nat
  viral : Bool
deriving DecidableEq, Repr

/-- Hatch port states (R426), in the order of their codes. -/
inductive PortState where
  | off | training | checking | up | spare | detour | failed | miswired
deriving DecidableEq, Repr

/-- Codes of the port states (R426). -/
def PortState.code : PortState → Nat
  | .off => 0 | .training => 1 | .checking => 2 | .up => 3 | .spare => 4 | .detour => 5 | .failed => 6 | .miswired => 7

/-- A hatch port (R425 to R432, R439). `replay` holds the sheets sent and not acknowledged: (stream, sheet). -/
structure Port where
  st : PortState
  lanes : Nat
  peer : Nat
  peerPort : Nat
  replay : List (Nat × Sheet)
  sent : Nat
  received : Nat
  replays : Nat
  failures : Nat
  duplicates : Nat
  /-- The stamp of what the port's next time limit runs from: the last acknowledgement, or the first sheet that waits for one; on a FAILED
  port the failure, or the last retraining (R426, R430). -/
  since : Nat
deriving DecidableEq, Repr

/-- A folio member as the head sees it (R475 to R481). -/
structure Member where
  inService : Bool
  rejoining : Bool
  lastFrame : Nat
  lastAlive : Nat
  faulted : Bool
  /-- R of its last re-mirroring: it serves its own roles to batches of an ORIGIN from there on (R481). -/
  since : Nat
deriving DecidableEq, Repr

/-- The folio (R423 to R439). -/
structure Folio where
  folioId : BitVec 64
  topology : Nat
  dimX : Nat
  dimY : Nat
  dimZ : Nat
  number : Nat
  members : SMap Member
  master : Nat
  holdover : Bool
  offset : Int
  joined : Bool
  ports : SMap Port
  broken : List Nat
  /-- The next tick passes without a count: a member that is ahead of the master slews back (R434). -/
  slowTick : Bool
  lastReach : Nat
  /-- Shards LOST under R483: (object kind, identifier, shard). -/
  lostShards : List (Nat × BitVec 64 × Nat)
  remirrorStamp : Nat
  /-- Stamps of the last timing mark (R433) and of the last membership frame that PD0 sent (R475). -/
  markAt : Nat
  frameAt : Nat
deriving DecidableEq, Repr

/-- Phases (R463), in the order of their codes. -/
inductive Phase where
  | startUp | service | test | recovery | contained
deriving DecidableEq, Repr

/-- Error classes (R460), in the order of their codes. -/
inductive ErrClass where
  | storm | uncorrected | consumed | detected | usage | protection | media | link | containment | recovery
deriving DecidableEq, Repr

/-- An error record (R459). `readBack`: a read of page 0xC4 has returned it (R462). -/
structure ErrRec where
  stamp : Nat
  seq : Nat
  cls : ErrClass
  unitKind : Nat
  unit : Nat
  op : Nat
  ctx : Nat
  station : Nat
  module : Nat
  temp : Int
  volt : Nat
  address : Nat
  stream : Nat
  poisonMade : Bool
  persisted : Bool
  forwarded : Bool
  lostBefore : Bool
  sheetSeq : Nat
  detailA : Nat
  detailB : Nat
  count : Nat
  readBack : Bool
deriving DecidableEq, Repr

/-- What a rule says of a record that it writes: the fields of R459 that the event fixes. -/
structure RecArgs where
  cls : ErrClass
  unitKind : Nat
  unit : Nat := 0
  op : Nat := 11
  ctx : Nat := 0xFF
  station : Nat := 0xFF
  address : Nat := 0
  stream : Nat := 0
  poisonMade : Bool := false
  sheetSeq : Nat := 0
  detailA : Nat := 0
  detailB : Nat := 0
deriving DecidableEq, Repr

/-- A correctable-error source (R454, R455). -/
structure CeSource where
  count : Nat
  level : Nat
  missed : Nat
  overflows : Nat
  table : List (Nat × Nat × Nat)
deriving DecidableEq, Repr

/-- A scrub pass (R458). -/
structure Scrub where
  space : Bool
  busy : Bool
  aborting : Bool
  count : BitVec 32
  first : BitVec 32
  sum0 : BitVec 64
  sum1 : BitVec 64
  runSpace : Bool
  runFirst : Nat
  runCount : Nat
deriving DecidableEq, Repr

/-- Integrity (R440 to R467). -/
structure Integrity where
  phase : Phase
  recs : List ErrRec
  written : Nat
  lost : Nat
  nextSeq : Nat
  /-- Records made outside SERVICE whose one event is due when SERVICE resumes (R464). -/
  deferred : Bool
  /-- Records that wait for a path to the head, oldest first (R464). -/
  unsent : List ErrRec
  ceLog : Bool
  ceWindow : BitVec 16
  ceCapacity : BitVec 16
  ceLeak : BitVec 16
  /-- The number k of the window that the levels last leaked for: its start (R454). -/
  ceWin : Nat
  ce : SMap CeSource
  patrol : BitVec 64
  patrolPos : List Nat
  patrolPass : List Nat
  scrub : Scrub
deriving DecidableEq, Repr

/-- Recovery (R468 to R486). -/
structure Recovery where
  restencils : Nat
  takeovers : Nat
  remirrors : Nat
  unabsorbed : Nat
  kind : Nat
  active : Bool
  mirrorMember : Nat
  mirrorActive : Bool
  mibLeft : Nat
deriving DecidableEq, Repr

end Sys2Proof.Machine
end

