-- ==== Sys2Proof/Machine/PlatformData.lean ====
section
/-! DEFINITION. The data of calibration, power, boot and Easel (spec 19 to 23), and of the snapshot registers. -/

namespace Sys2Proof.Machine

/-- Read-level calibration of one die and mode (R491 to R494). -/
structure DieCal where
  shift : Int
  n1 : Nat
  n0 : Nat
  reads : Nat
  ewReads : Nat
  ewPpm : Nat
  sweeps : Nat
  held : Bool
  /-- Folio time of the last sweep, none when it has not been swept; the page whose read last carried EW. -/
  lastSweep : Option Nat
  lastEwPage : Nat × Nat
  sweeping : Bool
  /-- The last closed window calls for a sweep; the tracking step that is held (R489). -/
  due : Bool
  step : Int
deriving DecidableEq, Repr

/-- An entry of the calibration log (R502). -/
structure CalEntry where
  stamp : Nat
  kind : Nat
  unit : Nat
  cause : Nat
  oldA : Int
  newA : Int
  oldB : Nat
  newB : Nat
deriving DecidableEq, Repr

/-- An open protected window (R488): context, station, batch, scope, end stamp. -/
structure OpenWindow where
  ctx : Nat
  station : Nat
  batch : Nat
  scope : Nat
  till : Nat
deriving DecidableEq, Repr

/-- Calibration (R487 to R502). -/
structure Calib where
  ctrl : BitVec 3
  tileCfg : BitVec 64
  flashCfg : BitVec 64
  heldChanges : Nat
  windows : List OpenWindow
  /-- By unit × 2 + mode: bulk die or 1,024 + fast die; mode 0 QLC, 1 SLC. -/
  dies : SMap DieCal
  log : List CalEntry
deriving DecidableEq, Repr

/-- A temperature sensor (R516, R520), in 0.125 °C steps. -/
structure Sensor where
  reading : Int
  maximum : Int
  overMs : Nat
deriving DecidableEq, Repr

/-- What the module does about its input (R508 to R512, R517). -/
inductive PowerPhase where
  | unpowered | stepping | running | committing | committed | waitInput | thermalHold | stopped
deriving DecidableEq, Repr

/-- Power (R503 to R520). -/
structure Power where
  phase : PowerPhase
  upStep : Nat
  domains : BitVec 20
  inputMv : Nat
  inputW : Nat
  peakW : Nat
  means : List Nat
  limitW : Nat
  flow : Nat
  sensors : SMap Sensor
  freqCap : Nat
  throttledMs : Nat
  surges : Nat
  cause : BitVec 4
  flashHold : Bool
  /-- A surge acted in the window now open. -/
  surged : Bool
  measuring : Bool
  ready : Bool
  holdupFail : Bool
  bankMv : Nat
  emeasMj : Nat
  stageMib : Nat
  done : Bool
  removeReq : Bool
  latchOpen : Bool
  sbAddr : Nat
  inputOk : Bool
  /-- A commit that ends in a thermal hold, or in a module reset (R517, R555). -/
  thermal : Bool
  resetAfter : Bool
  /-- The input has been cycled during a thermal hold (R517). -/
  cycled : Bool
  windowPeak : Nat
  /-- The number of the 1 ms window that the throttle decided last (R515), and the day of the last daily measurement of the bank (R506). -/
  window : Nat
  measuredDay : Option Nat
deriving DecidableEq, Repr

/-- The owner policy in force (R528, R529). -/
structure Policy where
  keys : List (Nat × Bytes)
  imageFloor : Nat
  debug : Option (Bytes × Bytes × Nat)
  contexts : List (Nat × Bytes × BitVec 64)
  objects : List (Nat × Bytes)
  records : Bytes
  generation : Nat
deriving DecidableEq, Repr

/-- A nonce of the debug port (R539). -/
structure DbgNonce where
  value : Bytes
  stamp : Nat
deriving DecidableEq, Repr

/-- Boot, identity and debug access (R521 to R542). -/
structure Boot where
  /-- The boot ROM has run and started stage 1; stage 1 has ended; Easel firmware has started; restore has ended. -/
  stage : Nat
  romDone : Bool
  stage1Done : Bool
  stopped : Bool
  fwSvn : Nat
  st1Svn : Nat
  identityFail : Bool
  rolesStale : Bool
  ownerSet : Bool
  fwConfirmed : Bool
  attempts : Nat
  fwSlot : Nat
  st1Slot : Nat
  fwDigest : Bytes
  st1Digest : Bytes
  /-- The hashes of the five keys that the boot ROM's mask holds (R522; log entry 48): the model's own field. -/
  romKeys : List Bytes
  policy : Policy
  /-- Boot-attempt counts of unconfirmed images in region 4: by kind × 2 + slot. -/
  tries : SMap Nat
  confirms : List (Nat × Nat × Nat)
  /-- GENERATION of the newest TILE_ROLES record, 0 when none was written; stage 1 found none that it may use (R530). -/
  rolesGen : Nat
  rolesLost : Bool
  deviceKey : Option (BitVec 256)
  layerSecret : Option (BitVec 256)
  aliasKey : Option (BitVec 256)
  dbgLevel : Nat
  dbgMethod : Nat
  dbgFails : Nat
  pwFails : Nat
  pwLocked : Bool
  dbgNonce : Option DbgNonce
  dbgResult : Nat
deriving DecidableEq, Repr

/-- An entry of Easel's persistent log (R553). -/
inductive LogEntry where
  | errRec (r : ErrRec) | testResult (kind tested failed : Nat) (stamp : Nat) | bootAttempt (kind slot : Nat)
  | watchdog (stamp : Nat) | timeFloor (ns : Nat)
deriving DecidableEq, Repr

/-- A telemetry frame's contents (R551). -/
structure Frame551 where
  stamp : Nat
  seq : Nat
  decim : Nat
  flags : Nat
  inputW : Nat
  peakW : Nat
  freqCap : Nat
  stage : Nat
  temps : List Int
  flow : Nat
  calNew : Nat
  records : Nat
  admitted : Nat
  refused : Nat
deriving DecidableEq, Repr

/-- A running test (R554). -/
structure TestRun where
  kind : Nat
  tested : Nat
  failed : Nat
  running : Bool
deriving DecidableEq, Repr

/-- Easel (R543 to R557). -/
structure Easel where
  /-- The four class queues: arrival stamps, oldest first (R548). -/
  q1 : List Nat
  q2 : List Nat
  q3 : List Nat
  q4 : List Nat
  overload : Bool
  /-- Since when the queue has met the exit bound of R549. -/
  calmFrom : Option Nat
  overloadFrom : Nat
  restarts : Nat
  refusals : Nat
  services : List Nat
  telemMs : BitVec 16
  frames : List Frame551
  frameSeq : Nat
  /-- Windows that have ended and whose frames are not formed yet: k, and what the window's end fixed (R551). -/
  ended : List (Nat × Frame551)
  decim : Nat
  lastTick : Nat
  calAtFrame : Nat
  recsAtFrame : Nat
  admAtFrame : Nat
  refAtFrame : Nat
  admittedAll : Nat
  calAll : Nat
  log : List LogEntry
  unpersisted : List ErrRec
  test : Option TestRun
  lastClear : Nat
  expiries : List Nat
  restarting : Bool
  serviceFrom : Nat
  /-- PD0's health snapshot, 24 bytes (R545), and the NVMe-MI configuration values that were set, by identifier. -/
  health : Bytes
  healthAt : Nat
  miConfig : SMap Nat
  /-- The day of the last daily test of the spare tiles (R474). -/
  spareDay : Option Nat
deriving DecidableEq, Repr

/-- The selector registers and their snapshots (R147): each snapshot is the list of its registers' values in the order
of their offsets. -/
structure Monitors where
  smonSel : BitVec 64
  smon : List (BitVec 64)
  hmonSel : BitVec 64
  hmon : List (BitVec 64)
  tierSel : BitVec 64
  tier : List (BitVec 64)
  tblSel : BitVec 64
  tbl : List (BitVec 64)
  ctxSel : BitVec 64
  ctx : List (BitVec 64)
  mcSel : BitVec 64
  mc : List (BitVec 64)
  idxSel : BitVec 64
  idx : List (BitVec 64)
  vocSel : BitVec 64
  voc : List (BitVec 64)
  ltrSel : BitVec 64
  ltr : List (BitVec 64)
  decSel : BitVec 64
  dec : List (BitVec 64)
  hlkSel : BitVec 64
  hlk : List (BitVec 64)
  ceSel : BitVec 64
  ce : List (BitVec 64)
  calSel : BitVec 64
  cal : List (BitVec 64)
  logSel : BitVec 64
  log : List (BitVec 64)
  tempSel : BitVec 64
  temp : List (BitVec 64)
deriving DecidableEq, Repr

/-- The time counts of a hard station (R149). -/
structure HardMon where
  busyNs : Nat
  starveNs : Nat
  blockNs : Nat
deriving DecidableEq, Repr

/-- A decode engine bound to a unit (R328): its context and stream, the unit's TAG, the bytes of the unit so far, header first,
and whether they hold poison. -/
structure Engine where
  ctx : Nat
  stream : Nat
  tag : BitVec 32
  bytes : Bytes
  /-- The parts of `bytes` that arrived poisoned, as [from, to). -/
  poison : List (Nat × Nat)
deriving DecidableEq, Repr

end Sys2Proof.Machine
end

