-- ==== Sys2Proof/Machine/State.lean ====
section
/-! DEFINITION. The state of the module, the reasons a command can stop, and the state after reset. -/

namespace Sys2Proof.Machine

/-- Why the machine stops on a command. -/
inductive Fault where
  /-- Raised by any command whose operand names a unit that the module does not have (a tile of 544 or more, a context of
  16 or more): no such event can come about. Safe. -/
  | noSuchUnit
deriving DecidableEq, Repr

/-- Why a command has no meaning. -/
inductive Refusal where
  /-- Raised by the arm of a command that has no meaning yet, named by its mnemonic. Safe. -/
  | notModelled (mnemonic : String)
deriving DecidableEq, Repr

/-- The state of the module. Maps list only what differs from what an unlisted key stands for, as each field says. -/
structure State where
  /-- Commands that wait, first in, first out. -/
  pending : List Instr
  /-- Number of free values drawn; the model's own (log entry 2). -/
  freeCtr : Nat
  /-- Folio time in ns (R6, R25), and whether stage 1 has resumed it. -/
  time : Nat
  resumed : Bool
  /-- Whether the count has ever started, and the largest count of earlier boots, below which it never resumes (R6). -/
  timeStarted : Bool
  lastTime : Nat
  /-- The last time floor in the persistent log (R6). -/
  floor : Nat
  /-- By physical number; an unlisted tile is as shipped and off. -/
  tiles : SMap Tile
  /-- By module stream number; an unlisted stream is not defined. -/
  streams : SMap Stream
  arbiters : SMap Arbiter
  boundaries : SMap Boundary
  /-- Time counts of hard stations by number (R149). -/
  hard : SMap HardMon
  /-- By number; an unlisted context is EMPTY. -/
  ctxs : SMap Ctx
  /-- Requests offered, waiting or admitted, by request number in order of arrival (R242). -/
  reqs : SMap Req
  nextRid : Nat
  /-- The admission arbiter's rotating pointer (R242). -/
  admitPtr : Nat
  /-- The model cache by entry (R244); the order counter for last loads. -/
  cache : SMap CacheEntry
  cacheOrder : Nat
  /-- The order of the loads that wait for the allocation lock (R175). -/
  allocOrder : Nat
  /-- The device range's bytes, and the 64-byte lines marked with memory poison (R176, R223). -/
  mem : Cells
  poison : SMap Unit
  /-- Pages of the device range that are held, by page number. -/
  pages : SMap PageUse
  /-- The staging copies, the feeder's queued and running moves, and tier reads under way (R183 to R192). -/
  copies : List Copy
  queued : List Move
  inflight : List Move
  reads : List TierRead
  /-- Table slots (R216), the migration log (R229), read counts of the open 1 ms window by row (R227), updates that wait
  (R229, R230), and scatter batches (R221). -/
  tables : SMap Table
  migLog : List Update
  readCtrs : SMap Nat
  /-- The number of the 1 ms window that the read counts belong to (R227). -/
  readWin : Nat
  updates : List Update
  scatters : List Scatter
  /-- Runs of FEED programs by number, the lowest the oldest (R196, R213). -/
  runs : SMap Run
  nextRun : Nat
  /-- Index slots (R284). -/
  indexes : SMap Index
  /-- Lettering objects by slot (R285). -/
  vocabs : SMap Vocab
  norms : SMap Norm
  grammars : SMap Grammar
  /-- ENCODE pipelines by module stream of their input (R299). -/
  encodes : SMap Encode
  /-- Front-end sequences by slot, and the generation of each slot (R412). -/
  fronts : SMap FrontSeq
  gens : SMap Nat
  /-- Decode engines that are bound (R328). -/
  engines : SMap Engine
  media : Media
  stylus : Stylus
  host : HostIf
  folio : Folio
  integ : Integrity
  recov : Recovery
  cal : Calib
  power : Power
  boot : Boot
  easel : Easel
  mon : Monitors
deriving DecidableEq, Repr

/-- Counters of a tile after reset (R80, R81). -/
def TileCounts.zero : TileCounts := ⟨0, 0, 0, 0, 0, 0, 0, 0, 0, 0⟩

/-- A tile after reset, as shipped (R22, R73 to R83): spare at positions 64 to 67 of its half, its domain off (R520). -/
def Tile.shipped (p : Nat) : Tile where
  role := if p % 68 < 64 then .service else .spare
  st := .off
  freq := 20
  vofs := 0
  runFreq := 20
  change := none
  station := 0xFF
  context := 0
  placed := false
  mode := 0
  logical := 0
  nlists := 0
  buffers := []
  routes := []
  strokes := []
  lists := []
  islots := []
  turn := 0
  arrays := []
  banks := []
  ftabs := []
  exec := []
  replacing := false
  faults := 0
  testRuns := 0
  testFails := 0
  testBusy := false
  lastPass := true
  counts := .zero
  nan := none
  cal := ⟨0, 0, false, false, 0, 0, 0, 0⟩

/-- A context in EMPTY (R234, R250). -/
def Ctx.empty : Ctx where
  st := .empty
  halves := 0
  tileLimit := 0
  seqLimit := 0
  fastPages := 0
  midPages := 0
  slowPages := 0
  overcommit := false
  admitted := 0
  mcEntry := 0
  loaded := none
  load := none
  loadQueue := []
  pendingStart := []
  pendingUnload := []
  report := none
  batchCtr := 0
  nan := none
  tier := ⟨0, 0, 0, 0, 0, 0⟩
  ltr := ⟨0, 0, 0, 0, 0, 0, 0, 0, 0, 0⟩
  dec := ⟨0, 0, 0, 0, 0, 0, 0, 0, 0⟩
  delivery := none
  samples := []
  ends := []
  captions := []
  produced := []
  retained := []
  probeWait := []
  feeds := []

/-- Flash management after reset: nothing written yet (log entry 6), SPARE as shipped (R353), thresholds of R380. -/
def Media.reset : Media where
  blocks := []
  sectors := []
  staging := []
  map := []
  log := []
  openStripe := none
  stripes := []
  nextStripe := 0
  nextSeq := 0
  nextGroup := 0
  fold := none
  waiting := []
  quota := 0
  journal := 0
  checkpoints := 0
  ledgers := []
  poisoned := []
  spareShip := 168675
  stage := .normal
  ewWatch := 1000
  retryWatch := 100
  spareLow := 16867
  stageWin := 0
  wearAt := 0
  winReads := 0
  winEw := 0
  winRetry := 0
  rateEw := 0
  rateRetry := 0
  dieReads := []
  health := ⟨false, 0, 0, 0, 0, 0, 0, 0, 0, 0, 0, 0, 0, 0, 0, 0, 0, 0⟩
  groups := []
  fastUsed := []
  lastWrite := 0
  manifest := []
  marker := false
  commitBegun := false

/-- The Stylus ROM and the PRT registers after reset (R398). -/
def Stylus.reset : Stylus where
  dies := []
  nextId := 0
  cpls := []
  bootMode := true
  lock := false
  ew := 0x668
  wpSel := 0
  wp := []
  csSel := 0
  regions := []
  mbxDesc := []
  mbxBusy := none
  mbxCpl0 := 0
  mbxCpl1 := 0
  counters := []
  cs := []
  csBad := []
  csPoolUsed := 0
  csUnwritable := []

/-- The host interface after reset. -/
def HostIf.reset : HostIf where
  rate := 0
  width := 0
  latFlit := false
  retrains := 0
  perst := false
  ready := false
  shutdown := 0
  winSize := 0
  mapSize := 0
  winBase := 0
  window := []
  heldUnmaps := []
  rings := []
  cqs := []
  sqs := []
  aers := []
  masked := []
  events := []
  features := []
  errorLog := []
  posted := []
  replies := []
  snoops := []
  download := []
  downloadLen := 0
  viral := false

/-- A standalone module's folio registers (R439). -/
def Folio.reset : Folio where
  folioId := 0
  topology := 0
  dimX := 1
  dimY := 1
  dimZ := 1
  number := 0
  members := [(0, ⟨true, false, 0, 0, false, 0⟩)]
  master := 0
  holdover := false
  offset := 0
  joined := false
  ports := []
  broken := []
  slowTick := false
  lastReach := 0
  lostShards := []
  remirrorStamp := 0
  markAt := 0
  frameAt := 0

/-- Integrity after reset (R463, R467). -/
def Integrity.reset : Integrity where
  phase := .startUp
  recs := []
  written := 0
  lost := 0
  nextSeq := 0
  deferred := false
  unsent := []
  ceLog := false
  ceWindow := 10000
  ceCapacity := 32
  ceLeak := 4
  ceWin := 0
  ce := []
  patrol := 0x02D0_0004_0018_0018
  patrolPos := [0, 0, 0, 0]
  patrolPass := [0, 0, 0, 0]
  scrub := ⟨false, false, false, 0, 0, 0, 0, false, 0, 0⟩

/-- Calibration after reset (R501). -/
def Calib.reset : Calib where
  ctrl := 7
  tileCfg := 0x0084_5008_F404_03E8
  flashCfg := 0x0000_07D0_1000_3C0A
  heldChanges := 0
  windows := []
  dies := []
  log := []

/-- Power after reset (R520). -/
def Power.reset : Power where
  phase := .unpowered
  upStep := 0
  domains := 0
  inputMv := 0
  inputW := 0
  peakW := 0
  means := []
  limitW := 900
  flow := 0
  sensors := []
  freqCap := 132
  throttledMs := 0
  surges := 0
  cause := 0
  flashHold := false
  surged := false
  measuring := false
  ready := false
  holdupFail := false
  bankMv := 0
  emeasMj := 0
  stageMib := 0
  done := false
  removeReq := false
  latchOpen := false
  sbAddr := 0
  inputOk := true
  thermal := false
  resetAfter := false
  cycled := false
  windowPeak := 0
  window := 0
  measuredDay := none

/-- Boot after reset (R542). -/
def Boot.reset : Boot where
  stage := 0
  romDone := false
  stage1Done := false
  stopped := false
  fwSvn := 0
  st1Svn := 0
  identityFail := false
  rolesStale := false
  ownerSet := false
  fwConfirmed := false
  attempts := 0
  fwSlot := 0
  st1Slot := 0
  fwDigest := []
  st1Digest := []
  romKeys := (List.range 5).map fun k => (List.range 32).map (Config.romKeyByte k)
  policy := ⟨[], 0, none, [], [], [], 0⟩
  tries := []
  confirms := []
  rolesGen := 0
  rolesLost := false
  deviceKey := none
  layerSecret := none
  aliasKey := none
  dbgLevel := 0
  dbgMethod := 0
  dbgFails := 0
  pwFails := 0
  pwLocked := false
  dbgNonce := none
  dbgResult := 0

/-- Easel after reset (R557). -/
def Easel.reset : Easel where
  q1 := []
  q2 := []
  q3 := []
  q4 := []
  overload := false
  calmFrom := none
  overloadFrom := 0
  restarts := 0
  refusals := 0
  services := []
  telemMs := 100
  frames := []
  frameSeq := 0
  ended := []
  decim := 0
  lastTick := 0
  calAtFrame := 0
  recsAtFrame := 0
  admAtFrame := 0
  refAtFrame := 0
  admittedAll := 0
  calAll := 0
  log := []
  unpersisted := []
  test := none
  lastClear := 0
  expiries := []
  restarting := false
  serviceFrom := 0
  health := List.replicate 24 0
  healthAt := 0
  miConfig := []
  spareDay := none

/-- The selectors and snapshots after reset; a register that a snapshot does not list reads 0. -/
def Monitors.reset : Monitors :=
  ⟨0, [], 0xFF, [], 0, [], 0, [], 0, [], 0, [], 0, [], 0, [], 0, [], 0, [], 0, [], 0, [], 0, [], 0, [], 0, []⟩

/-- The module right after its first reset. -/
def State.reset : State where
  pending := []
  freeCtr := 0
  time := 0
  resumed := false
  timeStarted := false
  lastTime := 0
  floor := 0
  tiles := []
  streams := []
  arbiters := []
  boundaries := []
  hard := []
  ctxs := []
  reqs := []
  nextRid := 0
  admitPtr := 0
  cache := []
  cacheOrder := 0
  allocOrder := 0
  mem := []
  poison := []
  pages := []
  copies := []
  queued := []
  inflight := []
  reads := []
  tables := []
  migLog := []
  readCtrs := []
  readWin := 0
  updates := []
  scatters := []
  runs := []
  nextRun := 0
  indexes := []
  vocabs := []
  norms := []
  grammars := []
  encodes := []
  fronts := []
  gens := []
  engines := []
  media := .reset
  stylus := .reset
  host := .reset
  folio := .reset
  integ := .reset
  recov := ⟨0, 0, 0, 0, 0, false, 0, false, 0⟩
  cal := .reset
  power := .reset
  boot := .reset
  easel := .reset
  mon := .reset

end Sys2Proof.Machine
end

