-- ==== Sys2Proof/Machine/Ops.lean ====
section
/-! DEFINITION. The named operations that the meanings share: access to tiles, streams and contexts, free values, error
records (R459 to R464), asynchronous events (R419), completions (R416, R417) and the passing of time. -/

namespace Sys2Proof.Machine

/-! Access. -/

/-- Physical tile `p`. -/
def tileOf (s : State) (p : Nat) : Tile := mapGet s.tiles p (Tile.shipped p)

def setTile (s : State) (p : Nat) (t : Tile) : State := { s with tiles := mapPut s.tiles p t }

def updTile (s : State) (p : Nat) (f : Tile → Tile) : State := setTile s p (f (tileOf s p))

/-- All physical tiles. -/
def allTiles (s : State) : List (Nat × Tile) := (List.range Config.tiles).map fun p => (p, tileOf s p)

/-- Context `c`. -/
def ctxOf (s : State) (c : Nat) : Ctx := mapGet s.ctxs c Ctx.empty

def setCtx (s : State) (c : Nat) (x : Ctx) : State := { s with ctxs := mapPut s.ctxs c x }

def updCtx (s : State) (c : Nat) (f : Ctx → Ctx) : State := setCtx s c (f (ctxOf s c))

/-- Whether the NaN trap of a context has fired (R115). -/
def trapFired (s : State) (c : Nat) : Bool := ((ctxOf s c).nan.map (·.trapped)).getD false

def streamOf (s : State) (n : Nat) : Option Stream := mapFind s.streams n

def setStream (s : State) (n : Nat) (x : Stream) : State := { s with streams := mapPut s.streams n x }

def updStream (s : State) (n : Nat) (f : Stream → Stream) : State := { s with streams := mapUpd s.streams n f }

def reqOf (s : State) (r : Nat) : Option Req := mapFind s.reqs r

def updReq (s : State) (r : Nat) (f : Req → Req) : State := { s with reqs := mapUpd s.reqs r f }

/-- A step on a unit that the module has, and the stop on one that it does not have. -/
def onUnit (ok : Bool) (t : State) : Host.Outcome State Fault Refusal := if ok then .next t else .fault .noSuchUnit

/-- The power domain of tile `p` (R21). -/
def tileDomain (p : Nat) : Nat := 5 + 2 * (p / 136) + p % 136 / 68

/-- Whether power domain `d` is on. -/
def domainOn (s : State) (d : Nat) : Bool := s.power.domains.getLsbD d

/-- The number of the draw that comes next, and the state in which it has been drawn (log entry 2). -/
def draw (s : State) (n : Nat) : Nat × State := (s.freeCtr, { s with freeCtr := s.freeCtr + n })

/-! Members of a folio. -/

/-- Members by their shape (R423). -/
def folioSize (s : State) : Nat := s.folio.dimX * s.folio.dimY * s.folio.dimZ

def inFolio (s : State) : Bool := s.folio.topology != 0

/-- The head module is folio number 0; a standalone module is its own head (R423). -/
def isHead (s : State) : Bool := s.folio.number == 0

def inService (s : State) (m : Nat) : Bool :=
  m == s.folio.number || ((mapFind s.folio.members m).map (·.inService)).getD false

/-- Whether a member serves its own shards to a batch of the given ORIGIN: one that rejoined does so from R on (R481). -/
def servesAt (s : State) (m origin : Nat) : Bool :=
  inService s m && decide ((((mapFind s.folio.members m).map (·.since)).getD 0) ≤ origin)

/-- Whether another member is in service. -/
def othersServing (s : State) : Bool := inFolio s && s.folio.members.any fun p => p.1 != s.folio.number && p.2.inService

/-- A frame to the other members, when there are any (log entry 20). -/
def toMembers (s : State) (b : Bytes) : State :=
  if othersServing s then { s with host.replies := ⟨.hatchFrame, 0, b, []⟩ :: s.host.replies } else s

/-- An update or a margin entry for what a rejoining member has been copied already goes to it too; the copy carries the others (R481). -/
def toRejoining (s : State) (holders : List Nat) (b : Bytes) : State :=
  if holders.any fun m => ((mapFind s.folio.members m).map (·.rejoining)).getD false then
    let (k, s) := draw s 1
    if Config.copyPassed k then { s with host.replies := ⟨.hatchFrame, 0, b, []⟩ :: s.host.replies } else s
  else s

/-- The head sends a command's frame to the other members in service, if there are any, and hears a yes or no from them: `answer` (R436; log
entry 20). -/
def askMembers (answer : Nat → Bool) (s : State) (b : Bytes) : Bool × State :=
  if othersServing s then let (k, s) := draw (toMembers s b) 1; (answer k, s) else (false, s)

/-- What the head hears when it asks the members, or what a step that the head sent says, about DRAINING versions (R415): their answers are
theirs (log entry 20). -/
def farDraining (s : State) : Bool × State :=
  if othersServing s then let (k, s) := draw s 1; (Config.farDraining k, s) else (false, s)

/-! Error records. -/

def ErrClass.code : ErrClass → Nat
  | .storm => 0 | .uncorrected => 1 | .consumed => 2 | .detected => 3 | .usage => 4
  | .protection => 5 | .media => 6 | .link => 7 | .containment => 8 | .recovery => 9

/-- Classes that the persistent log keeps (R462). -/
def ErrClass.persists : ErrClass → Bool
  | .uncorrected | .media | .containment | .recovery => true
  | _ => false

/-- The sensor nearest a unit (R459, R516; which one is nearest is log entry 7). -/
def nearestSensor (kind unit : Nat) : Nat :=
  match kind with
  | 0 => tileDomain unit - 2
  | 1 => 12 + unit
  | 2 => 22
  | 3 => 20
  | 4 => 21
  | 5 => 20
  | 10 => 23
  | _ => 11

/-- The power domain of a bulk channel (R32). -/
def channelDomain (ch : Nat) : Nat := if ch < 32 then 15 else 16

/-- The power domain of a unit (R37; for a record's VOLT). Bulk die k sits on channel k mod 64 (R350). -/
def unitDomain (kind unit : Nat) : Nat :=
  match kind with
  | 0 => tileDomain unit
  | 1 => 13
  | 2 => 14
  | 3 => channelDomain (unit % 64)
  | 4 => 17
  | 5 => channelDomain (Config.codeChannel unit).toNat
  | 8 => if unit < 4 then 3 else 4
  | 9 => 1
  | 10 => unit
  | _ => 13

def sensorOf (s : State) (n : Nat) : Sensor := mapGet s.power.sensors n ⟨0, 0, 0⟩

/-- The 64 bytes of an error record (R459). -/
def recBytes (r : ErrRec) : Bytes :=
  leBytes 8 r.stamp ++ leBytes 4 r.seq ++ leBytes 1 r.cls.code ++ leBytes 1 r.unitKind ++ leBytes 2 r.unit ++
  leBytes 1 r.op ++ leBytes 1 r.ctx ++ leBytes 1 r.station ++ leBytes 1 r.module ++ leBytes 2 (twos 16 r.temp) ++
  leBytes 2 r.volt ++ leBytes 8 r.address ++ leBytes 2 r.stream ++
  leBytes 2 (b2n r.poisonMade + 2 * b2n r.persisted + 4 * b2n r.forwarded + 8 * b2n r.lostBefore) ++
  leBytes 4 r.sheetSeq ++ leBytes 4 r.detailA ++ leBytes 4 r.detailB ++ leBytes 4 r.count ++ zeros 12

/-- Something the module sends that is not an NVMe completion. -/
def sendReply (s : State) (c : Channel) (status : Nat) (data : Bytes) (poison : List Nat := []) : State :=
  { s with host.replies := ⟨c, status, data, poison⟩ :: s.host.replies }

/-! Completions and events. -/

/-- The admin completion queue has the largest depth until the host's own is known (R408; log entry 8). -/
def cqOf (s : State) (n : Nat) : Option CQ :=
  match mapFind s.host.cqs n with
  | some q => some q
  | none => if n = 0 then some ⟨4096, 0, 0, 0, []⟩ else none

/-- A completion is posted when its queue has room, waits when it is full (R422), and is dropped with its queue. -/
def postCpl (s : State) (c : Completion) : State :=
  match cqOf s c.cq with
  | none => s
  | some q =>
    if q.unread + 1 < q.size then
      { s with host.cqs := mapPut s.host.cqs c.cq { q with unread := q.unread + 1 }, host.posted := c :: s.host.posted }
    else { s with host.cqs := mapPut s.host.cqs c.cq { q with waiting := q.waiting ++ [c] } }

/-- Keys of asynchronous events: event type × 256 + information (R419; the SMART events' numbers are NVMe's). -/
def evVendor (info : Nat) : Nat := 7 * 256 + info
def evSmartReliability : Nat := 1 * 256
def evSmartTemperature : Nat := 1 * 256 + 1
def evSmartSpare : Nat := 1 * 256 + 2

/-- A completed event request (R419): Dword 0 has the type in bits 2:0, the information in 15:8 and the page in 23:16. -/
def eventCpl (s : State) (cid key lid : Nat) : State :=
  postCpl s
    { cq := 0, sqId := 0, sqHead := (mapGet s.host.sqs 0 ⟨4096, 0, 0⟩).head, cid := cid, sct := 0, sc := 0, dnr := false,
      dw0 := BitVec.ofNat 32 (key / 256 + 256 * (key % 256) + 65536 * lid), dw1 := 0,
      more := false, data := [] }

/-- An event is raised unless its code is masked; it then masks its code, and completes the oldest outstanding request or
waits for one (R419). -/
def raiseEvent (s : State) (key lid : Nat) : State :=
  if s.host.masked.contains key then s
  else
    let s := { s with host.masked := key :: s.host.masked }
    match s.host.aers with
    | [] => { s with host.events := s.host.events ++ [(key, lid)] }
    | cid :: rest => eventCpl { s with host.aers := rest } cid key lid

/-- Whether a new record merges into the newest one (R462). -/
def recMerges (n : ErrRec) (a : RecArgs) (now : Nat) : Bool :=
  n.cls == a.cls && n.unitKind == a.unitKind && n.unit == a.unit && n.op == a.op && n.ctx == a.ctx &&
  n.station == a.station && n.stamp / 1000000 == now / 1000000

/-- A member with a link over which it reaches the head sends it every record it keeps for it, oldest first (R464; log entry 147). -/
def forwardRecs (s : State) : State :=
  if s.folio.ports.any fun p => p.2.st == .up || p.2.st == .detour then
    { s with
      integ.unsent := []
      host.replies := (s.integ.unsent.map fun r => ⟨.hatchFrame, 0, recBytes { r with forwarded := true }, []⟩).reverse ++ s.host.replies }
  else s

/-- What the reporting paths do with a record just written (R464): in SERVICE an event, and in a folio a copy over the
hatch links to the head; in every other phase the management ring, with the event due later. -/
def reportRec (s : State) (r : ErrRec) : State :=
  match s.integ.phase with
  | .service =>
    let s := if inFolio s && !isHead s then forwardRecs { s with integ.unsent := s.integ.unsent ++ [r] } else s
    raiseEvent s (evVendor 0) 0xC4
  | _ => { sendReply s .managementRing 0 (recBytes r) with integ.deferred := true }

/-- The stamp of what happens now: none of it is stamped, so 0, before stage 1 has resumed folio time (R6; log entry 123). -/
def stampNow (s : State) : Nat := if s.resumed then s.time else 0

/-- Whether a period has passed since a stamp; a stamp that a folio join has put ahead of the count has passed (R434). -/
def periodOver (s : State) (last ns : Nat) : Bool := decide (s.time < last) || decide (last + ns ≤ s.time)

/-- Whether folio time stands in another window [k × ns, (k + 1) × ns) than the one given (R8). Before stage 1 resumes folio time no window is
counted, and PD0's hardware acts on its own clock. -/
def otherWindow (s : State) (k ns : Nat) : Bool := !s.resumed || s.time / ns != k

/-- An error record is written to the ring or merged into the newest (R459, R462, R464); a new one is class 2 work of Easel (R548). -/
def recordErr (s : State) (a : RecArgs) : State :=
  let merged : Option (List ErrRec) :=
    match s.integ.recs with
    | [] => none
    | n :: rest => if recMerges n a (stampNow s) then some ({ n with count := satAdd (ones 32) n.count 1 } :: rest) else none
  match merged with
  | some rs => { s with integ.recs := rs }
  | none =>
    let full := decide (4096 ≤ s.integ.recs.length)
    let lostOne := full && (s.integ.recs.getLast?.map fun r => !r.readBack).getD false
    let (k, s) := draw s 1
    let r : ErrRec :=
      { stamp := stampNow s, seq := s.integ.nextSeq, cls := a.cls, unitKind := a.unitKind, unit := a.unit, op := a.op,
        ctx := a.ctx, station := a.station, module := s.folio.number,
        temp := (sensorOf s (nearestSensor a.unitKind a.unit)).reading,
        volt := (Config.supplyMv (unitDomain a.unitKind a.unit) k).toNat, address := a.address, stream := a.stream,
        poisonMade := a.poisonMade, persisted := false, forwarded := false, lostBefore := lostOne,
        sheetSeq := a.sheetSeq, detailA := a.detailA, detailB := a.detailB, count := 1, readBack := false }
    let kept := if full then s.integ.recs.dropLast else s.integ.recs
    let s := { s with
      integ.recs := r :: kept
      integ.nextSeq := s.integ.nextSeq + 1
      integ.written := satAdd (ones 32) s.integ.written 1
      integ.lost := satAdd (ones 32) s.integ.lost (b2n lostOne) }
    let s := { s with
      easel.q2 := s.easel.q2 ++ [s.time]
      easel.unpersisted := if a.cls.persists then s.easel.unpersisted ++ [r] else s.easel.unpersisted }
    reportRec s r

/-- A USAGE record of a register access (R461 kind 11). -/
def usageReg (s : State) (offset : Nat) : State :=
  recordErr s { cls := .usage, unitKind := 11, op := 11, address := offset }

/-- A PROTECTION record of a register access; DETAIL_A is the access code (R460), here 0 read and 1 write as OP has them
(log entry 9). -/
def protReg (s : State) (offset : Nat) (write : Bool) : State :=
  recordErr s { cls := .protection, unitKind := 11, op := if write then 1 else 0, address := offset, detailA := b2n write }

/-- Position of a status in the R15 table. -/
def Status.position : Status → Nat
  | .protection => 0 | .format => 1 | .resultSpace => 2 | .staleVersion => 3 | .busyRetry => 4
  | .poisoned => 5 | .nanTrap => 6 | .degraded => 7 | .shortResult => 8 | .success => 9

def Status.ofPosition : Nat → Status
  | 0 => .protection | 1 => .format | 2 => .resultSpace | 3 => .staleVersion | 4 => .busyRetry
  | 5 => .poisoned | 6 => .nanTrap | 7 => .degraded | 8 => .shortResult | _ => .success

/-- The status a completion reports: the condition that stands highest in the R15 table (R18). -/
def statusOfMask (m : BitVec 10) : Status :=
  Status.ofPosition (((List.range 10).find? fun k => m.getLsbD k).getD 9)

/-- The condition mask with the one bit of a status. -/
def condBit (st : Status) : BitVec 10 := BitVec.ofNat 10 (2 ^ st.position)

/-- SCT, SC and DNR of a module status (R416). -/
def statusField (st : Status) : Nat × Nat × Bool :=
  match st with
  | .success => (0, 0, false)
  | .busyRetry => (7, 0x84, false)
  | st => (7, 0x80 + st.position, true)

/-- Where a completion goes: the queue, its SQ Identifier and SQ Head Pointer (R407), or none when the host reset has
deleted the submission path (R422). -/
def originQueue (s : State) (o : Origin) : Option (Nat × Nat × Nat) :=
  match o.ring with
  | some r => (mapFind s.host.rings r).map fun x => (x.cq, 0x8000 + r, x.head % max 1 x.slots)
  | none =>
    if o.sq = 0 then some (0, 0, (mapGet s.host.sqs 0 ⟨4096, 0, 0⟩).head)
    else (mapFind s.host.sqs o.sq).map fun x => (x.cq, o.sq, x.head)

/-- The identifier of a command whose submission path a reset has deleted: nothing is posted for it (R422). -/
def orphanCid : Nat := 65536

/-- A completion with given status field, Dwords and data. A command of a deleted path has none (R422). -/
def complete (s : State) (o : Origin) (sct sc : Nat) (dnr : Bool) (dw0 dw1 : Nat) (data : Bytes := [])
    (more : Bool := false) : State :=
  if orphanCid ≤ o.cid then s
  else
    match originQueue s o with
    | none => s
    | some (cq, sqId, sqHead) =>
      postCpl s ⟨cq, sqId, sqHead, o.cid, sct, sc, dnr, BitVec.ofNat 32 dw0, BitVec.ofNat 32 dw1, more, data⟩

/-- A vendor command's completion (R416, R417): the mask of conditions that applied, the upper half of Dword 0, and
Dword 1. An empty mask is SUCCESS, which has its own bit. -/
def vendorCpl (s : State) (o : Origin) (mask : BitVec 10) (hi dw1 : Nat) : State :=
  let mask := if mask = 0 then condBit .success else mask
  let (sct, sc, dnr) := statusField (statusOfMask mask)
  complete s o sct sc dnr (mask.toNat + 65536 * hi) dw1

/-- An admin command's origin: the admin queue. -/
def adminOrigin (cid : Nat) : Origin := ⟨none, 0, cid⟩

/-- A vendor admin command is done. -/
def adminDone (s : State) (cid : Nat) (hi : Nat := 0) (dw1 : Nat := 0) : State := vendorCpl s (adminOrigin cid) 0 hi dw1

/-- A vendor admin command is refused with a status and REASON (R417). -/
def adminRefuse (s : State) (cid : Nat) (st : Status) (reason : Nat := 0) : State :=
  vendorCpl s (adminOrigin cid) (condBit st) reason 0

/-- A standard command's completion (R417). -/
def stdCpl (s : State) (o : Origin) (sct sc : Nat) (dnr : Bool := false) (dw0 : Nat := 0) (data : Bytes := []) : State :=
  complete s o sct sc dnr dw0 0 data

/-! Easel's load (R548 to R550). -/

/-- The class 3 mean service time over the last 1,024 items, in ns (R550). -/
def meanService (e : Easel) : Nat := if e.services = [] then 0 else e.services.sum / e.services.length

/-- T_r in µs (R550): bounded to [100 µs, 1 s]. -/
def retryUs (e : Easel) : Nat := max 100 (min 1000000 (ceilDiv (e.q3.length * meanService e) 100000 * 100))

/-- Whether the oldest class 3 item has waited `ns` or more. -/
def oldestWaited (s : State) (ns : Nat) : Bool :=
  match s.easel.q3 with
  | [] => false
  | t :: _ => decide (t + ns ≤ s.time)

/-- The entry condition of overload (R549), which is also the refusal condition of R550. -/
def easelFull (s : State) : Bool := decide (256 ≤ s.easel.q3.length) || oldestWaited s 10000000

/-- OVERLOAD and the stamp since which the exit bound of R549 holds, after any change of the class 3 queue. -/
def noteOverload (s : State) : State :=
  let loaded := s.easel.overload || easelFull s
  let calm := decide (s.easel.q3.length < 32) && !oldestWaited s 2000000
  { s with
    easel.overloadFrom := if loaded && !s.easel.overload then s.time else s.easel.overloadFrom
    easel.overload := loaded
    easel.calmFrom := if calm then some (s.easel.calmFrom.getD s.time) else none }

/-- A class 3 item arrives: it is queued (R548). -/
def enqueue3 (s : State) : State := noteOverload { s with easel.q3 := s.easel.q3 ++ [s.time] }

/-- Whether a new class 3 item is refused (R550). -/
def easelRefuses (s : State) : Bool := let s := noteOverload s; s.easel.overload && easelFull s

/-- The refusal is counted. -/
def countRefusal (s : State) : State :=
  { noteOverload s with easel.refusals := satAdd 0xFFFF s.easel.refusals 1, easel.refAtFrame := s.easel.refAtFrame + 1 }

/-- The admin submission queue's head moves past a command. -/
def takeSq (s : State) (q : Nat) : State :=
  let x := mapGet s.host.sqs q ⟨4096, 0, 0⟩
  if q = 0 ∨ (mapFind s.host.sqs q).isSome then
    { s with host.sqs := mapPut s.host.sqs q { x with head := (x.head + 1) % max 1 x.size } }
  else s

/-- The newest completion of the admin queue. -/
def newestCpl (s : State) : Option Completion :=
  match ((cqOf s 0).map (·.waiting)).bind (·.getLast?) with
  | some c => some c
  | none => s.host.posted.head?

/-- The completion with which a command that leads from `s` to `t` is refused by one of the first four statuses of R15, if it is. -/
def ownRefusal (s t : State) (cid : Nat) : Option Completion :=
  let waits (x : State) : Nat := ((cqOf x 0).map fun q => q.waiting.length).getD 0
  if t.host.posted.length = s.host.posted.length ∧ waits t = waits s then none
  else (newestCpl t).bind fun c =>
    if c.cq = 0 ∧ c.cid = cid ∧ c.sct = 7 ∧ 0x80 ≤ c.sc ∧ c.sc ≤ 0x83 then some c else none

/-- A command that Easel does not take: a check that stands above BUSY_RETRY in R15 decides its status if it fails (R17), else it is refused
with BUSY_RETRY and the time after which to retry, in µs. -/
def busyOr (s t : State) (cid us : Nat) : State :=
  match ownRefusal s t cid with
  | some c => postCpl s c
  | none => vendorCpl (countRefusal s) (adminOrigin cid) (condBit .busyRetry) 0 us

/-- An admin command that Easel may refuse (R410, R550, R555). A controller that is not ready takes no command (log entry
10). A member that is not the head accepts only the commands of R421 (`delivery`), and completes others with
PROTECTION. -/
def adminCmd (s : State) (cid : Nat) (delivery : Bool) (f : State → State) : State :=
  if !s.host.ready then s
  else
    let s := takeSq s 0
    if !isHead s && !delivery then adminRefuse (enqueue3 s) cid .protection
    else if s.easel.restarting then busyOr s (f (enqueue3 s)) cid 1000000
    else if easelRefuses s then busyOr s (f (enqueue3 s)) cid (retryUs s.easel)
    else f (enqueue3 s)

/-- What the head would do by itself is done by every member in service; a refusal on any of them refuses it on all (R436). -/
def onMembers (s : State) (cid : Nat) (frame : Bytes) (f : State → State) : State :=
  match askMembers Config.farRefuses s frame with
  | (true, s) => adminRefuse s cid .format
  | (false, s) => f s

/-- The frame that carries an action of CTX_CONTROL on a context to the members (R411, R436). -/
def ctlFrame (ctx action : Nat) : Bytes := leBytes 1 ctx ++ leBytes 1 action

/-- An admin command that is never refused (R410: queue creation and deletion, Abort, Asynchronous Event Request). -/
def adminCmdAlways (s : State) (f : State → State) : State :=
  if !s.host.ready then s else f (enqueue3 (takeSq s 0))

/-- An I/O command from submission queue `sq`, which must exist (log entry 10). A member that is not the head completes it
with PROTECTION (R421). -/
def ioCmd (s : State) (sq cid : Nat) (f : State → State) : State :=
  if !s.host.ready || (mapFind s.host.sqs sq).isNone || sq == 0 then s
  else
    let s := takeSq s sq
    if !isHead s then vendorCpl s ⟨none, sq, cid⟩ (condBit .protection) 0 0 else f s

/-- A correctable-error source (R453). -/
def ceOf (s : State) (src : Nat) : CeSource := mapGet s.integ.ce src ⟨0, 0, 0, 0, []⟩

/-! Phases (R463). -/

/-- A phase begins; when SERVICE resumes, one event covers the records made meanwhile (R464). -/
def enterPhase (s : State) (ph : Phase) : State :=
  let s := { s with integ.phase := ph }
  if ph = .service ∧ s.integ.deferred then raiseEvent { s with integ.deferred := false } (evVendor 0) 0xC4 else s

end Sys2Proof.Machine
end

