-- ==== Sys2Proof/Machine/Operands.lean ====
section
/-! DEFINITION. The fields of a stroke (R66), its operand fields (R67), the values that R68 allows, and the slots that its
operands reach (R47, R51, R55). -/

namespace Sys2Proof.Machine

/-- An operand field (R67). -/
structure Operand where
  raw : Nat
  buf : Nat
  rel : Bool
  off : Nat
deriving DecidableEq, Repr

/-- A stroke by its fields (R66). -/
structure Stroke where
  op : Nat
  amask : Nat
  modf : Nat
  srcA : Operand
  srcB : Operand
  dst : Operand
  imm : Nat
  cnt : Nat
  fmt : Nat
  aux : Nat
  rsv : Nat
deriving DecidableEq, Repr

/-- The operand field in 16 bits (R67). -/
def operandOf (v : Nat) : Operand := ⟨v, bitsAt v 11 5, bitSet v 10, bitsAt v 0 10⟩

/-- The fields of a stroke-memory word (R66). -/
def strokeOf (w : BitVec 128) : Stroke :=
  let v := w.toNat
  { op := bitsAt v 120 8, amask := bitsAt v 116 4, modf := bitsAt v 112 4, srcA := operandOf (bitsAt v 96 16),
    srcB := operandOf (bitsAt v 80 16), dst := operandOf (bitsAt v 64 16), imm := bitsAt v 48 16, cnt := bitsAt v 32 16,
    fmt := bitsAt v 24 8, aux := bitsAt v 16 8, rsv := bitsAt v 0 16 }

def Stroke.bank (k : Stroke) : Nat := bitsAt k.modf 2 1
/-- INIT of MMA, AXIS of REDUCE (R66). -/
def Stroke.low (k : Stroke) : Nat := k.modf % 4

/-- Arrays that AMASK names, ascending. -/
def Stroke.arrays (k : Stroke) : List Nat := (List.range 4).filter (bitSet k.amask)

/-- Opcodes (R68). -/
def opNop : Nat := 0x00
def opMma : Nat := 0x10
def opPreload : Nat := 0x11
def opDrain : Nat := 0x12
def opCtbl : Nat := 0x13
def opVop : Nat := 0x20
def opFunc : Nat := 0x21
def opReduce : Nat := 0x22
def opCvt : Nat := 0x23
def opSignpack : Nat := 0x24
def opEmit : Nat := 0x30
def opRelease : Nat := 0x31
def opCopy : Nat := 0x32

/-- A DRAIN with rescale, a VOP with a second operand. -/
def Stroke.rescale (k : Stroke) : Bool := k.op == opDrain && bitSet k.aux 0
def Stroke.isScale (k : Stroke) : Bool := k.op == opVop && k.aux == 5

/-- Which operand fields a stroke uses (R68's Uses column). -/
def Stroke.usesA (k : Stroke) : Bool :=
  [opMma, opPreload, opCtbl, opVop, opFunc, opReduce, opCvt, opSignpack, opEmit, opRelease, opCopy].contains k.op
def Stroke.usesB (k : Stroke) : Bool := k.op == opMma || k.rescale || (k.op == opVop && !k.isScale)
def Stroke.usesDst (k : Stroke) : Bool :=
  [opDrain, opVop, opFunc, opReduce, opCvt, opSignpack, opCopy].contains k.op

/-- Group size of a sharing mode (R45). -/
def groupSize (mode : Nat) : Nat :=
  match mode with
  | 1 | 3 => 2
  | 2 | 4 => 4
  | _ => 1

/-- Whether the mask covers whole groups of the mode (R46). DESIGN CHOICE: AMASK 0 on a stroke that uses arrays splits no group, so the stroke
is valid and acts on no array (log entry 126). -/
def maskOk (mode mask : Nat) : Bool :=
  match groupSize mode with
  | 2 => (mask % 4 == 0 || mask % 4 == 3) && (mask / 4 == 0 || mask / 4 == 3)
  | 4 => mask == 0 || mask == 15
  | _ => true

/-- Slots that operand A of an MMA reaches for the array at position g of its group, one per k-step (R47): the shared
operand is B in modes 1 and 2, A in modes 3 and 4, and both follow the step in mode 0. -/
def mmaSlotsA (mode g off cnt : Nat) : List Nat :=
  (List.range cnt).map fun s => if mode = 1 ∨ mode = 2 then off + s * groupSize mode + g else off + s

def mmaSlotsB (mode g off cnt : Nat) : List Nat :=
  (List.range cnt).map fun s => if mode = 3 ∨ mode = 4 then off + s * groupSize mode + g else off + s

/-- How many slots each operand field of a stroke reaches past its OFFSET (R67). -/
def spanA (mode : Nat) (k : Stroke) : Nat :=
  if k.op = opMma then (if mode = 1 ∨ mode = 2 then k.cnt * groupSize mode else k.cnt) else 1
def spanB (mode : Nat) (k : Stroke) : Nat :=
  if k.op = opMma then (if mode = 3 ∨ mode = 4 then k.cnt * groupSize mode else k.cnt) else 1
def spanDst (k : Stroke) : Nat := if k.op = opDrain then k.arrays.length else 1

/-- A used operand field names a defined buffer and stays inside it (R55, R67). -/
def operandIn (bufs : SMap Buffer) (o : Operand) (span : Nat) : Bool :=
  match mapFind bufs o.buf with
  | some b => o.buf != 31 && decide (o.off + span ≤ b.slots)
  | none => false

/-- An operand field that is not used holds buffer 31 with REL and OFFSET zero (R55). -/
def operandOut (o : Operand) : Bool := o.raw == 0xF800

/-- FMT values that a stroke's opcode defines (R66, R68, R69, R99). An MMA's FMT is judged by R42 instead. DEDUCED: an opcode to which the spec
gives no FMT (NOP, PRELOAD, CTBL, EMIT, RELEASE, COPY) defines the value 0 alone (log entry 126). -/
def fmtDefined (k : Stroke) : Bool :=
  if k.op = opMma then true
  else if k.op = opDrain ∨ k.op = opCvt then (dataLines k.fmt).isSome && k.fmt != 0x08 && k.fmt != 0x30
  else if k.op = opVop ∨ k.op = opFunc ∨ k.op = opReduce ∨ k.op = opSignpack then k.fmt == 0x10 || k.fmt == 0x11
  else k.fmt == 0

/-- Whether every field of a stroke holds a value that R66 to R68 define for its opcode on a tile. `cvtContour` says that
the stroke is a CVT whose source is Contour-4 (R94); `ftab` which function tables are loaded, `routes` which routes are
defined. -/
def fieldsOk (mode : Nat) (bufs : SMap Buffer) (ftab : Nat → Bool) (routes : Nat → Bool) (cvtContour : Bool)
    (k : Stroke) : Bool :=
  let arrayOp := [opMma, opPreload, opDrain, opCtbl].contains k.op
  [opNop, opMma, opPreload, opDrain, opCtbl, opVop, opFunc, opReduce, opCvt, opSignpack, opEmit, opRelease,
    opCopy].contains k.op &&
  -- AUX
  (if k.op = opMma then decide (k.aux ≤ 2)
   else if k.op = opPreload ∨ k.op = opDrain ∨ k.op = opReduce then decide (k.aux ≤ 1)
   else if k.op = opVop then decide (k.aux ≤ 5)
   else if k.op = opFunc then decide (k.aux ≤ 7) && ftab k.aux
   else k.aux == 0) &&
  -- MOD
  !bitSet k.modf 3 &&
  (if k.op = opMma ∨ k.op = opReduce then decide (k.low ≤ 1) else k.low == 0) &&
  (k.bank == 0 || k.op == opMma || k.op == opPreload || k.op == opDrain) &&
  -- AMASK
  (if arrayOp then maskOk mode k.amask
   else if cvtContour then decide (k.arrays.length = 1)
   else k.amask == 0) &&
  -- CNT, IMM16, reserved bits, FMT
  (if k.op = opMma then decide (1 ≤ k.cnt) && decide (k.cnt ≤ 1024) else k.cnt == 0) &&
  (if k.rescale then decide (k.imm < 32)
   else if k.isScale then true
   else if k.op = opEmit then routes k.imm
   else k.imm == 0) &&
  k.rsv == 0 && fmtDefined k &&
  -- operands
  (if k.usesA then operandIn bufs k.srcA (spanA mode k) else operandOut k.srcA) &&
  (if k.usesB then operandIn bufs k.srcB (spanB mode k) else operandOut k.srcB) &&
  (if k.usesDst then operandIn bufs k.dst (spanDst k) && !k.dst.rel else operandOut k.dst)

/-- The ring index of the slot at an offset: from the consume head of a streaming buffer, from slot 0 of a resident one
(R55, R67). -/
def slotAt (b : Buffer) (off : Nat) : Nat := if b.resident then off else (b.head + off) % max 1 b.slots

/-- The slot that an operand field reaches `d` slots on: (buffer, ring index). -/
def reach (t : Tile) (o : Operand) (d : Nat) : Nat × Nat :=
  (o.buf, match mapFind t.buffers o.buf with | some b => slotAt b (o.off + d) | none => 0)

/-- What a slot holds, when it is not free. -/
def slotOf (t : Tile) (bs : Nat × Nat) : Option TSlot := (mapFind t.buffers bs.1).bind fun b => mapFind b.ring bs.2

/-- The sheet of a slot that is present. -/
def presentSheet (t : Tile) (bs : Nat × Nat) : Option Sheet :=
  (slotOf t bs).bind fun x => if x.st = .present then some x.sheet else none

end Sys2Proof.Machine
end

