-- ==== Sys2Proof/Machine/Residue.lean ====
section
/-! DEFINITION. Residues modulo 127 and the checks that they carry (R442 to R445). -/

namespace Sys2Proof.Machine

/-- The residue of an integer, in [0, 127) for a negative one as well (R442). -/
def res127 (v : Int) : Nat := (v % 127).toNat

/-- The residue of a finite floating-point value m × 2^x at the reference exponent `e`: that of m × 2^(x - e). A shift by s bits multiplies a
residue by 2^(s mod 7), so an exponent below `e` needs no fraction (R442). -/
def resAt (e : Int) : ExNum → Nat
  | .fin n m x => res127 ((if n then -1 else 1) * ((m % 127 * 2 ^ ((x - e) % 7).toNat : Nat) : Int))
  | _ => 0

/-- The residue of a product (R442). -/
def resMul (a b : Nat) : Nat := a * b % 127

/-- The residue of a group sum: the sum of its products' residues (R442). -/
def resSum (rs : List Nat) : Nat := rs.sum % 127

/-- The residue of a group of integer products from the residues of the operands as they were fetched (R442). -/
def resGroup (ps : List (Int × Int)) : Nat := resSum (ps.map fun p => resMul (res127 p.1) (res127 p.2))

/-- The running residue of an INT8 cell through one k-step, group by group (R443). -/
def resCell (g : Nat) (xs ys : List Int) (r : Nat) : Nat := (pieces g (xs.zip ys)).foldl (fun r ps => resSum [r, resGroup ps]) r

/-- The check of a group sum G of floating-point products with discarded part D, at exponent `e`: the residues of the operands, each at its
own reference exponent 0, give those of the products (R444). -/
def groupPasses (e : Int) (ps : List (ExNum × ExNum)) (g d : ExNum) : Bool :=
  resSum [resAt e g, resAt e d] == resSum (ps.map fun p => resMul (resAt 0 p.1) (resAt e p.2))

/-- The check of an addition: old accumulator A, group sum G, stored result S, discarded or added part D, all at the exponent of the least
significant bit of the exact sum (R444). -/
def additionPasses (e : Int) (a g s d : ExNum) : Bool := resSum [resAt e a, resAt e g] == resSum [resAt e s, resAt e d]

/-- The exponent at which two values are integers. -/
def commonExp (x y : ExNum) : Int := min x.mag.2 y.mag.2

/-- Whether a value that has become `y` in place of `x`, everything else in its check unchanged, fails the check (R444, R445): the residues
differ at the check's reference exponent, or one of them is special, a decision that is computed twice. -/
def upsetSeen (x y : ExNum) : Bool :=
  match x, y with
  | .fin .., .fin .. => resAt (commonExp x y) x != resAt (commonExp x y) y
  | _, _ => x != y

end Sys2Proof.Machine
end

