-- ==== Sys2Proof/Machine/Vector.lean ====
section
/-! DEFINITION. What the vector unit computes (R58 to R60, R68, R108 to R112) and what the arrays compute (R41, R47, R48,
R50, R51, R100 to R107). -/

namespace Sys2Proof.Machine

/-- One rounding into the working format FP32 or BF16 (R96, R108). -/
def roundWork (f : Nat) (x : ExNum) : ExNum := if f = 0x10 then bf16Val (bf16Code x) else fp32Val (fp32Code x)

/-! Function tables. -/

/-- The table value at u for a table over [lo, hi) (R58): v[i] + s[i] × (u - lo - i × w), with w = (hi - lo) / 1,024 and
i = floor((u - lo) / w), found as the last entry that starts at or below u. -/
def tableAt (t : FTab) (lo w u : ExNum) : ExNum :=
  let d := u.sub lo
  let i := ((List.range 1024).filter fun i => !ExNum.ltv d (w.mul (.ofInt (i : Int)))).length - 1
  let e := t.entries.getD i (0, 0)
  (fp32Val e.1).add ((fp32Val e.2).mul (d.sub (w.mul (.ofInt (i : Int)))))

/-- A tail rule of a RANGE table (R59): 0 CLAMP, 1 ZERO, 2 IDENTITY in the codes of R164. -/
def tailAt (rule : Nat) (clamp x : ExNum) : ExNum :=
  match rule with
  | 0 => clamp
  | 1 => .zero
  | _ => x

/-- FUNC on one element (R58 to R60), before its rounding. -/
def funcVal (t : FTab) (x : ExNum) : ExNum :=
  match t.kind with
  | 0 =>
    let lo := fp32Val t.lo
    let hi := fp32Val t.hi
    let w := (hi.sub lo).shift (-10)
    let e0 := t.entries.getD 0 (0, 0)
    let e1 := t.entries.getD 1023 (0, 0)
    let low := tailAt t.lowTail (fp32Val e0.1) x
    let high := tailAt t.highTail ((fp32Val e1.1).add ((fp32Val e1.2).mul w)) x
    match x with
    | .nan => .nan
    | .inf n => if n then low else high
    | x => if ExNum.ltv x lo then low else if ExNum.ltv x hi then tableAt t lo w x else high
  | 1 =>
    match x with
    | .nan => .nan
    | .inf n => if n then .zero else .inf false
    | .fin n m e =>
      if m = 0 then .ofInt 1
      else
        let y := ExNum.mul (.fin n m e) log2e
        let k := y.floor
        (tableAt t .zero (.ofIntExp 1 (-10)) (y.sub (.ofInt k))).shift k
  | 2 =>
    match x with
    | .nan => .nan
    | .inf n => if n then .nan else .inf false
    | .fin n m e =>
      if m = 0 then .inf true
      else if n then .nan
      else
        let k := ExNum.log2 (.fin false m e)
        (ln2.mul (.ofInt k)).add (tableAt t (.ofInt 1) (.ofIntExp 1 (-10)) (ExNum.shift (.fin false m e) (-k)))
  | _ =>
    match x with
    | .nan => .nan
    | .inf n => if n then .nan else .zero
    | .fin n m e =>
      if m = 0 then .inf n
      else if n then .nan
      else
        let k := ExNum.log2 (.fin false m e) / 2
        (tableAt t (.ofInt 1) (.ofIntExp 3 (-10)) (ExNum.shift (.fin false m e) (-2 * k))).shift (-k)

/-- VOP on one pair (R68). -/
def vopVal (aux : Nat) (x y : ExNum) : ExNum :=
  match aux with
  | 0 => x.add y
  | 1 => x.sub y
  | 3 => ExNum.maxN x y
  | 4 => ExNum.minN x y
  | _ => x.mul y

/-- The fixed pairwise tree of REDUCE SUM, rounding at each addition (R108); neighbours pair up. -/
def pairSum (f : Nat) : Nat → List ExNum → ExNum
  | 0, xs => xs.headD .zero
  | k + 1, xs =>
    match xs with
    | [] => .zero
    | [x] => x
    | xs => pairSum f k ((pieces 2 xs).map fun p => roundWork f ((p.headD .zero).add (p.getD 1 .zero)))

/-- REDUCE over a list of elements (R68, R109). -/
def reduceVal (f aux : Nat) (xs : List ExNum) : ExNum :=
  if aux = 0 then pairSum f 10 xs else xs.foldl ExNum.maxN .nan

/-- A result of the vector unit: format, shape, VALID, scales, data, and whether a NaN was produced (R65, R98). -/
structure VecOut where
  format : Nat
  shape : Nat
  valid : Nat
  scales : Bytes
  data : Bytes
  nan : Bool

/-- Whether converting these values into `f` meets a NaN that the integer formats lose (R98). -/
def intNan (f : Nat) (xs : List ExNum) : Bool := (f == 0x01 || f == 0x20) && xs.any ExNum.isNan

/-- Result of a stroke that gives one value per element, rounded once into the working format. -/
def vecResult (k : Stroke) (a : Sheet) (shape valid : Nat) (xs : List ExNum) (made : Bool) : VecOut :=
  let (sc, d) := encodeVals k.fmt [] xs
  { format := k.fmt, shape := if shape = 2 then a.shape.toNat else shape, valid := valid, scales := sc, data := d,
    nan := made }

/-- VOP (R68, R108). A NaN counts as produced when no operand element is one (R65). -/
def vopOut (k : Stroke) (a b : Sheet) : VecOut :=
  let xs := sheetVals a
  let ys := if k.isScale then List.replicate 1024 (bf16Val (BitVec.ofNat 16 k.imm)) else sheetVals b
  let ps := xs.zip ys
  let rs := ps.map fun p => vopVal k.aux p.1 p.2
  let made := (ps.zip rs).any fun q => q.2.isNan && !q.1.1.isNan && !q.1.2.isNan
  vecResult k a 2 a.valid.toNat rs made

/-- FUNC (R58). -/
def funcOut (k : Stroke) (t : FTab) (a : Sheet) : VecOut :=
  let xs := sheetVals a
  let rs := xs.map (funcVal t)
  vecResult k a 2 a.valid.toNat rs ((xs.zip rs).any fun q => q.2.isNan && !q.1.isNan)

/-- REDUCE (R68). -/
def reduceOut (k : Stroke) (a : Sheet) : VecOut :=
  let xs := sheetVals a
  let groups := if k.low = 0 then (List.range 32).map (fun r => (xs.drop (32 * r)).take 32) else [xs]
  let rs := groups.map fun g => (reduceVal k.fmt k.aux g, g.any ExNum.isNan)
  let vals := rs.map (·.1) ++ List.replicate (1024 - rs.length) ExNum.zero
  let v := a.valid.toNat
  let valid := if k.low = 0 then (if a.shape = 0 then v else ceilDiv v 32) else 1
  vecResult k a 1 valid vals (rs.any fun r => r.1.isNan && !r.2)

/-- CVT (R68, R94): a Contour-4 source decodes through `grid`. -/
def cvtOut (k : Stroke) (grid : List (BitVec 16)) (a : Sheet) : VecOut :=
  let xs := sheetVals a grid
  vecResult k a 2 a.valid.toNat xs (intNan k.fmt xs)

/-- SIGNPACK (R112). -/
def signpackOut (a : Sheet) : VecOut :=
  let bits := (sheetVals a).map fun x => match x with
    | .inf n => if n then 0 else 1
    | .fin false m _ => if m = 0 then 0 else 1
    | _ => 0
  let v := a.valid.toNat
  { format := 0x30, shape := 1, valid := if a.shape = 0 then 32 * v else v, scales := zeros 32, data := pack 0x30 bits,
    nan := false }

/-! The arrays. -/

/-- Formats that the arrays accept (R42). -/
def arrayFormat (f : Nat) : Bool := (decide (1 ≤ f) && decide (f ≤ 8)) || f == 0x10

/-- Cycles per k-step (R42). -/
def kstepCycles (f : Nat) : Nat := if f = 0x07 ∨ f = 0x08 then 16 else if f = 0x10 then 128 else 32

/-- G_add (R68). -/
def gAdd (aux : Nat) : Nat := 4 * 2 ^ (aux % 4)

/-- One element of an INT8 chain: the sum with saturation, and whether it saturated (R100). -/
def satSum (acc v : Int) : Int × Bool :=
  if 2 ^ 31 - 1 < acc + v then (2 ^ 31 - 1, true)
  else if acc + v < -(2 ^ 31) then (-(2 ^ 31), true)
  else (acc + v, false)

/-- The exact sum of one value or more; a sum of nothing but -0 is -0 (R110). -/
def exactSum : List ExNum → ExNum
  | [] => .zero
  | x :: xs => xs.foldl ExNum.add x

/-- The exact fixed-point sum of a group's products (R102, R110): for BF16 what lies more than 48 bits below the largest product's leading bit
is cut off towards zero. -/
def groupSum (bf16 : Bool) (ps : List ExNum) : ExNum :=
  if ps.any (fun p => match p with | .fin .. => false | _ => true) then exactSum ps
  else
    let top := maxMag ps
    let cut (p : ExNum) : ExNum :=
      match p with
      | .fin n m e =>
        let q := top.log2 - 48
        if top.isZero || decide (q ≤ e) then p else .fin n (ExNum.truncTo m e q) q
      | p => p
    exactSum (if bf16 then ps.map cut else ps)

/-- An FP32 accumulator's cell, its NaN mark (R65) and the draw number, through one k-step of row `xs` and column `ys`.
`free` gives the product of a pair whose grid breaks R91 (log entry 2). -/
def fpCell (bf16 : Bool) (g : Nat) (free : Nat → Option ExNum) (k0 : Nat) (xs ys : List ExNum) (acc : BitVec 32) :
    BitVec 32 × Bool :=
  ((pieces g (xs.zip ys)).zipIdx).foldl (fun (st : BitVec 32 × Bool) grp =>
    let prods := grp.1.mapIdx fun i p => (free (k0 + g * grp.2 + i)).getD (p.1.mul p.2)
    let passed := grp.1.any fun p => p.1.isNan || p.2.isNan
    let old := fp32Val st.1
    let r := (Config.stochastic (k0 + grp.2)).toNat
    let new := fp32Exact (ExNum.stochastic (old.add (groupSum bf16 prods)) r)
    (new, st.2 || ((fp32Val new).isNan && !old.isNan && !passed))) (acc, false)

/-- An INT8 cell through one k-step (R41, R48, R100). -/
def intCell (g : Nat) (xs ys : List Int) (acc : BitVec 32) (sat : Bool) : BitVec 32 × Bool :=
  (pieces g (xs.zip ys)).foldl (fun (st : BitVec 32 × Bool) grp =>
    let s := satSum (signedOf 32 st.1.toNat) ((grp.map fun p => p.1 * p.2).sum)
    (BitVec.ofNat 32 (twos 32 s.1), st.2 || s.2)) (acc, sat)

/-- A bank whose cells all hold 0 (R104). -/
def Bank.cleared : Bank := ⟨List.replicate 1024 0, List.replicate 1024 false, List.replicate 1024 0, none, false⟩

/-- INT8 elements of a sheet. -/
def intVals (s : Sheet) : List Int := (unpack 0x01 s.data).map (signedOf 8)

/-- Row r of 1,024 values. -/
def row (xs : List α) (r : Nat) : List α := (xs.drop (32 * r)).take 32

/-- How many draws one k-step of one array uses: 1,024 cells of 32 numbers, and as many again for free products. -/
def drawsPerStep : Nat := 65536

/-- One k-step of one array (R41). `tables` are the Contour-4 grids; a grid that breaks R91 makes every product free
(R91), and an array with none reads every code as zero (R44). -/
def kstep (f aux : Nat) (tables : Option (List (BitVec 16) × List (BitVec 16))) (k0 : Nat) (a b : Sheet) (bk : Bank) :
    Bank :=
  if f = 0x01 then
    let xs := intVals a
    let ys := intVals b
    let out := (List.range 1024).map fun c =>
      intCell (gAdd aux) (row xs (c / 32)) (row ys (c % 32)) (bk.cells.getD c 0) (bk.sats.getD c false)
    let res := (List.range 1024).map fun c => resCell (gAdd aux) (row xs (c / 32)) (row ys (c % 32)) (bk.res.getD c 0)
    { bk with cells := out.map (·.1), sats := out.map (·.2), res := res }
  else
    let zeroGrid : List (BitVec 16) := List.replicate 16 0
    let (ga, gb) := tables.getD (zeroGrid, zeroGrid)
    let bad := f == 0x08 && tables.isSome && (!gridOk ga || !gridOk gb)
    let xs := sheetVals a ga
    let ys := sheetVals b gb
    let free (k : Nat) : Option ExNum := if bad then some (fp32Val (Config.gridProduct k)) else none
    let out := (List.range 1024).map fun c =>
      fpCell (f == 0x10) (gAdd aux) free (k0 + 32 * c) (row xs (c / 32)) (row ys (c % 32)) (bk.cells.getD c 0)
    { bk with cells := out.map (·.1), nanMade := bk.nanMade || out.any (·.2) }

/-- The k-steps of one MMA on one array, its operand sheets in step order. -/
def ksteps (f aux : Nat) (tables : Option (List (BitVec 16) × List (BitVec 16))) (k0 : Nat) (ops : List (Sheet × Sheet))
    (bk : Bank) : Bank :=
  (ops.zipIdx).foldl (fun bk p => kstep f aux tables (k0 + drawsPerStep * p.2) p.1.1 p.1.2 bk) bk

/-- The accumulator kind that a preload source opens (R49, R50): some true for FP32, some false for INT32. -/
def preloadKind (f : Nat) : Option Bool :=
  match f with
  | 0x20 => some false
  | 0x10 => some true
  | 0x11 => some true
  | _ => none

/-- PRELOAD's cells (R50): BIAS gives element j to column j of every row, RESIDUAL element (i, j) to cell (i, j). DESIGN CHOICE: the source's
SHAPE is not checked, as R50 gives a wrong one no effect (log entry 126). -/
def preloadCells (aux : Nat) (a : Sheet) : List (BitVec 32) :=
  let f := a.format.toNat
  let codes := (unpack f a.data).map fun c =>
    if f = 0x10 then BitVec.ofNat 32 (c * 65536) else BitVec.ofNat 32 c
  (List.range 1024).map fun c => codes.getD (if aux % 2 = 0 then c % 32 else c) 0

/-- A preloaded bank: each running residue is set from the source value (R443). -/
def preloadBank (aux : Nat) (a : Sheet) : Bank :=
  let cells := preloadCells aux a
  { Bank.cleared with cells := cells, res := cells.map fun c => res127 (signedOf 32 c.toNat) }

/-- The check of DRAIN on an INT8 chain: the running residue of every cell that has not saturated against the value there (R101, R443). -/
def residuesAgree (bk : Bank) : Bool :=
  (List.range 1024).all fun c => bk.sats.getD c false || bk.res.getD c 0 == res127 (signedOf 32 (bk.cells.getD c 0).toNat)

/-- An accumulator's value. -/
def accVal (fp : Bool) (c : BitVec 32) : ExNum := if fp then fp32Val c else .ofInt (signedOf 32 c.toNat)

/-- DRAIN of one array (R51, R106, R107): with a rescale table, a × SCALE + SHIFT rounded once; without, the value itself, an FP32 accumulator
to FP32 bit by bit, so that a NaN of a PRELOAD source keeps its payload (DEDUCED: R107's copy against R111; log entry 127). The raw entries of
the table are read whatever its header says (R105). -/
def drainOut (k : Stroke) (fp : Bool) (table : Option Sheet) (bk : Bank) : VecOut :=
  let accs := bk.cells.map (accVal fp)
  let entries := table.map fun t => (List.range 32).map fun j => BitVec.ofNat 32 (u32 t.data (4 * (k.imm * 32 + j)))
  let vals := match entries with
    | none => accs
    | some es => accs.mapIdx fun c a =>
        let e := (es.getD (c % 32) 0).toNat
        (a.mul (fp32Val (BitVec.ofNat 32 (e / 256 * 256)))).add (.ofInt (signedOf 8 e))
  let fresh := match entries with
    | none => false
    | some es => (vals.zip accs).zipIdx.any fun q =>
        q.1.1.isNan && !q.1.2.isNan && !(fp32Val (BitVec.ofNat 32 ((es.getD (q.2 % 32) 0).toNat / 256 * 256))).isNan
  let (sc, d) := if table.isNone && fp && k.fmt == 0x11 then (zeros 32, pack 0x11 (bk.cells.map (·.toNat))) else encodeVals k.fmt [] vals
  { format := k.fmt, shape := 0, valid := 0, scales := sc, data := d,
    nan := intNan k.fmt vals || fresh || (bk.nanMade && accs.any ExNum.isNan) }

end Sys2Proof.Machine
end

