-- ==== Sys2Proof/Machine/StreamOps.lean ====
section
/-! DEFINITION. Credits, sending and routes (R126 to R136). -/

namespace Sys2Proof.Machine

/-- Endpoint numbers (R138). -/
def stnDecode : Nat := 0xE0
def stnLetter : Nat := 0xE1
def stnProbe : Nat := 0xE2
def stnFilter : Nat := 0xE3
def stnFeed : Nat := 0xE4
def stnShuffle : Nat := 0xE5
def stnDeliver : Nat := 0xE6
def stnPack : Nat := 0xE7
def stnAdmit : Nat := 0xF0
def stnResult : Nat := 0xF1
def stnHatch : Nat := 0xF2

/-- A producer sends only while it holds a credit, and nothing while it holds the copy of a sheet that has not been
acknowledged (R131, R136). -/
def Stream.ready (x : Stream) : Bool := x.inflight.isEmpty && x.queue.isEmpty && decide (0 < x.credits)

/-- A sheet goes out with this stream's number and next SEQ (R127), one credit spent (R131). `fresh` says that the check
value is formed from the contents (R123); otherwise it is updated from the header's change alone (R124). SUBST is never
propagated (R121). -/
def Stream.send (x : Stream) (n : Nat) (sh : Sheet) (fresh : Bool) (hold : Option (Nat × Nat × Nat)) : Stream :=
  let stream := BitVec.ofNat 16 n
  let flags := sh.flags &&& 0xB
  let out := if fresh then sealSheet { sh with stream := stream, seq := x.nextSend, flags := flags }
    else forward sh stream x.nextSend flags
  { x with inflight := x.inflight ++ [out], holds := x.holds ++ [hold], credits := x.credits - 1,
           nextSend := x.nextSend + 1, resendAsked := false, resent := false }

/-- The island boundary by which the spine sends to tile `p` (R27); [0, 544) are the tiles' own (log entry 128). -/
def tileBoundary (p : Nat) : Nat := 1024 + p

/-- Whether a transfer at a boundary awaits its acknowledge. -/
def boundaryBusy (s : State) (b : Nat) : Bool := (mapGet s.boundaries b ⟨false, 0⟩).outstanding

/-- A transfer begins at a boundary. -/
def crossBoundary (s : State) (b : Nat) : State :=
  { s with boundaries := mapPut s.boundaries b { mapGet s.boundaries b ⟨false, 0⟩ with outstanding := true } }

/-- A hard station sends the oldest sheet that it holds for stream `n` once it has a credit, no copy of an earlier sheet (R131, R136), and no
transfer into the consumer's island that is not acknowledged (R27). -/
def pumpStream (s : State) (n : Nat) : State :=
  match streamOf s n with
  | none => s
  | some x =>
    match x.queue with
    | [] => s
    | (sh, fresh) :: rest =>
      let free := (x.consTile.map fun p => !boundaryBusy s (tileBoundary p)).getD true
      if x.inflight.isEmpty && decide (0 < x.credits) && free then
        let s := setStream s n ({ x with queue := rest }.send n sh fresh none)
        match x.consTile with
        | some p => crossBoundary s (tileBoundary p)
        | none => s
      else s

/-- A hard station or endpoint outputs a sheet on module stream `n`: the header's stream and SEQ come when it is sent. A sheet of new data
takes a fresh check value then (R123); a forwarded one keeps its own, updated (R124). -/
def emitOut (s : State) (n : Nat) (sh : Sheet) (fresh : Bool := true) : State :=
  pumpStream (updStream s n fun x => { x with queue := x.queue ++ [(sh, fresh)] }) n

/-- Several sheets, in order. -/
def emitAll (s : State) (n : Nat) (shs : List Sheet) : State := shs.foldl (fun s sh => emitOut s n sh) s

/-- Whether station `stn` of context `c` holds output for a stream that cannot take it (R133, R149). -/
def stationBlocked (s : State) (stn c : Nat) : Bool :=
  s.streams.any fun p => p.2.prod == stn && p.2.ctx == c && !p.2.queue.isEmpty

/-- A consumer has freed `k` slots of stream `n`: its credits start on their way back (R131, R134). A hard station whose own
outputs are blocked keeps them (R133); its sheets then stay present (R148). -/
def freeSlots (s : State) (n k : Nat) : State :=
  match streamOf s n with
  | none => s
  | some x =>
    let blocked := decide (0xE0 ≤ x.cons) && stationBlocked s x.cons x.ctx
    updStream s n fun x =>
      if blocked then { x with owed := x.owed + k } else { x with returning := x.returning + k, present := x.present - k }

/-- Credits that station `stn` of context `c` kept go back once nothing blocks it. -/
def releaseOwed (s : State) (stn c : Nat) : State :=
  if stationBlocked s stn c then s
  else { s with streams := mapAll s.streams fun _ x =>
    if x.cons == stn && x.ctx == c then { x with returning := x.returning + x.owed, present := x.present - x.owed, owed := 0 } else x }

/-- The streams that an EMIT on a route sends to (R128), and the route after it. -/
def routeTargets (r : Route) (batch : Nat) : List Nat × Route :=
  match r.selector with
  | .single => (r.streams.take 1, r)
  | .broadcast => (r.streams, r)
  | .byTag => ((r.streams[batch % max 1 r.streams.length]?).toList, r)
  | .rotate =>
    let sent := r.sent + 1
    let next := if r.group ≤ sent then { r with pos := (r.pos + 1) % max 1 r.streams.length, sent := 0 }
      else { r with sent := sent }
    ((r.streams[r.pos]?).toList, next)

/-- Batch number and context of a TAG (R118). -/
def tagBatch (t : BitVec 32) : Nat := t.toNat % 2 ^ 28
def tagCtx (t : BitVec 32) : Nat := t.toNat / 2 ^ 28
def tagOf (c b : Nat) : BitVec 32 := BitVec.ofNat 32 (c * 2 ^ 28 + b % 2 ^ 28)

/-- A batch number from the context's counter (R145). -/
def newBatch (s : State) (c : Nat) : Nat × State :=
  let x := ctxOf s c
  (x.batchCtr, setCtx s c { x with batchCtr := (x.batchCtr + 1) % 2 ^ 28 })

/-- The module stream of a context's local stream number. -/
def localStream (s : State) (c l : Nat) : Option Nat :=
  (s.streams.find? fun p => p.2.ctx == c && p.2.localNo == l).map (·.1)

/-- Output on a context's local stream; nothing when it is not defined. -/
def emitLocal (s : State) (c l : Nat) (sh : Sheet) (fresh : Bool := true) : State :=
  match localStream s c l with
  | some n => emitOut s n sh fresh
  | none => s

/-- A sheet of given contents with padding as R120 says, before its stream's number and SEQ are known. -/
def mkSheet (f shape valid : Nat) (flags : BitVec 16) (tag : BitVec 32) (origin : BitVec 64)
    (grid : Option (List (BitVec 16))) (scales data : Bytes) : Sheet :=
  padSheet
    { stream := 0, format := BitVec.ofNat 8 f, shape := BitVec.ofNat 8 shape, seq := 0, flags := flags,
      valid := BitVec.ofNat 16 valid, tag := tag, origin := origin, check := 0, scales := padTo scales 32,
      data := padTo data (64 * (dataLines f).getD 0) } grid

/-- A vector sheet of up to 1,024 INT32 words. -/
def wordSheet (words : List Nat) (flags : BitVec 16) (tag : BitVec 32) (origin : BitVec 64) : Sheet :=
  mkSheet 0x20 1 words.length flags tag origin none [] (words.flatMap (leBytes 4))

end Sys2Proof.Machine
end

