-- ==== Sys2Proof/Machine/TileOps.lean ====
section
/-! DEFINITION. What the strokes share on a tile: the head stroke, the issue rule (R61), release (R62), residue repeats
(R63), boundaries (R64), faults (R78). -/

namespace Sys2Proof.Machine

/-- Bits of TILE_FAULT (R78). -/
def faultResidue : Nat := 0
def faultStrokeUe : Nat := 1
def faultFormat : Nat := 2
def faultBadStroke : Nat := 3
def faultStoreUe : Nat := 4
def faultCanary : Nat := 5
def faultHandshake : Nat := 6

/-- A fault cause is recorded; one that halts moves the tile to FAULT (R71, R78). -/
def tileFault (t : Tile) (bit : Nat) (halts : Bool) : Tile :=
  let t := { t with faults := t.faults ||| BitVec.ofNat 7 (2 ^ bit) }
  if halts && t.st != .off && t.st != .retired then { t with st := .fault, testBusy := false } else t

/-- A record about a tile (R461 kind 0). -/
def tileRec (s : State) (p : Nat) (cls : ErrClass) (op addr a : Nat) (poison : Bool := false) : State :=
  let t := tileOf s p
  recordErr s { cls := cls, unitKind := 0, unit := p, op := op, ctx := if t.placed then t.context else 0xFF,
                station := t.station, address := addr, detailA := a, poisonMade := poison }

/-- A halting fault with its record. -/
def haltTile (s : State) (p bit : Nat) (cls : ErrClass) (op addr a : Nat) : State :=
  tileRec (updTile s p fun t => tileFault t bit true) p cls op addr a

/-- The stroke at the head of issue slot `n` and its address, while the slot runs a list. -/
def headStroke (t : Tile) (n : Nat) : Option (IssueSlot × Stroke × BitVec 128) :=
  (mapFind t.islots n).bind fun i => (t.strokes[i.pc]?).map fun w => (i, strokeOf w, w)

/-- The list that an issue slot runs after list `e`: the next in ascending entry order among its own, then the first again
(R163). -/
def nextList (t : Tile) (n e : Nat) : Option (Nat × ListEntry) :=
  let mine := t.lists.filter fun p => p.2.islot == n
  match mine.find? fun p => decide (e < p.1) with
  | some p => some p
  | none => mine.head?

/-- The issue slot moves to the next stroke of its list, or to the first of its next list (R61, R163). -/
def advance (t : Tile) (n : Nat) (i : IssueSlot) : Tile :=
  match mapFind t.lists i.list with
  | some l =>
    let at' : IssueSlot :=
      if i.pc = l.last then ((nextList t n i.list).map fun p => (⟨p.1, p.2.first⟩ : IssueSlot)).getD i
      else { i with pc := i.pc + 1 }
    { t with islots := mapPut t.islots n at' }
  | none => t

/-- A stroke has issued: the count and the program counter. -/
def issued (t : Tile) (n : Nat) (i : IssueSlot) : Tile :=
  { advance t n i with counts.issued := satAdd (ones 64) t.counts.issued 1 }

/-! Busy units. -/

/-- Whether arrays, (array, bank) pairs or the vector unit are busy (R61). -/
def arraysBusy (t : Tile) (as : List Nat) : Bool := t.exec.any fun e => e.arrays.any as.contains
def banksBusy (t : Tile) (bs : List Nat) : Bool := t.exec.any fun e => e.banks.any bs.contains
def vectorBusy (t : Tile) : Bool := t.exec.any (·.vector)

/-- Whether a unit that a stroke needs is busy (R61). -/
def unitsBusy (t : Tile) (k : Stroke) : Bool :=
  let banks := k.arrays.map fun a => 2 * a + k.bank
  if k.op = opMma then arraysBusy t k.arrays || banksBusy t banks
  else if k.op = opPreload then banksBusy t banks
  else if k.op = opDrain then banksBusy t banks || vectorBusy t
  else if k.op = opCtbl then arraysBusy t k.arrays
  else if [opVop, opFunc, opReduce, opCvt, opSignpack].contains k.op then vectorBusy t
  else false

/-- A stroke boundary: nothing executes in an array, a bank or the vector unit (R64). -/
def atBoundary (t : Tile) : Bool := t.exec.all fun e => e.arrays.isEmpty && e.banks.isEmpty && !e.vector

/-- The pending operating point takes effect (R64, R74). -/
def applyChange (t : Tile) : Tile :=
  match t.change with
  | some (f, v) => { t with freq := f, vofs := v, change := none }
  | none => t

/-- RUN_FREQ under the cap of R514, at a boundary. -/
def settle (s : State) (p : Nat) : State := updTile s p fun t => let t := applyChange t; { t with runFreq := min t.freq s.power.freqCap }

/-- The banks that a stroke names: array × 2 + bank. -/
def Stroke.bankKeys (k : Stroke) : List Nat := k.arrays.map fun a => 2 * a + k.bank

def bankOf (t : Tile) (key : Nat) : Bank := mapGet t.banks key Bank.cleared

/-- Every operand slot of a stroke, by (buffer, slot): the slots for A and for B of the array at position g (R47). -/
def slotsA (t : Tile) (k : Stroke) (g : Nat) : List (Nat × Nat) :=
  if k.op = opMma then (mmaSlotsA t.mode g k.srcA.off k.cnt).map fun o => reach t { k.srcA with off := o } 0
  else if k.usesA then [reach t k.srcA 0] else []
def slotsB (t : Tile) (k : Stroke) (g : Nat) : List (Nat × Nat) :=
  if k.op = opMma then (mmaSlotsB t.mode g k.srcB.off k.cnt).map fun o => reach t { k.srcB with off := o } 0
  else if k.usesB then [reach t k.srcB 0] else []

/-- The position of an array in its group (R47). -/
def groupPos (t : Tile) (a : Nat) : Nat := a % groupSize t.mode

/-- All operand slots of a stroke. -/
def operandSlots (t : Tile) (k : Stroke) : List (Nat × Nat) :=
  if k.op = opMma then k.arrays.flatMap fun a => slotsA t k (groupPos t a) ++ slotsB t k (groupPos t a)
  else slotsA t k 0 ++ slotsB t k 0

/-- All destination slots of a stroke. -/
def destSlots (t : Tile) (k : Stroke) : List (Nat × Nat) :=
  if k.usesDst then (List.range (spanDst k)).map fun g => reach t k.dst g else []

def operandsPresent (t : Tile) (k : Stroke) : Bool := (operandSlots t k).all fun x => (presentSheet t x).isSome
def destsFree (t : Tile) (k : Stroke) : Bool := (destSlots t k).all fun x => (slotOf t x).isNone

/-- The sheet of an operand slot that R61 has found present. -/
def sheetAt (t : Tile) (x : Nat × Nat) : Sheet :=
  (presentSheet t x).getD Sheet.none

/-- Whether a CVT names a Contour-4 source (R94). -/
def cvtContour (t : Tile) (k : Stroke) : Bool :=
  k.op == opCvt && ((presentSheet t (reach t k.srcA 0)).map fun a => a.format == 0x08).getD false

/-- Whether the head stroke may not run at all: a value that R66 to R68 do not define (BAD_STROKE), or a CONT or a DRAIN on
a bank with no open chain (R49). A CVT is judged once its source is present. -/
def strokeBad (t : Tile) (k : Stroke) : Bool :=
  !fieldsOk t.mode t.buffers (fun i => (mapFind t.ftabs i).isSome) (fun r => (mapFind t.routes r).isSome)
    (cvtContour t k || (k.op == opCvt && k.amask != 0 && !operandsPresent t k && decide (k.arrays.length = 1))) k ||
  (((k.op == opMma && k.low == 1) || k.op == opDrain) && k.bankKeys.any fun b => (bankOf t b).chain.isNone)

/-- Slots released: one that is at the consume head moves the head past itself and past every slot already released;
another waits for the head (R56). Answers the buffer and how many slots became reusable. Resident slots stay. -/
def advanceHead : Nat → Buffer → Buffer × Nat
  | 0, b => (b, 0)
  | fuel + 1, b =>
    match mapFind b.ring b.head with
    | some ⟨.releasedAhead, _, _⟩ =>
      let r := advanceHead fuel { b with ring := mapDrop b.ring b.head, head := (b.head + 1) % max 1 b.slots }
      (r.1, r.2 + 1)
    | _ => (b, 0)

def releaseIn (b : Buffer) (i : Nat) : Buffer × Nat :=
  if b.resident then (b, 0)
  else match mapFind b.ring i with
    | some ⟨.present, ar, sh⟩ => advanceHead b.slots { b with ring := mapPut b.ring i ⟨.releasedAhead, ar, sh⟩ }
    | _ => (b, 0)

/-- A slot of tile `p` is released; the credits of slots that the head passed start back to the producer (R62). -/
def releaseSlot (s : State) (p : Nat) (x : Nat × Nat) : State :=
  let t := tileOf s p
  match mapFind t.buffers x.1 with
  | none => s
  | some b =>
    let (b', k) := releaseIn b x.2
    let s := setTile s p { t with buffers := mapPut t.buffers x.1 b' }
    if b.stream = 0 then s else freeSlots s b.stream k

/-- A slot that an open chain has used is released with the chain's DRAIN, of several chains with the last (R62). -/
def releaseUse (s : State) (p : Nat) (x : Nat × Nat) : State :=
  let t := tileOf s p
  let mine (c : Chain) : Bool := c.used.contains x
  if t.banks.any fun b => (b.2.chain.map mine).getD false then
    let hold (c : Chain) : Chain := if mine c && !c.rels.contains x then { c with rels := c.rels ++ [x] } else c
    setTile s p { t with banks := mapAll t.banks fun _ bk => { bk with chain := bk.chain.map hold } }
  else releaseSlot s p x

def releaseAll (s : State) (p : Nat) (xs : List (Nat × Nat)) : State := xs.foldl (fun s x => releaseUse s p x) s

/-- A sheet put into a slot. -/
def putSlot (t : Tile) (x : Nat × Nat) (v : TSlot) : Tile :=
  { t with buffers := mapUpd t.buffers x.1 fun b => { b with ring := mapPut b.ring x.2 v } }

/-- The sheet that a stroke writes: its buffer's stream, a SEQ that the spec does not state (a free value, log entry 2),
and its flags from its operands (R121). -/
def writtenSheet (s : State) (t : Tile) (buf : Nat) (o : VecOut) (flags : BitVec 16) (meta' : Sheet) : Sheet × State :=
  let (k, s) := draw s 1
  (sealSheet
    { stream := BitVec.ofNat 16 (((mapFind t.buffers buf).map (·.stream)).getD 0), format := BitVec.ofNat 8 o.format,
      shape := BitVec.ofNat 8 o.shape, seq := Config.slotSeq k, flags := flags, valid := BitVec.ofNat 16 o.valid,
      tag := meta'.tag, origin := meta'.origin, check := 0, scales := o.scales, data := o.data }, s)

/-- Operand slots that a stroke releases (R62): those of the fields whose REL bit is set. -/
def relSlots (t : Tile) (k : Stroke) : List (Nat × Nat) :=
  if k.op = opMma then
    k.arrays.flatMap fun a =>
      (if k.srcA.rel then slotsA t k (groupPos t a) else []) ++ (if k.srcB.rel then slotsB t k (groupPos t a) else [])
  else (if k.srcA.rel then slotsA t k 0 else []) ++ (if k.srcB.rel then slotsB t k 0 else [])

/-- How a head stroke stands. -/
inductive IssueState where
  /-- The tile does not issue, the slot runs no list, or its head is another opcode. -/
  | idle
  /-- The head is invalid: INVALID_STROKE handles it. -/
  | bad
  /-- It never issues and sets FORMAT_MISMATCH (R42, R49). -/
  | mismatch (i : IssueSlot)
  /-- It waits under R61. -/
  | waits (k : Stroke)
  | ready (i : IssueSlot) (k : Stroke) (w : BitVec 128)
deriving DecidableEq, Repr

/-- The MMA heads that do not issue and set FORMAT_MISMATCH: an operand format that the arrays do not take (R42), and a
CONT whose format calls for the other kind of accumulator (R49). -/
def mmaMismatch (t : Tile) (k : Stroke) : Bool :=
  k.op == opMma && (!arrayFormat k.fmt ||
    (k.low == 1 && k.bankKeys.any fun b => ((bankOf t b).chain.map fun c => c.fp == (k.fmt == 0x01)).getD false))

/-- The issue rule (R61) for the head stroke of slot `n`, which must be of opcode `op`. -/
def issueState (t : Tile) (op n : Nat) : IssueState :=
  match headStroke t n with
  | none => .idle
  | some (i, k, w) =>
    if t.st != .running || k.op != op then .idle
    else if strokeBad t k then .bad
    else if mmaMismatch t k then .mismatch i
    else if !operandsPresent t k || !destsFree t k then .waits k
    else .ready i k w

/-- The streams that an EMIT's route names for the sheet it would send may take it, and the tile's egress holds no transfer that is not
acknowledged (R27, R128, R131). -/
def emitFree (s : State) (p : Nat) (t : Tile) (k : Stroke) : Bool :=
  match mapFind t.routes k.imm with
  | none => false
  | some r =>
    !(mapGet s.boundaries p ⟨false, 0⟩).outstanding &&
    (routeTargets r (tagBatch (sheetAt t (reach t k.srcA 0)).tag)).1.all fun m => ((streamOf s m).map Stream.ready).getD false

/-- Whether the head of issue slot `n` is ready in this cycle (R61). -/
def headReady (s : State) (p : Nat) (t : Tile) (n : Nat) : Bool :=
  match headStroke t n with
  | none => false
  | some (_, k, _) =>
    match issueState t k.op n with
    | .ready .. => !unitsBusy t k && (k.op != opEmit || emitFree s p t k)
    | _ => false

/-- The slot whose head the sequencer issues in this cycle: the first that is ready, from the rotating pointer on (R61). -/
def firstReady (s : State) (p : Nat) (t : Tile) : Option Nat := ((List.range 4).map fun d => (t.turn + d) % 4).find? (headReady s p t)

/-- Whether the head of slot `n` waits for an operand, and whether it has its operands and waits for a destination (R61). -/
def waitsIn (t : Tile) (n : Nat) : Bool :=
  match headStroke t n with
  | some (_, k, _) => !strokeBad t k && !operandsPresent t k
  | none => false
def waitsOut (s : State) (p : Nat) (t : Tile) (n : Nat) : Bool :=
  match headStroke t n with
  | some (_, k, _) => !strokeBad t k && operandsPresent t k && (!destsFree t k || (k.op == opEmit && !emitFree s p t k))
  | none => false

/-- One tile cycle in which the heads of the slots `ns` do not issue (R61, R80): it counts once, as waiting for operands if any waits for
one, otherwise as waiting for destinations if any does. -/
def countStall (s : State) (p : Nat) (t : Tile) (ns : List Nat) : Tile :=
  if ns.any (waitsIn t) then { t with counts.stallIn := satAdd (ones 64) t.counts.stallIn 1 }
  else if ns.any (waitsOut s p t) then { t with counts.stallOut := satAdd (ones 64) t.counts.stallOut 1 }
  else t

/-- One tile cycle of tile `p` in which the head of issue slot `n`, a stroke of opcode `op`, is offered. When it is the first ready head from
the rotating pointer on, it issues: `run` has its effect, and the pointer moves past the slot (R61). When no head is ready, the cycle's
stall is counted (R80), as are the cycles of a tile in QUIESCING (R64). When another slot's head goes first, this is not the cycle of slot
`n`, an invalid head is INVALID_STROKE's, and a slot whose head is another stroke is left as it stands (R71; log entry 13). -/
def onIssue (s : State) (p n op : Nat) (run : State → Tile → IssueSlot → Stroke → BitVec 128 → State) : State :=
  let t := tileOf s p
  match issueState t op n with
  | .idle =>
    if t.st = .quiescing then setTile s p { t with counts.stallOut := satAdd (ones 64) t.counts.stallOut 1 } else s
  | .bad => s
  | .mismatch i => haltTile s p faultFormat .usage 4 i.pc 0
  | .waits _ => if (firstReady s p t).isNone then setTile s p (countStall s p t (List.range 4)) else s
  | .ready i k w =>
    match firstReady s p t with
    | none => setTile s p (countStall s p t (List.range 4))
    | some m =>
      if m = n then run s { countStall s p t ((List.range 4).filter (· != n)) with turn := (n + 1) % 4 } i k w else s

/-- A stroke that has issued stands in the list of executing strokes, its destination slots reserved with what it writes. DESIGN CHOICE: an
output sheet of more lines than DST's slots is written whole, as no rule gives a stroke's output that does not fit another end (log entry
126). -/
def startExec (t : Tile) (e : Exec) (outs : List (Nat × Nat × Sheet)) : Tile :=
  let t := outs.foldl (fun t o => putSlot t (o.1, o.2.1) ⟨.reserved, false, o.2.2⟩) t
  { t with exec := t.exec ++ [e] }

/-- A vector stroke with a computed result: it issues, occupies the vector unit, and writes DST (R61, R121). DEDUCED: it passes 1,024 residue
checks, one for each element, whatever its opcode (R81, R445; log entry 126). -/
def issueVector (s : State) (p n : Nat) (t : Tile) (i : IssueSlot) (k : Stroke) (w : BitVec 128) (o : VecOut)
    (srcs : List Sheet) : State :=
  let dst := reach t k.dst 0
  let (sh, s) := writtenSheet s t dst.1 o (carried srcs) (srcs.headD Sheet.none)
  let e : Exec := { addr := i.pc, list := i.list, stroke := w, arrays := [], banks := [], vector := true,
                    writes := [dst], rels := relSlots t k, repeated := false,
                    nan := if o.nan then some sh else none, checks := 1024 }
  setTile s p (startExec (issued t n i) e [(dst.1, dst.2, sh)])

/-- FORMAT_MISMATCH under R69: a header that disagrees with a stroke was altered after its check (DETECTED). Under the other
rules the list itself is at fault (USAGE). -/
def formatMismatch (s : State) (p addr : Nat) (cls : ErrClass) : State := haltTile s p faultFormat cls 4 addr 0

end Sys2Proof.Machine
end

