-- ==== Sys2Proof/Machine/Strokes.lean ====
section
/-! DEFINITION. The strokes (R68): each command is one head stroke of an issue slot that issues, with its whole effect on
accumulators, tables and slots; STROKE_COMPLETE (R56) makes the written slots present. -/

namespace Sys2Proof.Machine

/-- NOP (R68): it issues and does nothing. -/
def execNop (p n : Nat) (s : State) : Host.Outcome State Fault Refusal :=
  onUnit (decide (p < Config.tiles)) <|
    onIssue s p n opNop fun s t i _ _ => setTile s p (issued t n i)

/-- The chain after an MMA, with its opening when INIT is ZERO (R49). -/
def mmaBank (bk : Bank) (k : Stroke) (w : BitVec 128) (tables : Option (List (BitVec 16) × List (BitVec 16)))
    (k0 : Nat) (as bs : List Sheet) (used rels : List (Nat × Nat)) : Bank :=
  let start := if k.low = 0 then Bank.cleared else bk
  let bk' := ksteps k.fmt k.aux tables k0 (as.zip bs) start
  let step : ChainStep := ⟨w, as, bs, false⟩
  let chain := match (if k.low = 0 then none else bk.chain) with
    | some c => { c with steps := c.steps ++ [step], rels := c.rels ++ rels, used := (c.used ++ used).dedup }
    | none => { fp := k.fmt != 0x01, steps := [step], rels := rels, used := used.dedup, repeated := false, bad := false }
  { bk' with chain := some chain }

/-- Releases that a discarded open chain owes (R49). -/
def discarded (t : Tile) (k : Stroke) : List (Nat × Nat) :=
  (k.bankKeys.flatMap fun b => ((bankOf t b).chain.map (·.rels)).getD []).dedup

/-- Residue checks that one k-step passes on one array: in an FP32 chain the group sums and the additions of every cell (R444, R445). -/
def stepChecks (k : Stroke) : Nat := if k.fmt = 0x01 then 0 else 1024 * (32 / gAdd k.aux) * 2

/-- Array-cycles of an MMA's k-steps on one array (R42, R80). -/
def mmaCycles (k : Stroke) : Nat := k.cnt * kstepCycles k.fmt

/-- MMA (R41 to R49): CNT k-steps on each array of the mask. Operand headers must carry FMT (R95); with no tables a
Contour-4 MMA runs on zeros and sets FORMAT_MISMATCH (R44). -/
def runMma (p n : Nat) (s : State) (t : Tile) (i : IssueSlot) (k : Stroke) (w : BitVec 128) : State :=
  let mism := (operandSlots t k).any fun x => (sheetAt t x).format.toNat != k.fmt
  if mism then formatMismatch s p i.pc .detected
  else
    let old := if k.low = 0 then discarded t k else []
    let (k0, s) := draw s (4 * k.cnt * drawsPerStep)
    let noTable := k.fmt == 0x08 && k.arrays.any fun a => (mapGet t.arrays a ⟨none⟩).tables.isNone
    let banks := k.arrays.foldl (fun m a =>
      let g := groupPos t a
      let key := 2 * a + k.bank
      let rels := (if k.srcA.rel then slotsA t k g else []) ++ (if k.srcB.rel then slotsB t k g else [])
      mapPut m key (mmaBank (bankOf t key) k w (mapGet t.arrays a ⟨none⟩).tables (k0 + a * k.cnt * drawsPerStep)
        ((slotsA t k g).map (sheetAt t)) ((slotsB t k g).map (sheetAt t)) (slotsA t k g ++ slotsB t k g) rels)) t.banks
    let checks := k.arrays.length * k.cnt * stepChecks k
    let e : Exec := { addr := i.pc, list := i.list, stroke := w, arrays := k.arrays, banks := k.bankKeys, vector := false,
                      writes := [], rels := [], repeated := false, nan := none, checks := checks }
    let t := issued { t with banks := banks } n i
    let t := { t with counts.arrayBusy := satAdd (ones 64) t.counts.arrayBusy (mmaCycles k * k.arrays.length) }
    let s := releaseAll (setTile s p (startExec t e [])) p old
    if noTable then formatMismatch s p i.pc .usage else s

def execMma (p n : Nat) (s : State) : Host.Outcome State Fault Refusal :=
  onUnit (decide (p < Config.tiles)) <|
    onIssue s p n opMma (runMma p n)

/-- PRELOAD (R50): one bank of every array of the mask from the source; it opens a chain. -/
def runPreload (p n : Nat) (s : State) (t : Tile) (i : IssueSlot) (k : Stroke) (w : BitVec 128) : State :=
  let a := sheetAt t (reach t k.srcA 0)
  match preloadKind a.format.toNat with
  | none => formatMismatch s p i.pc .usage
  | some fp =>
    let old := discarded t k
    let chain : Chain :=
      { fp := fp, steps := [⟨w, [a], [], false⟩], rels := relSlots t k, used := slotsA t k 0, repeated := false, bad := false }
    let banks := k.bankKeys.foldl (fun m key => mapPut m key { preloadBank k.aux a with chain := some chain }) t.banks
    let e : Exec := { addr := i.pc, list := i.list, stroke := w, arrays := [], banks := k.bankKeys, vector := false,
                      writes := [], rels := [], repeated := false, nan := none, checks := 0 }
    releaseAll (setTile s p (startExec (issued { t with banks := banks } n i) e [])) p old

def execPreload (p n : Nat) (s : State) : Host.Outcome State Fault Refusal :=
  onUnit (decide (p < Config.tiles)) <|
    onIssue s p n opPreload (runPreload p n)

/-- Operand sheets of a chain (R121). -/
def chainSheets (c : Chain) : List Sheet := c.steps.flatMap fun st => st.srcA ++ st.srcB

/-- The sheet whose VALID, TAG and ORIGIN a DRAIN takes (R121): SRC_A of the chain's last MMA, at its last k-step, or the
PRELOAD source. -/
def chainMeta (c : Chain) : Option Sheet :=
  let isMma (st : ChainStep) : Bool := (strokeOf st.stroke).op == opMma
  match (c.steps.filter isMma).getLast? with
  | some st => st.srcA.getLast?
  | none => (c.steps.getLast?).bind fun st => st.srcA.getLast?

/-- What a DRAIN writes for each array of its mask: (buffer, slot, sheet, NaN produced). -/
def drainSheets (s : State) (t : Tile) (k : Stroke) : List (Nat × Nat × Sheet × Bool) × State :=
  let table := if k.rescale then some (sheetAt t (reach t k.srcB 0)) else none
  (k.arrays.zipIdx).foldl (fun acc p =>
    let (a, g) := p
    let bk := bankOf t (2 * a + k.bank)
    let chain := bk.chain.getD ⟨false, [], [], [], false, false⟩
    let o := drainOut k chain.fp table bk
    let m := (chainMeta chain).getD Sheet.none
    let flags := carried (chainSheets chain ++ table.toList) |||
      (if bk.sats.any id then flagSat else 0) ||| (if chain.steps.any (·.poison) then flagPoison else 0)
    let x := reach t k.dst g
    let (sh, s') := writtenSheet acc.2 t x.1 { o with valid := m.valid.toNat } flags m
    (acc.1 ++ [(x.1, x.2, sh, o.nan)], s')) ([], s)

/-- Residue checks of a DRAIN (R443, R445): every cell's conversion, and every INT32 cell that did not saturate (R101). -/
def drainChecks (t : Tile) (k : Stroke) : Nat :=
  (k.bankKeys.map fun b =>
    let bk := bankOf t b
    1024 + (if ((bk.chain.map (·.fp)).getD true) then 0 else (bk.sats.filter (! ·)).length)).sum

/-- DRAIN (R51, R105 to R107): each array's bank through the converter into DST + g; the chain ends when its residue check
has passed, at STROKE_COMPLETE. -/
def runDrain (p n : Nat) (s : State) (t : Tile) (i : IssueSlot) (k : Stroke) (w : BitVec 128) : State :=
  let (outs, s) := drainSheets s t k
  let e : Exec := { addr := i.pc, list := i.list, stroke := w, arrays := [], banks := k.bankKeys, vector := true,
                    writes := outs.map fun o => (o.1, o.2.1), rels := if k.srcB.rel then [reach t k.srcB 0] else [],
                    repeated := false, nan := (outs.find? fun o => o.2.2.2).map fun o => o.2.2.1,
                    checks := drainChecks t k }
  setTile s p (startExec (issued t n i) e (outs.map fun o => (o.1, o.2.1, o.2.2.1)))

def execDrain (p n : Nat) (s : State) : Host.Outcome State Fault Refusal :=
  onUnit (decide (p < Config.tiles)) <|
    onIssue s p n opDrain (runDrain p n)

/-- The two grids in the first 64 bytes of a sheet's data (R90). -/
def ctblGrids (a : Sheet) : List (BitVec 16) × List (BitVec 16) :=
  let g (off : Nat) := (List.range 16).map fun k => BitVec.ofNat 16 (u16 a.data (off + 2 * k))
  (g 0, g 32)

/-- CTBL (R44, R90). -/
def execCtbl (p n : Nat) (s : State) : Host.Outcome State Fault Refusal :=
  onUnit (decide (p < Config.tiles)) <|
    onIssue s p n opCtbl fun s t i k w =>
      let gs := ctblGrids (sheetAt t (reach t k.srcA 0))
      let e : Exec := { addr := i.pc, list := i.list, stroke := w, arrays := k.arrays, banks := [], vector := false,
                        writes := [], rels := relSlots t k, repeated := false, nan := none, checks := 0 }
      let t := { t with arrays := k.arrays.foldl (fun m a => mapPut m a ⟨some gs⟩) t.arrays }
      setTile s p (startExec (issued t n i) e [])

/-- Whether the operands of a vector stroke carry FMT in their headers (R69). -/
def operandsMatch (t : Tile) (k : Stroke) : Bool := (operandSlots t k).all fun x => (sheetAt t x).format.toNat == k.fmt

/-- A vector stroke whose operands must carry FMT. -/
def runVector (p n : Nat) (f : Tile → Stroke → Sheet → Sheet → VecOut) (s : State) (t : Tile) (i : IssueSlot) (k : Stroke)
    (w : BitVec 128) : State :=
  if !operandsMatch t k then formatMismatch s p i.pc .detected
  else
    let a := sheetAt t (reach t k.srcA 0)
    let b := sheetAt t (reach t k.srcB 0)
    issueVector s p n t i k w (f t k a b) (if k.usesB then [a, b] else [a])

/-- VOP (R68, R108, R109). -/
def execVop (p n : Nat) (s : State) : Host.Outcome State Fault Refusal :=
  onUnit (decide (p < Config.tiles)) <| onIssue s p n opVop (runVector p n fun _ k a b => vopOut k a b)

/-- FUNC (R58 to R60). -/
def execFunc (p n : Nat) (s : State) : Host.Outcome State Fault Refusal :=
  onUnit (decide (p < Config.tiles)) <|
    onIssue s p n opFunc
      (runVector p n fun t k a _ => funcOut k (mapGet t.ftabs k.aux ⟨0, 0, 0, 0, 0, []⟩) a)

/-- REDUCE (R68, R108, R109). -/
def execReduce (p n : Nat) (s : State) : Host.Outcome State Fault Refusal :=
  onUnit (decide (p < Config.tiles)) <| onIssue s p n opReduce (runVector p n fun _ k a _ => reduceOut k a)

/-- CVT (R68, R88, R94): its source may have any format. A Contour-4 source decodes with the operand-A grid of the named
array, and as zeros, with FORMAT_MISMATCH, when that array holds no tables. -/
def execCvt (p n : Nat) (s : State) : Host.Outcome State Fault Refusal :=
  onUnit (decide (p < Config.tiles)) <|
    onIssue s p n opCvt fun s t i k w =>
      let a := sheetAt t (reach t k.srcA 0)
      let tables := (mapGet t.arrays (k.arrays.headD 0) ⟨none⟩).tables
      let s' := issueVector s p n t i k w (cvtOut k ((tables.map (·.1)).getD (List.replicate 16 0)) a) [a]
      if a.format = 0x08 ∧ tables.isNone then formatMismatch s' p i.pc .usage else s'

/-- SIGNPACK (R112). -/
def execSignpack (p n : Nat) (s : State) : Host.Outcome State Fault Refusal :=
  onUnit (decide (p < Config.tiles)) <| onIssue s p n opSignpack (runVector p n fun _ _ a _ => signpackOut a)

/-- EMIT (R128, R131, R132): the sheet goes out on every stream of its route; a slot with REL is held until the consumers accept. A tile's
egress is an island boundary: nothing further issues on it until the last transfer is acknowledged (R27). Of the words that it reads, `ce`
are corrected and `ue` poisoned (R57). -/
def runEmit (p n ce ue : Nat) (s : State) (t : Tile) (i : IssueSlot) (k : Stroke) : State :=
  let x := reach t k.srcA 0
  let a := sheetAt t x
  match mapFind t.routes k.imm with
  | none => s
  | some r =>
    let (targets, r') := routeTargets r (tagBatch a.tag)
    let fresh := ((slotOf t x).map fun y => !y.arrived).getD true
    let hold := if k.srcA.rel then some (p, x.1, x.2) else none
    let out := if ue = 0 then a else reflag a (a.flags ||| flagPoison)
    let s := targets.foldl (fun s m => updStream s m fun y => y.send m out fresh hold) s
    let s := { s with boundaries := mapPut s.boundaries p { mapGet s.boundaries p ⟨false, 0⟩ with outstanding := true } }
    let t := issued { t with routes := mapPut t.routes k.imm r' } n i
    let t := { t with counts.storeCe := satAdd (ones 32) t.counts.storeCe ce, counts.storeUe := satAdd (ones 16) t.counts.storeUe ue }
    if ue = 0 then setTile s p t
    else tileRec (setTile s p (tileFault t faultStoreUe false)) p .uncorrected 0 i.pc 0 true

def execEmit (p : Nat) (o : EmitObs) (s : State) : Host.Outcome State Fault Refusal :=
  onUnit (decide (p < Config.tiles)) <| onIssue s p o.slot opEmit fun s t i k _ => runEmit p o.slot o.ce o.ue s t i k

/-- RELEASE (R62, R68): it releases SRC_A if REL is set. -/
def execRelease (p n : Nat) (s : State) : Host.Outcome State Fault Refusal :=
  onUnit (decide (p < Config.tiles)) <|
    onIssue s p n opRelease fun s t i k _ =>
      releaseAll (setTile s p (issued t n i)) p (relSlots t k)

/-- COPY (R68): SRC_A into DST, with DST's stream and without SUBST (R121). -/
def execCopy (p n : Nat) (s : State) : Host.Outcome State Fault Refusal :=
  onUnit (decide (p < Config.tiles)) <|
    onIssue s p n opCopy fun s t i k w =>
      let a := sheetAt t (reach t k.srcA 0)
      let dst := reach t k.dst 0
      let o : VecOut := ⟨a.format.toNat, a.shape.toNat, a.valid.toNat, a.scales,
        a.data.take (64 * (dataLines a.format.toNat).getD 0), false⟩
      let (sh, s) := writtenSheet s t dst.1 o (carried [a]) a
      let e : Exec := { addr := i.pc, list := i.list, stroke := w, arrays := [], banks := [], vector := false,
                        writes := [dst], rels := relSlots t k, repeated := false, nan := none, checks := 0 }
      setTile s p (startExec (issued t n i) e [(dst.1, dst.2, sh)])

/-- INVALID_STROKE (R68, R78): a head with a value that no rule defines does not issue and sets BAD_STROKE; a head that stroke memory or the
list table cannot give sets STROKE_UE. -/
def execInvalidStroke (p : Nat) (o : HeadObs) (s : State) : Host.Outcome State Fault Refusal :=
  onUnit (decide (p < Config.tiles)) <|
    let t := tileOf s p
    match headStroke t o.slot with
    | some (i, k, _) =>
      if t.st ≠ .running then s
      else if o.ue then haltTile s p faultStrokeUe .uncorrected 9 i.pc 0
      else if strokeBad t k then setTile s p (tileFault t faultBadStroke true)
      else s
    | none => s

/-! Completion. -/

/-- Poison from an uncorrectable operand word (R57): the written slots, and the chain steps of a stroke on banks. -/
def poisonExec (t : Tile) (e : Exec) : Tile :=
  let t := e.writes.foldl (fun t x => match slotOf t x with
    | some v => putSlot t x { v with sheet := reflag v.sheet (v.sheet.flags ||| flagPoison) }
    | none => t) t
  let mark (c : Chain) : Chain := { c with steps := listUpd c.steps (c.steps.length - 1) fun st => { st with poison := true } }
  { t with banks := e.banks.foldl (fun m b => mapUpd m b fun bk => { bk with chain := bk.chain.map mark }) t.banks }

/-- A chain from its first stroke on the operands it used (R63), with fresh draws. -/
def rerunBank (t : Tile) (k0 a : Nat) (bk : Bank) : Bank :=
  match bk.chain with
  | none => bk
  | some c =>
    let bk' := (c.steps.zipIdx).foldl (fun (bk : Bank) q =>
      let k := strokeOf q.1.stroke
      if k.op = opPreload then preloadBank k.aux (q.1.srcA.headD Sheet.none)
      else
        ksteps k.fmt k.aux (mapGet t.arrays a ⟨none⟩).tables (k0 + 1024 * drawsPerStep * q.2) (q.1.srcA.zip q.1.srcB)
          (if k.low = 0 then Bank.cleared else bk)) Bank.cleared
    { bk' with chain := some { c with repeated := true, bad := false } }

/-- Array-cycles and residue checks of a chain's strokes on one array, which a rerun adds again (R63, R80, R81). -/
def chainWork (bk : Bank) : Nat × Nat :=
  let mmas := ((bk.chain.map (·.steps)).getD []).map (fun st => strokeOf st.stroke) |>.filter fun k => k.op == opMma
  ((mmas.map mmaCycles).sum, (mmas.map fun k => k.cnt * stepChecks k).sum)

/-- The rerun of every chain of a DRAIN's mask and the DRAIN again (R63): the reserved slots take the new output. -/
def rerunDrain (s : State) (p idx : Nat) (e : Exec) (counted : Bool) : State :=
  let t := tileOf s p
  let work := e.banks.map fun b => chainWork (bankOf t b)
  let k := strokeOf e.stroke
  let (k0, s) := draw s (e.banks.length * 4096 * 1024 * drawsPerStep)
  let t := { t with
    banks := (e.banks.zipIdx).foldl (fun m q =>
      mapPut m q.1 (rerunBank t (k0 + q.2 * 4096 * 1024 * drawsPerStep) (q.1 / 2) (bankOf t q.1))) t.banks
    counts.arrayBusy := satAdd (ones 64) t.counts.arrayBusy (work.map (·.1)).sum
    counts.checks := t.counts.checks + (work.map (·.2)).sum
    counts.repeats := satAdd (ones 32) t.counts.repeats (b2n !counted) }
  let (outs, s) := drainSheets s t k
  let slots := (e.writes.zip outs).map fun q => (q.1.1, q.1.2, q.2.2.2.1)
  let t := slots.foldl (fun t o => putSlot t (o.1, o.2.1) ⟨.reserved, false, o.2.2⟩) t
  let e := { e with repeated := true, nan := (outs.find? fun o => o.2.2.2).map fun o => o.2.2.1 }
  setTile s p { t with exec := listUpd t.exec idx fun _ => e }

/-- A tile's first-NaN record (R65, R82). -/
def noteNan (t : Tile) (e : Exec) : Tile :=
  match e.nan, t.nan with
  | some sh, none => { t with nan := some ⟨sh.seq, sh.stream.toNat, t.station, e.list, e.addr, false⟩ }
  | _, _ => t

/-- A chain whose DRAIN is discarded: a check in its compute has failed, or its running residues do not agree (R63, R443). -/
def chainBad (bk : Bank) : Bool := (bk.chain.map fun c => c.bad || (!c.fp && !residuesAgree bk)).getD false

/-- A stroke whose results are decisions, computed twice and compared (R445). -/
def decides (k : Stroke) : Bool := k.op == opSignpack || (k.op == opVop && (k.aux == 3 || k.aux == 4)) || (k.op == opReduce && k.aux == 1)

/-- A flipped accumulator of an MMA or PRELOAD: the bank with it, and whether the check of the addition that stored it sees it. A cell of an
INT8 chain is compared only at the DRAIN (R443, R444). -/
def upsetCell (bk : Bank) (u : Upset) : Bank × Bool :=
  let old := bk.cells.getD u.element 0
  let new := old ^^^ BitVec.ofNat 32 u.mask
  let fp := (bk.chain.map (·.fp)).getD false
  ({ bk with cells := listUpd bk.cells u.element fun _ => new }, fp && upsetSeen (fp32Val old) (fp32Val new))

/-- A flipped element of a written sheet, and whether its check sees it (R445). -/
def upsetSheet (k : Stroke) (sh : Sheet) (u : Upset) : Sheet × Bool :=
  let f := sh.format.toNat
  let codes := unpack f sh.data
  let old := codes.getD u.element 0
  let new := (old ^^^ u.mask) % 2 ^ elemBits f
  let val (c : Nat) : ExNum := scaledVal f [] (sh.scales.getD (u.element / 32) 0) c
  (sealSheet { sh with data := pack f (listUpd codes u.element fun _ => new) },
    if decides k || f == 0x30 then old != new else upsetSeen (val old) (val new))

/-- What a stroke's upsets leave of the tile, and how many of them a check sees. -/
def applyUpsets (t : Tile) (e : Exec) (k : Stroke) (us : List Upset) : Tile × Nat :=
  us.foldl (fun acc u =>
    if k.op = opMma ∨ k.op = opPreload then
      if e.banks.contains u.unit then
        let (bk, seen) := upsetCell (bankOf acc.1 u.unit) u
        ({ acc.1 with banks := mapPut acc.1.banks u.unit bk }, acc.2 + b2n seen)
      else acc
    else
      match e.writes[u.unit]? with
      | none => acc
      | some x => match slotOf acc.1 x with
        | none => acc
        | some v =>
          let (sh, seen) := upsetSheet k v.sheet u
          (putSlot acc.1 x { v with sheet := sh }, acc.2 + b2n seen)) (t, 0)

/-- Whether a stroke's work is covered by residues (R443 to R445). -/
def residueStroke (k : Stroke) : Bool :=
  [opMma, opPreload, opDrain, opVop, opFunc, opReduce, opCvt, opSignpack].contains k.op

/-- An executing stroke completes with no mismatch left: its written slots are present, its chains close at a DRAIN, its
slots are released, its NaN is recorded, and what waited for a stroke boundary applies (R56, R62, R64, R65, R71). -/
def finishExec (s : State) (p idx : Nat) (e : Exec) : State :=
  let t := tileOf s p
  let k := strokeOf e.stroke
  let drained := k.op == opDrain
  let rels := e.rels ++ (if drained then (e.banks.flatMap fun b => ((bankOf t b).chain.map (·.rels)).getD []).dedup else [])
  let t := e.writes.foldl (fun t x => match slotOf t x with
    | some v => putSlot t x { v with st := .present }
    | none => t) t
  let t := if drained then { t with banks := e.banks.foldl (fun m b => mapUpd m b fun bk => { bk with chain := none }) t.banks } else t
  let t := noteNan { t with exec := listDrop t.exec idx, counts.checks := t.counts.checks + e.checks } e
  let t := if t.st = .quiescing ∧ t.exec = [] then { t with st := if t.replacing then .ready else .running } else t
  let s := setTile s p t
  let s := if e.repeated then tileRec s p .detected 4 e.addr 0 else s
  let s := releaseAll s p rels
  if atBoundary (tileOf s p) then settle s p else s

/-- Residue mismatches, `n` of them (R63, R446): a chain's stroke waits for its DRAIN, a DRAIN or vector stroke repeats once, and a second
mismatch sets RESIDUE_REPEAT. A chain's mismatch is counted when its chain fails first, whether or not a DRAIN comes; of a stroke's checks
those that fail do not count as passed (R81). -/
def mismatchExec (s : State) (p idx : Nat) (e : Exec) (n : Nat) : State :=
  let t := tileOf s p
  let k := strokeOf e.stroke
  if k.op = opMma ∨ k.op = opPreload then
    let known := e.banks.any fun b => ((bankOf t b).chain.map (·.bad)).getD false
    let t := { t with
      banks := e.banks.foldl (fun m b =>
        mapUpd m b fun bk => { bk with chain := bk.chain.map fun c => { c with bad := true } }) t.banks
      counts.repeats := satAdd (ones 32) t.counts.repeats (b2n !known) }
    finishExec (setTile s p t) p idx { e with checks := e.checks - n }
  else if e.repeated then
    let s := updTile s p fun t => { t with counts.repeats := satAdd (ones 32) t.counts.repeats 1 }
    haltTile s p faultResidue .detected 4 e.addr 1
  else if k.op = opDrain then rerunDrain s p idx e (e.banks.any fun b => ((bankOf t b).chain.map (·.bad)).getD false)
  else
    setTile s p { t with exec := listUpd t.exec idx fun e => { e with repeated := true },
                         counts.repeats := satAdd (ones 32) t.counts.repeats 1 }

/-- STROKE_COMPLETE (R56 to R65, R81): the `idx`-th executing stroke completes with what the monitors report. A tile in
FAULT completes nothing: it holds its slots as they stood (R71). -/
def execStrokeComplete (p idx : Nat) (obs : StrokeObs) (s : State) : Host.Outcome State Fault Refusal :=
  onUnit (decide (p < Config.tiles)) <|
    let t := tileOf s p
    match t.exec[idx]? with
    | none => s
    | some e =>
      if t.st != .running && t.st != .quiescing then s
      else
        let t := { t with
          counts.storeCe := satAdd (ones 32) t.counts.storeCe obs.storeCe
          counts.storeUe := satAdd (ones 16) t.counts.storeUe obs.storeUe
          counts.strokeCe := satAdd (ones 16) t.counts.strokeCe obs.strokeCe }
        let t := if obs.storeUe = 0 then t else tileFault (poisonExec t e) faultStoreUe false
        let s := setTile s p t
        let s := if obs.storeUe = 0 then s else tileRec s p .uncorrected 0 e.addr 0 true
        if obs.strokeUe then haltTile s p faultStrokeUe .uncorrected 9 e.addr 0
        else
          let k := strokeOf e.stroke
          let bad := k.op == opDrain && e.banks.any fun b => chainBad (bankOf t b)
          let (hit, seen) := applyUpsets (tileOf s p) e k obs.upsets
          let n := seen + b2n obs.mismatch + b2n bad
          -- What a check has seen in a DRAIN or a vector stroke is discarded with the whole output; what none has seen stands.
          let s := if 0 < seen && k.op != opMma && k.op != opPreload then s else setTile s p hit
          if 0 < n && residueStroke k then mismatchExec s p idx e n else finishExec s p idx e

end Sys2Proof.Machine
end

