-- ==== Sys2Proof/Machine/ContextOps.lean ====
section
/-! DEFINITION. Tiles by role, pages of the device range, and the shares and states of contexts (R234 to R242). -/

namespace Sys2Proof.Machine

/-! Tile roles (R20, R24). -/

def countRole (s : State) (r : Role) : Nat := ((allTiles s).filter fun p => p.2.role == r).length

def serviceTiles (s : State) : Nat := countRole s .service

/-- The sum of TILE_LIMIT over all contexts not EMPTY. -/
def sumTileLimit (s : State) : Nat := (s.ctxs.map fun p => if p.2.st = .empty then 0 else p.2.tileLimit).sum

/-- At a retirement, the sum of TILE_LIMIT is compared with SERVICE_TILES at once; the event comes once, when the sum first exceeds it
(R240). -/
def checkOvercommit (s : State) : State :=
  if serviceTiles s < sumTileLimit s then
    let known := s.ctxs.any fun p => p.2.overcommit
    let s := { s with ctxs := mapAll s.ctxs fun _ x => if x.st = .empty then x else { x with overcommit := true } }
    if known then s else raiseEvent s (evVendor 4) 0xC0
  else s

/-- OVERCOMMIT clears when a configure or a release brings the sum within SERVICE_TILES (R240). -/
def clearOvercommit (s : State) : State :=
  if sumTileLimit s ≤ serviceTiles s then { s with ctxs := mapAll s.ctxs fun _ x => { x with overcommit := false } } else s

/-- The signed configuration records have changed: every cached image is to be validated again (R244). -/
def recordsChanged (s : State) : State := { s with cache := mapAll s.cache fun _ e => { e with validated := false } }

/-- Easel writes TILE_ROLES, a configuration record, after a change of tile role (R530). -/
def writeRoles (s : State) : State := recordsChanged { s with boot.rolesGen := s.boot.rolesGen + 1 }

/-- A tile leaves use: its role persists (R24, R71, R530). -/
def retireTile (s : State) (p : Nat) : State :=
  checkOvercommit (writeRoles (updTile s p fun t => { t with role := .retired, st := .retired, testBusy := false }))

/-- A tile with nothing placed on it: its windows read as after reset but for its role, clock, counters and tests. -/
def unplace (t : Tile) : Tile :=
  { t with station := 0xFF, context := 0, placed := false, mode := 0, logical := 0, nlists := 0, buffers := [],
           routes := [], strokes := [], lists := [], islots := [], arrays := [], banks := [], ftabs := [], exec := [],
           replacing := false }

/-- The tiles that a context's image places. -/
def placedTiles (s : State) (c : Nat) : List Nat :=
  (s.tiles.filter fun p => p.2.placed && p.2.context == c).map (·.1)

/-- The tiles of a context that is unloaded go to READY with no lists, and one in FAULT is retired at once (R235, R474). -/
def freeTiles (s : State) (ps : List Nat) : State :=
  ps.foldl (fun s p =>
    let t := tileOf s p
    let s := setTile s p { unplace t with st := if t.st = .fault ∨ t.st = .off ∨ t.st = .retired then t.st else .ready }
    if t.st = .fault then retireTile s p else s) s

/-! Power domains that something needs (R37, R38, R513). -/

/-- Domain allocations in W (R511). -/
def domainW (d : Nat) : Nat :=
  match d with
  | 0 => 3 | 19 => 2 | 15 => 40 | 16 => 40 | 17 => 10 | 13 => 60 | 14 => 45 | 1 => 12 | 2 => 10
  | 3 => 18 | 4 => 18 | 18 => 30
  | _ => if 5 ≤ d ∧ d ≤ 12 then 68 else 0

/-- ALLOC_W (R520). -/
def allocW (s : State) : Nat := ((List.range 20).map fun d => if domainOn s d then domainW d else 0).sum

/-- The cooling derating of R518, in W: 60 W per °C of inlet above 40 °C, and 600 W below 1.2 L/min. A derating counts only
once a sample has been taken (log entry 14). -/
def coolingW (s : State) : Nat :=
  let inlet := (sensorOf s 0).reading
  let byInlet := if inlet ≤ 320 then 900 else max 600 (900 - ((60 * (inlet - 320)).toNat + 7) / 8)
  if s.power.flow < 120 ∧ s.power.means ≠ [] then min 600 byInlet else byInlet

/-- P_BUDGET (R513). -/
def budgetW (s : State) : Nat := min 900 (min s.power.limitW (coolingW s))

/-- Whether domain `d` may be woken: the allocations already on plus its own, over 0.94, fit P_BUDGET (R513). -/
def canWake (s : State) (d : Nat) : Bool := decide ((allocW s + domainW d) * 100 ≤ budgetW s * 94)

/-- CAL_TILE_CFG (R501). -/
def calTarget (s : State) : Nat := bitsAt s.cal.tileCfg.toNat 48 8
def calFreqMin (s : State) : Nat := bitsAt s.cal.tileCfg.toNat 40 8
def calVmax (s : State) : Int := signedOf 8 (bitsAt s.cal.tileCfg.toNat 32 8)
def calVmin (s : State) : Int := signedOf 8 (bitsAt s.cal.tileCfg.toNat 24 8)
def calVstart (s : State) : Int := signedOf 8 (bitsAt s.cal.tileCfg.toNat 16 8)

/-- A tile that runs nothing stands at an operating point (R497, R514). -/
def setPoint (cap f : Nat) (v : Int) (t : Tile) : Tile := { t with freq := f, vofs := v, runFreq := min f cap, change := none }

/-- A tile that enters READY with a placement (R497): its point, and no evidence held against it. -/
def readyPoint (s : State) (t : Tile) : Tile :=
  let t := setPoint s.power.freqCap (calTarget s) (max (calVmin s) (min (calVmax s) (calVstart s))) t
  { t with cal.exhausted := false, cal.held := false, cal.heldCause := 0, cal.lastRepeats := t.counts.repeats,
           cal.quietFrom := s.time }

/-- The state of a tile whose domain comes up (R71): at the idle point. -/
def wakeTile (t : Tile) : Tile :=
  if t.st = .off then
    { setPoint 132 20 0 t with st := match t.role with | .spare => .spareIdle | .service => .ready | .retired => .retired }
  else t

/-- Domain `d` comes on. -/
def wakeDomain (s : State) (d : Nat) : State :=
  let s := { s with power.domains := s.power.domains ||| BitVec.ofNat 20 (2 ^ d) }
  if 5 ≤ d ∧ d ≤ 12 then
    ((List.range Config.tiles).filter fun p => tileDomain p == d).foldl (fun s p => updTile s p wakeTile) s
  else s

/-- Domain `d` goes off: its tiles are OFF unless retired (R71), with what they held. -/
def dropDomain (s : State) (d : Nat) : State :=
  let s := { s with power.domains := s.power.domains &&& ~~~(BitVec.ofNat 20 (2 ^ d)) }
  if 5 ≤ d ∧ d ≤ 12 then
    ((List.range Config.tiles).filter fun p => tileDomain p == d).foldl (fun s p =>
      updTile s p fun t => if t.st = .retired then t else { t with st := .off, testBusy := false }) s
  else s

/-- An on-demand domain is switched off once nothing placed, linked or named uses it (R37, R513). -/
def dropIdleDomains (s : State) : State :=
  let fabric := (List.range 8).map (· + 5)
  let s := fabric.foldl (fun s d =>
    if domainOn s d && !(s.tiles.any fun p => tileDomain p.1 == d && (p.2.placed || p.2.st == .testing)) then dropDomain s d
    else s) s
  let names (im : Image) : Bool := im.stations.any fun q => q.number == stnDecode
  let decodes := s.ctxs.any fun p => (p.2.loaded.map fun l => names l.image).getD false || (p.2.load.map fun l => names l.image).getD false
  let s := if domainOn s 18 && !decodes then dropDomain s 18 else s
  [0, 1].foldl (fun s k =>
    if domainOn s (3 + k) && (List.range 4).all (fun p => ((mapFind s.folio.ports (4 * k + p)).map (·.st)).getD .off == .off)
    then dropDomain s (3 + k) else s) s

/-! Pages. -/

/-- First page and number of pages of tier 0, 1 or 2 (R176). -/
def tierFirst (t : Nat) : Nat := match t with | 0 => 0 | 1 => 131072 | _ => 524288
def tierPages (t : Nat) : Nat := match t with | 0 => 131072 | 1 => 393216 | _ => 1572864
/-- The tier of a page. -/
def tierOf (pg : Nat) : Nat := if pg < 131072 then 0 else if pg < 524288 then 1 else 2
/-- Pages of the system reserve (R238), taken as the first of their tier (log entry 15). -/
def reservePages (t : Nat) : Nat := match t with | 0 => 4096 | 1 => 2048 | _ => 0

def isObjectPage (u : PageUse) : Bool := match u with | .object .. => true | _ => false
def pageCtx (u : PageUse) : Option Nat :=
  match u with
  | .region c _ => some c | .staging c => some c | .window c => some c | .ring c => some c | _ => none

/-- Pages of tier `t` that the object pool's objects hold. -/
def objectPages (s : State) (t : Nat) : Nat := (s.pages.filter fun p => tierOf p.1 == t && isObjectPage p.2).length

/-- Pages of tier `t` that context `c` holds. -/
def ctxPages (s : State) (c t : Nat) : Nat := (s.pages.filter fun p => tierOf p.1 == t && pageCtx p.2 == some c).length

/-- A context's share of a tier (R236). -/
def Ctx.share (x : Ctx) (t : Nat) : Nat := match t with | 0 => x.fastPages | 1 => x.midPages | _ => x.slowPages

/-- The sum of all shares of a tier. -/
def sumShares (s : State) (t : Nat) : Nat := (s.ctxs.map fun p => if p.2.st = .empty then 0 else p.2.share t).sum

/-- Pages of an erase group of T2 (R377). -/
def groupPages : Nat := 384

/-- The pages that a tier has: T2 loses a whole group for each FAILED one (R378). -/
def tierCap (s : State) (t : Nat) : Nat :=
  if t = 2 then tierPages 2 - groupPages * (s.media.groups.filter fun g => g.2.failed).length else tierPages t

/-- Free pages of the object pool of a tier (R238). -/
def poolFree (s : State) (t : Nat) : Nat := tierCap s t - reservePages t - sumShares s t - objectPages s t

/-- The `n` lowest page numbers from `k` up that the rising list `used` does not hold. -/
def takeFree : Nat → Nat → List Nat → Nat → List Nat
  | _, _, _, 0 => []
  | 0, _, _, _ => []
  | fuel + 1, k, [], n + 1 => k :: takeFree fuel (k + 1) [] n
  | fuel + 1, k, u :: us, n + 1 =>
    if u < k then takeFree fuel k us (n + 1)
    else if u = k then takeFree fuel (k + 1) us (n + 1)
    else k :: takeFree fuel (k + 1) (u :: us) n

/-- Free erase groups, neither FAILED nor holding a page that is in use. -/
def freeGroups (s : State) : List Nat :=
  let used := (s.pages.filter fun p => tierOf p.1 == 2).map fun p => (p.1 - tierFirst 2) / groupPages
  (List.range 4096).filter fun g => !used.contains g && !(mapGet s.media.groups g ⟨0, false⟩).failed

/-- The `k` free groups of least total wear, the lower number on a tie (R377). -/
def chooseGroups (s : State) (k : Nat) : List Nat :=
  let wear (g : Nat) : Nat := (mapGet s.media.groups g ⟨0, false⟩).wear
  (sortBy (fun a b => decide (wear a < wear b) || (wear a == wear b && decide (a ≤ b))) (freeGroups s)).take k

/-- T2 pages in whole erase groups, each erased into SLC mode on its 48 dies (R354, R377). -/
def allocGroups (s : State) (n : Nat) (u : PageUse) : Option (List Nat × State) :=
  let k := ceilDiv n groupPages
  let gs := chooseGroups s k
  if gs.length < k then none
  else
    let ps := (gs.flatMap fun g => (List.range groupPages).map fun i => tierFirst 2 + groupPages * g + i).take n
    let wear (m : SMap EraseGroup) (g : Nat) : SMap EraseGroup :=
      let x := mapGet m g ⟨0, false⟩
      mapPut m g { x with wear := x.wear + 3 * Config.fastDies }
    some (ps, { s with pages := ps.foldl (fun m p => mapPut m p u) s.pages,
                       media.groups := gs.foldl wear s.media.groups })

/-- `n` free pages of a tier, given to `u`: in T0 and T1 the lowest (log entry 15), in T2 whole erase groups; none when the
tier does not hold as many. -/
def allocPages (s : State) (t n : Nat) (u : PageUse) : Option (List Nat × State) :=
  if t = 2 then allocGroups s n u else
  let used := (s.pages.filter fun p => tierOf p.1 == t).map (·.1)
  let ps := takeFree (n + used.length + 1) (tierFirst t + reservePages t) used n
  if ps.length = n ∧ ps.all (fun p => p < tierFirst t + tierPages t) then
    some (ps, { s with pages := ps.foldl (fun m p => mapPut m p u) s.pages })
  else none

/-- Pages freed. -/
def freePages (s : State) (ps : List Nat) : State := { s with pages := ps.foldl mapDrop s.pages }

/-- All pages for which `q` holds are freed. -/
def freeWhere (s : State) (q : PageUse → Bool) : State := { s with pages := s.pages.filter fun p => !q p.2 }

/-- A page's bytes become zero. -/
def zeroPage (s : State) (p : Nat) : State :=
  let lo := p * Config.pageBytes
  let hi := lo + Config.pageBytes
  { s with mem := s.mem.filter fun c => decide (c.1 < lo) || decide (hi ≤ c.1)
           poison := s.poison.filter fun c => decide (c.1 * 64 < lo) || decide (hi ≤ c.1 * 64) }

/-! Memory lines (R449). -/

/-- Whether any line of [a, a + n) is marked with memory poison. -/
def poisonedAt (s : State) (a n : Nat) : Bool :=
  n != 0 && s.poison.any fun c => decide (a / 64 ≤ c.1) && decide (c.1 ≤ (a + n - 1) / 64)

/-- A write of whole or part lines: a line wholly written loses its mark, a line partly written keeps it (R449), and with
`mark` every line touched is marked. -/
def memWrite (s : State) (a : Nat) (bs : Bytes) (mark : Bool) : State :=
  let n := bs.length
  let m := cellsWrite s.mem a bs
  if n = 0 then s
  else if mark then
    { s with mem := m, poison := ((List.range ((a + n - 1) / 64 + 1 - a / 64)).map (a / 64 + ·)).foldl (fun m l => mapPut m l ()) s.poison }
  else
    let whole (l : Nat) : Bool := decide (a ≤ l * 64) && decide (l * 64 + 64 ≤ a + n)
    { s with mem := m, poison := s.poison.filter fun c => !whole c.1 }

/-! The window map (R198). -/

/-- The 8-byte entry of a window page: VALID, HOST_WRITE, PAGE; zero when the page is unmapped. -/
def mapWord (p : Option WinPage) : Nat := (p.map fun x => 2 ^ 63 + 2 ^ 62 * b2n x.hostWrite + x.page % 2 ^ 21).getD 0

/-- The map takes a new content: the entries that change are written at device address 8w, in T0 page 0. -/
def setWindow (s : State) (m : SMap WinPage) : State :=
  let old := s.host.window
  let ws := ((old ++ m).map (·.1)).filter fun w => mapFind old w != mapFind m w
  ws.foldl (fun s w => memWrite s (8 * w) (leBytes 8 (mapWord (mapFind m w))) false) { s with host.window := m }

/-! Sequences. -/

/-- The admitted request whose batch a sheet or read belongs to. -/
def reqByBatch (s : State) (c b : Nat) : Option Req :=
  (s.reqs.find? fun p => p.2.admitted && p.2.ctx == c && p.2.batch == b).map (·.2)

/-- Sequences that a context holds (R241). -/
def inFlight (s : State) (c : Nat) : Nat := (s.reqs.filter fun p => p.2.ctx == c && p.2.admitted).length

/-- A request leaves; a STOPPING context whose last admitted request has completed is LOADED, its tiles READY (R235,
R234), and the vendor I/O commands held for it are refused with FORMAT (R412). -/
def dropReq (s : State) (rid : Nat) : State := { s with reqs := mapDrop s.reqs rid }

/-- The requests that wait for a context outside admission are refused with FORMAT (R412). -/
def refuseHeld (s : State) (c : Nat) : State :=
  (s.reqs.filter fun p => p.2.ctx == c && !p.2.admitted && p.2.src.ring.isNone).foldl (fun s p =>
    vendorCpl (dropReq s p.1) p.2.src (condBit .format) 0 0) s

/-- A context enters LOADED, CONFIGURED or RUNNING. -/
def enterCtx (s : State) (c : Nat) (st : CtxState) : State :=
  let s := updCtx s c fun x => { x with st := st }
  match st with
  | .loaded => refuseHeld ((placedTiles s c).foldl (fun s p =>
      updTile s p fun t => if t.st = .running ∨ t.st = .quiescing then { t with st := .ready } else t) s) c
  | .configured => refuseHeld s c
  | .running => (placedTiles s c).foldl (fun s p =>
      updTile s p fun t => if t.st = .ready then { t with st := .running } else t) s
  | _ => s

/-- What follows a request's end for its context (R235). -/
def afterReq (s : State) (c : Nat) : State :=
  if (ctxOf s c).st = .stopping ∧ inFlight s c = 0 then enterCtx s c .loaded else s

/-- A load of the context is in progress (R235). -/
def loading (x : Ctx) : Bool := x.load.isSome

/-! LOST shards (R483). -/

/-- The shard is LOST: kind 0 a table, which may serve as a manifest, kind 1 an index. -/
def shardLost (s : State) (kind : Nat) (id : BitVec 64) (k : Nat) : Bool := s.folio.lostShards.contains (kind, id, k)

/-- A new version or a new object restores its shards. -/
def healShards (s : State) (kind : Nat) (id : BitVec 64) : State :=
  { s with folio.lostShards := s.folio.lostShards.filter fun x => !(x.1 == kind && x.2.1 == id) }

end Sys2Proof.Machine
end

