-- ==== Sys2Proof/Machine/MediaOps.lean ====
section
/-! DEFINITION. The logical user space and the source of a sector (R350 to R360, R370). -/

namespace Sys2Proof.Machine

/-- Bytes and sectors of the logical user space, sectors of a logical block (R352). -/
def userBytes : Nat := 245_759_974_834_176
def userSectors : Nat := 59_999_993_856
def blockSectors : Nat := 16384
def logicalBlocks : Nat := 3_662_109

/-- Number of a bulk block: die × 3,816 + block (R350). -/
def bulkKey (die block : Nat) : Nat := die * Config.bulkBlocks + block

/-- Number of a physical 4 KiB sector of a block: four to a page (R359). -/
def physKey (block page sector : Nat) : Nat := (block * 4096 + page) * 4 + sector

def physBlock (k : Nat) : Nat := k / 16384

/-- The tag of a sector that a raw PROGRAM wrote: the descriptor names no logical sector. -/
def noLba : Nat := 2 ^ 36 - 1

/-- The blocks of every die that hold the code store (1,024 in all, one to a die) and the system area (2,048): the spec fixes
their number and not their place; here they are the last three of each die (log entry 31). -/
def isCodeBlock (block : Nat) : Bool := block == 3815
def isSystemBlock (block : Nat) : Bool := block == 3813 || block == 3814

/-- A physical block held by the code store or the Stylus private area (R386). -/
def isHeldBlock (block : Nat) : Bool := isCodeBlock block

/-- A block as shipped (R353, R357). -/
def Block.shipped (k : Nat) : Block :=
  let b := k % Config.bulkBlocks
  ⟨if isCodeBlock b || isSystemBlock b then .system else .free, 0, false, 0, 0, 0, 0, false⟩

def bulkBlock (s : State) (k : Nat) : Block := mapGet s.media.blocks k (Block.shipped k)

def setBlock (s : State) (k : Nat) (b : Block) : State := { s with media.blocks := mapPut s.media.blocks k b }

def updBlock (s : State) (k : Nat) (f : Block → Block) : State := setBlock s k (f (bulkBlock s k))

/-- The home die of a logical block (R352). -/
def homeDie (n : Nat) : Nat := n % Config.bulkDies

/-- The newest log copy of a sector (R360): highest open sequence, then highest page. -/
def newestCopy : List LogCopy → Option LogCopy
  | [] => none
  | c :: cs =>
    match newestCopy cs with
    | none => some c
    | some d => if d.seq < c.seq ∨ (d.seq = c.seq ∧ d.page ≤ c.page) then some c else some d

def logCopies (s : State) (lba : Nat) : List LogCopy := mapGet s.media.log lba []

/-- The physical sector that holds a logical sector outside staging (R360). -/
def sectorPlace (s : State) (lba : Nat) : Option Nat :=
  match newestCopy (logCopies s lba) with
  | some c => some c.phys
  | none =>
    match mapFind s.media.map (lba / blockSectors) with
    | some m => if m.mapped then some (physKey m.block (lba % blockSectors / 4) (lba % 4)) else none
    | none => none

/-- The newest copy of a sector (R360). -/
def readSector (s : State) (lba : Nat) : Bytes :=
  match s.media.staging.reverse.find? fun x => x.lba == lba with
  | some x => x.data
  | none =>
    match (sectorPlace s lba).bind (mapFind s.media.sectors) with
    | some x => x.data
    | none => zeros 4096

/-- Whether a sector is poisoned (R370). -/
def sectorPoisoned (s : State) (lba : Nat) : Bool := (mapFind s.media.poisoned lba).isSome

/-- The NSID of this module's namespace (R423). -/
def ownNsid (s : State) : Nat := s.folio.number + 1

/-- The device address of a sector of a fast die's page (R177, R377). -/
def t2Addr (die block page sector : Nat) : Nat := Config.t1End + 16384 * (48 * (1024 * block + page) + die) + 4096 * sector

/-- `n` bytes of this module's user space from `start`, with whether a sector of them is poisoned; none when they lie
outside it. -/
def userRead (s : State) (start n : Nat) : Option (Bytes × Bool) :=
  if userBytes < start + n then none
  else
    let first := start / 4096
    let lbas := (List.range (ceilDiv (start % 4096 + n) 4096)).map (first + ·)
    some (slice (lbas.flatMap (readSector s)) (start % 4096) n, lbas.any (sectorPoisoned s))

end Sys2Proof.Machine
end

