-- ==== Sys2Proof/Machine/Crypto.lean ====
section
/-! DEFINITION. The cryptography that the spec names by standard: SHA-256 (FIPS 180-4), HMAC and HKDF over it (RFC 2104,
RFC 5869), and ECDSA on P-256 (FIPS 186-5). The constants are the standards', not the spec's (log entry 17). -/

namespace Sys2Proof.Machine

/-! SHA-256. -/

/-- The `k`-th root of `n` rounded down, from its candidate `r` and the `bits` bits below. -/
def rootDown (k n : Nat) : Nat → Nat → Nat
  | 0, r => r
  | bits + 1, r => rootDown k n bits (if (r + 2 ^ bits) ^ k ≤ n then r + 2 ^ bits else r)

/-- The first 32 bits after the point of the `k`-th root of a number below 2^9. -/
def rootWord (k p : Nat) : BitVec 32 := BitVec.ofNat 32 (rootDown k (p * 2 ^ (32 * k)) 37 0)

/-- The primes below `n`, in ascending order. -/
def primesBelow (n : Nat) : List Nat :=
  (List.range n).filter fun p => decide (1 < p) && (List.range 18).all fun d => decide (d < 2) || p == d || p % d != 0

/-- The 64 round constants are cube roots of the first 64 primes, and the initial words square roots of the first eight. -/
def shaK : List (BitVec 32) := (primesBelow 312).map (rootWord 3)
def shaInit : List (BitVec 32) := (primesBelow 20).map (rootWord 2)

/-- The message padded to whole 64-byte blocks. -/
def shaPad (m : Bytes) : Bytes :=
  m ++ [0x80] ++ zeros ((119 - m.length % 64) % 64) ++ beBytes 8 (8 * m.length)

/-- The message schedule of a block, newest word first. -/
def shaSchedule (block : Bytes) : List (BitVec 32) :=
  let w0 := ((pieces 4 block).map fun b => BitVec.ofNat 32 (beNat b)).reverse
  ((List.range 48).foldl (fun w _ =>
    let g (k : Nat) : BitVec 32 := w.getD (k - 1) 0
    let s0 := (g 15).rotateRight 7 ^^^ (g 15).rotateRight 18 ^^^ (g 15 >>> 3)
    let s1 := (g 2).rotateRight 17 ^^^ (g 2).rotateRight 19 ^^^ (g 2 >>> 10)
    (g 16 + s0 + g 7 + s1) :: w) w0).reverse

/-- One round on the eight working words. -/
def shaRound (v : List (BitVec 32)) (kw : BitVec 32) : List (BitVec 32) :=
  let g (i : Nat) : BitVec 32 := v.getD i 0
  let s1 := (g 4).rotateRight 6 ^^^ (g 4).rotateRight 11 ^^^ (g 4).rotateRight 25
  let ch := (g 4 &&& g 5) ^^^ (~~~(g 4) &&& g 6)
  let t1 := g 7 + s1 + ch + kw
  let s0 := (g 0).rotateRight 2 ^^^ (g 0).rotateRight 13 ^^^ (g 0).rotateRight 22
  let maj := (g 0 &&& g 1) ^^^ (g 0 &&& g 2) ^^^ (g 1 &&& g 2)
  [t1 + s0 + maj, g 0, g 1, g 2, g 3 + t1, g 4, g 5, g 6]

def shaBlock (h : List (BitVec 32)) (block : Bytes) : List (BitVec 32) :=
  let v := ((shaK.zip (shaSchedule block)).foldl (fun v p => shaRound v (p.1 + p.2)) h)
  (h.zip v).map fun p => p.1 + p.2

def sha256 (m : Bytes) : Bytes :=
  ((pieces 64 (shaPad m)).foldl shaBlock shaInit).flatMap fun w => beBytes 4 w.toNat

/-! HMAC and HKDF. -/

def hmac256 (key m : Bytes) : Bytes :=
  let k := padTo (if 64 < key.length then sha256 key else key) 64
  sha256 ((k.map (· ^^^ 0x5C)) ++ sha256 ((k.map (· ^^^ 0x36)) ++ m))

/-- HKDF with an empty salt, to 32 bytes. -/
def hkdf256 (ikm info : Bytes) : Bytes := hmac256 (hmac256 (zeros 32) ikm) (info ++ [1])

/-! P-256. -/

def p256p : Nat := 0xffffffff00000001000000000000000000000000ffffffffffffffffffffffff
def p256n : Nat := 0xffffffff00000000ffffffffffffffffbce6faada7179e84f3b9cac2fc632551
def p256b : Nat := 0x5ac635d8aa3a93e7b3ebbd55769886bc651d06b0cc53b0f63bce3c3e27d2604b
def p256g : Option (Nat × Nat) := some
  (0x6b17d1f2e12c4247f8bce6e563a440f277037d812deb33a0f4a13945d898c296,
   0x4fe342e2fe1a7f9b8ee7eb4a7c0f9e162bce33576b315ececbb6406837bf51f5)

/-- b^e mod m, by the `fuel` low bits of `e`. -/
def powMod (m : Nat) : Nat → Nat → Nat → Nat
  | 0, _, _ => 1
  | fuel + 1, b, e =>
    let r := powMod m fuel (b * b % m) (e / 2)
    if e % 2 = 1 then b * r % m else r

/-- The inverse modulo a prime. -/
def invMod (m a : Nat) : Nat := powMod m 256 (a % m) (m - 2)

/-- Addition of points; none is the point at infinity. -/
def p256add (a b : Option (Nat × Nat)) : Option (Nat × Nat) :=
  match a, b with
  | none, q => q
  | q, none => q
  | some (x1, y1), some (x2, y2) =>
    if x1 = x2 ∧ (y1 + y2) % p256p = 0 then none
    else
      let l := if x1 = x2 then (3 * x1 * x1 + (p256p - 3)) * invMod p256p (2 * y1) % p256p
        else (y2 + p256p - y1) * invMod p256p (x2 + p256p - x1) % p256p
      let x := (l * l + 2 * p256p - x1 - x2) % p256p
      some (x, (l * (x1 + p256p - x) + p256p - y1) % p256p)

/-- k · q, by the `fuel` low bits of `k`. -/
def p256mul : Nat → Nat → Option (Nat × Nat) → Option (Nat × Nat)
  | 0, _, _ => none
  | fuel + 1, k, q =>
    let r := p256mul fuel (k / 2) (p256add q q)
    if k % 2 = 1 then p256add q r else r

def p256on (x y : Nat) : Bool := y * y % p256p == (x * x * x + (p256p - 3) * x + p256b) % p256p

/-- A 65-byte uncompressed point. -/
def pointBytes (q : Option (Nat × Nat)) : Bytes :=
  match q with
  | some (x, y) => 4 :: (beBytes 32 x ++ beBytes 32 y)
  | none => []

def pointOf (bs : Bytes) : Option (Nat × Nat) :=
  let x := beNat (slice bs 1 32)
  let y := beNat (slice bs 33 32)
  if bs.length = 65 ∧ bs.head? = some 4 ∧ x < p256p ∧ y < p256p ∧ p256on x y then some (x, y) else none

/-- Whether (r, s) is a signature of a digest under public key `q`. -/
def ecdsaOk (q : Option (Nat × Nat)) (digest : Bytes) (r s : Nat) : Bool :=
  if q.isNone || r == 0 || s == 0 || decide (p256n ≤ r) || decide (p256n ≤ s) then false
  else
    let w := invMod p256n s
    let z := beNat digest
    match p256add (p256mul 256 (z * w % p256n) p256g) (p256mul 256 (r * w % p256n) q) with
    | some (x, _) => x % p256n == r
    | none => false

/-- The public keys under which (r, s) can be a signature of a digest. A record names its signer by a hash of the key alone
(R169, R528), so the signature verifies when one of these keys has that hash (log entry 18). -/
def ecdsaKeys (digest : Bytes) (r s : Nat) : List (Option (Nat × Nat)) :=
  [r, r + p256n].flatMap fun x =>
    let y := powMod p256p 256 ((x * x * x + (p256p - 3) * x + p256b) % p256p) ((p256p + 1) / 4)
    if p256p ≤ x ∨ !p256on x y then []
    else [y, p256p - y].map fun y =>
      let ri := invMod p256n r
      let z := beNat digest % p256n
      p256add (p256mul 256 (s * ri % p256n) (some (x, y))) (p256mul 256 ((p256n - z) * ri % p256n) p256g)

/-- Whether (r, s) signs a digest under the key whose SHA-256 is `keyHash`. -/
def signedBy (keyHash digest : Bytes) (r s : Nat) : Bool :=
  (ecdsaKeys digest r s).any fun q => sha256 (pointBytes q) == keyHash && ecdsaOk q digest r s

end Sys2Proof.Machine
end

