-- ==== Sys2Proof/Machine/Image.lean ====
section
/-! DEFINITION. Reading a plate image from its bytes (R150 to R169, R196, R272, R276, R297, R325, R337). -/

namespace Sys2Proof.Machine

/-- A section directory entry (R154). -/
structure DirEnt where
  n : Nat
  typ : Nat
  dflags : Nat
  index : Nat
  off : Nat
  len : Nat
  check : Nat
  rsv : Nat
deriving DecidableEq, Repr

def dirEntry (b : Bytes) (n : Nat) : DirEnt :=
  let e := slice b (128 + 32 * n) 32
  ⟨n, u16 e 0, u16 e 2, u32 e 4, u64 e 8, u64 e 16, u32 e 24, u32 e 28⟩

/-- The directory of an image (R150). -/
def dirOf (b : Bytes) : List DirEnt := (List.range (u16 b 32)).map (dirEntry b)

def findSec (d : List DirEnt) (t i : Nat) : Option DirEnt := d.find? fun e => e.typ == t && e.index == i

def secBytes (b : Bytes) (e : DirEnt) : Bytes := slice b e.off e.len

/-- A section's bytes; nothing when the image has no such section. -/
def secOf (b : Bytes) (d : List DirEnt) (t i : Nat) : Bytes := ((findSec d t i).map (secBytes b)).getD []

/-- The entries of `n` bytes that a section holds. -/
def entriesOf (n : Nat) (sec : Bytes) : List Bytes := (List.range (sec.length / n)).map fun k => slice sec (n * k) n

def stationEntry (e : Bytes) : StationEntry := ⟨u8 e 0, u8 e 1, u8 e 2⟩

def streamEntry (e : Bytes) : StreamEntry :=
  { localNo := u16 e 0, format := u8 e 2, shape := u8 e 3, srcFmt := u8 e 4, grid := u8 e 5, prod := u8 e 6, cons := u8 e 7,
    prodTile := u16 e 8, consTile := u16 e 10, consBuf := u8 e 12, queueSlots := u16 e 14, queueRegion := u16 e 16,
    hatchModule := bitsAt (u32 e 20) 0 6, hatchStream := bitsAt (u32 e 20) 16 12 }

/-- Sixteen BF16 values (R158). -/
def gridEntry (e : Bytes) : List (BitVec 16) := (List.range 16).map fun j => BitVec.ofNat 16 (u16 e (2 * j))

def regionEntry (e : Bytes) : RegionEntry :=
  ⟨u16 e 0, u8 e 2, u8 e 3, u64 e 8, u8 e 16, BitVec.ofNat 64 (u64 e 20)⟩

def prefetchEntry (e : Bytes) : PrefetchEntry :=
  ⟨u16 e 0, u8 e 2, u32 e 4, u32 e 8, u8 e 12, u16 e 14, u32 e 16, u32 e 20, u32 e 24⟩

def draftEntry (e : Bytes) : DraftEntry := ⟨u8 e 0, u16 e 2, u32 e 4, u16 e 8⟩
def bindingEntry (e : Bytes) : BindingEntry := ⟨u8 e 0, u8 e 1, BitVec.ofNat 64 (u64 e 4)⟩
def windowEntry (e : Bytes) : WindowEntry := ⟨u8 e 0, u8 e 1, u32 e 4⟩
def feedEntry (e : Bytes) : FeedEntry := ⟨u8 e 0, u16 e 2, u16 e 4, u16 e 6, u64 e 8, u64 e 16⟩

def listTabEntry (v : Nat) : ListTabEntry := ⟨bitSet v 31, bitsAt v 0 12, bitsAt v 12 12, bitsAt v 24 2⟩
def bufEntry (e : Bytes) : BufEntry := ⟨bitSet (u8 e 0) 0, bitSet (u8 e 0) 1, u8 e 1, u16 e 2, u16 e 4, u16 e 6⟩
def routeEntry (e : Bytes) : RouteEntry :=
  ⟨u8 e 0, u8 e 1, u16 e 2, (List.range (min 16 (u8 e 1))).map fun k => u16 e (8 + 2 * k)⟩

/-- A function table with its descriptor (R164). -/
def ftabOf (e : Bytes) : FTab :=
  { kind := u8 e 0, lowTail := u8 e 1, highTail := u8 e 2, lo := BitVec.ofNat 32 (u32 e 4), hi := BitVec.ofNat 32 (u32 e 8),
    entries := (List.range 1024).map fun i =>
      (BitVec.ofNat 32 (u32 e (64 + 8 * i)), BitVec.ofNat 32 (u32 e (68 + 8 * i))) }

/-- A sheet laid out as a slot (R54, R118): scale bytes of a format without scales read as zero. The data of a resident slot is all that the
slot holds past its header line, as R105 reads it. -/
def slotSheet (e : Bytes) : Sheet :=
  { stream := BitVec.ofNat 16 (u16 e 0), format := BitVec.ofNat 8 (u8 e 2), shape := BitVec.ofNat 8 (u8 e 3),
    seq := BitVec.ofNat 32 (u32 e 4), flags := BitVec.ofNat 16 (u16 e 8), valid := BitVec.ofNat 16 (u16 e 10),
    tag := BitVec.ofNat 32 (u32 e 12), origin := BitVec.ofNat 64 (u64 e 16), check := BitVec.ofNat 32 (u32 e 28),
    scales := if hasScales (u8 e 2) then padTo (slice e 32 32) 32 else zeros 32, data := e.drop 64,
    rsv := BitVec.ofNat 32 (u32 e 24) }

/-- The check value of a slot's bytes as they stand (R54, R122): the data lines are those of the FORMAT that they name, and scale bytes of a
format without scales read as zero. -/
def arrivedCheck (b : Bytes) : BitVec 32 :=
  crc32c (b.take 28 ++ (if hasScales (u8 b 2) then slice b 32 32 else zeros 32) ++ slice b 64 (64 * (dataLines (u8 b 2)).getD 0))

/-- The bytes of a sheet as a slot. -/
def sheetSlot (s : Sheet) : Bytes :=
  sheetHead s ++ leBytes 4 s.check.toNat ++ padTo s.scales 32 ++ padTo s.data (64 * (dataLines s.format.toNat).getD 0)

/-- Where the parts of a TILE section lie (R162): stroke memory, resident data, and the end. -/
def tileStrokeOff (nf : Nat) : Nat := 3200 + 8256 * nf
def popCount8 (m : Nat) : Nat := ((List.range 8).filter (bitSet m)).length
def tileResOff (b : Bytes) : Nat := tileStrokeOff (popCount8 (u8 b 4)) + ceilDiv (16 * u16 b 6) 64 * 64
def tileBufs (b : Bytes) : List BufEntry := (List.range 32).map fun k => bufEntry (slice b (128 + 16 * k) 16)
def residentBytes (e : BufEntry) : Nat := if e.valid && e.resident then e.slots * e.slotLines * 64 else 0

/-- Resident sheets in order: (buffer, slot, sheet). -/
def residentSheets (b : Bytes) : List (Nat × Nat × Sheet) :=
  (((tileBufs b).zipIdx).foldl (fun acc p =>
    let n := if p.1.valid && p.1.resident then p.1.slots else 0
    let w := p.1.slotLines * 64
    (acc.1 ++ (List.range n).map (fun k => (p.2, k, slotSheet (slice b (acc.2 + k * w) w))), acc.2 + n * w))
    (([] : List (Nat × Nat × Sheet)), tileResOff b)).1

/-- A TILE section (R162 to R164). -/
def tileSecOf (b : Bytes) : TileSec :=
  let mask := u8 b 4
  let nf := popCount8 mask
  { logical := u16 b 0, station := u8 b 2, mode := u8 b 3, ftabMask := mask, reloc := u8 b 5,
    lists := (List.range 16).map fun k => listTabEntry (u32 b (64 + 4 * k)),
    buffers := tileBufs b,
    routes := (List.range 64).map fun k => routeEntry (slice b (640 + 40 * k) 40),
    ftabs := (((List.range 8).filter (bitSet mask)).zipIdx).map fun p => (p.1, ftabOf (slice b (3200 + 8256 * p.2) 8256)),
    strokes := (List.range (u16 b 6)).map fun k => BitVec.ofNat 128 (fieldAt b (tileStrokeOff nf + 16 * k) 16),
    resident := residentSheets b }

def probeSecOf (e : Bytes) : ProbeSec := ⟨u8 e 0, u32 e 4, u16 e 8, u16 e 10, u16 e 12, u16 e 14⟩

/-- A prompt template (R276). -/
def templateOf (e : Bytes) : List (List Nat) :=
  (List.range 5).map fun a => (List.range (u8 e a)).map fun k => u32 e (8 + 508 * a + 4 * k)

def packSecOf (e : Bytes) : PackSec :=
  { draftA := BitVec.ofNat 32 (u32 e 0), draftB := BitVec.ofNat 32 (u32 e 4), vocab := u8 e 8, recordsStream := u16 e 10,
    scoreStream := u16 e 12, sketchScoreStream := u16 e 14, textStream := u16 e 16, queryStream := u16 e 18,
    templates := (List.range (u8 e 9)).map fun k => templateOf (slice e (32 + 2560 * k) 2560) }

def optTok (v : Nat) : Option Nat := if v = 0xFFFFFFFF then none else some v

def pipelineEntry (e : Bytes) : PipelineEntry :=
  { kind := u8 e 0, vocab := u8 e 1, norms := (List.range 4).map fun k => u8 e (2 + k), inStream := u16 e 8,
    outStream := u16 e 10, copyStream := u16 e 12, preTok := optTok (u32 e 16), sufTok := optTok (u32 e 20),
    maxTokens := u32 e 24 }

def shuffleSecOf (e : Bytes) : ShuffleSec :=
  ⟨BitVec.ofNat 64 (u64 e 0), u32 e 8, ((List.range 8).map fun k => u16 e (12 + 2 * k)).filter (· != 0)⟩

def decodeSecOf (e : Bytes) : DecodeSec :=
  { mode := u8 e 0, p := u8 e 1, resize := u8 e 2, k := u8 e 3, stepN := u32 e 4, outW := u16 e 8, outH := u16 e 10,
    ins := (List.range (min 8 (u8 e 3))).map fun k => u16 e (12 + 2 * k),
    patch := u16 e 28, copy := u16 e 30, recordStream := u16 e 32, caption := u16 e 34, dpbRegion := u16 e 36,
    maxSamples := u32 e 38, mean := (List.range 3).map fun k => BitVec.ofNat 32 (u32 e (42 + 4 * k)),
    std := (List.range 3).map fun k => BitVec.ofNat 32 (u32 e (54 + 4 * k)), sketchBits := u16 e 66, threshold := u16 e 68,
    retain := u32 e 70, retainRegion := u16 e 74, dedupIn := u16 e 76, verdict := u16 e 78, accept := u16 e 80 }

def deliverSecOf (e : Bytes) : DeliverSec :=
  ⟨u16 e 2, (List.range (u8 e 0)).map fun n =>
    let q := slice e (16 + 16 * n) 16
    ⟨u8 q 0, u16 q 2, u32 q 4, u32 q 8⟩⟩

/-- A plate image read from its bytes. -/
def imageOf (b : Bytes) : Image :=
  let d := dirOf b
  let hard (n : Nat) : Option Bytes := (findSec d 12 n).map (secBytes b)
  let regions := (entriesOf 32 (secOf b d 6 0)).map regionEntry
  { imageId := BitVec.ofNat 64 (u64 b 16), secVersion := u32 b 24, nanTrap := bitSet (u8 b 31) 0,
    autostart := bitSet (u8 b 31) 1,
    stations := (entriesOf 32 (secOf b d 1 0)).map stationEntry,
    softCount := u8 b 40,
    streams := (entriesOf 32 (secOf b d 2 0)).map streamEntry,
    placements := (List.range (u8 b 41)).map fun p => (entriesOf 2 (secOf b d 3 p)).map leNat,
    tiles := (List.range (u16 b 36)).map fun t => tileSecOf (secOf b d 4 t),
    grids := (entriesOf 32 (secOf b d 5 0)).map gridEntry,
    regions := regions,
    regionData := (regions.filter fun r => r.source == 1).map fun r => (r.id, secOf b d 7 r.id),
    prefetch := (entriesOf 32 (secOf b d 8 0)).map prefetchEntry,
    drafts := (entriesOf 32 (secOf b d 9 0)).map draftEntry,
    bindings := (entriesOf 16 (secOf b d 10 0)).map bindingEntry,
    windows := (entriesOf 16 (secOf b d 11 0)).map windowEntry,
    feed := ((hard stnFeed).map fun e => (entriesOf 32 e).map feedEntry).getD [],
    probe := (hard stnProbe).map probeSecOf,
    pack := (hard stnPack).map packSecOf,
    letter := ((hard stnLetter).map fun e => (entriesOf 32 (e.drop 16)).map pipelineEntry).getD [],
    shuffle := (hard stnShuffle).map shuffleSecOf,
    decode := (hard stnDecode).map decodeSecOf,
    deliver := (hard stnDeliver).map deliverSecOf,
    digest := slice b (b.length - 256 + 40) 32 }

/-- A stream of an image by its local number. -/
def Image.stream (im : Image) (l : Nat) : Option StreamEntry := if l = 0 then none else im.streams[l - 1]?

/-- The object that a BINDINGS slot of a kind names (R168). -/
def Image.bound (im : Image) (slot kind : Nat) : Option (BitVec 64) :=
  (im.bindings.find? fun b => b.slot == slot && b.kind == kind).map (·.object)

/-- Whether an image names an object: by a region, a manifest, or a binding (R285, R411). Kinds as R413 numbers them. -/
def Image.names (im : Image) (kind : Nat) (id : BitVec 64) : Bool :=
  match kind with
  | 0 => im.regions.any (fun r => r.source == 2 && r.object == id) || (im.shuffle.map fun h => h.manifest == id).getD false
  | 2 => im.bindings.any fun b => b.kind == 0 && b.object == id
  | 3 => im.bindings.any fun b => b.kind == 2 && b.object == id
  | 4 => im.bindings.any fun b => b.kind == 1 && b.object == id
  | _ => false

/-- A region that KIND 1 names holds the queues of streams (R129); a queue's slot lines. -/
def queueBytes (e : StreamEntry) : Nat := e.queueSlots * (slotLines e.format).getD 0 * 64

end Sys2Proof.Machine
end

