-- ==== Sys2Proof/Machine/TableOps.lean ====
section
/-! DEFINITION. Table descriptors, row layout, the path from an index to a row, and where rows lie (R204 to R211). -/

namespace Sys2Proof.Machine

/-- A table descriptor read from its 192 bytes (R204). -/
def tableDescOf (b : Bytes) : TableDesc :=
  let f := u8 b 14
  { tableId := BitVec.ofNat 64 (u64 b 0), version := u32 b 8, storage := u8 b 12, format := u8 b 13,
    writable := bitSet f 0, idx64 := bitSet f 1, put := bitSet f 2, home := u8 b 15, d := u16 b 16, combine := u8 b 18,
    shards := u8 b 19, hotRows := u32 b 20, rows := u64 b 24, salt := BitVec.ofNat 64 (u64 b 32),
    partA := BitVec.ofNat 64 (u64 b 40), partB := BitVec.ofNat 64 (u64 b 48), hotReads := u32 b 56,
    grid := gridEntry (slice b 64 32), member := (List.range 64).map fun s => u8 b (96 + s) }

/-- A loaded table by its identifier: its slot and itself. -/
def tableOf (s : State) (id : BitVec 64) : Option (Nat × Table) := s.tables.find? fun p => p.2.id == id

/-- Scale bytes of a row (R206). -/
def TableDesc.scaleBytes (t : TableDesc) : Nat := if hasScales t.format then t.d / 32 else 0

def TableDesc.elemBytes (t : TableDesc) : Nat := t.d * elemBits t.format / 8

/-- STRIDE (R206). -/
def TableDesc.stride (t : TableDesc) : Nat :=
  ceilDiv (t.elemBytes + t.scaleBytes + if t.writable then 8 else 0) 64 * 64

/-- The rules of R204 that concern the descriptor alone. -/
def tableDescOk (b : Bytes) : Bool :=
  let t := tableDescOf b
  let composed := t.storage == 2
  t.tableId != 0 && decide (1 ≤ t.version) && decide (t.storage ≤ 2) &&
  (decide (1 ≤ t.format) && decide (t.format ≤ 8) || t.format == 0x10 || t.format == 0x11) &&
  u8 b 14 < 8 && (if composed then t.home == 0xFF else decide (t.home ≤ 2)) &&
  t.d % 32 == 0 && decide (32 ≤ t.d) && decide (t.d ≤ 8192) &&
  (if composed then decide (t.combine ≤ 2) else t.combine == 0) &&
  decide (t.shards ≤ 64) && decide (1 ≤ t.rows) && decide (t.rows ≤ 2 ^ 40) &&
  (t.storage == 1 || t.salt == 0) && (composed || (t.partA == 0 && t.partB == 0)) &&
  zeroAt b 60 4 && (if t.format = 0x08 then gridOk t.grid else zeroAt b 64 32) &&
  ((List.range 64).all fun k => if k < t.shards then decide (t.member.getD k 0 < 64) else t.member.getD k 0 == 0xFF) &&
  zeroAt b 160 32

/-- The rules of R205 that concern other tables. A WRITABLE table has FORMAT BF16 or FP32, is not COMPOSED and is sharded. -/
def tableLoadOk (s : State) (t : TableDesc) : Bool :=
  let part (id : BitVec 64) : Option TableDesc := (tableOf s id).map fun p => p.2.cur.desc
  let partOk (p : TableDesc) : Bool := p.storage != 2 && p.shards == 0 && p.format == t.format
  (!t.writable || ((t.format == 0x10 || t.format == 0x11) && t.storage != 2 && t.shards != 0)) &&
  (if t.storage = 2 then
    match part t.partA, part t.partB with
    | some a, some b =>
      partOk a && partOk b && t.rows == a.rows * b.rows &&
      (if t.combine = 2 then t.d == a.d + b.d else a.d == t.d && b.d == t.d)
    | _, _ => false
   else true) &&
  (match tableOf s t.tableId with
   | some (_, x) =>
     x.first.storage == t.storage && x.first.format == t.format && x.first.writable == t.writable &&
     x.first.idx64 == t.idx64 && x.first.put == t.put && x.first.d == t.d && x.first.shards == t.shards &&
     x.first.member == t.member
   | none => true)

/-! From index to row (R208 to R211). -/

def mixA : BitVec 64 := 0xB5E2_4F1D_6A93_C8A7
def mixB : BitVec 64 := 0xD1C3_5A7B_93E8_2F65

/-- The first four lines of the mix of R209, and mix64 of R323. -/
def mix64 (v : BitVec 64) : BitVec 64 :=
  let x := (v ^^^ (v >>> 31)) * mixA
  let x := (x ^^^ (x >>> 29)) * mixB
  x ^^^ (x >>> 32)

/-- The physical row of an index (R209); a COMPOSED row is formed from its parts instead. -/
def TableDesc.rowOf (t : TableDesc) (i : Nat) : Nat :=
  if t.storage = 1 then (mix64 (BitVec.ofNat 64 i + t.salt)).toNat * t.rows / 2 ^ 64 else i

/-- Rows of shard `k` (R209). -/
def TableDesc.shardRows (t : TableDesc) (k : Nat) : Nat :=
  if t.shards = 0 then t.rows else ceilDiv (t.rows - min k t.rows) t.shards

/-- The shards whose rows module `m` holds, as primary and then as mirror (R207). A replicated table is one whole piece. -/
def TableDesc.holdings (t : TableDesc) (m : Nat) : List (Nat × Bool) :=
  if t.storage = 2 then []
  else if t.shards = 0 then [(0, false)]
  else
    let ks := List.range t.shards
    (ks.filter fun k => t.member.getD k 0xFF == m).map (·, false) ++
    (if t.shards < 2 then [] else (ks.filter fun k => t.member.getD ((k + 1) % t.shards) 0xFF == m).map (·, true))

/-- Pages of one holding. -/
def TableDesc.piecePages (t : TableDesc) (k : Nat) : Nat := ceilDiv (t.shardRows k * t.stride) Config.pageBytes

/-- Pages that a version takes on module `m`. -/
def TableDesc.pagesOn (t : TableDesc) (m : Nat) : Nat := ((t.holdings m).map fun h => t.piecePages h.1).sum

/-- Shard and row within the shard (R209). -/
def TableDesc.place (t : TableDesc) (r : Nat) : Nat × Nat := if t.shards = 0 then (0, r) else (r % t.shards, r / t.shards)

/-- Byte offset in the version's pages of row `r` on module `m`, the primary copy before the mirror; none when it holds
neither. -/
def TableDesc.rowOffset (t : TableDesc) (m r : Nat) : Option Nat :=
  let (k, q) := t.place r
  ((t.holdings m).foldl (fun acc h =>
    match acc with
    | (some o, n) => (some o, n)
    | (none, n) => if h.1 = k then (some (n * Config.pageBytes + q * t.stride), n) else (none, n + t.piecePages h.1))
    ((none : Option Nat), 0)).1

/-- The device address of byte `off` of a run of pages. -/
def pageAddr (pages : List Nat) (off : Nat) : Nat :=
  pages.getD (off / Config.pageBytes) 0 * Config.pageBytes + off % Config.pageBytes

/-- `n` bytes from byte `off` of a run of pages, `off` a multiple of 64. -/
def pagesRead (s : State) (pages : List Nat) (off n : Nat) : Bytes :=
  (List.range (ceilDiv n 64)).flatMap fun k => cellsRead s.mem (pageAddr pages (off + 64 * k)) (min 64 (n - 64 * k))

def pagesPoison (s : State) (pages : List Nat) (off n : Nat) : Bool :=
  (List.range (ceilDiv n 64)).any fun k => poisonedAt s (pageAddr pages (off + 64 * k)) (min 64 (n - 64 * k))

/-- A write from byte `off` of a run of pages, line by line. -/
def pagesWrite (s : State) (pages : List Nat) (off : Nat) (bs : Bytes) (mark : Bool) : State :=
  ((pieces 64 bs).zipIdx).foldl (fun s p => memWrite s (pageAddr pages (off + 64 * p.2)) p.1 mark) s

/-! Rows as data. -/

/-- The element codes and scales of a row (R206). -/
def TableDesc.rowCodes (t : TableDesc) (row : Bytes) : List Nat :=
  let w := elemBits t.format
  let v := leNat (row.take t.elemBytes)
  (List.range t.d).map fun i => bitsAt v (w * i) w

def TableDesc.rowScales (t : TableDesc) (row : Bytes) : Bytes := slice row t.elemBytes t.scaleBytes

/-- A row's values. -/
def TableDesc.rowVals (t : TableDesc) (row : Bytes) : List ExNum :=
  let sc := t.rowScales row
  (t.rowCodes row).mapIdx fun i c => scaledVal t.format t.grid (sc.getD (i / 32) 0) c

/-- The stamp of a WRITABLE row (R206). -/
def TableDesc.rowStamp (t : TableDesc) (row : Bytes) : BitVec 64 := BitVec.ofNat 64 (u64 row (t.stride - 8))

/-- A row of given element codes and stamp in a format without scales (the only formats of a WRITABLE table). -/
def TableDesc.rowBytes (t : TableDesc) (codes : List Nat) (stamp : BitVec 64) : Bytes :=
  let w := elemBits t.format
  let body := leBytes t.elemBytes (codes.foldr (fun c a => a * 2 ^ w + c % 2 ^ w) 0)
  padTo body (t.stride - 8) ++ leBytes 8 stamp.toNat

/-- The version of a table that a batch of the given ORIGIN reads (R218): CURRENT from its switch on, DRAINING before it. -/
def Table.verAt (t : Table) (origin : Nat) : TableVer := if t.since ≤ origin then t.cur else t.drain.getD t.cur

/-- A version of a table that is read, by its number. -/
def Table.version (t : Table) (n : Nat) : Option TableVer :=
  if t.cur.desc.version = n then some t.cur else t.drain.bind fun v => if v.desc.version = n then some v else none

/-- The STEP that applies at an ORIGIN (R218): a step stamped S counts from S on. -/
def Table.stepAt (t : Table) (origin : Nat) : Nat := t.stepN - (t.stamps.takeWhile fun x => decide (origin < x)).length

/-- A hot entry that a batch of the given ORIGIN reads (R226, R228). -/
def TableVer.movedFor (v : TableVer) (r origin : Nat) : Option HotEntry :=
  match mapFind v.hot r with
  | some h => if h.moved && decide (h.flip ≤ origin) then some h else none
  | none => none

/-- Whether this module serves physical row `r` to a batch of the given ORIGIN: as MEMBER of its shard, or as its mirror while MEMBER does not
serve (R214, R476, R481). -/
def TableDesc.servedHere (s : State) (t : TableDesc) (r origin : Nat) : Bool :=
  let k := (t.place r).1
  let m := t.member.getD k 0xFF
  t.shards == 0 || (m == s.folio.number && servesAt s m origin) ||
  (decide (2 ≤ t.shards) && t.member.getD ((k + 1) % t.shards) 0xFF == s.folio.number && !servesAt s m origin)

/-- A row as a batch of the given ORIGIN sees it, with its poison; none when this module does not serve it. -/
def TableVer.row (s : State) (v : TableVer) (r origin : Nat) : Option (Bytes × Bool) :=
  if !v.desc.servedHere s r origin then none
  else match v.movedFor r origin with
  | some h =>
    some (pagesRead s v.hotPages (h.slot * v.desc.stride) v.desc.stride,
      pagesPoison s v.hotPages (h.slot * v.desc.stride) v.desc.stride)
  | none =>
    (v.desc.rowOffset s.folio.number r).map fun o =>
      (pagesRead s v.pages o v.desc.stride, pagesPoison s v.pages o v.desc.stride)

/-- A row that another module serves is requested over the hatch by table, version and row, and arrives as that module sends it: its bytes and
its poison are outside this model (R214, log entry 20). -/
def remoteRow (s : State) (t : TableDesc) (r : Nat) : (Bytes × Bool) × State :=
  let (k, s) := draw (sendReply s .hatchFrame 0 (leBytes 8 t.tableId.toNat ++ leBytes 4 t.version ++ leBytes 8 r)) 1
  (((List.range t.stride).map (Config.remoteByte k), Config.remotePoison k), s)

/-- Zero codes in a table's FORMAT, with POISON: a row of a LOST shard (R211, R483). -/
def TableDesc.lostRow (t : TableDesc) : Bytes :=
  padTo (leBytes t.elemBytes ((List.range t.d).foldl (fun a _ => a * 2 ^ elemBits t.format + zeroCode t.format t.grid) 0) ++
    List.replicate t.scaleBytes 0x7F) t.stride

/-- Whether a physical row lies in a LOST shard. -/
def rowLost (s : State) (t : TableDesc) (r : Nat) : Bool := t.shards != 0 && shardLost s 0 t.tableId (r % t.shards)

/-- One row of a table by physical row, wherever it lies. -/
def anyRow (s : State) (v : TableVer) (r origin : Nat) : (Bytes × Bool) × State :=
  if rowLost s v.desc r then ((v.desc.lostRow, true), s) else
  match v.row s r origin with
  | some x => (x, s)
  | none => remoteRow s v.desc r

/-- A row's scales and codes by blocks of 32. -/
def TableDesc.rowBlocks (t : TableDesc) (row : Bytes) : BlockRows :=
  let sc := t.rowScales row
  (pieces 32 (t.rowCodes row)).mapIdx fun i cs => (sc.getD i 0, cs)

/-- A grid, or the free one where none is bound (log entry 132). -/
def boundGrid (grid : List (BitVec 16)) : List (BitVec 16) := if grid.isEmpty then (List.range 16).map Config.openGrid else grid

/-- Block rows of one format and grid as block rows of another (R166): unchanged when the formats agree, else converted under R96 and
R97. -/
def convertBlocks (f : Nat) (grid : List (BitVec 16)) (f' : Nat) (grid' : List (BitVec 16)) (bs : BlockRows) : BlockRows :=
  if f = f' then bs
  else if f' = 0x30 then bs.map fun b => (0, (b.2.zipIdx).map fun c => (Config.openSketch c.1 c.2).toNat)
  else bs.map fun b => encodeBlock f' (boundGrid grid') (b.2.map (scaledVal f (boundGrid grid) b.1))

/-- The versions of a COMPOSED table's components that a batch of the given ORIGIN reads (R209, R218). -/
def TableDesc.parts (s : State) (t : TableDesc) (origin : Nat) : Option (TableVer × TableVer) :=
  (tableOf s t.partA).bind fun a => (tableOf s t.partB).map fun b => (a.2.verAt origin, b.2.verAt origin)

/-- Whether an index is in range (R210): for COMPOSED below the product of the components' ROWS as the batch reads them. -/
def TableDesc.inRange (s : State) (t : TableDesc) (i origin : Nat) : Bool :=
  match t.storage with
  | 1 => true
  | 2 => ((t.parts s origin).map fun p => decide (i < p.1.desc.rows * p.2.desc.rows)).getD false
  | _ => decide (i < t.rows)

/-- The row of an index in range, in the table's FORMAT (R209): a COMPOSED row is rows i_A and i_B of its components, combined in
FP32 and converted. -/
def indexBlocks (s : State) (v : TableVer) (i origin : Nat) : (BlockRows × Bool) × State :=
  let t := v.desc
  if t.storage = 2 then
    match t.parts s origin with
    | some (va, vb) =>
      let n := max 1 va.desc.rows
      let (ra, s) := anyRow s va (i % n) origin
      let (rb, s) := anyRow s vb (i / n) origin
      let xa := va.desc.rowVals ra.1
      let xb := vb.desc.rowVals rb.1
      let f (x y : ExNum) : ExNum := fp32Val (fp32Code (if t.combine = 1 then ExNum.mul x y else ExNum.add x y))
      let xs := if t.combine = 2 then xa ++ xb else (xa.zip xb).map fun p => f p.1 p.2
      (((pieces 32 xs).map (encodeBlock t.format t.grid), ra.2 || rb.2), s)
    | none => (((List.range (t.d / 32)).map fun _ => (0x7F, List.replicate 32 0), true), s)
  else
    let (row, s) := anyRow s v (t.rowOf i) origin
    ((t.rowBlocks row.1, row.2), s)

end Sys2Proof.Machine
end

