-- ==== Sys2Proof/Machine/Validate.lean ====
section
/-! DEFINITION. Validation of a plate image: checks 1 to 13 of R170, each answering none when it passes, and otherwise the
SECTION and ENTRY of the load report (R173). Where several entries break one check, the first in the order written here is
reported (log entry 19). -/

namespace Sys2Proof.Machine

/-- SECTION and ENTRY of a refusal; none stands for 0xFFFF_FFFF. -/
abbrev Where := Option Nat × Option Nat

/-- The first thing of a list that fails. -/
def firstBad (xs : List (Unit → Option Where)) : Option Where := xs.findSome? fun f => f ()

def failIf (bad : Bool) (w : Where) : Option Where := if bad then some w else none

/-- The directory entry number of a section. -/
def secNo (d : List DirEnt) (t i : Nat) : Option Nat := (findSec d t i).map (·.n)

/-- Each entry of a list against a test: the first that fails is reported with its number. -/
def eachEntry (sec : Option Nat) (xs : List α) (ok : Nat → α → Bool) : Option Where :=
  ((xs.zipIdx).find? fun p => !ok p.2 p.1).map fun p => (sec, some p.2)

/-! Checks 1 to 6. -/

/-- Check 1: the signature block (R169). -/
def sigOk (keys : List (Nat × Bytes)) (kind : Nat) (b : Bytes) : Bool :=
  let g := slice b (b.length - 256) 256
  let digest := sha256 (b.take (b.length - 256))
  decide (256 ≤ b.length) && u32 g 0 == 0x4753_4B4E && u16 g 4 == 1 && zeroAt g 6 2 && zeroAt g 136 120 &&
  keys.contains (kind, slice g 8 32) && slice g 40 32 == digest &&
  signedBy (slice g 8 32) digest (beNat (slice g 72 32)) (beNat (slice g 104 32))

def check1 (s : State) (b : Bytes) : Option Where := failIf (!sigOk s.boot.policy.keys 0 b) (none, none)

/-- Check 2: the plate-image floor. -/
def check2 (s : State) (b : Bytes) : Option Where := failIf (decide (u32 b 24 < s.boot.policy.imageFloor)) (none, none)

/-- Check 3: the header (R151, R152). -/
def check3 (b : Bytes) : Option Where :=
  let total := u64 b 8
  failIf (!(u32 b 0 == 0x4950_4B4E && u16 b 4 == 1 && u16 b 6 == 128 && total == b.length && total % 64 == 0 &&
    decide (total ≤ 2 ^ 32) && u16 b 28 == 0x4E09 && decide (u8 b 30 ≤ Config.stepMajor.toNat) && decide (u8 b 31 < 4) &&
    decide (4 ≤ u16 b 32) && zeroAt b 34 2 && decide (1 ≤ u16 b 36) && decide (1 ≤ u16 b 38) && decide (1 ≤ u8 b 40) &&
    decide (1 ≤ u8 b 41) && zeroAt b 44 4 && zeroAt b 80 48)) (none, none)

/-- How many sections of a type an image has (R156). -/
def countType (d : List DirEnt) (t : Nat) : Nat := (d.filter fun e => e.typ == t).length

/-- Whether a directory entry has the INDEX and LENGTH that its type requires (R155, R156), for an image with header `b`. -/
def entryOk (b : Bytes) (d : List DirEnt) (e : DirEnt) : Bool :=
  let regions := u16 b 42
  decide (e.dflags < 2) && e.rsv == 0 && e.off % 64 == 0 &&
  decide (128 + 32 * u16 b 32 ≤ e.off) && decide (e.off + e.len ≤ b.length - 256) &&
  !(d.any fun f => f.n < e.n && (f.typ == e.typ && f.index == e.index || decide (e.off < f.off + max 1 f.len))) &&
  (match e.typ with
   | 1 => e.index == 0 && e.len % 32 == 0
   | 2 => e.index == 0 && e.len == 32 * u16 b 38
   | 3 => decide (e.index < u8 b 41)
   | 4 => decide (e.index < u16 b 36)
   | 5 => e.index == 0 && e.len % 32 == 0
   | 6 => e.index == 0 && e.len == 32 * regions
   | 7 => (regionEntry (slice (secOf b d 6 0) (32 * e.index) 32)).source == 1 && decide (e.index < regions)
   | 8 => e.index == 0 && e.len % 32 == 0
   | 9 => e.index == 0 && e.len % 32 == 0
   | 10 => e.index == 0 && e.len % 16 == 0
   | 11 => e.index == 0 && e.len % 16 == 0
   | 12 => decide (0xE0 ≤ e.index) && decide (e.index ≤ 0xE7)
   | _ => e.dflags == 1)

/-- Bytes that belong to no part are zero (R151). -/
def gapsZero (b : Bytes) (d : List DirEnt) : Bool :=
  let ends := (128 + 32 * u16 b 32) :: d.map fun e => e.off + e.len
  let starts := (d.map (·.off)) ++ [b.length - 256]
  (ends.zip starts).all fun p => zeroAt b p.1 (p.2 - p.1)

/-- Check 4: the directory (R155, R156, and what R151 says of sections). -/
def check4 (b : Bytes) (d : List DirEnt) : Option Where :=
  let regions := u16 b 42
  let filled := ((entriesOf 32 (secOf b d 6 0)).map regionEntry).zipIdx.filter fun p => p.1.source == 1
  firstBad [
    fun _ => (d.find? fun e => !entryOk b d e).map fun e => (some e.n, none),
    fun _ => failIf (countType d 1 != 1 || countType d 2 != 1 || countType d 3 != u8 b 41 || countType d 4 != u16 b 36 ||
      countType d 6 != (if regions = 0 then 0 else 1) || filled.any (fun p => (findSec d 7 p.2).isNone) ||
      !gapsZero b d) (none, none)]

/-- Check 5: every section's CHECK (R154). -/
def check5 (b : Bytes) (d : List DirEnt) : Option Where :=
  (d.find? fun e => (crc32c (secBytes b e)).toNat != e.check).map fun e => (some e.n, none)

/-- Check 6: upper ends of the bounds (R152, R156, R168); the entry reported is the first one past the bound (R173). -/
def check6 (b : Bytes) (d : List DirEnt) : Option Where :=
  let len (t : Nat) : Nat := (secOf b d t 0).length
  let tooLong (t size n : Nat) : Option Where := failIf (decide (size * n < len t)) (secNo d t 0, some n)
  firstBad [
    fun _ => failIf (decide (8192 < u16 b 32) || decide (512 < u16 b 36) || decide (4095 < u16 b 38) ||
      decide (224 < u8 b 40) || decide (8 < u8 b 41) || decide (4096 < u16 b 42)) (none, none),
    fun _ => tooLong 5 32 255, fun _ => tooLong 8 32 65536, fun _ => tooLong 9 32 255,
    fun _ => tooLong 10 16 16, fun _ => tooLong 11 16 256,
    fun _ => ((((imageOf b).bindings.zipIdx).filter fun e => e.1.kind == 0)[8]?).map fun e => (secNo d 10 0, some e.2),
    fun _ => (d.find? fun e => e.typ == 12 && decide (65536 < e.len)).map fun e => (some e.n, none)]

/-! Check 7. -/

def streamIs (im : Image) (l : Nat) (q : StreamEntry → Bool) : Bool := ((im.stream l).map q).getD false

def finiteF (v : BitVec 32) : Bool := match fp32Val v with | .fin .. => true | _ => false

/-- PROBE's section (R272, R276, R572). -/
def probeOk (im : Image) (e : Bytes) : Bool :=
  let p := probeSecOf e
  e.length == 32 && zeroAt e 1 3 && zeroAt e 16 16 && decide (1 ≤ p.batchMax) && decide (p.batchMax ≤ 64) &&
  decide (p.batchWaitNs ≤ 10_000_000) && decide (1 ≤ p.kCap) && decide (p.kCap ≤ 16384) && im.pack.isSome &&
  streamIs im p.qsketchStream (fun x => x.cons == stnProbe && x.format == 0x30 && x.shape == 1) &&
  streamIs im p.recordStream (fun x => x.prod == stnAdmit && x.cons == stnProbe) &&
  (p.textStream == 0 || streamIs im p.textStream fun x => x.prod == stnAdmit && x.cons == stnLetter)

/-- PACK's section (R276). -/
def packOk (im : Image) (e : Bytes) : Bool :=
  let p := packSecOf e
  let into (l : Nat) : Bool := l == 0 || streamIs im l fun x => x.cons == stnPack
  e.length == 32 + 2560 * u8 e 9 && decide (u8 e 9 ≤ 16) && zeroAt e 20 12 && finiteF p.draftA && finiteF p.draftB &&
  (im.bound p.vocab 0).isSome && p.recordsStream != 0 && into p.recordsStream && into p.scoreStream &&
  into p.sketchScoreStream && into p.textStream &&
  (p.queryStream == 0 || streamIs im p.queryStream (fun x => x.prod == stnLetter && x.cons == stnPack) &&
    im.letter.any fun l => l.kind == 0 && l.copyStream == p.queryStream &&
      (im.probe.map fun q => q.textStream != 0 && l.inStream == q.textStream).getD false) &&
  (List.range (u8 e 9)).all fun k =>
    let t := slice e (32 + 2560 * k) 2560
    zeroAt t 5 3 && (List.range 5).all fun a =>
      decide (u8 t a ≤ 127) && zeroAt t (8 + 508 * a + 4 * u8 t a) (508 - 4 * u8 t a)

/-- One pipeline of LETTER's section (R297, R298). PREFIX and SUFFIX are below the vocabulary's V, when it is loaded. -/
def pipelineOk (s : State) (im : Image) (e : Bytes) : Bool :=
  let p := pipelineEntry e
  let used := p.norms.takeWhile (· != 0xFF)
  let toks := p.preTok.toList ++ p.sufTok.toList
  let v := ((im.bound p.vocab 0).bind fun id => s.vocabs.find? fun x => x.2.id == id).map fun x => x.2.tokens
  let text (l : Nat) : Bool := streamIs im l fun x => x.format == 1 && x.shape == 1 && x.cons == stnLetter
  let tok (l : Nat) : Bool := streamIs im l fun x => x.format == 0x20 && x.shape == 1 && x.prod == stnLetter
  decide (p.kind ≤ 1) && (im.bound p.vocab 0).isSome && p.norms.drop used.length == List.replicate (4 - used.length) 0xFF &&
  used.all (fun n => (im.bound n 2).isSome) && zeroAt e 6 2 && zeroAt e 14 2 && zeroAt e 28 4 &&
  toks.all (fun t => (v.map fun v => decide (t < v)).getD true) &&
  (if p.kind = 1 then p.inStream == 0 && p.outStream == 0 && p.copyStream == 0 && p.maxTokens == 0
   else text p.inStream && tok p.outStream && (p.copyStream == 0 || tok p.copyStream) && p.outStream != p.copyStream &&
     decide (toks.length < p.maxTokens) && decide (p.maxTokens ≤ 131072))

/-- LETTER's section: its header, its pipelines, and no stream that serves two of them. -/
def letterBad (s : State) (im : Image) (e : Bytes) : Option (Option Nat) :=
  let n := u8 e 0
  let ps := entriesOf 32 (e.drop 16)
  let streams (p : PipelineEntry) : List Nat := [p.inStream, p.outStream, p.copyStream].filter (· != 0)
  if !(decide (1 ≤ n) && decide (n ≤ 16) && e.length == 16 + 32 * n && zeroAt e 1 15) then some none
  else
    ((ps.zipIdx).find? fun p => !pipelineOk s im p.1 ||
      ((im.letter.take p.2).flatMap streams).any (streams (pipelineEntry p.1)).contains).map fun p => some p.2

/-- SHUFFLE's section (R325). -/
def shuffleOk (im : Image) (e : Bytes) : Bool :=
  let h := shuffleSecOf e
  e.length == 32 && zeroAt e 28 4 && decide (1 ≤ h.lookahead) && decide (h.lookahead ≤ 65536) &&
  (List.range 8).all (fun k => decide (k < h.reqStreams.length) == (u16 e (12 + 2 * k) != 0)) &&
  (im.decode.map fun d => h.reqStreams.length == d.k).getD false &&
  h.reqStreams.all fun l => streamIs im l fun x => x.prod == stnShuffle && x.cons == stnFeed

def regionIs (im : Image) (r : Nat) (q : RegionEntry → Bool) : Bool := ((im.regions[r]?).map q).getD false

/-- Elements of a padded patch (R330). -/
def patchElems (p : Nat) : Nat := ceilDiv (3 * p * p) 32 * 32

/-- Patches and sheets of a sample (R330). -/
def samplePatches (d : DecodeSec) : Nat := (d.outW / max 1 d.p) * (d.outH / max 1 d.p)
def sampleSheets (d : DecodeSec) : Nat := ceilDiv (samplePatches d) 32 * (patchElems d.p / 32)

/-- DECODE's section (R328, R337). -/
def decodeOk (im : Image) (e : Bytes) : Bool :=
  let d := decodeSecOf e
  let dim (v : Nat) : Bool := v % d.p == 0 && decide (d.p ≤ v) && decide (v ≤ 2048)
  let std (v : BitVec 32) : Bool := finiteF v && !(fp32Val v).isZero
  e.length == 96 && zeroAt e 82 14 && decide (d.mode ≤ 2) && [8, 14, 16, 32].contains d.p && decide (d.resize ≤ 1) &&
  decide (1 ≤ d.k) && decide (d.k ≤ 8) && (d.mode != 0 || decide (1 ≤ d.stepN)) && (d.mode != 1 || d.stepN == 0) &&
  dim d.outW && dim d.outH && decide (samplePatches d ≤ 4096) && zeroAt e (12 + 2 * d.k) (16 - 2 * d.k) &&
  d.ins.all (fun l => streamIs im l fun x => x.prod == stnFeed && x.cons == stnDecode) &&
  streamIs im d.patch (fun x => x.prod == stnDecode && x.shape == 0) &&
  streamIs im d.copy (fun x => x.prod == stnDecode && x.cons == stnDeliver && x.shape == 0) &&
  streamIs im d.recordStream (fun x => x.prod == stnDecode && x.cons == stnDeliver) &&
  streamIs im d.caption (fun x => x.prod == stnDecode && x.cons == stnLetter) &&
  regionIs im d.dpbRegion (fun r => r.kind == 2 && decide (d.k * 2 ^ 29 ≤ r.size)) &&
  decide (1 ≤ d.maxSamples) && decide (d.maxSamples ≤ 65536) && d.mean.all finiteF && d.std.all std &&
  [256, 512, 1024].contains d.sketchBits && decide (d.threshold ≤ d.sketchBits) && decide (1 ≤ d.retain) &&
  decide (d.retain ≤ 16777216) &&
  regionIs im d.retainRegion (fun r => r.kind == 2 && decide (d.retain * d.sketchBits / 8 ≤ r.size)) &&
  streamIs im d.dedupIn (fun x => x.cons == stnProbe) &&
  streamIs im d.verdict (fun x => x.prod == stnProbe && x.cons == stnDeliver) &&
  (d.accept == 0 || streamIs im d.accept fun x => x.prod == stnProbe && x.cons == stnFeed)

/-- DELIVER's section (R334, R336, R337): a sample's sheets fit SLOT_BYTES. -/
def deliverOk (im : Image) (e : Bytes) : Bool :=
  let d := deliverSecOf e
  let need := match im.decode with
    | some x => 64 + sampleSheets x * (((im.stream x.copy).bind fun y => slotLines y.format).getD 0) * 64
    | none => 64
  let port (q : Bytes) : Bool :=
    let p : PortEntry := ⟨u8 q 0, u16 q 2, u32 q 4, u32 q 8⟩
    zeroAt q 1 1 && zeroAt q 12 4 && decide (p.module < 64) && p.slotBytes % 64 == 0 && decide (need ≤ p.slotBytes) &&
    decide (1 ≤ p.slots) && regionIs im p.region (fun r => r.kind == 1 && decide (64 + p.slots * p.slotBytes ≤ r.size))
  decide (1 ≤ u8 e 0) && decide (u8 e 0 ≤ 16) && e.length == 16 + 16 * u8 e 0 && zeroAt e 1 1 && zeroAt e 4 12 &&
  streamIs im d.tokens (fun x => x.prod == stnLetter && x.cons == stnDeliver) && (entriesOf 16 (e.drop 16)).all port

/-- An ASCII name, zero-padded (R157). -/
def nameOk (b : Bytes) : Bool := b.all (fun c => decide (c.toNat < 128)) && (b.dropWhile (· != 0)).all (· == 0)

/-- Check 7: stations (R157, R138, R139) and the HARD sections that a station's own chapter judges with reason STATION. -/
def check7 (s : State) (b : Bytes) (d : List DirEnt) (im : Image) : Option Where :=
  let sec := secNo d 1 0
  let raw := entriesOf 32 (secOf b d 1 0)
  let soft := u8 b 40
  let named := im.streams.flatMap fun x => [x.prod, x.cons]
  let hardNo (n : Nat) : Bool := decide (0xE0 ≤ n) && decide (n ≤ 0xE7)
  let reserved (n : Nat) : Bool := decide (0xE8 ≤ n) && (n != stnAdmit && n != stnResult && n != stnHatch && n != 0xFF)
  let hard (n : Nat) (ok : Bytes → Bool) : Option Where :=
    (findSec d 12 n).bind fun e => failIf (!ok (secBytes b e)) (some e.n, none)
  firstBad [
    fun _ => failIf (decide (raw.length < soft)) (sec, none),
    fun _ => eachEntry sec raw fun k e =>
      (if k < soft then u8 e 0 == k
       else hardNo (u8 e 0) && named.contains (u8 e 0) && !((im.stations.take k).drop soft).any fun x => x.number == u8 e 0) &&
      decide (u8 e 1 ≤ 7) && zeroAt e 3 5 && nameOk (slice e 8 16) && zeroAt e 24 8,
    fun _ => eachEntry sec (List.range soft) fun _ k => im.tiles.any fun t => t.station == k,
    fun _ => eachEntry (secNo d 2 0) im.streams fun _ x => !reserved x.prod && !reserved x.cons,
    fun _ => failIf (named.any fun n => hardNo n && !im.stations.any fun x => x.number == n) (sec, none),
    fun _ => hard stnFilter fun _ => false,
    fun _ => hard stnProbe (probeOk im),
    fun _ => hard stnPack (packOk im),
    fun _ => (findSec d 12 stnLetter).bind fun e => (letterBad s im (secBytes b e)).map fun w => (some e.n, w),
    fun _ => hard stnShuffle (shuffleOk im),
    fun _ => hard stnDecode (decodeOk im),
    fun _ => hard stnDeliver (deliverOk im)]

/-- Check 8: grids (R91, R158). -/
def check8 (d : List DirEnt) (im : Image) : Option Where := eachEntry (secNo d 5 0) im.grids fun _ g => gridOk g

/-! Check 9. -/

/-- A resident sheet (R164, R120). -/
def residentOk (lines : Nat) (x : Sheet) : Bool :=
  let bound := if x.shape = 0 then 32 else 1024
  checkOf x == x.check && (slotLines x.format.toNat).any (fun n => decide (n ≤ lines)) && decide (x.shape.toNat ≤ 1) &&
  decide (1 ≤ x.valid.toNat) && decide (x.valid.toNat ≤ bound) && x.flags == 0

/-- Buffers as a loaded tile has them, for the stroke rules. -/
def tileBuffers (t : TileSec) : SMap Buffer :=
  ((t.buffers.zipIdx).filter fun p => p.1.valid).map fun p =>
    (p.2, ⟨p.1.resident, p.1.stream, p.1.base, p.1.slotLines, p.1.slots, 0, []⟩)

/-- The format that the sheets of a buffer have, where the image fixes it. -/
def bufFormat (im : Image) (t : TileSec) (buf off : Nat) : Option Nat :=
  match t.buffers[buf]? with
  | some e =>
    if e.resident then (t.resident.find? fun r => r.1 == buf && r.2.1 == off).map fun r => r.2.2.format.toNat
    else (im.stream e.stream).map (·.format)
  | none => none

/-- A stroke of an image (R46, R51, R55, R67, R68, R94, R99, R128). Where the image does not fix the format of a CVT's
source, a mask of no array and a mask of one are both taken. -/
def strokeOk (im : Image) (t : TileSec) (w : BitVec 128) : Bool :=
  let k := strokeOf w
  let src := bufFormat im t k.srcA.buf k.srcA.off
  let contour := k.op == opCvt && (src == some 0x08 || (src.isNone && decide (k.arrays.length = 1)))
  fieldsOk t.mode (tileBuffers t) (fun i => (mapFind t.ftabs i).isSome)
    (fun r => ((t.routes[r]?).map fun e => e.count != 0).getD false) contour k

/-- A function-table descriptor (R164). -/
def ftabOk (e : Bytes) : Bool :=
  let f := ftabOf e
  decide (f.kind ≤ 3) && zeroAt e 3 1 && zeroAt e 12 52 &&
  (if f.kind = 0 then
    decide (f.lowTail ≤ 2) && decide (f.highTail ≤ 2) && finiteF f.lo && finiteF f.hi && ExNum.ltv (fp32Val f.lo) (fp32Val f.hi)
   else zeroAt e 1 11)

/-- A TILE section but for its strokes (R84, R128, R162 to R164). -/
def tileOk (soft streams l : Nat) (b : Bytes) : Bool :=
  let t := tileSecOf b
  let named (n : Nat) : Bool := decide (1 ≤ n) && decide (n ≤ streams)
  let list (k : Nat) (e : ListTabEntry) : Bool :=
    !bitSet (u32 b (64 + 4 * k)) 30 && bitsAt (u32 b (64 + 4 * k)) 26 4 == 0 &&
    (!e.valid || (decide (e.first ≤ e.last) && decide (e.last < t.strokes.length)))
  let buf (k : Nat) (e : BufEntry) : Bool :=
    decide (u8 b (128 + 16 * k) < 4) && zeroAt b (136 + 16 * k) 8 &&
    (!e.valid || (k != 31 && decide (3 ≤ e.slotLines) && decide (e.slotLines ≤ 65) && decide (1 ≤ e.slots) &&
      decide (e.slots ≤ 1024) && decide (e.base + e.slots * e.slotLines ≤ 32768) && (!e.resident || e.stream == 0) && (e.stream == 0 || named e.stream)))
  let route (k : Nat) (e : RouteEntry) : Bool :=
    zeroAt b (644 + 40 * k) 4 && decide (e.selector ≤ 3) && decide (e.count ≤ 16) && (e.selector != 0 || decide (e.count ≤ 1)) &&
    (if e.selector = 1 then decide (1 ≤ e.group) && decide (e.group ≤ 1024) else e.group == 0) &&
    zeroAt b (648 + 40 * k + 2 * e.count) (32 - 2 * e.count) && (e.streams.take e.count).all named
  let spans := ((t.buffers.filter (·.valid)).map fun e => (e.base, e.base + e.slots * e.slotLines)).zipIdx
  t.logical == l && decide (t.station < soft) && decide (t.mode ≤ 4) && decide (t.reloc ≤ 3) &&
  decide (t.strokes.length ≤ 4096) && zeroAt b 8 56 &&
  b.length == tileResOff b + ((tileBufs b).map residentBytes).sum &&
  (t.lists.zipIdx).all (fun p => list p.2 p.1) && (t.buffers.zipIdx).all (fun p => buf p.2 p.1) &&
  (t.routes.zipIdx).all (fun p => route p.2 p.1) &&
  spans.all (fun p => spans.all fun q => p.2 == q.2 || decide (p.1.2 ≤ q.1.1) || decide (q.1.2 ≤ p.1.1)) &&
  (List.range (popCount8 t.ftabMask)).all (fun k => ftabOk (slice b (3200 + 8256 * k) 8256)) &&
  zeroAt b (tileStrokeOff (popCount8 t.ftabMask) + 16 * t.strokes.length)
    (tileResOff b - tileStrokeOff (popCount8 t.ftabMask) - 16 * t.strokes.length) &&
  t.resident.all fun r => residentOk (((t.buffers[r.1]?).map (·.slotLines)).getD 0) r.2.2

/-- A placement (R159): its first tile outside [0, 544) or named before. -/
def placementBad (tiles : Nat) (len : Nat) (xs : List Nat) : Option (Option Nat) :=
  if len != 2 * tiles then some none
  else ((xs.zipIdx).find? fun p => decide (Config.tiles ≤ p.1) || (xs.take p.2).contains p.1).map fun p => some p.2

/-- Check 9: tiles and placements. -/
def check9 (b : Bytes) (d : List DirEnt) (im : Image) : Option Where :=
  firstBad [
    fun _ => ((im.placements.zipIdx).findSome? fun p =>
      (placementBad (u16 b 36) (secOf b d 3 p.2).length p.1).map fun w => (secNo d 3 p.2, w)),
    fun _ => ((im.tiles.zipIdx).findSome? fun p =>
      if !tileOk (u8 b 40) (u16 b 38) p.2 (secOf b d 4 p.2) then some (secNo d 4 p.2, none)
      else eachEntry (secNo d 4 p.2) p.1.strokes fun _ w => strokeOk im p.1 w)]

/-! Check 10. -/

/-- Nodes of the graph of R130, by numbers of the model's own: tiles, FEED programs, LETTER pipelines, HATCH ends, and the
other stations and endpoints. -/
def streamNodes (im : Image) (x : StreamEntry) (producing : Bool) : List Nat :=
  let stn := if producing then x.prod else x.cons
  let l := x.localNo
  let byIndex (base : Nat) (q : List Bool) : List Nat := ((q.zipIdx).filter (·.1)).map fun p => base + p.2
  let other := [40000 + stn]
  let orOther (xs : List Nat) : List Nat := if xs.isEmpty then other else xs
  if stn < 0xE0 then [if producing then x.prodTile else x.consTile]
  else if stn = stnFeed then
    orOther (byIndex 10000 (im.feed.map fun f =>
      if producing then f.kind != 3 && f.stream == l else f.start == l || (f.kind == 3 && f.stream == l)))
  else if stn = stnLetter then
    orOther (byIndex 20000 (im.letter.map fun p =>
      p.kind == 0 && (if producing then p.outStream == l || p.copyStream == l else p.inStream == l)))
  else if stn = stnHatch then [100000 + 2 * l + b2n producing]
  else other

/-- Nodes that `fuel` steps along the edges reach from `seen`. -/
def reachNodes (edges : List (List Nat × List Nat)) : Nat → List Nat → List Nat
  | 0, seen => seen
  | fuel + 1, seen =>
    let more := (edges.filter fun e => e.1.any seen.contains).flatMap (·.2)
    let next := (seen ++ more).dedup
    if next.length = seen.length then seen else reachNodes edges fuel next

/-- The lowest local stream on a cycle (R130, R173), as its entry number. -/
def cycleAt (im : Image) : Option Nat :=
  let edges := im.streams.map fun x => (streamNodes im x true, streamNodes im x false)
  ((edges.zipIdx).find? fun p =>
    let back := reachNodes edges (edges.length + 1) p.1.2
    p.1.1.any back.contains).map (·.2)

/-- One stream against R165 and what R166 says of the entry itself. -/
def streamOk (b : Bytes) (d : List DirEnt) (im : Image) (k : Nat) (x : StreamEntry) : Bool :=
  let e := slice (secOf b d 2 0) (32 * k) 32
  let station (n : Nat) : Bool := decide (0xE8 ≤ n) || im.stations.any fun q => q.number == n
  let queued := (decide (0xE0 ≤ x.cons) && decide (x.cons ≤ 0xE7)) || x.cons == stnResult || x.cons == stnHatch
  x.localNo == k + 1 && (dataLines x.format).isSome && decide (x.shape ≤ 1) && (dataLines x.srcFmt).isSome &&
  zeroAt e 13 1 && zeroAt e 18 2 && zeroAt e 24 8 &&
  (x.srcFmt == x.format || x.prod == stnFeed || x.prod == stnAdmit) &&
  (if x.format = 0x08 ∧ x.srcFmt ≠ 0x08 then decide (x.grid < im.grids.length) else x.grid == 0xFF) &&
  x.prod != 0xFF && x.cons != 0xFF && x.prod != stnResult && x.cons != stnAdmit && station x.prod && station x.cons &&
  (if x.prod < 0xE0 then ((im.tiles[x.prodTile]?).map fun t => t.station == x.prod).getD false else x.prodTile == 0xFFFF) &&
  (if x.cons < 0xE0 then
    decide (x.consBuf < 31) && ((im.tiles[x.consTile]?).map fun t => t.station == x.cons).getD false
   else x.consTile == 0xFFFF && x.consBuf == 0xFF) &&
  (if queued then
    decide (1 ≤ x.queueSlots) && decide (x.queueSlots ≤ 4096) && regionIs im x.queueRegion fun r => r.kind == 1
   else x.queueSlots == 0 && x.queueRegion == 0xFFFF) &&
  (if x.prod = stnHatch ∨ x.cons = stnHatch then decide (u32 e 20 < 2 ^ 28) && bitsAt (u32 e 20) 6 10 == 0
   else zeroAt e 20 4)

/-- Check 10: streams (R129, R130, R140, R165, R166). -/
def check10 (b : Bytes) (d : List DirEnt) (im : Image) : Option Where :=
  let sec := secNo d 2 0
  let held (r : Nat) : Nat := ((im.streams.filter fun x => x.queueRegion == r).map queueBytes).sum
  let limited (n : Nat) : Bool := decide (0xE0 ≤ n) && decide (n ≤ 0xE7)
  firstBad [
    fun _ => eachEntry sec im.streams (streamOk b d im),
    fun _ => eachEntry sec im.streams fun _ x =>
      x.queueRegion == 0xFFFF || regionIs im x.queueRegion fun r => decide (held x.queueRegion ≤ r.size),
    fun _ => eachEntry sec im.streams fun k x =>
      (!limited x.prod || decide ((im.streams.take k).countP (·.prod == x.prod) < 256)) &&
      (!limited x.cons || decide ((im.streams.take k).countP (·.cons == x.cons) < 256)),
    fun _ => (cycleAt im).map fun k => (sec, some k)]

/-- Whether a tile's own contents agree with the streams that it produces and consumes (R166): its routes name just those that it produces,
and a streaming buffer is the one to which its stream comes, with slots that hold the stream's sheets. -/
def tileStreams (im : Image) (t : TileSec) : Bool :=
  let routed := t.routes.flatMap fun r => r.streams.take r.count
  let consumes (x : StreamEntry) : Bool := x.cons == t.station && x.consTile == t.logical
  routed.all (fun l => streamIs im l fun x => x.prod == t.station && x.prodTile == t.logical) &&
  (im.streams.filter fun x => x.prod == t.station && x.prodTile == t.logical).all (fun x => routed.contains x.localNo) &&
  (im.streams.filter consumes).all (fun x => ((t.buffers[x.consBuf]?).map fun q =>
    q.valid && !q.resident && q.stream == x.localNo && decide ((slotLines x.format).getD 0 ≤ q.slotLines)).getD false) &&
  (t.buffers.zipIdx).all fun p => !p.1.valid || p.1.resident || p.1.stream == 0 ||
    streamIs im p.1.stream fun x => consumes x && x.consBuf == p.2

/-- Check 10, the conditions that concern a tile's own contents, refused with reason TILE (R166). -/
def check10Tiles (d : List DirEnt) (im : Image) : Option Where :=
  ((im.tiles.zipIdx).find? fun p => !tileStreams im p.1).map fun p => (secNo d 4 p.2, none)

/-! Check 11. -/

/-- Pages of a region (R167, R182): a SOURCE 2 region has those of its table's current version. -/
def regionPageCount (s : State) (r : RegionEntry) : Nat :=
  if r.source = 2 then ((tableOf s r.object).map fun t => t.2.cur.pages.length).getD 0 else ceilDiv r.size Config.pageBytes

/-- A region (R167). -/
def regionOk (s : State) (k : Nat) (e : Bytes) : Bool :=
  let r := regionEntry e
  r.id == k && decide (r.tier ≤ 2) && decide (r.kind ≤ 3) && zeroAt e 4 4 && zeroAt e 17 3 && zeroAt e 28 4 &&
  ((r.kind != 1 && r.kind != 2) || r.tier == 0) && (r.kind != 3 || r.tier == 1) && decide (r.source ≤ 2) &&
  (r.source != 0 || r.tier == 0) &&
  (if r.source = 2 then r.size == 0 && (tableOf s r.object).isSome
   else r.size != 0 && r.size % Config.pageBytes == 0 && r.object == 0)

/-- A PREFETCH entry (R168, R190). -/
def prefetchOk (s : State) (im : Image) (e : Bytes) : Bool :=
  let p := prefetchEntry e
  zeroAt e 3 1 && zeroAt e 13 1 && zeroAt e 28 4 &&
  regionIs im p.region (fun r => (r.kind == 0 || r.kind == 3) && decide (p.dest < r.tier) &&
    decide (p.firstPage + p.pages ≤ regionPageCount s r)) &&
  decide (1 ≤ p.pages) && decide (1 ≤ p.every) && decide (1 ≤ p.leadNs) && decide (1 ≤ p.deadlineNs) &&
  streamIs im p.triggerStream fun x => x.cons == p.trigger

/-- A TABLE_REPLICA directory (R215). -/
def replicaOk (s : State) (data : Bytes) : Bool :=
  (List.range 8).all fun k =>
    let e := slice (padTo data 512) (64 * k) 64
    let id := BitVec.ofNat 64 (u64 e 0)
    id == 0 || (u64 e 16 % 64 == 0 && zeroAt e 26 6 && gridOk (gridEntry (slice e 32 32)) &&
      ((tableOf s id).map fun t => t.2.cur.desc.d == u16 e 24).getD true)

/-- A DRAFTS entry (R168, R195). -/
def draftOk (s : State) (im : Image) (k : Nat) (e : Bytes) : Bool :=
  let x := draftEntry e
  let owners := im.stations.filter fun q => q.draft == k
  decide (x.kind ≤ 1) && zeroAt e 1 1 && zeroAt e 10 22 && decide (1 ≤ x.deadlineNs) && owners.length == 1 &&
  (if x.kind = 0 then
    regionIs im x.replica (fun r => r.kind == 3 && replicaOk s (mapGet im.regionData r.id [])) && x.sketchStream == 0 &&
    owners.all fun q => q.number == stnFeed
   else x.replica == 0xFFFF && streamIs im x.sketchStream fun y => owners.all fun q => y.cons == q.number)

/-- A FEED program (R179, R196, R212, R220). -/
def feedOk (s : State) (im : Image) (e : Bytes) : Bool :=
  let f := feedEntry e
  let region := im.regions[f.region]?
  let table := region.bind fun r => if r.source = 2 then (tableOf s r.object).map (fun t => t.2.cur.desc) else none
  let index : Bool := streamIs im f.start fun x => x.cons == stnFeed && x.format == 0x20 && x.shape == 1
  let starts : Bool := streamIs im f.start fun x => x.cons == stnFeed
  decide (f.kind ≤ 3) && zeroAt e 1 1 && zeroAt e 24 8 && f.offset % 64 == 0 && f.length % 64 == 0 &&
  streamIs im f.stream (fun x => if f.kind = 3 then x.cons == stnFeed else x.prod == stnFeed) &&
  (match f.kind with
   | 0 => region.isSome && (f.start == 0 || starts)
   | 1 => region.isSome && index &&
     (match table with
      | some t => f.offset == 0 && f.length == t.stride &&
        streamIs im f.stream fun x => x.srcFmt == t.format && x.shape == 0
      | none => true)
   | 2 => f.region == 0xFFFF && (f.start == 0 || starts)
   | _ =>
     (region.map fun r => r.tier == 0).getD false &&
     (match table with
      | some t => t.writable && f.offset == 0 && f.length == 0 && index &&
        streamIs im f.stream fun x => x.format == t.format && x.shape == 0
      | none => f.start == 0 || starts))

/-- Check 11: memory. -/
def check11 (s : State) (b : Bytes) (d : List DirEnt) (im : Image) : Option Where :=
  let raw (t : Nat) : List Bytes := entriesOf 32 (secOf b d t 0)
  firstBad [
    fun _ => eachEntry (secNo d 6 0) (raw 6) (regionOk s),
    fun _ => (im.regions.find? fun r => decide (r.size < (mapGet im.regionData r.id []).length)).map
      fun r => (secNo d 7 r.id, none),
    fun _ => eachEntry (secNo d 8 0) (raw 8) fun _ e => prefetchOk s im e,
    fun _ => eachEntry (secNo d 9 0) (raw 9) (draftOk s im),
    fun _ => eachEntry (secNo d 1 0) im.stations fun _ x => x.draft == 0xFF || decide (x.draft < im.drafts.length),
    fun _ => (findSec d 12 stnFeed).bind fun e =>
      if e.len % 32 ≠ 0 ∨ 32 * 1024 < e.len then some (some e.n, none)
      else eachEntry (some e.n) (entriesOf 32 (secBytes b e)) fun _ f => feedOk s im f]

/-! Checks 12 and 13. -/

/-- Whether a BINDINGS object of a kind is resident. -/
def boundResident (s : State) (x : BindingEntry) : Bool :=
  match x.kind with
  | 0 => s.vocabs.any fun p => p.2.id == x.object
  | 1 => s.grammars.any fun p => p.2.id == x.object
  | _ => s.norms.any fun p => p.2.id == x.object

/-- Check 12: bindings and windows (R168, R490). -/
def check12 (s : State) (b : Bytes) (d : List DirEnt) (im : Image) : Option Where :=
  firstBad [
    fun _ => eachEntry (secNo d 10 0) (entriesOf 16 (secOf b d 10 0)) fun k e =>
      let x := bindingEntry e
      decide (x.kind ≤ 2) && zeroAt e 2 2 && zeroAt e 12 4 && !((im.bindings.take k).any fun y => y.slot == x.slot) &&
      boundResident s x,
    fun _ => eachEntry (secNo d 11 0) (entriesOf 16 (secOf b d 11 0)) fun k e =>
      let w := windowEntry e
      im.stations.any (fun q => q.number == w.station) && decide (1 ≤ w.scope) && decide (w.scope < 8) && zeroAt e 2 2 &&
      zeroAt e 8 8 && decide (1 ≤ w.windowNs) && decide (w.windowNs ≤ 1_000_000_000) &&
      !((im.windows.take k).any fun y => y.station == w.station)]

/-- Pages of a tier that an image's regions take. -/
def Image.pagesIn (im : Image) (t : Nat) : Nat :=
  ((im.regions.filter fun r => r.tier == t && r.source != 2).map fun r => ceilDiv r.size Config.pageBytes).sum

/-- Pages of a context's share that its window pages hold (R239). -/
def windowHeldPages (s : State) (c t : Nat) : Nat := (s.pages.filter fun p => tierOf p.1 == t && p.2 == .window c).length

/-- Whether an image's regions go beyond what the context's window pages leave of its share (R170, R239). -/
def overShare (s : State) (c : Nat) (im : Image) : Bool :=
  (List.range 3).any fun t => decide ((ctxOf s c).share t < im.pagesIn t + windowHeldPages s c t)

/-- What the other contexts take of a limit of the module: each the more of its image and the one it is loading, so that the limit holds
whichever load completes first (R126, R139). -/
def othersTake (s : State) (c : Nat) (f : Image → Nat) : Nat :=
  ((s.ctxs.filter fun p => p.1 != c).map fun p =>
    max ((p.2.loaded.map fun l => f l.image).getD 0) ((p.2.load.map fun l => f l.image).getD 0)).sum

/-- Streams of an image that hard station `stn` produces or consumes. -/
def Image.outOf (im : Image) (stn : Nat) : Nat := (im.streams.filter fun x => x.prod == stn).length
def Image.into (im : Image) (stn : Nat) : Nat := (im.streams.filter fun x => x.cons == stn).length

/-- Check 13: streams, soft stations, the streams of each hard station, which serves every context (R140, log entry 131), and the context's
share of memory, the image that is replaced left out. -/
def check13 (s : State) (c : Nat) (im : Image) : Option Where :=
  let past (limit : Nat) (f : Image → Nat) : Bool := decide (limit < othersTake s c f + f im)
  failIf (past 16384 (fun m => m.streams.length) || past 224 Image.softCount ||
    ((List.range 8).any fun k => past 256 (fun m => m.outOf (0xE0 + k)) || past 256 (fun m => m.into (0xE0 + k))) ||
    overShare s c im) (none, none)

/-- A refusal: reason code, whether the status is PROTECTION, and where. -/
structure Refusal170 where
  reason : Nat
  protection : Bool
  loc : Where
deriving DecidableEq, Repr

/-- Checks 1 to 13 in order; `validated` runs only checks 2, 11, 12 and 13 (R246). -/
def validate (s : State) (c : Nat) (b : Bytes) (validated : Bool) : Option Refusal170 :=
  let d := dirOf b
  let im := imageOf b
  let run (reason : Nat) (again : Bool) (f : Unit → Option Where) : Option Refusal170 :=
    if validated && !again then none else (f ()).map fun w => ⟨reason, decide (reason ≤ 2), w⟩
  (run 0x01 false fun _ => check1 s b).or <| (run 0x02 true fun _ => check2 s b).or <|
  (run 0x10 false fun _ => check3 b).or <| (run 0x11 false fun _ => check4 b d).or <|
  (run 0x12 false fun _ => check5 b d).or <| (run 0x13 false fun _ => check6 b d).or <|
  (run 0x14 false fun _ => check7 s b d im).or <| (run 0x17 false fun _ => check8 d im).or <|
  (run 0x16 false fun _ => check9 b d im).or <| (run 0x15 false fun _ => check10 b d im).or <|
  (run 0x16 false fun _ => check10Tiles d im).or <|
  (run 0x18 true fun _ => check11 s b d im).or <| (run 0x19 true fun _ => check12 s b d im).or <|
  (run 0x20 true fun _ => check13 s c im)

end Sys2Proof.Machine
end

