-- ==== Sys2Proof/Machine/FeedOps.lean ====
section
/-! DEFINITION. How a station of a context reads its regions (R182 to R185), the runs of FEED programs (R196), and the protected
windows that a batch opens (R488). -/

namespace Sys2Proof.Machine

/-- A module station number from an image's own (R153). -/
def stationNo (map : List Nat) (n : Nat) : Nat := if n < 0xE0 then map.getD n 0xFF else n

/-- A region of the image that a context runs. -/
def regionOf (s : State) (c r : Nat) : Option RegionEntry := (ctxOf s c).loaded.bind fun l => l.image.regions[r]?

/-- The table that a region names, and the version that a batch of the given ORIGIN reads of it (R182, R218). -/
def regionTable (s : State) (r : RegionEntry) (origin : Nat) : Option TableVer :=
  if r.source = 2 then (tableOf s r.object).map fun t => t.2.verAt origin else none

/-- The version of a table that FEED uses for a batch: that of the batch's first admission (R218, R470). -/
def versionOrigin (s : State) (c b : Nat) (origin : Nat) : Nat := ((reqByBatch s c b).map (·.firstOrigin)).getD origin

/-- Source pages of a region (R167, R182). -/
def regionPages (s : State) (c : Nat) (r : RegionEntry) (origin : Nat) : List Nat :=
  match regionTable s r origin with
  | some v => v.pages
  | none => ((ctxOf s c).loaded.map fun l => mapGet l.regionPages r.id []).getD []

/-- Bytes of a region: SIZE, or the pages of the table it names. -/
def regionSize (s : State) (c : Nat) (r : RegionEntry) (origin : Nat) : Nat :=
  if r.source = 2 then (regionPages s c r origin).length * Config.pageBytes else r.size

/-- The table version whose pages a region has for a batch of the given ORIGIN; 0 for a region with pages of its own. -/
def regionVer (s : State) (r : RegionEntry) (origin : Nat) : Nat := ((regionTable s r origin).map (·.desc.version)).getD 0

/-- The page that serves a read of page `k` of a region at a version: the fastest VALID copy, else the source (R184). -/
def servePage (s : State) (c r ver k src : Nat) : Nat :=
  let valid := s.copies.filter fun x => x.ctx == c && x.region == r && x.ver == ver && x.page == k && x.valid
  match valid.find? fun x => x.tier == 0 with
  | some x => x.dst
  | none => match valid.find? fun x => x.tier == 1 with | some x => x.dst | none => src

/-- The pages by which reads of a region are served now. -/
def servedPages (s : State) (c : Nat) (r : RegionEntry) (origin : Nat) : List Nat :=
  (regionPages s c r origin).mapIdx fun k src => servePage s c r.id (regionVer s r origin) k src

/-- A read of a page completes: its copies were read now, and the pins of batch `b` on them are released (R185). -/
def readDone (s : State) (c r ver : Nat) (pages : List Nat) (b : Nat) : State :=
  { s with copies := s.copies.map fun x =>
    if x.ctx == c && x.region == r && x.ver == ver && pages.contains x.page then
      { x with lastRead := s.time, pins := x.pins.filter (· != b) } else x }

/-- The pages that bytes [off, off + n) of a region touch. -/
def pagesTouched (off n : Nat) : List Nat :=
  if n = 0 then [] else (List.range ((off + n - 1) / Config.pageBytes + 1 - off / Config.pageBytes)).map (off / Config.pageBytes + ·)

/-- The DRAFTS entry of a station (R168, R191). -/
def draftOf (s : State) (c stn : Nat) : Option DraftEntry :=
  (ctxOf s c).loaded.bind fun l =>
    (l.image.stations.find? fun q => stationNo l.stationMap q.number == stn).bind fun q => l.image.drafts[q.draft]?

/-- The deadline of a station for the reads of a batch with the given ORIGIN from a region of `tier` (R191). -/
def deadlineOf (s : State) (c stn origin tier : Nat) : Option Nat :=
  if tier = 0 then none else (draftOf s c stn).map fun d => origin + d.deadlineNs

/-- Whether anything of a batch is still on its way through the module or waits at FEED's scatter programs (R185, R225). -/
def batchMoving (s : State) (c b : Nat) : Bool :=
  let tag (t : BitVec 32) : Bool := tagBatch t == b && tagCtx t == c
  let mine (sh : Sheet) : Bool := tag sh.tag
  (s.streams.any fun p => p.2.ctx == c && (p.2.inflight ++ p.2.queue.map (·.1) ++ p.2.inbox ++ p.2.arrived).any mine) ||
  (s.tiles.any fun p => p.2.placed && p.2.context == c &&
    p.2.buffers.any fun q => !q.2.resident && q.2.ring.any fun z => z.2.st != .releasedAhead && mine z.2.sheet) ||
  (s.runs.any fun p => p.2.ctx == c && tag p.2.tag) || (s.reads.any fun r => r.ctx == c && r.batch == b) ||
  s.scatters.any fun x => x.ctx == c && (x.idxs ++ x.vals).any mine

/-- The latest deadline of a move of a page that is queued or under way (R203). -/
def moveDeadlineOf (s : State) (c r : Nat) (pages : List Nat) : Option Nat :=
  ((s.queued ++ s.inflight).filter fun m => m.ctx == c && m.region == r && pages.contains m.page).foldl
    (fun a m => some (max m.deadline (a.getD 0))) none

/-- Whether a window covers a tile (R488 bit 0). -/
def coversTile (w : OpenWindow) (t : Tile) : Bool := bitSet w.scope 0 && t.placed && t.context == w.ctx && t.station == w.station

/-- The windows that the image's WINDOWS entries protect for a batch (R488); a tile change still PENDING is withdrawn where one of
them opens (R489). -/
def openWindows (s : State) (c b origin : Nat) : State :=
  match (ctxOf s c).loaded with
  | none => s
  | some l =>
    let new := l.image.windows.map fun w =>
      (⟨c, stationNo l.stationMap w.station, b, w.scope, origin + w.windowNs⟩ : OpenWindow)
    let new := new.filter fun w => decide (s.time < w.till)
    let quiet (_ : Nat) (t : Tile) : Tile := if new.any fun w => coversTile w t then { t with change := none } else t
    { s with cal.windows := (s.cal.windows.filter fun w => decide (s.time < w.till)) ++ new, tiles := mapAll s.tiles quiet }

/-- A batch is formed now (R145): its number, its ORIGIN, and the windows it opens. -/
def formBatch (s : State) (c : Nat) : Nat × State :=
  let (b, s) := newBatch s c
  (b, openWindows s c b s.time)

/-- A run begins with `n` parts to come; it keeps DRAFT and SAT of the sheet that asked for it (R121). -/
def newRun (s : State) (c k : Nat) (tag : BitVec 32) (origin : BitVec 64) (base n : Nat) (flags : BitVec 16 := 0) : Nat × State :=
  (s.nextRun,
    { s with runs := mapPut s.runs s.nextRun ⟨c, k, tag, origin, base, flags &&& 0xA, List.replicate n none⟩, nextRun := s.nextRun + 1 })

/-- Part `i` of a run is there. -/
def putPart (s : State) (run i : Nat) (p : Part) : State :=
  { s with runs := mapUpd s.runs run fun r => { r with parts := listUpd r.parts i fun _ => some p } }

/-- The SWEEP run of FEED program `k` of context `c` (R196): one read of LENGTH bytes. A SWEEP has no draft path, so it waits
(R192, R193). -/
def sweepRun (s : State) (c k : Nat) (tag : BitVec 32) (origin : BitVec 64) : State :=
  match (ctxOf s c).loaded.bind fun l => l.image.feed[k]? with
  | some f =>
    let tier := ((regionOf s c f.region).map (·.tier)).getD 0
    let (n, s) := newRun s c k tag origin 0 1
    let r : TierRead :=
      { run := n, part := 0, ctx := c, batch := tagBatch tag, region := f.region, offset := f.offset, bytes := f.length,
        row := none, deadline := deadlineOf s c stnFeed origin.toNat tier, late := false, replica := false,
        moveDeadline := moveDeadlineOf s c f.region (pagesTouched f.offset f.length) }
    { s with reads := s.reads ++ [r] }
  | none => s

/-- The SWEEP programs with START 0 run once when the context starts (R196), each as a batch of its own (R145). -/
def startFeeds (s : State) (c : Nat) : State :=
  let fs := ((ctxOf s c).loaded.map fun l => l.image.feed).getD []
  (fs.zipIdx).foldl (fun s p =>
    if p.1.kind = 0 ∧ p.1.start = 0 then
      let (b, s) := formBatch s c
      sweepRun s c p.2 (tagOf c b) (BitVec.ofNat 64 s.time)
    else s) s

/-! Ingress queues in T0 (R129). -/

/-- Bytes of a slot of a stream's queue (R54). -/
def Stream.slotSize (x : Stream) : Nat := 64 * (slotLines x.format).getD 1

/-- Where slot `k` of a stream's queue lies in its QUEUE region: the queues of a region stand end to end in ascending local number. -/
def queueAt (s : State) (x : Stream) (k : Nat) : Nat :=
  let before := s.streams.filter fun p =>
    p.2.ctx == x.ctx && p.2.region == x.region && decide (0xE0 ≤ p.2.cons) && decide (p.2.localNo < x.localNo)
  (before.map fun p => p.2.slots * p.2.slotSize).sum + k % max 1 x.slots * x.slotSize

/-- The pages of a stream's QUEUE region. -/
def queuePages (s : State) (x : Stream) : List Nat :=
  ((ctxOf s x.ctx).loaded.map fun l => mapGet l.regionPages x.region []).getD []

/-- An accepted sheet is written into the next slot of its queue. -/
def storeQueued (s : State) (x : Stream) (sh : Sheet) : State :=
  pagesWrite s (queuePages s x) (queueAt s x x.accepted) (sheetSlot sh) false

/-- Whether memory poison lies on the `k`-th slot of a queue; the sheet read from it then carries POISON (R449). -/
def queuedPoison (s : State) (x : Stream) (k : Nat) : Bool :=
  pagesPoison s (queuePages s x) (queueAt s x k) x.slotSize

/-- Which slot of its queue a sheet lies in: the accepted ones take the slots in turn (R129). -/
def Stream.slotNo (x : Stream) (sh : Sheet) : Nat := x.accepted - (x.nextAccept - sh.seq).toNat

/-- A sheet of a queue as it is read from its slot. -/
def readQueued (s : State) (x : Stream) (sh : Sheet) : Sheet :=
  if queuedPoison s x (x.slotNo sh) then reflag sh (sh.flags ||| flagPoison) else sh

/-- The oldest sheet of a queue that is not taken. -/
def nextArrived (s : State) (x : Stream) : Option Sheet := x.arrived.head?.map (readQueued s x)

/-- The priority of a station of a context (R141). -/
def stationPriority (s : State) (c stn : Nat) : Nat :=
  (((ctxOf s c).loaded.bind fun l =>
    (l.image.stations.find? fun q => stationNo l.stationMap q.number == stn)).map (·.priority)).getD 0

end Sys2Proof.Machine
end

