-- ==== Sys2Proof/Machine/Tiles.lean ====
section
/-! DEFINITION. Events of a tile beside its strokes: NaN trap, handshake, clock, self-test, canary (R64, R74, R77 to R79,
R113 to R115). -/

namespace Sys2Proof.Machine

/-- FIRST_NAN_TRAP (R113 to R115): the tile's record reaches the spine. The first of a context is stamped and, with the
image's NaN-trap bit set, fires the trap and its event; later ones are ignored until the record is cleared. Of two with the same
stamp, the lower tile's comes first. -/
def execFirstNanTrap (p : Nat) (s : State) : Host.Outcome State Fault Refusal :=
  onUnit (decide (p < Config.tiles)) <|
    let t := tileOf s p
    match t.nan with
    | none => s
    | some r =>
      if r.sent || !t.placed then s
      else
        let s := setTile s p { t with nan := some { r with sent := true } }
        let x := ctxOf s t.context
        match x.nan with
        | some o =>
          if o.stamp = s.time ∧ p < o.tile then
            setCtx s t.context { x with nan := some ⟨s.time, r.seq, r.stream, r.station, o.trapped, p, r.list, r.stroke⟩ }
          else s
        | none =>
          let trap := (x.loaded.map fun l => l.image.nanTrap).getD false
          let rec0 : CtxNan := ⟨s.time, r.seq, r.stream, r.station, trap, p, r.list, r.stroke⟩
          let s := setCtx s t.context { x with nan := some rec0 }
          if trap then raiseEvent s (evVendor 3) 0xC1 else s

/-- HANDSHAKE_TIMEOUT (R78): HANDSHAKE is set and the tile halts; one in FAULT that no image places is retired at once (R71, R474). -/
def execHandshakeTimeout (p : Nat) (s : State) : Host.Outcome State Fault Refusal :=
  onUnit (decide (p < Config.tiles)) <|
    let s := updTile s p fun t => tileFault t faultHandshake true
    if (tileOf s p).st = .fault ∧ !(tileOf s p).placed then retireTile s p else s

/-- CLOCK_CHANGE (R29, R64, R74): at a stroke boundary what is pending takes effect, and a tile that had stopped for it
issues again. Away from a boundary it waits. -/
def execClockChange (p : Nat) (s : State) : Host.Outcome State Fault Refusal :=
  onUnit (decide (p < Config.tiles)) <|
    if atBoundary (tileOf s p) then
      updTile (settle s p) p fun t => if t.st = .quiescing ∧ !t.replacing then { t with st := .running } else t
    else s

/-- Whether a change of frequency or voltage waits for a stroke boundary: PENDING of TILE_CLK (R74). -/
def clockPending (s : State) (t : Tile) : Bool := t.change.isSome || decide (t.runFreq ≠ min t.freq s.power.freqCap)

/-- QUIESCE_TIMEOUT (R64): no boundary has come within 1,024 cycles of a request, so the tile stops issuing. -/
def execQuiesceTimeout (p : Nat) (s : State) : Host.Outcome State Fault Refusal :=
  onUnit (decide (p < Config.tiles)) <|
    let t := tileOf s p
    if clockPending s t && t.st == .running && !atBoundary t then setTile s p { t with st := .quiescing } else s

/-- The registers at 0x0040 to 0x0070 read zero (R77). -/
def clearCounts (s : State) (p : Nat) : State := updTile s p fun t => { t with counts := TileCounts.zero }

/-- CNT_CLR (R77). -/
def execCntClr (p : Nat) (s : State) : Host.Outcome State Fault Refusal := onUnit (decide (p < Config.tiles)) (clearCounts s p)

/-- The BAR2 offset of a tile register (R21). -/
def tileReg (p off : Nat) : Nat := 0x100_0000 + p * 0x4000 + off

/-- A self-test begins (R71, R79, R497). -/
def startTest (s : State) (t : Tile) : Tile :=
  { setPoint s.power.freqCap 132 (calVstart s) t with st := .testing, testBusy := true }

/-- TEST written (R77): in SPARE_IDLE it starts the self-test; in any other state the write is ignored with a PROTECTION
record. -/
def writeTest (s : State) (p : Nat) : State :=
  if (tileOf s p).st = .spareIdle then updTile s p (startTest s) else protReg s (tileReg p 0x20) true

/-- TEST (R77). -/
def execTest (p : Nat) (s : State) : Host.Outcome State Fault Refusal := onUnit (decide (p < Config.tiles)) (writeTest s p)

/-- The end of a self-test (R71, R79): RUNS and FAILS saturate; a tile that fails is retired. -/
def endTest (s : State) (p : Nat) (pass : Bool) : State :=
  let t := tileOf s p
  if t.st != .testing then s
  else
    let t := { t with testBusy := false, testRuns := satAdd 0xFFFF t.testRuns 1,
                      testFails := satAdd 0xFFFF t.testFails (b2n !pass), lastPass := pass }
    if pass then setTile s p { setPoint s.power.freqCap 20 0 t with st := if t.role = .spare then .spareIdle else .ready }
    else retireTile (setTile s p t) p

/-- SELF_TEST_END (R79). -/
def execSelfTestEnd (p : Nat) (pass : Bool) (s : State) : Host.Outcome State Fault Refusal :=
  onUnit (decide (p < Config.tiles)) (endTest s p pass)

/-- CANARY_FAIL (R78, R495): CANARY is set and the tile goes on; calibration acts on it. -/
def execCanaryFail (p : Nat) (s : State) : Host.Outcome State Fault Refusal :=
  onUnit (decide (p < Config.tiles)) <| updTile s p fun t => tileFault t faultCanary false

end Sys2Proof.Machine
end

