-- ==== Sys2Proof/Machine/Fabric.lean ====
section
/-! DEFINITION. Clock islands and arbiters (R27, R28, R36, R141 to R144), and the return of credits and resends (R131,
R136). -/

namespace Sys2Proof.Machine

/-- What hard stations hold for a tile goes on, by stream number, once the boundary into the tile is free. -/
def pumpInto (s : State) (boundary : Nat) : State :=
  (s.streams.filter fun p => !p.2.queue.isEmpty && (p.2.consTile.map tileBoundary) == some boundary).foldl (fun s p => pumpStream s p.1) s

/-- ISLAND_TRANSFER_ACK (R27): the transfer that a boundary holds completes, and the sender may issue the next. -/
def execIslandTransferAck (boundary : Nat) (s : State) : Host.Outcome State Fault Refusal :=
  .next <|
    let b := mapGet s.boundaries boundary ⟨false, 0⟩
    if b.outstanding then pumpInto { s with boundaries := mapPut s.boundaries boundary ⟨false, b.done + 1⟩ } boundary else s

/-! Resources, in numbers of the model's own (log entry 16). -/

/-- [0, 544 × 16) are the tile-store banks (tile × 16 + bank), inside which no priority applies (R53, R141). -/
def isBank (resource : Nat) : Bool := decide (resource < Config.tiles * 16)

/-- The arbiter of the decode engines (R328), those of the hard stations' ingress, and those of the hatch ports. -/
def engineArbiter : Nat := 0x10000
def ingressArbiter (stn : Nat) : Nat := 0x10100 + stn
def portArbiter (port : Nat) : Nat := 0x10200 + port

/-- T0 stacks from 0x10300, T1 channels from 0x10310, companion links from 0x10340. -/
def isTierArbiter (resource : Nat) : Bool := decide (0x10300 ≤ resource) && decide (resource < 0x10344)

/-- Whether an access of a station of a context waits for its grant at a memory channel or a companion link: until then it does not come
about (R144). -/
def tierHeld (s : State) (stn c : Nat) : Bool :=
  s.arbiters.any fun a => isTierArbiter a.1 && a.2.waiting.any fun r => r.2.station == stn && r.2.context == c

/-- The station of the CXL.mem window's requests, which have priority 7 (R199). -/
def stnWindow : Nat := 0xFF

/-- The priority of a request: that of its station's STATIONS entry (R141). -/
def requestPriority (s : State) (r : ArbReq) : Nat := if r.station = stnWindow then 7 else stationPriority s r.context r.station

/-- Effective priority (R142): 8 for an escalated request. -/
def effPriority (bank : Bool) (r : Requester) : Nat := if bank then 0 else if r.escalated then 8 else r.priority

/-- A request of the given priority registers unless it lost the race of R28 or its port is registered already. -/
def register (m : SMap Requester) (r : ArbReq) (priority : Nat) : SMap Requester :=
  if r.lostRace || (mapFind m r.port).isSome then m
  else mapPut m r.port ⟨r.port, r.station, r.context, priority, 0, false⟩

/-- The first port at or after the pointer among the requests of the highest effective priority (R142). -/
def arbChoice (bank : Bool) (m : SMap Requester) (pointer : Nat) : Option Requester :=
  let top := m.foldl (fun a p => max a (effPriority bank p.2)) 0
  let cand := (m.filter fun p => effPriority bank p.2 == top).map (·.2)
  match cand.find? fun r => decide (pointer ≤ r.port) with
  | some r => some r
  | none => cand.head?

/-- Requests that a grant of higher effective priority passes over (R36); 64 passes in a row escalate a request. -/
def passOver (bank : Bool) (g r : Requester) : Requester :=
  if effPriority bank r < effPriority bank g then
    { r with passes := r.passes + 1, escalated := r.escalated || decide (64 ≤ r.passes + 1) }
  else r

/-- Grants made to a station's requests under the 64-pass rule (R149). -/
def countEscalation (s : State) (g : Requester) : State :=
  if g.escalated then
    let up (l : Loaded) : Loaded :=
      { l with escalations := mapPut l.escalations g.station (satAdd (ones 32) (mapGet l.escalations g.station 0) 1) }
    updCtx s g.context fun x => { x with loaded := x.loaded.map up }
  else s

/-- ESCALATION (R36): a request passed over 64 times by higher-priority requests stands at effective priority 8. -/
def execEscalation (resource port : Nat) (s : State) : Host.Outcome State Fault Refusal :=
  .next <|
    let a := mapGet s.arbiters resource ⟨[], 0, none⟩
    let up (r : Requester) : Requester := { r with escalated := r.escalated || decide (64 ≤ r.passes) }
    { s with arbiters := mapPut s.arbiters resource { a with waiting := mapUpd a.waiting port up } }

/-- RESEND (R136): a producer asked once more for the sheet that it holds sends its copy. What is sent again is the copy:
the wire's errors belong to an arrival (SHEET_INGRESS). -/
def execResend (n : Nat) (s : State) : Host.Outcome State Fault Refusal :=
  .next <| updStream s n fun x =>
    if x.resendAsked then { x with resendAsked := false, resent := true, resends := satAdd (ones 32) x.resends 1 } else x

end Sys2Proof.Machine
end

