-- ==== Sys2Proof/Machine/Loader.lean ====
section
/-! DEFINITION. Plate-image loads and the model cache (R160, R170 to R175, R244 to R246). -/

namespace Sys2Proof.Machine

/-! The model cache. -/

/-- Bytes of the model cache (R244). -/
def cacheBytes : Nat := 12 * 2 ^ 30

def cacheFind (s : State) (id : BitVec 64) : Option (Nat × CacheEntry) := s.cache.find? fun p => p.2.imageId == id

/-- Whether an entry is in use (R244). -/
def cacheInUse (s : State) (k : Nat) (e : CacheEntry) : Bool :=
  s.ctxs.any fun p => (p.2.load.map fun l => l.imageId == e.imageId).getD false || (p.2.loaded.isSome && p.2.mcEntry == k)

/-- Evicts the least recently loaded entries that are neither in use nor pinned until `n` bytes and one entry fit; none
when they do not (R245). -/
def evict : Nat → State → Nat → Option State
  | 0, _, _ => none
  | fuel + 1, s, n =>
    if (s.cache.map fun p => p.2.bytes.length).sum + n ≤ cacheBytes ∧ s.cache.length < 64 then some s
    else
      let free := s.cache.filter fun p => !cacheInUse s p.1 p.2 && !p.2.pinned
      match free.foldl (fun best p => match best with
          | none => some p
          | some q => if p.2.lastLoad < q.2.lastLoad then some p else some q) none with
      | some p => evict fuel { s with cache := mapDrop s.cache p.1 } n
      | none => none

/-- An image is stored (R245): none of the two results when the entry that it would replace is in use, or when it does
not fit. -/
def storeImage (s : State) (b : Bytes) : Sum Nat State :=
  let id := BitVec.ofNat 64 (u64 b 16)
  let put (s : State) (k : Nat) (pin : Bool) : State :=
    { s with cache := mapPut s.cache k ⟨id, b, pin, false, s.cacheOrder + 1⟩, cacheOrder := s.cacheOrder + 1 }
  match cacheFind s id with
  | some (k, e) =>
    if cacheInUse s k e then .inl 0
    else match evict 65 { s with cache := mapDrop s.cache k } b.length with
      | some t => .inr (put t k e.pinned)
      | none => .inl 0x23
  | none =>
    match evict 65 s b.length with
    | some t => .inr (put t ((mapFree t.cache 0 64).getD 0) false)
    | none => .inl 0x23

/-- Whether the fields of an object record that every kind has are well formed (R413). -/
def recordOk (r : Bytes) (kind descBytes : Nat) : Bool :=
  r.length == 384 && u8 r 0 == kind && zeroAt r 2 6 && u64 r 8 % 4096 == 0 && u32 r 24 == descBytes && zeroAt r 28 4 &&
  zeroAt r (128 + descBytes) (256 - descBytes)

/-- IMAGE_STORE (R245, R411, R413, R436): an image of another member's namespace goes into that member's cache. -/
def execImageStore (cid : Nat) (record : Bytes) (s : State) : Host.Outcome State Fault Refusal :=
  .next <| adminCmd s cid false fun s =>
    let nsid := u8 record 1
    if !recordOk record 7 0 || !zeroAt record 32 96 then adminRefuse s cid .format
    else if nsid ≠ ownNsid s then
      if inFolio s && decide (1 ≤ nsid) && decide (nsid ≤ folioSize s) && inService s (nsid - 1) then
        onMembers s cid record fun s => adminDone s cid
      else adminRefuse s cid .format
    else match userRead s (u64 record 8) (u64 record 16) with
      | none => adminRefuse s cid .format
      | some (b, poison) =>
        if poison then adminRefuse s cid .poisoned
        else match storeImage s b with
          | .inl reason => adminRefuse s cid .format reason
          | .inr t => adminDone t cid

/-- A pin or unpin (R244). -/
def setPin (s : State) (cid : Nat) (id : BitVec 64) (pin : Bool) : State :=
  match cacheFind s id with
  | some (k, e) => adminDone { s with cache := mapPut s.cache k { e with pinned := pin } } cid
  | none => adminRefuse s cid .format

/-- CACHE_PIN with bit 8 set (R244). -/
def execCachePin (cid : Nat) (imageId : BitVec 64) (s : State) : Host.Outcome State Fault Refusal :=
  .next <| adminCmd s cid false fun s => setPin s cid imageId true

/-- CACHE_PIN with bit 8 clear (R244): an unpin of an entry that is not pinned has no effect. -/
def execCacheUnpin (cid : Nat) (imageId : BitVec 64) (s : State) : Host.Outcome State Fault Refusal :=
  .next <| adminCmd s cid false fun s => setPin s cid imageId false

/-! Starting a load. -/

/-- The load report (R173). -/
def writeReport (s : State) (c : Nat) (id : BitVec 64) (placement reason : Nat) (w : Where) (map : List Nat) : State :=
  updCtx s c fun x => { x with report := some ⟨id, placement, reason, w.1, w.2, s.time, map⟩ }

/-- A command's refusal, when the load came from a command. -/
def refuseLoad (s : State) (cid : Option Nat) (st : Status) (reason : Nat) : State :=
  match cid with
  | some cid => adminRefuse s cid st reason
  | none => s

/-- A load's refusal whose reason no rule fixes here: REASON is free (log entry 50). -/
def refuseFree (s : State) (cid : Option Nat) (c : Nat) (id : BitVec 64) : State :=
  let (k, s) := draw s 1
  refuseLoad (writeReport s c id 0xFF (Config.eventField 6 k % 256) (none, none) []) cid .format 0

/-- Whether a load comes from a command of the head's host, which the members carry out too (R436). -/
def askLoad (answer : Nat → Bool) (s : State) (cid : Option Nat) (c : Nat) (id : BitVec 64) : Bool × State :=
  if cid.isSome then askMembers answer s (leBytes 1 c ++ leBytes 8 id.toNat) else (false, s)

/-- The steps of a load up to its allocation (R170, R171, R174, R246). In a folio every member whose cache holds the image loads it, and when
any refuses the load is released on all; the head's own refusal is the lowest-numbered (R436). -/
def startLoad (s : State) (cid : Option Nat) (c : Nat) (id : BitVec 64) : State :=
  match cacheFind s id with
  | none =>
    let (held, s) := askLoad Config.farHolds s cid c id
    if !held then refuseLoad (writeReport s c id 0xFF 0x24 (none, none) []) cid .format 0x24
    else
      let (no, s) := askLoad Config.farRefuses s cid c id
      if no then refuseFree s cid c id else (cid.map (adminDone s)).getD s
  | some (k, e) =>
    match validate s c e.bytes e.validated with
    | some r =>
      let rid := if r.reason = 1 then 0 else BitVec.ofNat 64 (u64 e.bytes 16)
      refuseLoad (writeReport s c rid 0xFF r.reason r.loc []) cid (if r.protection then .protection else .format) r.reason
    | none =>
      let (no, s) := askLoad Config.farRefuses s cid c id
      if no then refuseFree { s with cache := mapPut s.cache k { e with validated := true } } cid c id else
      let s := { s with cache := mapPut s.cache k { e with validated := true, lastLoad := s.cacheOrder + 1 },
                        cacheOrder := s.cacheOrder + 1, allocOrder := s.allocOrder + 1 }
      let x := ctxOf s c
      let l : Load :=
        { cid := cid, imageId := id, image := imageOf e.bytes, phase := if x.st = .configured then .allocating else .draining,
          order := s.allocOrder, placement := 0xFF, tileMap := [], stationMap := [], regionPages := [], excluded := [],
          retried := false }
      setCtx s c { x with load := some l, st := if x.st = .configured then x.st else .replacing }

/-- Whether R235 allows a load command. -/
def mayLoad (x : Ctx) : Bool := x.st == .configured || x.st == .loaded || x.st == .running

/-- A load that R235 does not allow is refused with FORMAT: one that names no cached entry as R246 says; another has a report as every
refusal (R173), whose REASON no rule states: it is free (log entry 50). -/
def stateRefusal (s : State) (cid : Option Nat) (c : Nat) (id : BitVec 64) : State :=
  if (cacheFind s id).isNone then startLoad s cid c id else refuseFree s cid c id

/-- Loads that waited for an earlier one of the context (R175), taken in order of submission until one is in progress. -/
def nextLoads : Nat → State → Nat → State
  | 0, s, _ => s
  | fuel + 1, s, c =>
    let x := ctxOf s c
    match x.loadQueue with
    | [] => s
    | (cid, id) :: rest =>
      if x.load.isSome then s
      else
        let s := setCtx s c { x with loadQueue := rest }
        nextLoads fuel (if mayLoad x then startLoad s cid c id else stateRefusal s cid c id) c

/-- A load is submitted: it waits while one of the context is in progress (R175), and is refused where R235 does not allow
it. -/
def submitLoad (s : State) (cid : Option Nat) (c : Nat) (id : BitVec 64) : State :=
  let x := ctxOf s c
  if x.load.isSome then setCtx s c { x with loadQueue := x.loadQueue ++ [(cid, id)] }
  else if mayLoad x then startLoad s cid c id
  else stateRefusal s cid c id

/-- IMAGE_LOAD (R170 checks 1 to 13, R174 steps 1 and 2, R246). -/
def execImageLoad (cid ctx : Nat) (imageId : BitVec 64) (s : State) : Host.Outcome State Fault Refusal :=
  onUnit (decide (ctx < 16)) <| adminCmd s cid false fun s => submitLoad s (some cid) ctx imageId

/-! Allocation. -/

/-- Domains that a placement needs: those of its tiles, and PD18 when the image uses DECODE (R37, R38). -/
def placementDomains (im : Image) (ps : List Nat) : List Nat :=
  (ps.map tileDomain).dedup ++ if im.stations.any fun q => q.number == stnDecode then [18] else []

/-- The first condition of R160, with the share of R239. -/
def placementFits (s : State) (x : Ctx) (l : Load) (ps : List Nat) : Bool :=
  decide (ps.length ≤ x.tileLimit) &&
  ps.all fun p =>
    let t := tileOf s p
    t.role == .service && !t.placed && !l.excluded.contains p && bitSet x.halves (tileDomain p - 5) &&
    (t.st == .ready || (t.st == .off && !domainOn s (tileDomain p)))

/-- The second condition of R160: the domains still off can all be woken (R513). -/
def canWakeAll (s : State) (ds : List Nat) : Bool :=
  decide ((allocW s + ((ds.filter fun d => !domainOn s d).map domainW).sum) * 100 ≤ budgetW s * 94) ||
  ds.all (domainOn s)

/-- Station numbers that resident contexts and loads hold (R153). -/
def stationsHeld (s : State) : List Nat :=
  s.ctxs.flatMap fun p => ((p.2.loaded.map (·.stationMap)).getD []) ++ ((p.2.load.map (·.stationMap)).getD [])

/-- The lowest free module station numbers for an image's soft stations (R153). -/
def allotStations (s : State) (n : Nat) : List Nat :=
  let held := stationsHeld s
  ((List.range 0xE0).filter fun k => !held.contains k).take n

/-- Pages for the regions of an image, each zeroed and filled from its REGION_DATA (R167, R171). -/
def allotRegions (s : State) (c : Nat) (im : Image) : Option (SMap (List Nat) × State) :=
  (im.regions.filter fun r => r.source != 2).foldl (fun acc r =>
    acc.bind fun a =>
      (allocPages a.2 r.tier (ceilDiv r.size Config.pageBytes) (.region c r.id)).map fun p =>
        let s := p.1.foldl zeroPage p.2
        (mapPut a.1 r.id p.1, pagesWrite s p.1 0 (mapGet im.regionData r.id []) false)) (some ([], s))

/-- A load leaves: its tiles not in FAULT return to READY with no lists, and those in FAULT are retired (R172, R474); its
pages go back; the context has no plate image. -/
def dropLoad (s : State) (c : Nat) : State :=
  let s := freeTiles s (placedTiles s c)
  let s := freeWhere s fun u => match u with | .region c' _ => c' == c | _ => false
  let s := updCtx s c fun x => { x with load := none, loaded := none, mcEntry := 0 }
  dropIdleDomains { s with streams := mapFilter s.streams fun _ x => x.ctx != c }

/-- Starts that waited for a load are completed with a status; those that waited are forgotten (R175). -/
def endStarts (s : State) (c : Nat) (ok : Bool) : State :=
  let cids := (ctxOf s c).pendingStart
  let s := updCtx s c fun x => { x with pendingStart := [] }
  cids.foldl (fun s cid => if ok then adminDone s cid else adminRefuse s cid .format) s

/-- A load ends without an image (R172, R235): the context is CONFIGURED. -/
def failLoad (s : State) (c : Nat) (l : Load) (st : Status) (reason : Nat) : State :=
  let s := writeReport s c l.image.imageId 0xFF reason (none, none) []
  let s := enterCtx (dropLoad s c) c .configured
  nextLoads 4096 (endStarts (refuseLoad s l.cid st reason) c false) c

/-- The context whose load takes the allocation lock next: the earliest of those whose validation has ended (R175). -/
def lockTurn (s : State) (c : Nat) (l : Load) : Bool :=
  s.ctxs.all fun p => p.1 == c || (p.2.load.map fun m => m.phase != .allocating || decide (l.order < m.order)).getD true

/-- LOAD_ALLOCATION (R160, R171 step 1, R175): the first placement that fits, its domains woken, station numbers and pages
allotted; its tiles enter LOADING. -/
def execLoadAllocation (ctx : Nat) (s : State) : Host.Outcome State Fault Refusal :=
  onUnit (decide (ctx < 16)) <|
    let x := ctxOf s ctx
    match x.load with
    | none => s
    | some l =>
      if l.phase != .allocating || !lockTurn s ctx l then s
      else
        let cand := (l.image.placements.zipIdx).filter fun p => placementFits s x l p.1
        match cand.find? fun p => canWakeAll s (placementDomains l.image p.1) with
        | none => failLoad s ctx l .format (if cand.isEmpty then 0x21 else 0x22)
        | some (ps, k) =>
          let map := allotStations s l.image.softCount
          match if overShare s ctx l.image then none else allotRegions s ctx l.image with
          | none => failLoad s ctx l .format 0x20
          | some (pages, s) =>
            let s := (placementDomains l.image ps).foldl (fun s d => if domainOn s d then s else wakeDomain s d) s
            let s := ps.foldl (fun s p => updTile s p fun t =>
              { unplace t with st := .loading, placed := true, context := ctx }) s
            let l := { l with phase := .writing, placement := k, tileMap := ps, stationMap := map, regionPages := pages }
            updCtx s ctx fun x => { x with load := some l }

/-! Writing the tiles. -/

/-- Module stream number of a context's local stream (R153); 0 names no stream. -/
def streamNo (c l : Nat) : Nat := if l = 0 then 0 else c * 4096 + l

/-- A buffer as loaded: a resident one has all its slots present (R55). -/
def loadBuffer (c : Nat) (t : TileSec) (k : Nat) (e : BufEntry) : Buffer :=
  { resident := e.resident, stream := streamNo c e.stream, base := e.base, slotLines := e.slotLines, slots := e.slots,
    head := 0, ring := (t.resident.filter fun r => r.1 == k).map fun r => (r.2.1, ⟨.present, true, r.2.2⟩) }

/-- What a selector code names (R163). -/
def selectorOf (k : Nat) : Selector := match k with | 0 => .single | 1 => .rotate | 2 => .broadcast | _ => .byTag

/-- A tile's section written into a physical tile (R171 step 3). The registers at 0x0040 to 0x0070 keep their counts. -/
def writeTile (c : Nat) (map : List Nat) (sec : TileSec) (t : Tile) : Tile :=
  let lists := ((sec.lists.zipIdx).filter fun p => p.1.valid).map fun p => (p.2, (⟨p.1.first, p.1.last, p.1.islot⟩ : ListEntry))
  let islots := (List.range 4).filterMap fun n =>
    (lists.find? fun p => p.2.islot == n).map fun p => (n, (⟨p.1, p.2.first⟩ : IssueSlot))
  { unplace t with
    st := .ready, placed := true, context := c, station := stationNo map sec.station, mode := sec.mode,
    logical := sec.logical, nlists := lists.length,
    buffers := ((sec.buffers.zipIdx).filter fun p => p.1.valid).map fun p => (p.2, loadBuffer c sec p.2 p.1),
    routes := ((sec.routes.zipIdx).filter fun p => p.1.count != 0).map fun p =>
      (p.2, ⟨selectorOf p.1.selector, p.1.group, p.1.streams.map (streamNo c), 0, 0⟩),
    strokes := sec.strokes, lists := lists, islots := islots, ftabs := sec.ftabs, nan := none }

/-- A stream as armed (R127, R131). -/
def armStream (c : Nat) (l : Load) (e : StreamEntry) : Stream :=
  let buf := ((l.image.tiles[e.consTile]?).bind fun t => t.buffers[e.consBuf]?).map (·.slots)
  let slots := if e.cons < 0xE0 then buf.getD 0 else e.queueSlots
  let phys (n t : Nat) : Option Nat := if n < 0xE0 then l.tileMap[t]? else none
  { ctx := c, localNo := e.localNo, format := e.format, shape := e.shape, srcFmt := e.srcFmt, grid := l.image.grids[e.grid]?,
    prod := stationNo l.stationMap e.prod, cons := stationNo l.stationMap e.cons, prodTile := phys e.prod e.prodTile,
    consTile := phys e.cons e.consTile, consBuf := e.consBuf, slots := slots, region := e.queueRegion,
    hatchModule := e.hatchModule, hatchStream := e.hatchStream, credits := slots, returning := 0, inflight := [], holds := [],
    resendAsked := false, resent := false, nextSend := 0, nextAccept := 0, present := 0, accepted := 0, resends := 0,
    substitutes := 0, zeroNs := 0, lastTag := 0, lastOrigin := 0, queue := [], owed := 0, inbox := [], arrived := [] }

/-- The counts and station data of a context that begin anew with a plate image (R145, R171, R203, R318, R332, R339). -/
def freshCtx (x : Ctx) : Ctx :=
  { x with batchCtr := 0, tier := Ctx.empty.tier, ltr := Ctx.empty.ltr, dec := Ctx.empty.dec, delivery := none,
           samples := [], ends := [], captions := [], produced := [], retained := [], probeWait := [], feeds := [] }

/-- A delivery ring's header as the module writes it (R334). -/
def ringHeader (p : PortEntry) : Bytes := zeros 16 ++ leBytes 4 p.slots ++ leBytes 4 p.slotBytes ++ zeros 40

/-- A ring's pages are mapped into the window, at the lowest window pages that are free (R334, log entry 29). -/
def mapRing (s : State) (c : Nat) (pages : List Nat) : State :=
  let ws := takeFree (pages.length + s.host.window.length + 1) 0 (s.host.window.map (·.1)) pages.length
  setWindow s ((ws.zip pages).foldl (fun m p => mapPut m p.1 ⟨true, p.2, c⟩) s.host.window)

/-- Delivery rings on this module are set up by the load (R334). -/
def armRings (s : State) (c : Nat) (l : Load) : State :=
  match l.image.deliver with
  | none => s
  | some d => d.ports.foldl (fun s p =>
      if p.module = s.folio.number then
        let ps := mapGet l.regionPages p.region []
        mapRing (pagesWrite s ps 0 (ringHeader p) false) c ps
      else s) s

/-- Whether a window page is one of a delivery ring (R403). -/
def ringPage (s : State) (w : WinPage) : Bool := match mapFind s.pages w.page with | some (.window _) => false | _ => true

/-- R171 steps 3 to 5. -/
def finishLoad (s : State) (c : Nat) (l : Load) : State :=
  let s := ((l.tileMap.zip l.image.tiles)).foldl (fun s p =>
    updTile s p.1 fun t => readyPoint s (writeTile c l.stationMap p.2 t)) s
  let streams := l.image.streams.map fun e => (streamNo c e.localNo, armStream c l e)
  let s := { s with streams := streams.foldl (fun m p => mapPut m p.1 p.2) (mapFilter s.streams fun _ x => x.ctx != c) }
  let s := armRings s c l
  let entry := ((cacheFind s l.imageId).map (·.1)).getD 0
  let loaded : Loaded := ⟨l.image, l.placement, l.tileMap, l.stationMap, l.regionPages, []⟩
  let s := updCtx s c fun x => { freshCtx x with loaded := some loaded, load := none, mcEntry := entry, nan := none }
  let s := writeReport s c l.image.imageId l.placement 0 (none, none) l.stationMap
  let start := l.image.autostart || !(ctxOf s c).pendingStart.isEmpty
  let s := match l.cid with | some cid => adminDone s cid 0 l.placement | none => s
  let s := if start then startFeeds (enterCtx s c .running) c else enterCtx s c .loaded
  nextLoads 4096 (endStarts (dropIdleDomains s) c true) c

/-- MC_ENTRY while a replacement's old image is gone: the entry of the image that is coming (R250). -/
def newEntry (s : State) (x : Ctx) (l : Load) : Nat :=
  if x.st = .replacing then ((cacheFind s l.imageId).map (·.1)).getD 0 else 0

/-- LOAD_COMPLETE (R171, R172): the logical tiles that entered FAULT while LOADING, and whether the image could not be
read. -/
def execLoadComplete (ctx : Nat) (faults : List Nat) (poisoned : Bool) (s : State) : Host.Outcome State Fault Refusal :=
  onUnit (decide (ctx < 16)) <|
    match (ctxOf s ctx).load with
    | none => s
    | some l =>
      if l.phase != .writing then s
      else
        let bad := (faults.filterMap fun k => l.tileMap[k]?) ++ (l.tileMap.filter fun p => (tileOf s p).st == .fault)
        let s := bad.foldl (fun s p => updTile s p fun t => { t with st := .fault }) s
        if poisoned then failLoad s ctx l .poisoned 0x30
        else if bad.isEmpty then finishLoad s ctx l
        else
          let s := dropLoad s ctx
          let l := { l with phase := .allocating, tileMap := [], stationMap := [], regionPages := [],
                            excluded := l.excluded ++ bad, retried := true }
          updCtx s ctx fun x => { x with load := some l, mcEntry := newEntry s x l }

/-- The old image of a context leaves (R174 step 4, R201): its tiles to READY, its regions, copies, queued moves and
streams gone. -/
def dropImage (s : State) (c : Nat) : State :=
  let s := freeTiles s (placedTiles s c)
  let s := setWindow s (mapFilter s.host.window fun _ w => !(w.owner == c && ringPage s w))
  let s := freeWhere s fun u => match u with | .region c' _ => c' == c | .staging c' => c' == c | _ => false
  let s := updCtx s c fun x => { freshCtx x with loaded := none, mcEntry := 0 }
  { s with
    streams := mapFilter s.streams fun _ x => x.ctx != c
    copies := s.copies.filter fun x => x.ctx != c
    queued := s.queued.filter fun m => m.ctx != c
    inflight := s.inflight.filter fun m => m.ctx != c
    reads := s.reads.filter fun r => r.ctx != c
    scatters := s.scatters.filter fun r => r.ctx != c
    runs := mapFilter s.runs fun _ r => r.ctx != c
    encodes := mapFilter s.encodes fun n _ => n / 4096 != c
    engines := mapFilter s.engines fun _ e => e.ctx != c
    cal.windows := s.cal.windows.filter fun w => w.ctx != c }

/-- Whether requests, batches of FEED or moves of a context are still under way, or a re-stencil of one of its tiles (R174, R175, R201). -/
def stillDrains (s : State) (c : Nat) : Bool :=
  inFlight s c != 0 || (s.inflight.any fun m => m.ctx == c) || (s.runs.any fun r => r.2.ctx == c) || (s.reads.any fun r => r.ctx == c) ||
  (placedTiles s c).any fun p => (tileOf s p).st == .fault || (tileOf s p).st == .loading

/-- A tile whose plate image is being replaced stops issuing; once nothing executes on it, it is READY (R71). -/
def quiesceTile (t : Tile) : Tile :=
  if t.st = .running ∨ t.st = .quiescing then
    if t.exec = [] then { t with st := .ready, replacing := false } else { t with st := .quiescing, replacing := true }
  else t

/-- REPLACEMENT_DRAINED (R71, R174 steps 3 to 5, R175, R201): nothing admitted is still under way, so the old image's tiles pass through
QUIESCING to READY; with all of them there the image leaves and allocation follows. While strokes still execute on one, the step comes
again when they have completed. -/
def execReplacementDrained (ctx : Nat) (s : State) : Host.Outcome State Fault Refusal :=
  onUnit (decide (ctx < 16)) <|
    let x := ctxOf s ctx
    match x.load with
    | none => s
    | some l =>
      if l.phase != .draining || stillDrains s ctx then s
      else
        let s := (placedTiles s ctx).foldl (fun s p => updTile s p quiesceTile) s
        if (placedTiles s ctx).any fun p => (tileOf s p).st == .quiescing then s
        else updCtx (dropImage s ctx) ctx fun x => { x with load := some { l with phase := .allocating }, mcEntry := newEntry s x l }

end Sys2Proof.Machine
end

