-- ==== Sys2Proof/Machine/Contexts.lean ====
section
/-! DEFINITION. The commands of contexts (R116, R234 to R240, R248, R411). -/

namespace Sys2Proof.Machine

/-- A context record (R236). -/
def ctxRecordOk (r : Bytes) : Bool :=
  r.length == 32 && u8 r 0 < 16 && u8 r 1 != 0 && decide (1 ≤ u16 r 2) && decide (u16 r 2 ≤ 512) && decide (1 ≤ u16 r 4) &&
  decide (u16 r 4 ≤ 256) && zeroAt r 6 2 && zeroAt r 20 12

/-- The context with a record's shares (R236). -/
def withShares (x : Ctx) (r : Bytes) : Ctx :=
  { x with halves := u8 r 1, tileLimit := u16 r 2, seqLimit := u16 r 4, fastPages := u32 r 8, midPages := u32 r 12,
           slowPages := u32 r 16 }

/-- The sum of SEQ_LIMIT over all contexts not EMPTY. -/
def sumSeqLimit (s : State) : Nat := (s.ctxs.map fun p => if p.2.st = .empty then 0 else p.2.seqLimit).sum

/-- Configure (R237, R240): none when it is refused. -/
def configureCtx (s : State) (r : Bytes) : Option State :=
  let c := u8 r 0
  let x := ctxOf s c
  if !ctxRecordOk r || !(x.st == .empty || x.st == .configured) || x.load.isSome then none
  else
    let t := setCtx s c { withShares x r with st := .configured }
    if serviceTiles t < sumTileLimit t ∨ 256 < sumSeqLimit t then none
    else if (List.range 3).any fun k => decide (tierCap t k < reservePages k + sumShares t k + objectPages t k) then none
    else some (clearOvercommit t)

/-- CTX_CONFIGURE (R237, R436). -/
def execCtxConfigure (cid : Nat) (record : Bytes) (s : State) : Host.Outcome State Fault Refusal :=
  .next <| adminCmd s cid false fun s =>
    if (configureCtx s record).isNone then adminRefuse s cid .format
    else onMembers s cid record fun s => adminDone ((configureCtx s record).getD s) cid

/-- RELEASE (R235, R240, R407, R436): not while a load is in progress or a ring names the context. -/
def execCtxRelease (cid ctx : Nat) (s : State) : Host.Outcome State Fault Refusal :=
  onUnit (decide (ctx < 16)) <| adminCmd s cid false fun s =>
    let x := ctxOf s ctx
    if x.st != .configured || x.load.isSome || s.host.rings.any fun p => p.2.ctx == ctx then adminRefuse s cid .format
    else onMembers s cid (ctlFrame ctx 0) fun s =>
      let s := freeWhere s fun u => pageCtx u == some ctx
      let s := setWindow { s with ctxs := mapDrop s.ctxs ctx } (mapFilter s.host.window fun _ w => w.owner != ctx)
      adminDone (clearOvercommit s) cid

/-- START (R175, R235, R436): one that comes before a load completes takes effect when it does. -/
def execCtxStart (cid ctx : Nat) (s : State) : Host.Outcome State Fault Refusal :=
  onUnit (decide (ctx < 16)) <| adminCmd s cid false fun s =>
    let x := ctxOf s ctx
    if x.load.isNone && x.st != .loaded then adminRefuse s cid .format
    else onMembers s cid (ctlFrame ctx 1) fun s =>
      if x.load.isSome then setCtx s ctx { x with pendingStart := x.pendingStart ++ [cid] }
      else adminDone (startFeeds (enterCtx s ctx .running) ctx) cid

/-- STOP (R235, R338, R436): a delivery job issues no new position; with nothing admitted the context is LOADED at once. -/
def execCtxStop (cid ctx : Nat) (s : State) : Host.Outcome State Fault Refusal :=
  onUnit (decide (ctx < 16)) <| adminCmd s cid false fun s =>
    let x := ctxOf s ctx
    if x.st = .running then onMembers s cid (ctlFrame ctx 2) fun s =>
      let stop (d : Delivery) : Delivery := { d with stopped := true }
      adminDone (afterReq (setCtx s ctx { x with st := .stopping, delivery := x.delivery.map stop }) ctx) cid
    else adminRefuse s cid .format

/-- A LOADED context's image goes (R235). -/
def unloadImage (s : State) (c : Nat) : State := enterCtx (dropIdleDomains (dropImage s c)) c .configured

/-- Unloads that waited are carried out once the context is LOADED: the first does it, and no other finds an image (R235, R248). -/
def endUnloads (s : State) (c : Nat) : State :=
  let x := ctxOf s c
  match x.pendingUnload with
  | [] => s
  | cid :: rest =>
    if x.st ≠ .loaded then s
    else rest.foldl (fun s n => adminRefuse s n .format) (adminDone (unloadImage (setCtx s c { x with pendingUnload := [] }) c) cid)

/-- Whether an unload of a context waits: a scatter batch of it waits for a hot slot while it stops (R248). -/
def unloadWaits (s : State) (c : Nat) : Bool := (ctxOf s c).st == .stopping && s.updates.any fun u => u.ctx == c && u.hotWaited

/-- UNLOAD (R235, R248, R436, R474). -/
def execCtxUnload (cid ctx : Nat) (s : State) : Host.Outcome State Fault Refusal :=
  onUnit (decide (ctx < 16)) <| adminCmd s cid false fun s =>
    let x := ctxOf s ctx
    if x.st = .loaded ∧ x.load.isNone then onMembers s cid (ctlFrame ctx 3) fun s => adminDone (unloadImage s ctx) cid
    else if unloadWaits s ctx then onMembers s cid (ctlFrame ctx 3) fun s =>
      setCtx s ctx { x with pendingUnload := x.pendingUnload ++ [cid] }
    else adminRefuse s cid .format

/-- NAN_CLEAR (R116): the context's record goes, which rearms it; the tiles' records stay. -/
def execNanClear (cid ctx : Nat) (s : State) : Host.Outcome State Fault Refusal :=
  onUnit (decide (ctx < 16)) <| adminCmd s cid false fun s => adminDone (updCtx s ctx fun x => { x with nan := none }) cid

end Sys2Proof.Machine
end

