-- ==== Sys2Proof/Machine/Tables.lean ====
section
/-! DEFINITION. Object loads in common (R413), embedding tables: loads, versions, hot rows and updates (R204 to R231). -/

namespace Sys2Proof.Machine

/-! Object records. -/

/-- The contents of an object that a record names, once its signature, form and source have passed, in the order of R17 (R413). -/
def objectContents (s : State) (r : Bytes) (kind desc : Nat) : Except Status Bytes :=
  match userRead s (u64 r 8) (u64 r 16) with
  | none => .error .format
  | some (b, poison) =>
    let digest := sha256 (slice r 128 desc ++ b)
    let formed := recordOk r kind desc && u8 r 1 != 0 && decide (u8 r 1 ≤ folioSize s)
    let signed := s.boot.policy.keys.contains (1, slice r 32 32) &&
      signedBy (slice r 32 32) digest (beNat (slice r 64 32)) (beNat (slice r 96 32))
    if !poison && !signed then .error .protection
    else if !formed then .error .format
    else if poison then .error .poisoned
    else .ok b

/-- A load's completion. -/
def endLoad (s : State) (cid : Nat) (r : Except Status State) : State :=
  match r with
  | .ok t => adminDone t cid
  | .error st => adminRefuse s cid st

/-! Table loads. -/

/-- Whether a table has hot areas (R226). -/
def TableDesc.hasHot (t : TableDesc) : Bool := (t.writable || t.hotReads != 0) && (t.home == 1 || t.home == 2)

def TableDesc.hotPageCount (t : TableDesc) : Nat := if t.hasHot then ceilDiv (t.hotRows * t.stride) Config.pageBytes else 0

/-- Pages of a version's rows and of its hot area, taken from the object pools (R207, R226, R238). -/
def takeTablePages (s : State) (t : TableDesc) : Option ((List Nat × List Nat) × State) :=
  let use : PageUse := .object 0 t.tableId t.version
  let n := t.pagesOn s.folio.number
  let h := t.hotPageCount
  if t.storage = 2 then some (([], []), s)
  else if poolFree s t.home < n ∨ poolFree s 0 < (h + if t.home = 0 then n else 0) then none
  else
    (allocPages s t.home n use).bind fun a =>
      (allocPages a.2 0 h use).map fun b => ((a.1, b.1), b.2)

/-- First byte of shard `k` in the contents, which are in order of shard and of row (R413). -/
def TableDesc.shardStart (t : TableDesc) (k : Nat) : Nat := ((List.range k).map fun j => t.shardRows j * t.stride).sum

/-- Bytes of the contents of a table. -/
def TableDesc.contentBytes (t : TableDesc) : Nat := if t.storage = 2 then 0 else t.rows * t.stride

/-- The rows that this module holds, written into a version's pages (R207). -/
def fillTable (s : State) (t : TableDesc) (pages : List Nat) (b : Bytes) : State :=
  let s := pages.foldl zeroPage s
  ((t.holdings s.folio.number).foldl (fun acc h =>
    (pagesWrite acc.1 (pages.drop acc.2) 0 (slice b (t.shardStart h.1) (t.shardRows h.1 * t.stride)) false,
      acc.2 + t.piecePages h.1)) (s, 0)).1

/-- A version is freed with its hot area, migration-log entries and waiting updates (R219, R230). -/
def freeTableVer (s : State) (v : TableVer) : State :=
  let mine (u : Update) : Bool := u.table == v.desc.tableId && u.version == v.desc.version
  { freeWhere s (fun u => u == .object 0 v.desc.tableId v.desc.version) with
    migLog := s.migLog.filter fun u => !mine u
    updates := s.updates.filter fun u => !mine u }

/-- A table whose record `raw` and contents have passed their signature (R205, R216): a first version is CURRENT at once; a
later one is PENDING and replaces the one there. -/
def takeTable (s : State) (raw b : Bytes) : Except Status State :=
  let t := tableDescOf raw
  let old := tableOf s t.tableId
  if !tableDescOk raw || !tableLoadOk s t || b.length != t.contentBytes || (old.isNone && decide (256 ≤ s.tables.length)) then
    .error .format
  else
    let s := match old.bind fun p => p.2.pend with | some v => freeTableVer s v | none => s
    match takeTablePages s t with
    | none => .error .format
    | some ((ps, hs), s) =>
      if (old.map fun p => decide (t.version ≤ p.2.cur.desc.version)).getD false then .error .staleVersion else
      let slots := if t.hasHot then t.hotRows else 0
      let v : TableVer := { desc := t, pages := ps, batches := 0, hot := [], hotPages := hs, hotSlots := slots, wanting := [] }
      let s := fillTable (hs.foldl zeroPage s) t ps b
      match old with
      | some (k, x) => .ok { s with tables := mapPut s.tables k { x with pend := some v } }
      | none =>
        let x : Table :=
          { id := t.tableId, first := t, cur := v, pend := none, drain := none, stepN := 0, steps := [], hotFull := false,
            updates := 0, reduced := 0, logWaits := 0, hotWaits := 0, since := 0, stamps := [] }
        let s := healShards s 0 t.tableId
        .ok { s with tables := mapPut s.tables ((mapFree s.tables 0 256).getD 0) x }

/-- A table load (R205, R413). -/
def loadTable (s : State) (r : Bytes) : Except Status State :=
  match objectContents s r 0 192 with
  | .error e => .error e
  | .ok b => takeTable s (slice r 128 192) b

/-- TABLE_LOAD (R205). -/
def execTableLoad (cid : Nat) (record : Bytes) (s : State) : Host.Outcome State Fault Refusal :=
  .next <| adminCmd s cid false fun s => endLoad s cid (loadTable s record)

/-! Versions. -/

def updTable (s : State) (k : Nat) (f : Table → Table) : State := { s with tables := mapUpd s.tables k f }

/-- A table with the components that its rows are formed from (R209, R219). -/
def tableAndParts (s : State) (id : BitVec 64) : List (BitVec 64) :=
  match tableOf s id with
  | some (_, t) => if t.cur.desc.storage = 2 then [id, t.cur.desc.partA, t.cur.desc.partB] else [id]
  | none => [id]

/-- The table that a FEED program of a context reads, if any. -/
def programTable (s : State) (c k : Nat) : Option (BitVec 64) :=
  (ctxOf s c).loaded.bind fun l => (l.image.feed[k]?).bind fun f =>
    (l.image.regions.find? fun r => r.id == f.region && r.source == 2).map (·.object)

/-- Batches that FEED formed by itself and whose runs still read version `v` of a table (R219). -/
def feedBatches (s : State) (t : Table) (v : TableVer) : Nat :=
  let reads (r : Run) : Bool :=
    (reqByBatch s r.ctx (tagBatch r.tag)).isNone && (t.verAt r.origin.toNat).desc.version == v.desc.version &&
    ((programTable s r.ctx r.feed).map fun id => (tableAndParts s id).contains t.id).getD false
  ((s.runs.filter fun p => reads p.2).map fun p => (p.2.ctx, tagBatch p.2.tag)).dedup.length

/-- Batches that use a version on this module (R219). -/
def versionBatches (s : State) (t : Table) (v : TableVer) : Nat := v.batches + feedBatches s t v

/-- A free slot of a hot area. -/
def freeHotSlot (v : TableVer) : Option Nat :=
  let used := v.hot.map fun h => h.2.slot
  (List.range v.hotSlots).find? fun k => !used.contains k

/-- HOT_FULL clears when a slot is free again (R233): in CURRENT's hot area, and in that of every version for which an update waits. -/
def clearHotFull (s : State) (k : Nat) : State :=
  let full (t : Table) : Bool := (freeHotSlot t.cur).isNone || s.updates.any fun u =>
    u.table == t.id && u.hotWaited && ((t.version u.version).map fun v => (freeHotSlot v).isNone).getD false
  updTable s k fun t => { t with hotFull := t.hotFull && full t }

/-- A draining version that nothing uses, and whose moves are complete, is freed (R219, R231). -/
def freeDrainedTable (s : State) (k : Nat) : State :=
  match mapFind s.tables k with
  | some t =>
    match t.drain with
    | some v =>
      if versionBatches s t v = 0 ∧ v.hot.all (·.2.moved) then
        clearHotFull (updTable (freeTableVer s v) k fun t => { t with drain := none }) k
      else s
    | none => s
  | none => s

/-- What VERSION_STEP does before its stamp (R415): S is the acceptance stamp + 100 µs, and the step is deferred when a
DRAINING version is held here or, as the members in service answer, elsewhere. S goes to every member. -/
def execVersionStepTable (cid : Nat) (id : BitVec 64) (s : State) : Host.Outcome State Fault Refusal :=
  .next <| adminCmd s cid false fun s =>
    match tableOf s id with
    | some (k, _) =>
      let (far, s) := farDraining s
      toMembers (updTable s k fun t => { t with steps := t.steps ++ [(s.time + 100000, t.drain.isSome || far, cid)] })
        (leBytes 8 id.toNat ++ leBytes 8 (s.time + 100000))
    | none => adminRefuse s cid .format

/-- A step stamped S (R217): STEP rises, and the PENDING version becomes CURRENT unless a DRAINING one is held; with the table after it. -/
def stepTable (s : State) (k : Nat) (t : Table) (stamp : Nat) (blocked : Bool) : Table × State :=
  let t := { t with stepN := (t.stepN + 1) % 2 ^ 32, stamps := stamp :: t.stamps }
  let t := match t.pend with
    | some v => if blocked then t else { t with drain := some t.cur, cur := v, pend := none, since := stamp }
    | none => t
  let s := if t.since = stamp then healShards s 0 t.id else s
  (t, freeDrainedTable (clearHotFull { s with tables := mapPut s.tables k t } k) k)

/-- The oldest step of a table reaches its time on this member, and the command completes (R217, R415). A member that is not the head takes the
step that the head sent, at this time; whether it is deferred the head knows (log entry 20). -/
def switchTable (s : State) (k : Nat) (t : Table) : State :=
  match t.steps with
  | [] =>
    if isHead s then s
    else
      let (far, s) := farDraining s
      (stepTable s k t s.time (far || t.drain.isSome)).2
  | (stamp, deferred, cid) :: rest =>
    if s.time < stamp then s
    else
      let blocked := deferred || t.drain.isSome
      let (t, s) := stepTable s k { t with steps := rest } stamp blocked
      adminDone s cid (b2n (blocked && t.pend.isSome)) t.cur.desc.version

/-- HOT_GROW (R230, R411): pages of T0 from the object pool are added to the hot area of CURRENT. -/
def growHot (s : State) (k : Nat) (t : Table) (n : Nat) : Option State :=
  let v := t.cur
  if !v.desc.hasHot || n = 0 || poolFree s 0 < n then none
  else
    (allocPages s 0 n (.object 0 t.id v.desc.version)).map fun p =>
      let pages := v.hotPages ++ p.1
      let slots := pages.length * Config.pageBytes / max 1 v.desc.stride
      let s := p.1.foldl zeroPage p.2
      updTable s k fun t => { t with cur := { t.cur with hotPages := pages, hotSlots := slots }, hotFull := false }

/-! Updates. -/

/-- A finite sum that its format cannot hold stays at the largest finite value (R223); `inf` is what rounding makes of it. -/
def addElem (t : TableDesc) (old delta : ExNum) : Nat :=
  let exact := ExNum.add old delta
  let code := elemCode t.format t.grid exact
  match exact with
  | .fin neg _ _ =>
    match elemVal t.format t.grid code with
    | .inf _ =>
      let top := if t.format = 0x10 then 0x7F7F else 0x7F7FFFFF
      if neg then top + 2 ^ (elemBits t.format - 1) else top
    | _ => code
  | _ => code

/-- A row after one update (R223), with whether it is poisoned. -/
def updatedRow (t : TableDesc) (row : Bytes) (poison : Bool) (u : Update) : Bytes × Bool :=
  if u.poison then (row, true)
  else if t.put then
    if t.rowStamp row < u.stamp then (t.rowBytes u.codes u.stamp, false) else (row, poison)
  else
    let old := (t.rowCodes row).map (elemVal t.format t.grid)
    (t.rowBytes ((old.zip u.sums).map fun p => addElem t p.1 p.2) (t.rowStamp row), poison)

/-- An update applied to bytes [off, off + STRIDE) of a run of pages. -/
def applyAt (s : State) (t : TableDesc) (pages : List Nat) (off : Nat) (u : Update) : State :=
  let row := pagesRead s pages off t.stride
  let (new, poison) := updatedRow t row (pagesPoison s pages off t.stride) u
  pagesWrite s pages off new poison

/-- A version of a table passed through `f`. -/
def Table.updVersion (t : Table) (n : Nat) (f : TableVer → TableVer) : Table :=
  if t.cur.desc.version = n then { t with cur := f t.cur }
  else { t with drain := t.drain.map fun v => if v.desc.version = n then f v else v }

/-- Rows that are MOVING on the module (R227). -/
def movingRows (s : State) : Nat :=
  (s.tables.map fun p => ((p.2.cur :: p.2.drain.toList).map fun v => (v.hot.filter fun h => !h.2.moved).length).sum).sum

/-- A row starts to move (R227, R228): its entry is created in MOVING; none when the hot area has no free slot or 256 rows
are MOVING. -/
def startMove (s : State) (k n row : Nat) : Option State :=
  (mapFind s.tables k).bind fun t => (t.version n).bind fun v =>
    if 256 ≤ movingRows s then none
    else (freeHotSlot v).map fun slot =>
      updTable s k fun t => t.updVersion n fun v => { v with hot := mapPut v.hot row ⟨slot, false, 0⟩ }

/-- How an update that is offered fares; one that finds the log full may have started its row's move. -/
inductive Offer where
  | applied (s : State)
  | logWait (s : State)
  | hotWait
  | moveWait

/-- An update is offered to its row (R226 to R230): applied in place, applied to the slot, or put into the migration log;
otherwise it waits. An update of a version that is gone is discarded with it. -/
def offerUpdate (s : State) (u : Update) : Offer :=
  match tableOf s u.table with
  | none => .applied s
  | some (k, t) =>
    match t.version u.version with
    | none => .applied s
    | some v =>
      let counted (s : State) : State := updTable s k fun t => { t with updates := satAdd (ones 32) t.updates 1 }
      let logged (s : State) : Offer :=
        if s.migLog.length < 65536 then .applied { s with migLog := s.migLog ++ [u] } else .logWait s
      match v.desc.rowOffset s.folio.number u.row with
      | none => .applied s
      | some off =>
        if v.desc.home = 0 then .applied (counted (applyAt s v.desc v.pages off u))
        else
          match mapFind v.hot u.row with
          | some h =>
            if h.moved then .applied (counted (applyAt s v.desc v.hotPages (h.slot * v.desc.stride) u)) else logged s
          | none =>
            match startMove s k u.version u.row with
            | some s => logged s
            | none => if (freeHotSlot v).isNone then .hotWait else .moveWait

/-- HOT_FULL is set, with its event (R230). -/
def setHotFull (s : State) (k : Nat) : State :=
  match mapFind s.tables k with
  | some t => if t.hotFull then s else raiseEvent (updTable s k fun t => { t with hotFull := true }) (evVendor 1) 0xC3
  | none => s

/-- An update waits, for the log or for a hot slot as `log` and `hot` say; each kind of wait counts once (R229, R230, R233). -/
def waitUpdate (s : State) (u : Update) (log hot : Bool) : State :=
  let s := match tableOf s u.table with
    | some (k, _) => updTable s k fun t =>
        { t with logWaits := satAdd (ones 24) t.logWaits (b2n (log && !u.logWaited))
                 hotWaits := satAdd (ones 23) t.hotWaits (b2n (hot && !u.hotWaited)) }
    | none => s
  { s with updates := s.updates ++ [{ u with logWaited := u.logWaited || log, hotWaited := u.hotWaited || hot }] }

/-- An update is applied or logged, or waits: behind an earlier one of its row, for what that one waits for, else for what it lacks itself
(R227, R229, R230). -/
def takeUpdate (s : State) (u : Update) : State :=
  match s.updates.find? fun w => w.table == u.table && w.version == u.version && w.row == u.row with
  | some w => waitUpdate s u (w.logWaited && !w.hotWaited) w.hotWaited
  | none =>
    match offerUpdate s u with
    | .applied s => s
    | .logWait s => waitUpdate s u true false
    | .moveWait => waitUpdate s u false false
    | .hotWait =>
      match tableOf s u.table with
      | some (k, _) => setHotFull (waitUpdate s u false true) k
      | none => s

/-- Updates that wait are offered again, in order of arrival and keeping the order of each row. -/
def retryUpdates (s : State) : State := s.updates.foldl takeUpdate { s with updates := [] }

/-- A new update goes to every member that holds its row, as primary or as mirror (R225, R481): to the others over the hatch. -/
def sendUpdate (s : State) (t : TableDesc) (u : Update) : State :=
  let k := (t.place u.row).1
  let holders := [t.member.getD k 0xFF] ++ if 2 ≤ t.shards then [t.member.getD ((k + 1) % t.shards) 0xFF] else []
  let far := t.shards != 0 && holders.any fun m => m != s.folio.number && inService s m
  let frame := leBytes 8 u.table.toNat ++ leBytes 4 u.version ++ leBytes 8 u.row ++ leBytes 8 u.stamp.toNat
  takeUpdate (toRejoining (if far then toMembers s frame else s) holders frame) u

/-- Pre-reduction of a group (R222): one update per row. With ADD the deltas are summed exactly, an infinite or NaN delta
poisons; with PUT the update at the largest position stays. -/
def reduceGroup (t : TableDesc) (g : List RawUpdate) : List RawUpdate × List (Nat × List ExNum × Bool) :=
  let rows := (g.map (·.row)).dedup
  let vals (u : RawUpdate) : List ExNum := u.codes.map (elemVal t.format t.grid)
  let finite (x : ExNum) : Bool := match x with | .fin .. => true | _ => false
  if t.put then
    (rows.filterMap fun r => (g.filter fun u => u.row == r).foldl (fun best u => match best with
      | none => some u
      | some b => if b.pos ≤ u.pos then some u else some b) none, [])
  else
    ([], rows.map fun r =>
      let us := g.filter fun u => u.row == r
      let sum := match us with
        | [] => List.replicate t.d .zero
        | u :: rest => rest.foldl (fun a u => (a.zip (vals u)).map fun p => ExNum.add p.1 p.2) (vals u)
      (r, sum, us.any fun u => u.poison || (vals u).any fun x => !finite x))

/-- The open group of a scatter program is applied (R222 to R225): what merged is counted. Groups that a batch had applied before a
replay are skipped (R470); updates to rows of a LOST shard are dropped, and the batch is POISONED (R483). -/
def flushGroup (s : State) (c : Nat) (x : ScatterBatch) (tbl : BitVec 64) : State :=
  match tableOf s tbl with
  | none => s
  | some (k, t) =>
    let req := reqByBatch s c x.batch
    let group := (x.pos - 1) / 65536
    if x.group.isEmpty || (req.map fun q => decide (group < q.groups)).getD false then s
    else
      let origin := (req.map (·.firstOrigin)).getD x.origin
      let v := t.verAt origin
      let stamp (p : Nat) : BitVec 64 :=
        BitVec.ofNat 64 (t.stepAt origin * 2 ^ 32 + s.folio.number * 2 ^ 26 + p)
      let lost := x.group.any fun u => rowLost s v.desc u.row
      let (puts, adds) := reduceGroup v.desc (x.group.filter fun u => !rowLost s v.desc u.row)
      let us := (puts.map fun u => (⟨tbl, v.desc.version, u.row, u.codes, [], stamp u.pos, u.poison, c, x.batch, false, false⟩ : Update)) ++
        adds.map fun a => ⟨tbl, v.desc.version, a.1, [], a.2.1, 0, a.2.2, c, x.batch, false, false⟩
      let s := updTable s k fun t => { t with reduced := satAdd (ones 32) t.reduced (x.group.length - us.length) }
      let s := match req with
        | some q => updReq s q.rid fun q => { q with groups := group + 1, cond := q.cond ||| if lost then condBit .poisoned else 0 }
        | none => s
      us.foldl (fun s u => sendUpdate s v.desc u) s

/-! Hot rows. -/

/-- A row is promoted by reads (R227, R230): with no free slot that does not take place, and with 256 rows MOVING it waits. -/
def promoteRow (s : State) (k n row : Nat) : State :=
  match (mapFind s.tables k).bind fun t => t.version n with
  | none => s
  | some v =>
    if (mapFind v.hot row).isSome || (freeHotSlot v).isNone then s
    else match startMove s k n row with
      | some s => s
      | none => updTable s k fun t => t.updVersion n fun v =>
          { v with wanting := if v.wanting.contains row then v.wanting else v.wanting ++ [row] }

/-- Promotions that waited while 256 rows were MOVING are tried again. -/
def retryPromotions (s : State) : State :=
  s.tables.foldl (fun s p => (p.2.cur :: p.2.drain.toList).foldl (fun s v =>
    let s := updTable s p.1 fun t => t.updVersion v.desc.version fun v => { v with wanting := [] }
    v.wanting.foldl (fun s r => promoteRow s p.1 v.desc.version r) s) s) s

/-- In another window [k × 1,000,000, (k + 1) × 1,000,000) the read counts begin anew; a read stamped at a window's end belongs to the next
(R8, R227). -/
def readSettle (s : State) : State :=
  let k := s.time / 1_000_000
  if k = s.readWin then s else { s with readCtrs := [], readWin := k }

/-- The read count of a row in the open window rises, and reaching HOT_READS promotes the row (R227). A row that this module does not serve is
read and counted where it lies. -/
def countRead (s : State) (k n row origin : Nat) (d : TableDesc) : State :=
  if d.hotReads = 0 || !d.hasHot || !d.servedHere s row origin then s
  else
    let s := readSettle s
    let i := row % 2 ^ 20
    let c := mapGet s.readCtrs i 0 + 1
    let s := { s with readCtrs := mapPut s.readCtrs i c }
    if d.hotReads ≤ c then promoteRow s k n row else s

/-- HOT_READ_WINDOW (R227): a window has ended. -/
def execHotReadWindow (s : State) : Host.Outcome State Fault Refusal := .next (readSettle s)

end Sys2Proof.Machine
end

