-- ==== Sys2Proof/Machine/Lexical.lean ====
section
/-! DEFINITION. Vocabularies, normalisation tables and grammars: their loads and unloads (R285 to R296), and text: UTF-8,
normalisation, longest match (R292, R293, R301, R303). -/

namespace Sys2Proof.Machine

/-! Reading the objects. -/

def trieNode (e : Bytes) : TrieNode := ⟨BitVec.ofNat 256 (fieldAt e 0 32), u32 e 32, optTok (u32 e 36)⟩

/-- A vocabulary read from its bytes (R286, R287). -/
def vocabOf (b : Bytes) (pages : List Nat) : Vocab :=
  let v := u32 b 8
  let nodes := u32 b 16
  let idx := 128 + 64 * nodes
  let pool := idx + 8 * v
  { id := BitVec.ofNat 64 (u64 b 0), tokens := v, byteBase := u32 b 12, maxBytes := u8 b 20,
    ends := (List.range (u8 b 21)).map fun k => u32 b (24 + 4 * k),
    nodes := (List.range nodes).map fun k => trieNode (slice b (128 + 64 * k) 64),
    strings := (List.range v).map fun t =>
      let e := u64 b (idx + 8 * t)
      (bitSet e 40, bitsAt e 0 32, slice b (pool + bitsAt e 0 32) (bitsAt e 32 8)),
    pages := pages }

/-- The child of a node for a byte (R288). -/
def Vocab.child (v : Vocab) (n : Nat) (c : Byte) : Option Nat :=
  (v.nodes[n]?).bind fun x =>
    if x.children.getLsbD c.toNat then
      some (x.base + ((List.range c.toNat).filter fun b => x.children.getLsbD b).length)
    else none

def Vocab.kids (v : Vocab) (n : Nat) : List (Byte × Nat) :=
  (List.range 256).filterMap fun b => (v.child n (BitVec.ofNat 8 b)).map fun c => (BitVec.ofNat 8 b, c)

/-- The nodes with their paths, level by level from the root (R288). -/
def Vocab.levels (v : Vocab) : Nat → List (Nat × Bytes) → List (Nat × Bytes)
  | 0, _ => []
  | fuel + 1, lvl =>
    lvl ++ (if lvl.isEmpty then [] else v.levels fuel (lvl.flatMap fun p => (v.kids p.1).map fun k => (k.2, p.2 ++ [k.1])))

/-- The conditions of R286 to R289. -/
def vocabOk (b : Bytes) : Bool :=
  let v := vocabOf b []
  let nodes := u32 b 16
  let idx := 128 + 64 * nodes
  let poolSize := u64 b 56
  let walk := v.levels 256 [(0, [])]
  let str (t : Nat) : Option (Bool × Nat × Bytes) := v.strings[t]?
  let named := walk.filterMap fun p => ((v.nodes[p.1]?).bind (·.token)).map fun t => (t, p.2)
  v.id != 0 && decide (257 ≤ v.tokens) && decide (v.tokens ≤ 262144) && decide (v.byteBase + 256 ≤ v.tokens) &&
  decide (1 ≤ nodes) && decide (nodes ≤ 16777216) && decide (1 ≤ v.maxBytes) && decide (u8 b 21 ≤ 8) && zeroAt b 22 2 &&
  zeroAt b 64 64 && b.length == idx + 8 * v.tokens + poolSize &&
  ((List.range 8).all fun k => if k < u8 b 21 then
      ((str (u32 b (24 + 4 * k))).map (·.1)).getD false else u32 b (24 + 4 * k) == 0xFFFFFFFF) &&
  ((List.range v.tokens).all fun t =>
    let e := u64 b (idx + 8 * t)
    decide (e < 2 ^ 41) && decide (bitsAt e 0 32 + bitsAt e 32 8 ≤ poolSize) && decide (bitsAt e 32 8 ≤ v.maxBytes) &&
    (bitSet e 40 == (bitsAt e 32 8 == 0))) &&
  ((List.range 256).all fun c => ((str (v.byteBase + c)).map fun x => x.2.2 == [BitVec.ofNat 8 c]).getD false) &&
  (v.nodes.zipIdx).all (fun p => zeroAt b (128 + 64 * p.2 + 40) 24) && ((v.nodes.head?).map fun n => n.token.isNone).getD false &&
  walk.length == nodes && (walk.map (·.1)).all (fun n => decide (n < nodes)) && (walk.map (·.1)).dedup.length == nodes &&
  named.all (fun p => ((str p.1).map fun x => !x.1 && x.2.2 == p.2).getD false) &&
  (named.map (·.1)).dedup.length == named.length

/-- Where the parts of a normalisation table begin (R290): second stage, pool, pairs, end. -/
def normStage2 : Nat := 64 + 2 * 4352
def normPool (b : Bytes) : Nat := normStage2 + 2048 * u32 b 12
def normPairs (b : Bytes) : Nat := normPool b + 4 * u32 b 16

/-- The second-stage entry of a code point (R290, R291). -/
def normRaw (b : Bytes) (cp : Nat) : Nat := u64 b (normStage2 + 2048 * u16 b (64 + 2 * (cp / 256)) + 8 * (cp % 256))

def normEntry (b : Bytes) (cp : Nat) : NormEntry :=
  let e := normRaw b cp
  ⟨bitsAt e 0 8, bitSet e 13, (List.range (bitsAt e 8 5)).map fun k => u32 b (normPool b + 4 * (bitsAt e 32 32 + k))⟩

/-- A normalisation table read from its bytes: only code points that it changes or gives a class are listed. -/
def normOf (b : Bytes) (pages : List Nat) : Norm :=
  { id := BitVec.ofNat 64 (u64 b 0), compose := bitSet (u8 b 9) 0, hangul := bitSet (u8 b 9) 1,
    entries := ((List.range (4352 * 256)).map fun cp => (cp, normEntry b cp)).filter fun p => p.2 != ⟨0, false, []⟩,
    pairs := (List.range (u32 b 20)).map fun k =>
      (u32 b (normPairs b + 12 * k), u32 b (normPairs b + 12 * k + 4), u32 b (normPairs b + 12 * k + 8)),
    pages := pages }

/-- The conditions of R290 and R291. -/
def normOk (b : Bytes) : Bool :=
  let blocks := u32 b 12
  let pairs := (normOf b []).pairs
  u64 b 0 != 0 && decide (u8 b 8 ≤ 3) && decide (u8 b 9 < 4) && u16 b 10 == 0x1000 && decide (1 ≤ blocks) &&
  decide (blocks ≤ 4352) && zeroAt b 24 40 && b.length == normPairs b + 12 * u32 b 20 &&
  ((List.range 4352).all fun j => decide (u16 b (64 + 2 * j) < blocks)) &&
  ((List.range (256 * blocks)).all fun k =>
    let e := u64 b (normStage2 + 8 * k)
    let n := bitsAt e 8 5
    decide (n ≤ 18) && (!bitSet e 13 || n == 0) && bitsAt e 14 18 == 0 && (n == 0 || decide (bitsAt e 32 32 + n ≤ u32 b 16))) &&
  (pairs.zip pairs.tail).all fun p => decide (p.1.1 < p.2.1) || (p.1.1 == p.2.1 && decide (p.1.2.1 < p.2.2.1))

/-- An action (R296). -/
def gActionOf (v : Nat) : GAction :=
  match v / 2 ^ 62 with
  | 0 => .shift (v % 2 ^ 16)
  | 1 => .push (bitsAt v 32 16) (v % 2 ^ 16)
  | _ => .pop

def optMask (v : Nat) : Option Nat := if v = 0xFFFF then none else some v

/-- MASK_BYTES of a vocabulary of V tokens (R294). -/
def maskBytes (v : Nat) : Nat := ceilDiv v 512 * 64

/-- A grammar read from its bytes (R294, R295), for a vocabulary of `v` tokens. -/
def grammarOf (b : Bytes) (v : Nat) (pages : List Nat) : Grammar :=
  let states := u32 b 16
  let masks := u32 b 20
  let mb := maskBytes v
  let exc := 64 + 32 * states + masks * mb
  { id := BitVec.ofNat 64 (u64 b 0), vocabId := BitVec.ofNat 64 (u64 b 8), start := u16 b 28,
    states := (List.range states).map fun k =>
      let e := slice b (64 + 32 * k) 32
      { mask := u16 e 0, pushMask := optMask (u16 e 2), popMask := optMask (u16 e 4), final := bitSet (u8 e 6) 0,
        dflt := gActionOf (u64 e 8), excFirst := u32 e 16,
        exceptions := (List.range (u32 e 20)).map fun j =>
          (u32 b (exc + 16 * (u32 e 16 + j)), gActionOf (u64 b (exc + 16 * (u32 e 16 + j) + 8))) },
    masks := (List.range masks).map fun k => slice b (64 + 32 * states + mb * k) mb,
    pages := pages }

/-- The conditions of R294 to R296. -/
def grammarOk (s : State) (b : Bytes) : Bool :=
  match s.vocabs.find? fun p => p.2.id == BitVec.ofNat 64 (u64 b 8) with
  | none => false
  | some (_, v) =>
    let states := u32 b 16
    let masks := u32 b 20
    let excs := u32 b 24
    let mb := maskBytes v.tokens
    let exc := 64 + 32 * states + masks * mb
    let action (a : Nat) : Bool :=
      decide (a / 2 ^ 62 ≤ 2) && bitsAt a 48 14 == 0 && bitsAt a 16 16 == 0 && decide (a % 2 ^ 16 < states) &&
      decide (bitsAt a 32 16 < states)
    let mask (m : Nat) : Bool := m == 0xFFFF || decide (m < masks)
    u64 b 0 != 0 && decide (1 ≤ states) && decide (states ≤ 65536) && decide (1 ≤ masks) && decide (masks ≤ 65535) &&
    decide (u16 b 28 < states) && zeroAt b 30 34 && b.length == exc + 16 * excs &&
    ((List.range states).all fun k =>
      let e := slice b (64 + 32 * k) 32
      decide (u16 e 0 < masks) && mask (u16 e 2) && mask (u16 e 4) && decide (u8 e 6 < 2) && zeroAt e 7 1 && zeroAt e 24 8 &&
      action (u64 e 8) && decide (u32 e 16 + u32 e 20 ≤ excs) &&
      (let ts := (List.range (u32 e 20)).map fun j => u32 b (exc + 16 * (u32 e 16 + j))
       (ts.zip ts.tail).all fun p => decide (p.1 < p.2))) &&
    ((List.range masks).all fun k =>
      let m := leNat (slice b (64 + 32 * states + mb * k) mb)
      decide (m < 2 ^ v.tokens)) &&
    ((List.range excs).all fun k => zeroAt b (exc + 16 * k + 4) 4 && action (u64 b (exc + 16 * k + 8)))

/-! Loads and unloads. -/

/-- Pages of an object of kind `k` from the T0 object pool, holding its contents (R285). -/
def takeObjectPages (s : State) (kind : Nat) (id : BitVec 64) (b : Bytes) : Option (List Nat × State) :=
  let n := ceilDiv b.length Config.pageBytes
  if poolFree s 0 < n then none
  else (allocPages s 0 n (.object kind id 0)).map fun p => (p.1, pagesWrite (p.1.foldl zeroPage p.2) p.1 0 b false)

/-! A lettering object whose contents have passed their signature: its identifier is new, its count and its structure hold, its
pages are there (R285). -/

def takeVocab (s : State) (b : Bytes) : Except Status State :=
  let id := BitVec.ofNat 64 (u64 b 0)
  if 8 ≤ s.vocabs.length ∨ (s.vocabs.any fun p => p.2.id == id) ∨ !vocabOk b then .error .format
  else
    match takeObjectPages s 2 id b with
    | none => .error .format
    | some (ps, s) => .ok { s with vocabs := mapPut s.vocabs ((mapFree s.vocabs 0 8).getD 0) (vocabOf b ps) }

def takeNorm (s : State) (b : Bytes) : Except Status State :=
  let id := BitVec.ofNat 64 (u64 b 0)
  if 32 ≤ s.norms.length ∨ (s.norms.any fun p => p.2.id == id) ∨ !normOk b then .error .format
  else
    match takeObjectPages s 3 id b with
    | none => .error .format
    | some (ps, s) => .ok { s with norms := mapPut s.norms ((mapFree s.norms 0 32).getD 0) (normOf b ps) }

def takeGrammar (s : State) (b : Bytes) : Except Status State :=
  let id := BitVec.ofNat 64 (u64 b 0)
  let v := (s.vocabs.find? fun p => p.2.id == BitVec.ofNat 64 (u64 b 8)).map fun p => p.2.tokens
  if 64 ≤ s.grammars.length ∨ (s.grammars.any fun p => p.2.id == id) ∨ !grammarOk s b then .error .format
  else
    match takeObjectPages s 4 id b with
    | none => .error .format
    | some (ps, s) => .ok { s with grammars := mapPut s.grammars ((mapFree s.grammars 0 64).getD 0) (grammarOf b (v.getD 0) ps) }

/-- A load of a lettering object (R285, R413). -/
def loadLexical (s : State) (r : Bytes) (kind : Nat) : Except Status State :=
  match objectContents s r kind 0 with
  | .error e => .error e
  | .ok b => match kind with | 2 => takeVocab s b | 3 => takeNorm s b | _ => takeGrammar s b

/-- VOCABULARY_LOAD (R285 to R289). -/
def execVocabularyLoad (cid : Nat) (record : Bytes) (s : State) : Host.Outcome State Fault Refusal :=
  .next <| adminCmd s cid false fun s => endLoad s cid (loadLexical s record 2)

/-- NORMALISATION_LOAD (R285, R290, R291). -/
def execNormalisationLoad (cid : Nat) (record : Bytes) (s : State) : Host.Outcome State Fault Refusal :=
  .next <| adminCmd s cid false fun s => endLoad s cid (loadLexical s record 3)

/-- GRAMMAR_LOAD (R285, R294 to R296). -/
def execGrammarLoad (cid : Nat) (record : Bytes) (s : State) : Host.Outcome State Fault Refusal :=
  .next <| adminCmd s cid false fun s => endLoad s cid (loadLexical s record 4)

/-- Whether a loaded image, or the image of a load in progress, names an object (R285, R411). -/
def imageNames (s : State) (kind : Nat) (id : BitVec 64) : Bool :=
  s.ctxs.any fun p => (p.2.loaded.map fun l => l.image.names kind id).getD false ||
    (p.2.load.map fun l => l.image.names kind id).getD false

/-- OBJECT_UNLOAD (R285, R411): none when it is refused. A table that a COMPOSED table is formed from, and an index that a commit, a fair copy or an
admitted query uses, are not unloaded (log entry 22). -/
def unloadObject (s : State) (kind : Nat) (id : BitVec 64) : Option State :=
  if imageNames s kind id then none
  else
    let freed (s : State) : State := freeWhere s fun u => match u with | .object k i _ => k == kind && i == id | _ => false
    match kind with
    | 0 => (tableOf s id).bind fun p =>
        let used := s.tables.any fun q => (q.2.cur :: q.2.pend.toList ++ q.2.drain.toList).any fun v =>
          v.desc.partA == id || v.desc.partB == id
        if used then none
        else some { freed s with tables := mapDrop s.tables p.1, migLog := s.migLog.filter fun u => u.table != id,
                                 updates := s.updates.filter fun u => u.table != id }
    | 1 => (s.indexes.find? fun p => p.2.id == id).bind fun p =>
        if p.2.commit.isSome || p.2.copying.isSome || s.reqs.any fun q => q.2.admitted && q.2.objectId == id then none
        else some { freed s with indexes := mapDrop s.indexes p.1 }
    | 2 => (s.vocabs.find? fun p => p.2.id == id).bind fun p =>
        if s.grammars.any fun g => g.2.vocabId == id then none else some { freed s with vocabs := mapDrop s.vocabs p.1 }
    | 3 => (s.norms.find? fun p => p.2.id == id).map fun p => { freed s with norms := mapDrop s.norms p.1 }
    | 4 => (s.grammars.find? fun p => p.2.id == id).map fun p => { freed s with grammars := mapDrop s.grammars p.1 }
    | _ => none

/-- OBJECT_UNLOAD (R285, R411). -/
def execObjectUnload (cid kind : Nat) (id : BitVec 64) (s : State) : Host.Outcome State Fault Refusal :=
  .next <| adminCmd s cid false fun s =>
    match unloadObject s kind id with
    | some t => adminDone t cid
    | none => adminRefuse s cid .format

/-! Text. -/

/-- The next character of a byte string as UTF-8 (R301): a code point, or none for an ill-formed maximal subpart, with the
bytes it takes; nothing while the bytes are an incomplete sequence. -/
def utf8Next (bs : Bytes) : Option (Option Nat × Nat) :=
  match bs with
  | [] => none
  | b :: rest =>
    let b := b.toNat
    let spec : Option (Nat × Nat × Nat) :=
      if 0xC2 ≤ b ∧ b ≤ 0xDF then some (1, 0x80, 0xBF)
      else if b = 0xE0 then some (2, 0xA0, 0xBF)
      else if b = 0xED then some (2, 0x80, 0x9F)
      else if 0xE1 ≤ b ∧ b ≤ 0xEF then some (2, 0x80, 0xBF)
      else if b = 0xF0 then some (3, 0x90, 0xBF)
      else if 0xF1 ≤ b ∧ b ≤ 0xF3 then some (3, 0x80, 0xBF)
      else if b = 0xF4 then some (3, 0x80, 0x8F)
      else none
    if b < 0x80 then some (some b, 1)
    else
      match spec with
      | none => some (none, 1)
      | some (n, lo, hi) =>
        let ok (i : Nat) (c : Byte) : Bool :=
          if i = 0 then decide (lo ≤ c.toNat) && decide (c.toNat ≤ hi) else decide (0x80 ≤ c.toNat) && decide (c.toNat ≤ 0xBF)
        let good := (((rest.take n).zipIdx).takeWhile fun p => ok p.2 p.1).map fun p => p.1.toNat
        if good.length = n then
          let top := if n = 1 then b % 32 else if n = 2 then b % 16 else b % 8
          some (some (good.foldl (fun a c => a * 64 + c % 64) top), n + 1)
        else if good.length < rest.length then some (none, good.length + 1)
        else none

/-- U+FFFD. -/
def replacement : Nat := 0xFFFD

/-- The flags of the sheets that something was made from (R121). -/
def marksOf {α : Type} (xs : List (α × BitVec 16)) : BitVec 16 := (xs.map (·.2)).foldl (· ||| ·) 0

/-- The whole characters of a byte string, none for an ill-formed subpart, and the bytes of an incomplete sequence at its end (R301). Each
byte has the flags of the sheet that brought it, and a character those of its bytes (R302). -/
def utf8Chars : Nat → List (Byte × BitVec 16) → List (Option Nat × BitVec 16) × List (Byte × BitVec 16)
  | 0, bs => ([], bs)
  | fuel + 1, bs =>
    match utf8Next ((bs.take 4).map (·.1)) with
    | none => ([], bs)
    | some (c, n) =>
      let r := utf8Chars fuel (bs.drop n)
      ((c, marksOf (bs.take n)) :: r.1, r.2)

/-- The whole characters of plain bytes, and what is left of them. -/
def utf8Decode (bs : Bytes) : List (Option Nat) × Bytes :=
  let r := utf8Chars (bs.length + 1) (bs.map fun b => (b, 0))
  (r.1.map (·.1), r.2.map (·.1))

/-- UTF-8 of a code point. -/
def utf8Encode (c : Nat) : Bytes :=
  let t (k : Nat) : Byte := BitVec.ofNat 8 (0x80 + c / 64 ^ k % 64)
  if c < 0x80 then [BitVec.ofNat 8 c]
  else if c < 0x800 then [BitVec.ofNat 8 (0xC0 + c / 64), t 0]
  else if c < 0x10000 then [BitVec.ofNat 8 (0xE0 + c / 4096), t 1, t 0]
  else [BitVec.ofNat 8 (0xF0 + c / 262144), t 2, t 1, t 0]

/-- A code point with the flags of the sheets that it comes from (R302). -/
abbrev Marked := Nat × BitVec 16

/-- The combining class of a code point in a table (R291). -/
def Norm.ccc (t : Norm) (c : Nat) : Nat := ((mapFind t.entries c).map (·.ccc)).getD 0

/-- Step 1 of R292. -/
def Norm.mapOne (t : Norm) (c : Nat) : List Nat :=
  match mapFind t.entries c with
  | some e => if e.del then [] else if e.map.isEmpty then [c] else e.map
  | none => [c]

/-- Step 2 of R292: Hangul decomposition. -/
def hangulDecompose (c : Nat) : List Nat :=
  if Config.hangulS ≤ c ∧ c < Config.hangulS + 11172 then
    let i := c - Config.hangulS
    let lv := [Config.hangulL + i / 588, Config.hangulV + i % 588 / 28]
    if i % 28 = 0 then lv else lv ++ [Config.hangulT + i % 28]
  else [c]

/-- A run of non-zero classes, newest first, sorted stably by class (R292). -/
def Norm.sortRun (t : Norm) (run : List Marked) : List Marked := sortBy (fun a b => decide (t.ccc a.1 ≤ t.ccc b.1)) run.reverse

/-- Step 3 of R292: each run of non-zero classes sorted stably; `run` is the run so far, newest first. -/
def Norm.reorder (t : Norm) : List Marked → List Marked → List Marked
  | [], run => t.sortRun run
  | c :: cs, run => if t.ccc c.1 = 0 then t.sortRun run ++ c :: t.reorder cs [] else t.reorder cs (c :: run)

/-- The composite of a pair (R292): the table's, and Hangul's when HANGUL is set. -/
def Norm.pair (t : Norm) (a b : Nat) : Option Nat :=
  let listed := (t.pairs.find? fun p => p.1 == a && p.2.1 == b).map fun p => p.2.2
  if listed.isSome then listed
  else if !t.hangul then none
  else if Config.hangulL ≤ a ∧ a < Config.hangulL + 19 ∧ Config.hangulV ≤ b ∧ b < Config.hangulV + 21 then
    some (Config.hangulS + ((a - Config.hangulL) * 21 + (b - Config.hangulV)) * 28)
  else if Config.hangulS ≤ a ∧ a < Config.hangulS + 11172 ∧ (a - Config.hangulS) % 28 = 0 ∧ Config.hangulT < b ∧
      b < Config.hangulT + 28 then some (a + (b - Config.hangulT))
  else none

/-- Step 4 of R292, canonical composition: `pre` what is finished and `mid` what follows the starter `st`, newest first;
`last` the class of the newest of `mid`. -/
def Norm.composeFrom (t : Norm) : List Marked → List Marked → Option Marked → List Marked → Nat → List Marked
  | [], pre, st, mid, _ => (mid ++ st.toList ++ pre).reverse
  | c :: cs, pre, st, mid, last =>
    let k := t.ccc c.1
    match st.bind fun a => if mid.isEmpty ∨ last < k then (t.pair a.1 c.1).map fun x => (x, a.2 ||| c.2) else none with
    | some x => t.composeFrom cs pre (some x) mid last
    | none =>
      if k = 0 then t.composeFrom cs (mid ++ st.toList ++ pre) (some c) [] 0
      else if st.isNone then t.composeFrom cs (c :: pre) none [] 0
      else t.composeFrom cs pre st (c :: mid) k

/-- A table's transformation of a sequence of code points (R292). -/
def Norm.transform (t : Norm) (cs : List Marked) : List Marked :=
  let each (f : Nat → List Nat) (cs : List Marked) : List Marked := cs.flatMap fun c => (f c.1).map fun x => (x, c.2)
  let mapped := each t.mapOne cs
  let dec := if t.hangul then each hangulDecompose mapped else mapped
  let sorted := t.reorder dec []
  if t.compose then t.composeFrom sorted [] none [] 0 else sorted

/-- The part of a table's output that no further code point can change: what stands before its last starter (R300). -/
def Norm.settled (t : Norm) (out : List Marked) : List Marked :=
  ((out.reverse.dropWhile fun c => t.ccc c.1 != 0).drop 1).reverse

/-- The Stream-Safe Text Process (R293), with the number of insertions; `run` counts non-starters. -/
def Norm.streamSafe (t : Norm) : List Marked → Nat → List Marked × Nat
  | [], _ => ([], 0)
  | c :: cs, run =>
    if t.ccc c.1 = 0 then let r := t.streamSafe cs 0; (c :: r.1, r.2)
    else if run = 30 then let r := t.streamSafe cs 1; ((0x034F, c.2) :: c :: r.1, r.2 + 1)
    else let r := t.streamSafe cs (run + 1); (c :: r.1, r.2)

/-- The chain of tables (R293, R303): the output so far, only what is settled while the unit is open. -/
def runTables (closed : Bool) (ts : List Norm) (cs : List Marked) : List Marked :=
  ts.foldl (fun cs t => let o := t.transform cs; if closed then o else t.settled o) cs

/-- Whether a node has a child (R288). -/
def Vocab.branches (v : Vocab) (n : Nat) : Bool := ((v.nodes[n]?).map fun x => x.children != 0).getD false

/-- The longest walk of a byte string from the root (R303): the best token with its length, and whether a further byte could lengthen the
walk, which the text's end then leaves open. -/
def Vocab.walk (v : Vocab) : Bytes → Nat → Nat → Option (Nat × Nat) → Option (Nat × Nat) × Bool
  | [], node, _, best => (best, v.branches node)
  | c :: cs, node, i, best =>
    match v.child node c with
    | none => (best, false)
    | some n =>
      let best := match (v.nodes[n]?).bind (·.token) with | some t => some (t, i + 1) | none => best
      v.walk cs n (i + 1) best

/-- Longest match (R303); while the text is open, a match that more bytes could lengthen is not yet decided (R300). A token has the flags of
the sheets that its bytes come from (R302). -/
def Vocab.tokenise (v : Vocab) (closed : Bool) : Nat → List (Byte × BitVec 16) → List Marked
  | 0, _ => []
  | _ + 1, [] => []
  | fuel + 1, c :: cs =>
    let (best, open') := v.walk ((c :: cs).map (·.1)) 0 0 none
    if open' && !closed then []
    else match best with
      | some (t, n) => (t, marksOf ((c :: cs).take n)) :: v.tokenise closed fuel ((c :: cs).drop n)
      | none => (v.byteBase + c.1.toNat, c.2) :: v.tokenise closed fuel cs

/-- What a unit's text has given so far: its decided tokens, substitutions and insertions (R301 to R303). -/
def unitTokens (v : Vocab) (ts : List Norm) (closed : Bool) (text : List (Byte × BitVec 16)) : List Marked × Nat × Nat :=
  let (cs, rest) := utf8Chars (text.length + 1) text
  let cs := if closed && !rest.isEmpty then cs ++ [(none, marksOf rest)] else cs
  let bad := (cs.filter fun c => c.1.isNone).length
  let cs : List Marked := cs.map fun c => (c.1.getD replacement, c.2)
  let (cs, ins) := match ts with | [] => (cs, 0) | t :: _ => t.streamSafe cs 0
  let out := (runTables closed ts cs).flatMap fun c => (utf8Encode c.1).map fun b => (b, c.2)
  (v.tokenise closed (out.length + 1) out, bad, ins)

end Sys2Proof.Machine
end

