-- ==== Sys2Proof/Machine/Letter.lean ====
section
/-! DEFINITION. ENCODE pipelines (R299 to R305) and writes into the host's result buffers (R200, R404). -/

namespace Sys2Proof.Machine

/-! ENCODE. -/

def Encode.empty : Encode := ⟨none, 0, [], none, [], 0, 0, 0, 0, []⟩

/-- What a text sheet makes of a pipeline: its state, the full token sheets it gives, and the counts of R318. -/
structure EncRun where
  e : Encode
  out : List (List Marked)
  ltr : LtrMon

/-- Words join the open token sheet; each 1,024 leave (R305). -/
def addWords : Nat → EncRun → List Marked → EncRun
  | 0, r, _ => r
  | fuel + 1, r, ws =>
    let all := r.e.words ++ ws
    if all.length < 1024 then { r with e := { r.e with words := all } }
    else addWords fuel { r with out := r.out ++ [all.take 1024], e := { r.e with words := [] } } (all.drop 1024)

/-- The words that are waiting leave. -/
def flushWords (r : EncRun) : EncRun :=
  if r.e.words.isEmpty then r else { r with out := r.out ++ [r.e.words], e := { r.e with words := [] } }

/-- Text tokens that a unit may have beside PREFIX and SUFFIX (R304). -/
def textMax (p : PipelineEntry) : Nat := p.maxTokens - p.preTok.toList.length - p.sufTok.toList.length

/-- The text tokens that the unit's bytes have newly decided join the words, and the substitutions and insertions are counted
(R303, R304, R318). -/
def progress (p : PipelineEntry) (v : Vocab) (ts : List Norm) (closed : Bool) (r : EncRun) : EncRun :=
  let (all, bad, ins) := unitTokens v ts closed r.e.text
  let toks := all.take (textMax p)
  let new := toks.drop r.e.decided
  let m := r.ltr
  let ltr : LtrMon :=
    { m with tokensOut := satAdd (ones 64) m.tokensOut new.length, replaced := satAdd (ones 32) m.replaced (bad - r.e.bad),
             streamSafe := satAdd 0xFFFF m.streamSafe (ins - r.e.ins) }
  let r := addWords (new.length + 2) r new
  { r with e := { r.e with decided := toks.length, bad := bad, ins := ins }, ltr := ltr }

/-- PREFIX and SUFFIX come from the image and from no sheet: they have no flags (log entry 140). -/
def plainWords (ws : List Nat) : List Marked := ws.map fun w => (w, 0)

/-- A unit of `n` bytes opens: PREFIX (R304). -/
def openUnit (p : PipelineEntry) (n : Nat) (r : EncRun) : EncRun :=
  let r := { r with e := { r.e with need := some n, countBuf := [], text := [], decided := 0, bad := 0, ins := 0 } }
  let pre := p.preTok.toList
  let r := addWords 3 r (plainWords pre)
  { r with ltr := { r.ltr with tokensOut := satAdd (ones 64) r.ltr.tokensOut pre.length } }

/-- A unit closes: the rest of its text, SUFFIX and the end word with the unit's flags (R304), which tell of all the sheets that the unit
comes from (R302). -/
def closeUnit (p : PipelineEntry) (v : Vocab) (ts : List Norm) (trunc : Bool) (r : EncRun) : EncRun :=
  let r := progress p v ts true r
  let cut := decide (textMax p < (unitTokens v ts true r.e.text).1.length)
  let word := 0xFF000000 + b2n (decide (0 < r.e.bad)) + 2 * b2n (decide (0 < r.e.ins)) + 4 * b2n cut + 8 * b2n trunc +
    16 * b2n (r.e.need == some 0)
  let suf := p.sufTok.toList
  let r := addWords 4 r (plainWords suf ++ [(word, r.e.marks)])
  { r with
    e := { r.e with need := none, text := [], decided := 0, bad := 0, ins := 0, marks := 0 }
    ltr := { r.ltr with
      tokensOut := satAdd (ones 64) r.ltr.tokensOut suf.length
      cut := satAdd 0xFF r.ltr.cut (b2n cut)
      trunc := satAdd 0xFF r.ltr.trunc (b2n trunc) } }

/-- The bytes of a sheet with FLAGS `f`, unit by unit (R299). -/
def encodeBytes (p : PipelineEntry) (v : Vocab) (ts : List Norm) (f : BitVec 16) : Nat → Bytes → EncRun → EncRun
  | 0, _, r => r
  | _ + 1, [], r => r
  | fuel + 1, bs, r =>
    let r := { r with e := { r.e with marks := r.e.marks ||| f } }
    match r.e.need with
    | none =>
      let k := 8 - r.e.countBuf.length
      let buf := r.e.countBuf ++ bs.take k
      if buf.length < 8 then { r with e := { r.e with countBuf := buf } }
      else
        let n := leNat buf
        let r := openUnit p n r
        encodeBytes p v ts f fuel (bs.drop k) (if n = 0 then closeUnit p v ts false r else r)
    | some n =>
      let k := n - r.e.text.length
      let r := { r with e := { r.e with text := r.e.text ++ (bs.take k).map fun b => (b, f) },
                        ltr := { r.ltr with bytesIn := satAdd (ones 64) r.ltr.bytesIn (min k bs.length) } }
      if bs.length < k then r else encodeBytes p v ts f fuel (bs.drop k) (closeUnit p v ts false r)

/-- Token sheets leave on OUT_STREAM and, an identical copy, on COPY_STREAM (R297, R305). -/
def emitTokens (s : State) (c : Nat) (p : PipelineEntry) (out : List (List Marked)) (tag : BitVec 32) (origin : BitVec 64) : State :=
  out.foldl (fun s o =>
    let sh := wordSheet (o.map (·.1)) (marksOf o) tag origin
    let s := emitLocal s c p.outStream sh
    if p.copyStream = 0 then s else emitLocal s c p.copyStream sh) s

/-- The ENCODE pipeline that takes a stream, with its vocabulary and its tables in byte order; unused NORM slots, 0xFF, name none (R297). -/
def encodePipe (s : State) (x : Stream) : Option (PipelineEntry × Vocab × List Norm) :=
  (ctxOf s x.ctx).loaded.bind fun l =>
    (l.image.letter.find? fun p => p.kind == 0 && p.inStream == x.localNo).bind fun p =>
      let norm (k : Nat) : Option Norm := (l.image.bound k 2).bind fun id => (s.norms.find? fun q => q.2.id == id).map (·.2)
      (l.image.bound p.vocab 0).bind fun id => (s.vocabs.find? fun q => q.2.id == id).map fun v =>
        (p, v.2, (p.norms.filter (· != 0xFF)).filterMap norm)

/-- Whether a further byte of a batch waits in LETTER's queue of stream `n` (R305). -/
def moreText (s : State) (n : Nat) (tag : BitVec 32) : Bool :=
  ((streamOf s n).map fun x => x.arrived.any fun sh => tagBatch sh.tag == tagBatch tag && sh.valid != 0).getD false

/-- LETTER takes a text sheet of stream `n` (R299 to R305). Its lanes wait for node reads a time that hangs on what the node cache holds, which
no rule states (R305, R318; log entry 139). -/
def letterSheet (s : State) (n : Nat) (x : Stream) (sh : Sheet) : State :=
  match encodePipe s x with
  | none => s
  | some (p, v, ts) =>
    let e := mapGet s.encodes n Encode.empty
    let other := (e.tag.map fun t => tagBatch t != tagBatch sh.tag).getD false
    let ltr := (ctxOf s x.ctx).ltr
    let r0 : EncRun := ⟨e, [], { ltr with missNs := satAdd (ones 64) ltr.missNs (Config.nodeWait s.freeCtr) }⟩
    let s := { s with freeCtr := s.freeCtr + 1 }
    let r0 := if other then flushWords (if e.need.isSome then closeUnit p v ts true r0 else r0) else r0
    let s := emitTokens s x.ctx p r0.out (e.tag.getD 0) e.origin
    let start : Encode := if other then Encode.empty else r0.e
    let bytes := sh.data.take sh.valid.toNat
    let r : EncRun := ⟨{ start with tag := some sh.tag, origin := sh.origin }, [], r0.ltr⟩
    let r := encodeBytes p v ts (sh.flags &&& 0xB) (2 * bytes.length + 2) bytes r
    let ended := r.e.need.isNone && r.e.countBuf.isEmpty && !moreText s n sh.tag
    let r := if r.e.need.isSome then progress p v ts false r else if ended then flushWords r else r
    let s := emitTokens s x.ctx p r.out sh.tag sh.origin
    updCtx { s with encodes := mapPut s.encodes n r.e } x.ctx fun x => { x with ltr := r.ltr }

/-! Result buffers. -/

/-- Window pages that bytes [off, off + n) of the window touch. -/
def windowPages (off n : Nat) : List Nat := pagesTouched off n

/-- Whether every page of [off, off + n) is mapped and given to context `c` (R17, R403). -/
def windowOwned (s : State) (c off n : Nat) : Bool :=
  (windowPages off n).all fun w => ((mapFind s.host.window w).map fun p => p.owner == c).getD false

/-- The device address of a window byte, when its page is mapped. -/
def windowAddr (s : State) (off : Nat) : Option Nat :=
  (mapFind s.host.window (off / Config.pageBytes)).map fun p => p.page * Config.pageBytes + off % Config.pageBytes

/-- A record's bytes for the window from `off`, a multiple of 64: each line waits for the answer to its back-invalidate
snoop (R404). -/
def windowWrite (s : State) (off : Nat) (bs : Bytes) (poison : Bool) (rid : Option Nat) : State :=
  ((pieces 64 bs).zipIdx).foldl (fun s p =>
    match windowAddr s (off + 64 * p.2) with
    | some a => { s with host.snoops := s.host.snoops ++ [⟨a / 64, p.1, poison, rid⟩] }
    | none => s) s

/-- Whether a request's records are visible: no line of theirs waits (R200, R404). -/
def recordsVisible (s : State) (rid : Nat) : Bool := !(s.host.snoops.any fun x => x.rid == some rid)

end Sys2Proof.Machine
end

