-- ==== Sys2Proof/Machine/IndexOps.lean ====
section
/-! DEFINITION. Index objects: descriptors, contents, key directories, margin lists, visibility and search (R251 to R273). -/

namespace Sys2Proof.Machine

/-- An index descriptor read from its 256 bytes (R253). -/
def indexDescOf (b : Bytes) : IndexDesc :=
  { indexId := BitVec.ofNat 64 (u64 b 0), version := u32 b 8, lists := u32 b 12, sketchBits := u16 b 16, home := u8 b 18,
    columns := u8 b 19, apart := u8 b 20 == 1, shards := u8 b 21, items := u64 b 24, baseEpoch := u64 b 32,
    marginCap := u32 b 40, keydirSlots := u64 b 48, member := (List.range 64).map fun k => u8 b (64 + k), raw := b }

/-- A descriptor with VERSION, ITEMS, BASE_EPOCH and KEYDIR_SLOTS replaced. -/
def IndexDesc.renew (d : IndexDesc) (version items base slots : Nat) : IndexDesc :=
  indexDescOf (overlay (overlay (overlay (overlay d.raw 8 (leBytes 4 version)) 24 (leBytes 8 items)) 32 (leBytes 8 base))
    48 (leBytes 8 slots))

/-- The rules of R253 that concern the descriptor alone. -/
def indexDescOk (b : Bytes) : Bool :=
  let d := indexDescOf b
  d.indexId != 0 && decide (1 ≤ d.version) && decide (1 ≤ d.lists) && decide (d.lists ≤ 65536) &&
  (d.sketchBits == 256 || d.sketchBits == 512 || d.sketchBits == 1024) && (d.home == 1 || d.home == 2 || d.home == 4) &&
  decide (d.columns ≤ 16) && decide (u8 b 20 ≤ 1) && decide (1 ≤ d.shards) && decide (d.shards ≤ 64) && zeroAt b 22 2 &&
  decide (d.items ≤ 2 ^ 40) && decide (d.marginCap ≤ 67108864) && zeroAt b 44 4 && zeroAt b 56 8 &&
  decide (0 < d.keydirSlots) && d.keydirSlots == 2 ^ d.keydirSlots.log2 &&
  ((List.range 64).all fun k => if k < d.shards then decide (d.member.getD k 0 < 64) else d.member.getD k 0 == 0xFF) &&
  zeroAt b 128 128

/-- A loaded index by its identifier: its slot and itself. -/
def indexOf (s : State) (id : BitVec 64) : Option (Nat × Index) := s.indexes.find? fun p => p.2.id == id

def updIndex (s : State) (k : Nat) (f : Index → Index) : State := { s with indexes := mapUpd s.indexes k f }

/-! Layout (R255, R256, R258). -/

def IndexDesc.dirEntry (d : IndexDesc) : Nat := ceilDiv (16 + d.sketchBits / 8) 64 * 64
def IndexDesc.entryBytes (d : IndexDesc) : Nat := d.sketchBits / 8 + if d.apart then 0 else 8 * d.columns
/-- A commit operation (R259), which is also the size of a margin-list entry (R258). -/
def IndexDesc.opBytes (d : IndexDesc) : Nat := 16 + d.sketchBits / 8 + 8 * d.columns

/-- The holders of a shard: primary and mirror (R255). -/
def IndexDesc.primary (d : IndexDesc) (k : Nat) : Nat := d.member.getD k 0xFF
def IndexDesc.mirrorOf (d : IndexDesc) (k : Nat) : Option Nat :=
  if d.shards < 2 then none else some (d.member.getD ((k + 1) % d.shards) 0xFF)

/-- Whether module `m` holds shard `k`. -/
def IndexDesc.holds (d : IndexDesc) (m k : Nat) : Bool := d.primary k == m || d.mirrorOf k == some m

/-- As what this module serves shard `k` of an index to a batch of the given ORIGIN: as primary, or (`some true`) as mirror while the primary
does not serve (R280, R476, R481). -/
def shardSide (s : State) (d : IndexDesc) (k origin : Nat) : Option Bool :=
  if d.primary k = s.folio.number ∧ servesAt s s.folio.number origin then some false
  else if d.mirrorOf k = some s.folio.number ∧ !servesAt s (d.primary k) origin then some true
  else none

/-- Whether this module holds shard `k` as primary, and whether as mirror only. -/
def IndexDesc.ownShard (d : IndexDesc) (m k : Nat) : Bool := d.primary k == m
def IndexDesc.mirrorShard (d : IndexDesc) (m k : Nat) : Bool := d.mirrorOf k == some m && d.primary k != m

/-- The shard to which an item's key belongs when a commit inserts it (R260). -/
def IndexDesc.keyShard (d : IndexDesc) (key : BitVec 64) : Nat := (mix64 key).toNat % max 1 d.shards

/-- A version with the margin list of the shards that it holds as primary, or (`mirror`) of those that it mirrors (R258, R477). -/
def IndexVer.side (v : IndexVer) (mirror : Bool) : IndexVer := if mirror then { v with margin := v.mirror, badMargin := [] } else v

/-- COUNT of every list, read from the directory that begins the contents (log entry 23). -/
def dirCounts (d : IndexDesc) (b : Bytes) : List Nat := (List.range d.lists).map fun l => u32 b (l * d.dirEntry + 8)

/-- The lists of a shard, in ascending number. -/
def IndexDesc.shardLists (d : IndexDesc) (k : Nat) : List Nat := (List.range d.lists).filter fun l => l % d.shards == k

def listSum (counts : List Nat) (ls : List Nat) : Nat := (ls.map fun l => counts.getD l 0).sum

/-- Where the entry area of shard `k` begins in the contents, which hold the list directory and then, shard by shard, entries,
keys and, APART, columns (R413, log entry 23). -/
def shardBase (d : IndexDesc) (counts : List Nat) (k : Nat) : Nat :=
  let per := d.entryBytes + 8 + if d.apart then 8 * d.columns else 0
  d.lists * d.dirEntry + ((List.range k).map fun j => listSum counts (d.shardLists j) * per).sum

def wordsAt (b : Bytes) (off n : Nat) : List (BitVec 64) := (List.range n).map fun i => BitVec.ofNat 64 (u64 b (off + 8 * i))

def sketchAt (b : Bytes) (off bits : Nat) : BitVec 1024 := BitVec.ofNat 1024 (fieldAt b off (bits / 8))

/-- The list `l` of the contents, with the items of the shards that module `m` holds. -/
def listAt (d : IndexDesc) (counts : List Nat) (b : Bytes) (m l : Nat) : IList :=
  let k := l % d.shards
  let c := sketchAt b (l * d.dirEntry + 16) d.sketchBits
  if !d.holds m k then ⟨c, []⟩
  else
    let base := shardBase d counts k
    let n := listSum counts (d.shardLists k)
    let first := listSum counts ((d.shardLists k).filter (· < l))
    let item (i : Nat) : Item :=
      let e := base + (first + i) * d.entryBytes
      let key := base + n * d.entryBytes + 8 * (first + i)
      let col := if d.apart then base + n * (d.entryBytes + 8) + 8 * d.columns * (first + i) else e + d.sketchBits / 8
      ⟨sketchAt b e d.sketchBits, wordsAt b col d.columns, BitVec.ofNat 64 (u64 b key), false⟩
    ⟨c, (List.range (counts.getD l 0)).map item⟩

/-- All keys of the contents. -/
def contentKeys (d : IndexDesc) (counts : List Nat) (b : Bytes) : List Nat :=
  (List.range d.shards).flatMap fun k =>
    let n := listSum counts (d.shardLists k)
    (List.range n).map fun i => u64 b (shardBase d counts k + n * d.entryBytes + 8 * i)

/-- Whether the contents agree with the descriptor: their length, the directory's FIRST and reserved bytes, ITEMS, the slots
of the key directories, and the keys (R253 to R256). -/
def contentsOk (d : IndexDesc) (b : Bytes) : Bool :=
  let counts := dirCounts d b
  let firstOk (l : Nat) : Bool :=
    u64 b (l * d.dirEntry) == d.entryBytes * listSum counts ((d.shardLists (l % d.shards)).filter (· < l)) &&
    zeroAt b (l * d.dirEntry + 12) 4
  let keys := contentKeys d counts b
  decide (d.lists * d.dirEntry ≤ b.length) && b.length == shardBase d counts d.shards && counts.sum == d.items &&
  ((List.range d.lists).all firstOk) &&
  ((List.range d.shards).all fun k => decide (2 * listSum counts (d.shardLists k) ≤ d.keydirSlots)) &&
  decide keys.Nodup && !keys.contains (2 ^ 64 - 1)

/-! Key directories (R256). -/

/-- The slot at which a key is first sought: the HASHED row of R209 with SALT 0. -/
def keySlot (k : BitVec 64) (slots : Nat) : Nat := (mix64 k).toNat * slots / 2 ^ 64

/-- The slot of key `k` or the first empty one, from slot `r` of the directory that begins at `base`. -/
def keySeek (m : SMap (BitVec 64 × Handle)) (base slots : Nat) (k : BitVec 64) : Nat → Nat → Option Nat
  | _, 0 => none
  | r, fuel + 1 =>
    match mapFind m (base + r) with
    | none => some (base + r)
    | some e => if e.1 = k then some (base + r) else keySeek m base slots k ((r + 1) % max 1 slots) fuel

/-- The directories of the shards held here, built in list order. -/
def buildKeydir (d : IndexDesc) (ls : List IList) : SMap (BitVec 64 × Handle) :=
  (ls.zipIdx).foldl (fun m p => (p.1.items.zipIdx).foldl (fun m q =>
    let base := p.2 % d.shards * d.keydirSlots
    match keySeek m base d.keydirSlots q.1.key (keySlot q.1.key d.keydirSlots) d.keydirSlots with
    | some r => mapPut m r (q.1.key, ⟨false, p.2, q.2⟩)
    | none => m) m) []

/-- The handle that a key directory of one of the shards `serves` holds for a key. -/
def keydirFind (serves : Nat → Bool) (v : IndexVer) (k : BitVec 64) : Option Handle :=
  let d := v.desc
  (List.range d.shards).findSome? fun sh =>
    if !serves sh then none
    else
      ((keySeek v.keydir (sh * d.keydirSlots) d.keydirSlots k (keySlot k d.keydirSlots) d.keydirSlots).bind
        (mapFind v.keydir)).bind fun e => if e.1 = k then some e.2 else none

/-! Visibility (R261). -/

/-- Whether a tombstone for a handle carries an epoch below `snap`. -/
def tombed (margin : List MarginEntry) (h : Handle) (snap : Nat) : Bool :=
  margin.any fun e => match e with
    | .tombstone ep t => t == h && decide (ep < snap)
    | .insert .. => false

/-- Whether a partition item is visible at a snapshot: it counts as inserted at BASE_EPOCH - 1. -/
def IndexVer.itemVisible (v : IndexVer) (h : Handle) (snap : Nat) : Bool :=
  decide (v.desc.baseEpoch ≤ snap) && !tombed v.margin h snap

/-- Whether the `k`-th margin entry is an insert visible at a snapshot. -/
def IndexVer.insertAt (v : IndexVer) (k snap : Nat) : Option (BitVec 64 × BitVec 1024 × List (BitVec 64)) :=
  match v.margin[k]? with
  | some (.insert e key sk cols) => if e < snap && !tombed v.margin ⟨true, 0, k⟩ snap then some (key, sk, cols) else none
  | _ => none

/-- The handle of a key that is visible to commits made after epoch `e` (R262). -/
def visibleKey (serves : Nat → Bool) (v : IndexVer) (k : BitVec 64) (e : Nat) : Option Handle :=
  let inMargin := (List.range v.margin.length).find? fun i => ((v.insertAt i (e + 1)).map fun x => x.1 == k).getD false
  match inMargin with
  | some i => some ⟨true, 0, i⟩
  | none => (keydirFind serves v k).bind fun h => if v.itemVisible h (e + 1) then some h else none

/-! Versions (R257). -/

/-- The version of an index that a query of the given ORIGIN reads. -/
def Index.verAt (x : Index) (origin : Nat) : IndexVer := if x.since ≤ origin then x.cur else x.drain.getD x.cur

/-- The version passed through `f` that carries number `n`. -/
def Index.updVersion (x : Index) (n : Nat) (f : IndexVer → IndexVer) : Index :=
  if x.cur.desc.version = n then { x with cur := f x.cur }
  else { x with drain := x.drain.map fun v => if v.desc.version = n then f v else v }

def Index.version (x : Index) (n : Nat) : Option IndexVer :=
  if x.cur.desc.version = n then some x.cur else x.drain.bind fun v => if v.desc.version = n then some v else none

/-- E_commit for a batch of the given ORIGIN (R260). -/
def Index.commitAt (x : Index) (origin : Nat) : Nat := if x.cStamp ≤ origin then x.eCommit else x.ePrev

/-! Search (R252, R269 to R273). -/

def popcount (v : Nat) : Nat := ((List.range 1024).filter fun i => v.testBit i).length

/-- The distance of two sketches (R252). -/
def distance (a b : BitVec 1024) : Nat := popcount (a ^^^ b).toNat

/-- A predicate on a column word (R273). -/
def predOk (op : Nat) (a b c : BitVec 64) : Bool :=
  match op with
  | 0 => decide (a.toNat ≤ c.toNat) && decide (c.toNat < b.toNat)
  | 1 => decide (a.toInt ≤ c.toInt) && decide (c.toInt < b.toInt)
  | 2 => c == a
  | 3 => c != a
  | 4 => c &&& a == a
  | 5 => c &&& a != 0
  | _ => c &&& a == 0

/-- An item passes every predicate of a query record (R265, R273). -/
def passes (r : Bytes) (cols : List (BitVec 64)) : Bool :=
  (List.range (u8 r 31)).all fun k =>
    let e := 128 + 24 * k
    predOk (u8 r (e + 1)) (BitVec.ofNat 64 (u64 r (e + 8))) (BitVec.ofNat 64 (u64 r (e + 16))) (cols.getD (u8 r e) 0)

/-- The order of R252. -/
def ResultRec.before (a b : ResultRec) : Bool :=
  let key (r : ResultRec) : List Nat := [r.h, b2n r.margin, r.list, r.pos, r.module]
  decide (key a ≤ key b)

def sortRecs (rs : List ResultRec) : List ResultRec := sortBy ResultRec.before rs

/-- The lists that a query selects (R269): nearest centroids first, the lower list number at a tie. -/
def selectLists (v : IndexVer) (q : BitVec 1024) (nprobe : Nat) : List Nat :=
  let ds := v.lists.mapIdx fun l x => (distance q x.centroid, l)
  ((sortBy (fun a b => decide (a.1 < b.1) || (a.1 == b.1 && decide (a.2 ≤ b.2))) ds).take (min nprobe v.desc.lists)).map (·.2)

/-- What a search found on this member: its records, lists selected, items compared, and whether it met poison or a LOST
shard. -/
structure Found where
  recs : List ResultRec
  probed : Nat
  scanned : Nat
  poison : Bool

/-- The search of one query on this member (R269 to R273, R280, R281, R476): selected lists of the shards served here, the whole margin
list, and the mirrored entries of shards that it serves as mirror. -/
def search (s : State) (v : IndexVer) (r : Bytes) (q : BitVec 1024) (snap origin : Nat) : Found :=
  let d := v.desc
  let mode := u8 r 30
  let k := u16 r 24
  let chosen := selectLists v q (u32 r 20)
  let found := chosen.filter fun l => !shardLost s 1 d.indexId (l % d.shards)
  let mine := found.filterMap fun l => (shardSide s d (l % d.shards) origin).map fun m => (l, v.side m)
  let hit (h : Nat) (m : Bool) (l p : Nat) (key : BitVec 64) (bad : Bool) : ResultRec :=
    ⟨h, m, l, p, s.folio.number, key, fp32Exact (.sub (.ofInt 1) (.ofIntExp (2 * h) (-(d.sketchBits.log2 : Int)))), false, false, bad⟩
  let fromLists := mine.flatMap fun m =>
    (((v.lists.getD m.1 ⟨0, []⟩).items.zipIdx).filter fun p => m.2.itemVisible ⟨false, m.1, p.2⟩ snap).map fun p =>
      (hit (distance q p.1.sketch) false m.1 p.2 p.1.key p.1.poison, p.1.cols)
  let fromMargin := (List.range v.margin.length).filterMap fun i =>
    (v.insertAt i snap).map fun e => (hit (distance q e.2.1) true 0 i e.1 (v.badMargin.contains i), e.2.2)
  let fromMirror := (List.range v.mirror.length).filterMap fun i =>
    ((v.side true).insertAt i snap).bind fun e =>
      if shardSide s d (d.keyShard e.1) origin = some true then
        some (hit (distance q e.2.1) true 0 (v.margin.length + i) e.1 false, e.2.2)
      else none
  let all := fromLists ++ fromMargin ++ fromMirror
  let compared := if mode = 1 then all.filter fun x => passes r x.2 else all
  let sorted := sortBy (fun a b => a.1.before b.1) compared
  let kept := if mode = 2 then ((sorted.take (u16 r 26)).filter fun x => passes r x.2).take k else sorted.take k
  { recs := kept.map (·.1), probed := found.length, scanned := compared.length,
    poison := (all.any fun x => x.1.poison) || !v.badMargin.isEmpty ||
      chosen.any fun l => shardLost s 1 d.indexId (l % d.shards) }

end Sys2Proof.Machine
end

