-- ==== Sys2Proof/Machine/Indexes.lean ====
section
/-! DEFINITION. Index loads, version steps, commits and fair copies (R253 to R264, R415). -/

namespace Sys2Proof.Machine

/-! Loads. -/

/-- The areas of an index version on module `m`, with the tier and bytes of each (R255, R256, R258). Keys and columns lie in
T2, or in bulk flash beside entries that do (log entry 23). -/
def indexAreas (d : IndexDesc) (ls : List IList) (m : Nat) : List (Nat × IndexPart × Nat × Nat) :=
  let items (k : Nat) : Nat := ((d.shardLists k).map fun l => ((ls.getD l ⟨0, []⟩).items).length).sum
  let shards := (List.range d.shards).filter (d.holds m)
  [(0, .directory, 0, d.lists * d.dirEntry), (0, .margin, 0, d.marginCap * d.opBytes)] ++
  shards.flatMap fun k =>
    let n := items k
    (if d.home = 4 then [] else
      [(k, .entries, d.home, n * d.entryBytes), (k, .keys, 2, n * 8)] ++
      if d.apart then [(k, .columns, 2, n * 8 * d.columns)] else []) ++
    [(k, .keydir, 2, 16 * d.keydirSlots)]

/-- Pages of every area from the object pools (R238); none when a pool does not hold them. -/
def takeAreas (s : State) (u : PageUse) : List (Nat × IndexPart × Nat × Nat) →
    Option (List (Nat × IndexPart × List Nat) × State)
  | [] => some ([], s)
  | (k, p, t, n) :: rest =>
    let need := ceilDiv n Config.pageBytes
    if poolFree s t < need then none
    else (allocPages s t need u).bind fun a => (takeAreas a.2 u rest).map fun b => ((k, p, a.1) :: b.1, b.2)

/-- A version with its lists, key directories and pages. -/
def newIndexVer (s : State) (d : IndexDesc) (ls : List IList) : Option (IndexVer × State) :=
  (takeAreas s (.object 1 d.indexId d.version) (indexAreas d ls s.folio.number)).map fun p =>
    ({ desc := d, lists := ls, keydir := buildKeydir d ls, margin := [], mirror := [], areas := p.1, batches := 0,
       badMargin := [] }, p.2)

/-- A version is freed with its margin list (R219, R257). -/
def freeIndexVer (s : State) (v : IndexVer) : State :=
  freeWhere s fun u => u == .object 1 v.desc.indexId v.desc.version

/-- MARGIN_CAP over the module's indexes, beside index `id` (R254). -/
def otherCaps (s : State) (id : BitVec 64) : Nat :=
  (s.indexes.map fun p => if p.2.id == id then 0 else p.2.cur.desc.marginCap).sum

/-- A later version keeps L, C, COLUMNS_AT, LISTS, SHARDS and MEMBER (R254). -/
def sameShape (a b : IndexDesc) : Bool :=
  a.sketchBits == b.sketchBits && a.columns == b.columns && a.apart == b.apart && a.lists == b.lists &&
  a.shards == b.shards && a.member == b.member

/-- An index whose record `raw` and contents have passed their signature (R254 to R258): a first version is CURRENT at once, with
E_commit just below BASE_EPOCH (log entry 23); a later one is PENDING and replaces the one there, which ends the hold of a fair
copy whose version it replaces. -/
def takeIndex (s : State) (raw b : Bytes) : Except Status State :=
  let d := indexDescOf raw
  let old := indexOf s d.indexId
  let caps := otherCaps s d.indexId + max d.marginCap ((old.map fun p => p.2.cur.desc.marginCap).getD 0)
  if !indexDescOk raw || !contentsOk d b || (old.isNone && decide (64 ≤ s.indexes.length)) || decide (67108864 < caps) ||
      !(old.map fun p => sameShape p.2.first d).getD true then .error .format
  else
    let ls := (List.range d.lists).map (listAt d (dirCounts d b) b s.folio.number)
    let s := match old.bind fun p => p.2.pend with | some v => freeIndexVer s v | none => s
    match newIndexVer s d ls with
    | none => .error .format
    | some (v, s) =>
      if (old.map fun p => decide (d.version ≤ p.2.cur.desc.version)).getD false then .error .staleVersion else
      match old with
      | some (k, x) =>
        let copying := if x.copyBuilt then none else x.copying
        .ok { s with indexes := mapPut s.indexes k { x with pend := some v, copying := copying, copyBuilt := false } }
      | none =>
        let e := max 1 d.baseEpoch - 1
        let x : Index :=
          { id := d.indexId, first := d, cur := v, pend := none, drain := none, stepN := 0, steps := [], since := 0,
            eCommit := e, cStamp := 0, ePrev := e, commit := none, marginFull := false, copying := none, copyBuilt := false,
            passes := 0, queries := 0, short := 0, space := 0, stale := 0, reranked := 0, drafted := 0 }
        let s := healShards s 1 d.indexId
        .ok { s with indexes := mapPut s.indexes ((mapFree s.indexes 0 64).getD 0) x }

/-- An index load (R254, R413). -/
def loadIndex (s : State) (r : Bytes) : Except Status State :=
  match objectContents s r 1 256 with
  | .error e => .error e
  | .ok b => takeIndex s (slice r 128 256) b

/-- INDEX_LOAD (R254). -/
def execIndexLoad (cid : Nat) (record : Bytes) (s : State) : Host.Outcome State Fault Refusal :=
  .next <| adminCmd s cid false fun s => endLoad s cid (loadIndex s record)

/-! Versions. -/

/-- A draining version that nothing uses is freed (R219, R257). -/
def freeDrainedIndex (s : State) (k : Nat) : State :=
  match mapFind s.indexes k with
  | some x =>
    match x.drain with
    | some v => if v.batches = 0 then updIndex (freeIndexVer s v) k fun x => { x with drain := none } else s
    | none => s
  | none => s

/-- What VERSION_STEP does for an index before its stamp (R415). -/
def execVersionStepIndex (cid : Nat) (id : BitVec 64) (s : State) : Host.Outcome State Fault Refusal :=
  .next <| adminCmd s cid false fun s =>
    match indexOf s id with
    | some (k, _) =>
      let (far, s) := farDraining s
      toMembers (updIndex s k fun x => { x with steps := x.steps ++ [(s.time + 100000, x.drain.isSome || far, cid)] })
        (leBytes 8 id.toNat ++ leBytes 8 (s.time + 100000))
    | none => adminRefuse s cid .format

/-- A step stamped S (R217, R257), with the index after it. The version that comes in ends a fair copy's hold on commits (R264), and E_commit is
at least its BASE_EPOCH - 1 (log entry 23). -/
def stepIndex (s : State) (k : Nat) (x : Index) (stamp : Nat) (blocked : Bool) : Index × State :=
  let x := { x with stepN := (x.stepN + 1) % 2 ^ 32 }
  let x := match x.pend with
    | some v =>
      if blocked then x
      else
        let e := max x.eCommit (v.desc.baseEpoch - 1)
        { x with drain := some x.cur, cur := v, pend := none, since := stamp, eCommit := e, ePrev := max x.ePrev (v.desc.baseEpoch - 1),
                 copying := if x.copyBuilt then none else x.copying, copyBuilt := false }
    | none => x
  let s := if x.since = stamp then healShards s 1 x.id else s
  (x, freeDrainedIndex { s with indexes := mapPut s.indexes k x } k)

/-- The oldest step of an index reaches its time (R217, R257, R415). A member that is not the head takes the step that the head sent, at this
time; whether it is deferred the head knows (log entry 20). -/
def switchIndex (s : State) (k : Nat) (x : Index) : State :=
  match x.steps with
  | [] =>
    if isHead s then s
    else
      let (far, s) := farDraining s
      (stepIndex s k x s.time (far || x.drain.isSome)).2
  | (stamp, deferred, cid) :: rest =>
    if s.time < stamp then s
    else
      let blocked := deferred || x.drain.isSome
      let (y, s) := stepIndex s k { x with steps := rest } stamp blocked
      adminDone s cid (b2n (blocked && x.pend.isSome)) y.cur.desc.version

/-- VERSION_SWITCH (R217, R257, R415). -/
def execVersionSwitch (index : Bool) (id : BitVec 64) (s : State) : Host.Outcome State Fault Refusal :=
  .next <|
    if index then match indexOf s id with | some (k, x) => switchIndex s k x | none => s
    else match tableOf s id with | some (k, t) => switchTable s k t | none => s

/-! Commits. -/

/-- An operation of a commit (R259): whether it is a DELETE, its key, sketch and columns. -/
structure CommitOp where
  del : Bool
  key : BitVec 64
  sketch : BitVec 1024
  cols : List (BitVec 64)

def commitOp (d : IndexDesc) (b : Bytes) : CommitOp :=
  ⟨u8 b 0 == 1, BitVec.ofNat 64 (u64 b 8), sketchAt b 16 d.sketchBits, wordsAt b (16 + d.sketchBits / 8) d.columns⟩

/-- The form of a batch (R259): its size, each OP and reserved byte, and keys that are distinct and not all ones. -/
def commitOk (d : IndexDesc) (ops : Nat) (b : Bytes) : Bool :=
  let es := pieces d.opBytes b
  decide (1 ≤ ops) && decide (ops ≤ 65536) && b.length == ops * d.opBytes &&
  (es.all fun e => decide (u8 e 0 ≤ 1) && zeroAt e 1 7 && (u8 e 0 == 0 || zeroAt e 16 (d.opBytes - 16)) &&
    u64 e 8 != 2 ^ 64 - 1) &&
  decide (es.map fun e => u64 e 8).Nodup

/-- The entries that an operation appends at epoch `e` to a margin list whose holder serves the shards `serves`, with whether
it found its key visible (R260, R262). -/
def opEntries (serves : Nat → Bool) (v : IndexVer) (e : Nat) (o : CommitOp) : List MarginEntry × Bool :=
  let old := visibleKey serves v o.key (e - 1)
  let hide := (old.map fun h => MarginEntry.tombstone e h).toList
  let mine := serves (v.desc.keyShard o.key)
  (hide ++ (if !o.del && mine then [.insert e o.key o.sketch o.cols] else []), old.isSome)

/-- A batch on this member's lists, of the shards it holds as primary and of those it mirrors (R477): the version after it, and the number of
DELETEs that no shard served here knows. -/
def appendCommit (s : State) (v : IndexVer) (e : Nat) (os : List CommitOp) : IndexVer × Nat :=
  let me := s.folio.number
  let own := os.map (opEntries (v.desc.ownShard me) v e)
  let back := os.flatMap fun o => (opEntries (v.desc.mirrorShard me) (v.side true) e o).1
  let standIn (o : CommitOp) : Bool := (opEntries (fun k => shardSide s v.desc k s.time == some true) (v.side true) e o).2
  ({ v with margin := v.margin ++ own.flatMap (·.1), mirror := v.mirror ++ back },
    ((os.zip own).filter fun p => p.1.del && !p.2.2 && !standIn p.1).length)

/-- Of `n` DELETEs that this member does not find, those that no other member finds either: what other members find is theirs
(log entry 20). -/
def folioMisses (s : State) (n : Nat) : Nat × State :=
  if !inFolio s then (n, s)
  else
    let (k, s) := draw s (n + 1)
    (((List.range n).filter fun i => (Config.remoteByte (k + i) 0).getLsbD 0).length, s)

/-- MARGIN_FULL is set, with its event (R259). -/
def setMarginFull (s : State) (k : Nat) : State :=
  raiseEvent (updIndex s k fun x => { x with marginFull := true }) (evVendor 5) 0xC3

/-- The refusal of a commit at admission, if it is refused (R259, R412), with what the refusal itself sets. -/
def commitRefusal (s : State) (id : BitVec 64) (ops : Nat) (b : Bytes) : Option State :=
  match indexOf s id with
  | none => some s
  | some (k, x) =>
    if !commitOk x.cur.desc ops b then some s
    else
      let os := (pieces x.cur.desc.opBytes b).map (commitOp x.cur.desc)
      let v := (appendCommit s x.cur (x.eCommit + 1) os).1
      let far := othersServing s && Config.farFull s.freeCtr
      if far || decide (x.cur.desc.marginCap < (v.margin ++ v.mirror).length) then
        some (setMarginFull { s with freeCtr := s.freeCtr + b2n far } k)
      else none

/-- An admitted commit (R260, R262, R477, R481): every holder appends its entries at the epoch e = E_commit + 1. -/
def startCommit (s : State) (rid : Nat) (id : BitVec 64) (b : Bytes) : State :=
  match indexOf s id with
  | none => s
  | some (k, x) =>
    let e := x.eCommit + 1
    let (v, n) := appendCommit s x.cur e ((pieces x.cur.desc.opBytes b).map (commitOp x.cur.desc))
    let (n, s) := folioMisses s n
    let frame := leBytes 8 id.toNat ++ leBytes 4 e ++ b
    let s := toRejoining (if x.cur.desc.shards = 0 then s else toMembers s frame) x.cur.desc.member frame
    updIndex s k fun x => { x with cur := v, commit := some ⟨rid, e, n⟩, marginFull := false }

/-- Whether a commit to an index may be admitted now: no other is being appended and no fair copy is under way (R260,
R264). -/
def commitReady (s : State) (id : BitVec 64) : Bool :=
  ((indexOf s id).map fun p => p.2.commit.isNone && p.2.copying.isNone).getD true

/-- COMMIT_EPOCH (R260, R477): every member has appended, E_commit becomes e, stamped C. The command completes. -/
def execCommitEpoch (id : BitVec 64) (s : State) : Host.Outcome State Fault Refusal :=
  .next <|
    match indexOf s id with
    | none => s
    | some (k, x) =>
      match x.commit with
      | none => s
      | some c =>
        let s := updIndex s k fun x => { x with ePrev := x.eCommit, eCommit := c.epoch, cStamp := s.time, commit := none }
        updReq s c.rid fun q =>
          { q with done := true, posts := q.posts ++ [⟨q.src, 0, min c.misses 0xFFFF, c.epoch % 2 ^ 32, true⟩] }

/-! Fair copy. -/

/-- FAIR_COPY (R263, R264): F is E_commit + 1, counting a commit that is still being appended (log entry 24). -/
def execFairCopy (cid : Nat) (id : BitVec 64) (s : State) : Host.Outcome State Fault Refusal :=
  .next <| adminCmd s cid false fun s =>
    match indexOf s id with
    | none => adminRefuse s cid .format
    | some (k, x) =>
      if x.copying.isSome then adminRefuse s cid .format
      else
        let e := (x.commit.map (·.epoch)).getD x.eCommit
        updIndex s k fun x => { x with copying := some (e + 1, cid), copyBuilt := false }

/-- The list whose centroid is nearest to a sketch, the lower number at a tie (R263). -/
def nearestList (ls : List IList) (q : BitVec 1024) : Nat :=
  ((ls.mapIdx fun l x => (distance q x.centroid, l)).foldl (fun best p => match best with
    | none => some p
    | some b => if p.1 < b.1 then some p else some b) (none : Option (Nat × Nat))).elim 0 (·.2)

/-- The margin inserts that a version holds here and that are visible at a snapshot, own and mirrored. -/
def heldInserts (v : IndexVer) (f : Nat) : List (BitVec 64 × BitVec 1024 × List (BitVec 64)) :=
  ((List.range v.margin.length).filterMap fun k => v.insertAt k f) ++
    (List.range v.mirror.length).filterMap fun k => (v.side true).insertAt k f

/-- The lists of a fair copy at snapshot `f` (R263): the visible items of each list held here, and the inserts that join it, those that other
members hold among them. -/
def copyLists (s : State) (v : IndexVer) (f : Nat) : List IList :=
  let me := s.folio.number
  let d := v.desc
  let kept := v.lists.mapIdx fun l x =>
    let w := v.side (d.mirrorShard me (l % d.shards))
    { x with items := ((x.items.zipIdx).filter fun p => w.itemVisible ⟨false, l, p.2⟩ f).map (·.1) }
  let add (ls : List IList) (l : Nat) (key : BitVec 64) (sk : BitVec 1024) (cols : List (BitVec 64)) : List IList :=
    if d.holds me (l % d.shards) then listUpd ls l fun x => { x with items := x.items ++ [⟨sk, cols, key, false⟩] } else ls
  let here := (heldInserts v f).foldl (fun ls e => add ls (nearestList v.lists e.2.1) e.1 e.2.1 e.2.2) kept
  if othersServing s then
    (List.range d.lists).foldl (fun ls l => (Config.farInserts s.freeCtr l).foldl (fun ls e => add ls l e.2.1 e.1 e.2.2) ls) here
  else here

/-- KEYDIR_SLOTS of a copy: the version's own, doubled until it is at least twice the largest shard's items (log entry 24). -/
def copySlots (d : IndexDesc) (ls : List IList) : Nat :=
  let need := ((List.range d.shards).map fun k => 2 * ((d.shardLists k).map fun l => ((ls.getD l ⟨0, []⟩).items).length).sum).foldl max 1
  max d.keydirSlots (2 ^ (if need ≤ 2 ^ need.log2 then need.log2 else need.log2 + 1))

/-- The descriptor of a fair copy with the lists `ls`: the next version number, BASE_EPOCH `f` (R263). -/
def copyDesc (x : Index) (f : Nat) (ls : List IList) : IndexDesc :=
  let d := x.cur.desc
  d.renew (max d.version ((x.pend.map fun p => p.desc.version).getD 0) + 1) (ls.map fun l => l.items.length).sum f (copySlots d ls)

/-- The module with room for a fair copy: the PENDING version that it replaces has left (R216, R263), and what other members hold has been
asked for. -/
def copyRoom (s : State) (x : Index) : State :=
  let s := if othersServing s then { s with freeCtr := s.freeCtr + 1 } else s
  match x.pend with | some p => freeIndexVer s p | none => s

/-- Whether a unit that a fair copy reads is poisoned (R263). -/
def copyPoison (v : IndexVer) : Bool := !v.badMargin.isEmpty || v.lists.any fun l => l.items.any (·.poison)

/-- FAIR_COPY_END (R263, R264): the new version becomes PENDING and replaces the one there; with a poisoned source unit or too
few pages there is none, and commits go on. -/
def execFairCopyEnd (id : BitVec 64) (poisoned : Bool) (s : State) : Host.Outcome State Fault Refusal :=
  .next <|
    match indexOf s id with
    | none => s
    | some (k, x) =>
      match x.copying with
      | none => s
      | some (f, cid) =>
        if x.commit.isSome ∨ x.copyBuilt then s
        else
          let stop (st : Status) : State := adminRefuse (updIndex s k fun x => { x with copying := none }) cid st
          let ls := copyLists s x.cur f
          let d := copyDesc x f ls
          if poisoned || copyPoison x.cur then stop .poisoned
          else
            match newIndexVer (copyRoom s x) d ls with
            | none => stop .format
            | some (w, t) =>
              adminDone (updIndex t k fun x => { x with pend := some w, copyBuilt := true }) cid 0 d.version

end Sys2Proof.Machine
end

