-- ==== Sys2Proof/Machine/Stylus.lean ====
section
/-! DEFINITION. The Stylus ROM: descriptors, their checks, the order on a die, completions, the code store and the rollback
counters (R383 to R399). -/

namespace Sys2Proof.Machine

/-! Code-store regions (R391). -/

/-- Bits [hi, lo] of a region entry (R398). -/
def regField (r : BitVec 64) (lo n : Nat) : Nat := bitsAt r.toNat lo n
def regionValid (r : BitVec 64) : Bool := r.getLsbD 63
def regionXo (r : BitVec 64) : Bool := r.getLsbD 62
def regionFirst (r : BitVec 64) : Nat := regField r 0 10
def regionCount (r : BitVec 64) : Nat := regField r 10 11

/-- Whether the region holds code-store block `b`. -/
def regionHas (r : BitVec 64) (b : Nat) : Bool :=
  regionValid r && decide (regionFirst r ≤ b) && decide (b < regionFirst r + regionCount r)

/-- The region of a code-store block; a block in no region is unreachable (R391). -/
def regionAt (s : State) (b : Nat) : Option (BitVec 64) := (s.stylus.regions.find? fun p => regionHas p.2 b).map (·.2)

/-- Whether a region's WRITE allows a mailbox caller: 1 boot code, 2 boot code and Easel, 3 as 0 (R398). -/
def regionWrites (r : BitVec 64) (c : Caller) : Bool :=
  match c with
  | .bootCode => regField r 57 2 == 1 || regField r 57 2 == 2
  | .mailbox => regField r 57 2 == 2
  | _ => false

/-- Whether a region's FETCH names a fetcher. -/
def regionFetches (r : BitVec 64) (c : Caller) : Bool :=
  match c with
  | .fetchBootRom => r.getLsbD 59
  | .fetchEasel => r.getLsbD 60
  | .fetchLoader => r.getLsbD 61
  | _ => false

/-! Descriptors (R383, R385). -/

def Routine.code : Routine → Nat
  | .read => 0x01 | .program => 0x02 | .erase => 0x03 | .probe => 0x04 | .calRead => 0x05 | .csRead => 0x10
  | .csProgram => 0x11 | .csErase => 0x12 | .csFetch => 0x13 | .rbRead => 0x20 | .rbAdvance => 0x21

def Routine.ofCode (n : Nat) : Option Routine :=
  [Routine.read, .program, .erase, .probe, .calRead, .csRead, .csProgram, .csErase, .csFetch, .rbRead, .rbAdvance].find?
    fun r => r.code == n

/-- The 32 bytes of a descriptor by field (R383): its routine code and the rest. -/
def descOf (b : Bytes) : Nat × Desc :=
  (u8 b 0, ⟨u8 b 1, u16 b 2, u16 b 4, u16 b 6, u8 b 8, u8 b 9, u8 b 10, u8 b 11, u32 b 12, u64 b 16, u64 b 24⟩)

def descSlc (d : Desc) : Bool := bitSet d.dflags 0
def descNoRetry (d : Desc) : Bool := bitSet d.dflags 1
def descNoSuspend (d : Desc) : Bool := bitSet d.dflags 2

def Routine.onCode (r : Routine) : Bool := r == .csRead || r == .csProgram || r == .csErase || r == .csFetch
def Routine.onCounter (r : Routine) : Bool := r == .rbRead || r == .rbAdvance

/-- Spaces of a routine; the table gives none for the counters. -/
def Routine.spaceOk (r : Routine) (sp : Nat) : Bool :=
  match r with
  | .read | .program | .erase => decide (sp < 2)
  | .probe => sp == 0
  | .calRead | .rbRead | .rbAdvance => decide (sp < 3)
  | _ => sp == 2

/-- Bytes of the data buffer that a routine reads or writes: whole selected sectors of a READ, a page, three sentinel counts, a
counter. -/
def bufferBytes (r : Routine) (d : Desc) : Nat :=
  match r with
  | .read => 4096 * ((List.range 4).filter (bitSet d.sectors)).length
  | .program | .csRead | .csProgram | .csFetch => 16384
  | .probe => 12
  | .rbRead => 8
  | _ => 0

/-- Every field in range, reserved fields zero (R383, R385). Only a bulk block may be in QLC mode: T2 and the code store are SLC
(R19, R34). -/
def descFieldsOk (r : Routine) (d : Desc) : Bool :=
  r.spaceOk d.space &&
  (if r.onCounter then decide (d.die < 16) && d.block == 0
   else match d.space with
     | 0 => decide (d.die < Config.bulkDies) && decide (d.block < Config.bulkBlocks)
     | 1 => decide (d.die < Config.fastDies) && decide (d.block < Config.fastBlocks)
     | _ => decide (d.die < 1024) && d.block == 0) &&
  decide (d.page < if d.space = 0 ∧ !descSlc d then 4096 else 1024) &&
  decide (d.sectors < 16) && decide (d.dflags < 8) &&
  (if r = .calRead then decide (d.offset < 16) else d.offset == 0) && d.reserved == 0 &&
  decide (d.buffer % 4096 = 0) && decide (d.buffer + max 1 (bufferBytes r d) ≤ Config.t0End) &&
  (r == .rbAdvance || d.value == 0)

/-- Callers that the table of R385 allows. The mailbox takes descriptors from boot code and from Easel. -/
def callerOk (r : Routine) (c : Caller) : Bool :=
  let hw := c == .hardware || c == .commit
  let mbx := c == .mailbox || c == .bootCode
  match r with
  | .read => hw || mbx
  | .program | .erase | .probe | .calRead => hw
  | .csRead | .csProgram | .csErase | .rbRead => mbx
  | .csFetch => c == .fetchBootRom || c == .fetchEasel || c == .fetchLoader
  | .rbAdvance => c == .bootCode

/-- The newest ledger record of a companion for a block (R372, R386). -/
def newestLedger (s : State) (die block : Nat) : Option LedgerRec :=
  (mapGet s.media.ledgers (die % 64 / 16) []).find? fun r => r.die == die && r.block == block

/-- Whether a PROGRAM or ERASE would write a T2 page that a loaded context's region or a table or index version holds: T2 pages are written
only while none does (R180, log entry 136). -/
def t2Held (s : State) (r : Routine) (d : Desc) : Bool :=
  let held (n : Nat) : Bool :=
    match mapFind s.pages n with
    | some (.region c id) => ((ctxOf s c).loaded.map fun l => (mapGet l.regionPages id []).contains n).getD false
    | some (.object _ _ _) => true
    | _ => false
  let at_ (p : Nat) : Bool := held (t2Addr d.die d.block p 0 / Config.pageBytes)
  if r = .erase then (List.range 1024).any at_ else r == .program && at_ d.page

/-- What R386, R391, R393 and R395 ask of a descriptor beside its fields and its caller: the status of a refusal. -/
def accessRefusal (s : State) (r : Routine) (c : Caller) (d : Desc) : Option Nat :=
  if r.onCounter then (if r = .rbAdvance ∧ s.stylus.lock then some 4 else none)
  else match d.space with
  | 0 =>
    if isHeldBlock d.block then some 4
    else if r = .erase ∧ (newestLedger s d.die d.block).map (·.kind) ≠ some .intent then some 5
    else none
  | 1 => if t2Held s r d then some 4 else none
  | _ =>
    if d.die < 8 then some 4
    else match r, regionAt s d.die with
      | .calRead, _ => none
      | _, none => some 4
      | .csRead, some g => if regionXo g then some 4 else none
      | .csFetch, some g => if regionXo g && regionFetches g c then none else some 4
      | _, some g => if regionWrites g c then none else some 4

/-- UNIT_KIND and ADDRESS of a record about a descriptor's target (R461). -/
def descRec (r : Routine) (d : Desc) (cls : ErrClass) (op a b : Nat) (poison : Bool := false) : RecArgs :=
  if d.space = 2 ∨ r.onCounter then
    { cls := cls, unitKind := 5, unit := d.die, op := op, address := d.page, detailA := a, detailB := b, poisonMade := poison }
  else
    { cls := cls, unitKind := 3 + d.space, unit := d.die, op := op,
      address := d.block * 2 ^ 32 + d.page * 2 ^ 16 + d.sectors, detailA := a, detailB := b, poisonMade := poison }

/-- OP of a record by routine (R459). -/
def Routine.op : Routine → Nat
  | .program | .csProgram => 7
  | .erase | .csErase => 8
  | .csFetch => 9
  | .rbAdvance => 1
  | _ => 0

/-- The bytes of a completion (R384). -/
def cplBytes (c : Cpl) : Bytes :=
  leBytes 4 c.tag ++ [BitVec.ofNat 8 c.status, BitVec.ofNat 8 (c.bucket + 16 * b2n c.ew + 32 * c.level),
    BitVec.ofNat 8 c.suspends, 0] ++ leBytes 8 c.stamp

/-- A descriptor completes; that of the mailbox is written to its registers, bit 0 of the TAG excluded, and BUSY clears
(R384, R397, R398). -/
def finishOp (s : State) (o : Op) (status bucket : Nat) (ew : Bool) (level : Nat) : State :=
  let c : Cpl := ⟨o.id, o.desc.tag, status, bucket, ew, level, o.suspends, s.time⟩
  let s := { s with stylus.cpls := c :: s.stylus.cpls }
  if s.stylus.mbxBusy = some o.id then
    { s with stylus.mbxBusy := none
             stylus.mbxCpl0 := BitVec.ofNat 64 (u64 (cplBytes c) 0 / 2 * 2)
             stylus.mbxCpl1 := BitVec.ofNat 64 c.stamp }
  else s

/-! Order on a die (R387, R388). -/

def dieKey (r : Routine) (d : Desc) : Nat :=
  if r.onCounter then 4096 + d.die else match d.space with | 0 => d.die | 1 => 1024 + d.die | _ => 2048 + d.die

def Routine.writes (r : Routine) : Bool := r == .program || r == .erase || r == .csProgram || r == .csErase

def sameBlock (a b : Op) : Bool := a.desc.block == b.desc.block

/-- A READ waits for every earlier PROGRAM or ERASE of its own block (R388). -/
def mayRun (earlier : List Op) (o : Op) : Bool := o.routine != .read || earlier.all fun e => !e.routine.writes || !sameBlock e o

/-- The commit controller's descriptors stand before every other, then the higher priority (R387). -/
def opRank (o : Op) : Nat := if o.caller = .commit then 8 else min 7 o.prio

/-- The positions of waiting operations that may run, with their ranks. -/
def runnable (held : List Op) (q : List Op) : List (Nat × Nat) :=
  (List.range q.length).filterMap fun i =>
    (q[i]?).bind fun o => if mayRun (held ++ q.take i) o then some (i, opRank o) else none

/-- The first of the highest rank. -/
def bestOf (xs : List (Nat × Nat)) : Option Nat :=
  let top := xs.foldl (fun m x => max m x.2) 0
  (xs.find? fun x => x.2 == top).map (·.1)

/-- What a die does next: it resumes what was suspended, else takes a waiting operation; a READ suspends a PROGRAM or an ERASE
of another block, at most 4 times (R388). -/
def nextOnDie (d : Die) : Die :=
  let d := match d.running, d.suspended with
    | none, some o => { d with running := some o, suspended := none }
    | _, _ => d
  let d := match d.running with
    | some _ => d
    | none => match bestOf (runnable [] d.waiting) with
      | some i => { d with running := d.waiting[i]?, waiting := listDrop d.waiting i }
      | none => d
  match d.running, d.suspended with
  | some p, none =>
    if p.routine.writes && decide (p.suspends < 4) then
      let able (i : Nat) : Bool :=
        ((d.waiting[i]?).map fun o => o.routine == .read && !descNoSuspend o.desc && !sameBlock o p).getD false
      match bestOf ((runnable [p] d.waiting).filter fun x => able x.1) with
      | some i => { running := d.waiting[i]?, suspended := some { p with suspends := p.suspends + 1 },
                    waiting := listDrop d.waiting i }
      | none => d
    else d
  | _, _ => d

def dieOf (s : State) (k : Nat) : Die := mapGet s.stylus.dies k ⟨none, none, []⟩

/-- A die with nothing to do is not listed. -/
def setDie (s : State) (k : Nat) (d : Die) : State :=
  if d.running.isNone && d.suspended.isNone && d.waiting.isEmpty then { s with stylus.dies := mapDrop s.stylus.dies k }
  else { s with stylus.dies := mapPut s.stylus.dies k d }

/-- The mailbox takes descriptors from boot code and from Easel (R385, R397). -/
def isMailbox (c : Caller) : Bool := c == .mailbox || c == .bootCode

/-- Boot code is code that runs on Easel while BOOT_MODE is 1 (R395). -/
def callerNow (s : State) (c : Caller) : Caller := if c = .bootCode ∧ !s.stylus.bootMode then .mailbox else c

/-- A descriptor is submitted: its checks, and its place on its die. A mailbox descriptor occupies the mailbox until it
completes. -/
def submitDesc (s : State) (r : Routine) (c : Caller) (d : Desc) (prio : Nat) : State :=
  let o : Op := ⟨s.stylus.nextId, r, c, d, prio, 0, false⟩
  let s := { s with stylus.nextId := o.id + 1 }
  let s := if isMailbox c then { s with stylus.mbxBusy := some o.id } else s
  let protect (s : State) : State := finishOp (recordErr s (descRec r d .protection r.op (if r.writes then 1 else 0) 0)) o 4 0 false 0
  if !descFieldsOk r d then finishOp s o 5 0 false 0
  else if !callerOk r c then protect s
  else match accessRefusal s r c d with
    | some 5 => finishOp s o 5 0 false 0
    | some _ => protect s
    | none =>
      let k := dieKey r d
      let x := dieOf s k
      setDie s k (nextOnDie { x with waiting := x.waiting ++ [o] })

/-- A descriptor given by its bytes: an unknown routine completes with BAD_DESCRIPTOR (R385). -/
def submitRaw (s : State) (c : Caller) (b : Bytes) (prio : Nat) : State :=
  let (code, d) := descOf b
  match Routine.ofCode code with
  | some r => submitDesc s r c d prio
  | none =>
    let o : Op := ⟨s.stylus.nextId, .read, c, d, prio, 0, false⟩
    let s := if isMailbox c then { s with stylus.mbxBusy := some o.id } else s
    finishOp { s with stylus.nextId := o.id + 1 } o 5 0 false 0

/-- A descriptor reaches the Stylus ROM from a caller; one for the mailbox while BUSY is 1 is ignored with a USAGE record
(R398). -/
def offerDesc (s : State) (c : Caller) (f : Caller → State) : State :=
  if isMailbox c && s.stylus.mbxBusy.isSome then usageReg s 0x010_0060 else f (callerNow s c)

/-- READ (R385, R388). -/
def execRead (c : Caller) (d : Desc) (prio : Nat) (s : State) : Host.Outcome State Fault Refusal :=
  .next (offerDesc s c fun c => submitDesc s .read c d prio)

/-- PROGRAM (R385). -/
def execProgram (c : Caller) (d : Desc) (prio : Nat) (s : State) : Host.Outcome State Fault Refusal :=
  .next (offerDesc s c fun c => submitDesc s .program c d prio)

/-- ERASE (R386). -/
def execErase (c : Caller) (d : Desc) (prio : Nat) (s : State) : Host.Outcome State Fault Refusal :=
  .next (offerDesc s c fun c => submitDesc s .erase c d prio)

/-- PROBE (R374). -/
def execProbe (c : Caller) (d : Desc) (prio : Nat) (s : State) : Host.Outcome State Fault Refusal :=
  .next (offerDesc s c fun c => submitDesc s .probe c d prio)

/-- CAL_READ (R385). -/
def execCalRead (c : Caller) (d : Desc) (prio : Nat) (s : State) : Host.Outcome State Fault Refusal :=
  .next (offerDesc s c fun c => submitDesc s .calRead c d prio)

/-- CS_READ (R391). -/
def execCsRead (c : Caller) (d : Desc) (prio : Nat) (s : State) : Host.Outcome State Fault Refusal :=
  .next (offerDesc s c fun c => submitDesc s .csRead c d prio)

/-- CS_PROGRAM (R392). -/
def execCsProgram (c : Caller) (d : Desc) (prio : Nat) (s : State) : Host.Outcome State Fault Refusal :=
  .next (offerDesc s c fun c => submitDesc s .csProgram c d prio)

/-- CS_ERASE (R392). -/
def execCsErase (c : Caller) (d : Desc) (prio : Nat) (s : State) : Host.Outcome State Fault Refusal :=
  .next (offerDesc s c fun c => submitDesc s .csErase c d prio)

/-- CS_FETCH (R391). -/
def execCsFetch (c : Caller) (d : Desc) (prio : Nat) (s : State) : Host.Outcome State Fault Refusal :=
  .next (offerDesc s c fun c => submitDesc s .csFetch c d prio)

/-- RB_READ (R385). -/
def execRbRead (c : Caller) (d : Desc) (prio : Nat) (s : State) : Host.Outcome State Fault Refusal :=
  .next (offerDesc s c fun c => submitDesc s .rbRead c d prio)

/-- RB_ADVANCE (R393). -/
def execRbAdvance (c : Caller) (d : Desc) (prio : Nat) (s : State) : Host.Outcome State Fault Refusal :=
  .next (offerDesc s c fun c => submitDesc s .rbAdvance c d prio)

/-- BAD_DESCRIPTOR (R385): the descriptor is submitted as its bytes say. -/
def execBadDescriptor (c : Caller) (raw : Bytes) (s : State) : Host.Outcome State Fault Refusal :=
  .next (offerDesc s c fun c => submitRaw s c raw 0)

/-! Reads (R389, R390) and the evidence of calibration (R492). -/

/-- The bucket of a codeword: its corrected bits, none when the level-0 decode failed. -/
def bucketOf (e : Option Nat) : Nat :=
  match e with
  | none => 15
  | some 0 => 0
  | some e => min 14 (1 + Nat.log2 e)

/-- The largest bucket of the codewords read. -/
def maxBucket (es : List (Option Nat)) : Nat := es.foldl (fun m e => max m (bucketOf e)) 0

/-- The threshold of PRT_EW for a medium: bulk QLC, bulk SLC or code store, T2. -/
def ewThreshold (s : State) (space : Nat) (slc : Bool) : Nat :=
  if space = 1 then bitsAt s.stylus.ew.toNat 8 4 else if space = 0 ∧ !slc then bitsAt s.stylus.ew.toNat 0 4
  else bitsAt s.stylus.ew.toNat 4 4

def DieCal.fresh : DieCal := ⟨0, 0, 0, 0, 0, 0, 0, false, none, (0, 0), false, false, 0⟩

/-- The key of a die and mode: unit × 2 + mode, units as CAL_MON_SEL has them. -/
def calKey (space die : Nat) (slc : Bool) : Nat := 2 * (if space = 1 then 1024 + die else die) + b2n (slc || space == 1)

/-- A live level-0 read of a die and mode: bucket 15 is left out, bucket 0 adds no bits (R492). -/
def trackRead (s : State) (d : Desc) (bucket : Nat) (ew : Bool) (n1 n0 : Nat) : State :=
  if bucket = 15 then s
  else
    let k := calKey d.space d.die (descSlc d)
    let x := mapGet s.cal.dies k .fresh
    let x := { x with
      reads := x.reads + 1
      ewReads := x.ewReads + b2n ew
      n1 := x.n1 + if bucket = 0 then 0 else n1
      n0 := x.n0 + if bucket = 0 then 0 else n0
      lastEwPage := if ew then (d.block, d.page) else x.lastEwPage }
    { s with cal.dies := mapPut s.cal.dies k x }

/-- Parts per million. -/
def ppm (n total : Nat) : Nat := if total = 0 then 0 else n * 1_000_000 / total

/-- The 60 s window of the media stage is over: its rates are taken, and nothing is counted in the next one yet (R380, R381). -/
def closeMediaWindow (s : State) : State :=
  let m := s.media
  let worst := m.dieReads.foldl (fun best p => if best.2 < ppm p.2.2 p.2.1 then (p.1, ppm p.2.2 p.2.1) else best) (0, 0)
  let enough := decide (10_000 ≤ m.winReads)
  let h := m.health
  { s with
    media.health := { h with ewPpm := ppm m.winEw m.winReads, retryPpm := ppm m.winRetry m.winReads,
                             worstDie := worst.1, worstEwPpm := worst.2 }
    media.rateEw := if enough then ppm m.winEw m.winReads else m.rateEw
    media.rateRetry := if enough then ppm m.winRetry m.winReads else m.rateRetry
    media.winReads := 0
    media.winEw := 0
    media.winRetry := 0
    media.dieReads := [] }

/-- Windows that have ended by the present count are closed; the last of several held no reads (R8, R380). -/
def mediaSettle (s : State) : State :=
  let k := s.time / 60_000_000_000
  if k = s.media.stageWin then s
  else
    let t := closeMediaWindow s
    { (if k = s.media.stageWin + 1 then t else closeMediaWindow t) with media.stageWin := k }

/-- A bulk read in the counts of the media stage and of the health log (R380, R381). -/
def countBulkRead (s : State) (die : Nat) (ew : Bool) (level : Nat) (failed : Bool) : State :=
  let s := mediaSettle s
  let (n, e) := mapGet s.media.dieReads die (0, 0)
  let h := s.media.health
  { s with
    media.winReads := s.media.winReads + 1
    media.winEw := s.media.winEw + b2n ew
    media.winRetry := s.media.winRetry + b2n (decide (3 ≤ level))
    media.dieReads := mapPut s.media.dieReads die (n + 1, e + b2n ew)
    media.health := { h with level7 := satAdd (ones 64) h.level7 (b2n (level == 7)),
                             uncorrected := satAdd (ones 64) h.uncorrected (b2n failed) } }

/-- The stripe that still holds parity for a bulk block. -/
def heldStripe (s : State) (k : Nat) : Option Stripe :=
  let n := (bulkBlock s k).stripe
  if n = 0 then none else mapFind s.media.stripes (n - 1)

/-- REFRESH of a logical block (R367, R369). -/
def refreshLogical (s : State) (n : Nat) : State :=
  { s with media.map := mapUpd s.media.map n fun m => { m with refresh := true } }

/-- The logical block whose MAPPED home a block is. -/
def homeOf (s : State) (k : Nat) : Option Nat := (s.media.map.find? fun p => p.2.mapped && p.2.block == k).map (·.1)

/-- A block's data is to move: a refresh of its logical block, or its log block folded next (R369). -/
def refreshBlock (s : State) (k : Nat) : State :=
  match homeOf s k with
  | some n => refreshLogical s n
  | none => if (bulkBlock s k).st = .logOpen ∨ (bulkBlock s k).st = .logClosed then updBlock s k fun b => { b with foldNext := true } else s

/-- A sector that cannot be read is poisoned where it is the newest copy of its logical sector (R370). -/
def poisonSector (s : State) (phys : Nat) : State :=
  match mapFind s.media.sectors phys with
  | some x => if sectorPlace s x.lba = some phys then { s with media.poisoned := mapPut s.media.poisoned x.lba () } else s
  | none => s

/-- Data that a READ delivers from a sector, with whether it is poisoned. -/
def readOne (s : State) (d : Desc) (i : Nat) : Bytes × Bool :=
  match d.space with
  | 0 =>
    match mapFind s.media.sectors (physKey (bulkKey d.die d.block) d.page i) with
    | some x => (x.data, sectorPoisoned s x.lba)
    | none => (zeros 4096, false)
  | _ =>
    let a := t2Addr d.die d.block d.page i
    (cellsRead s.mem a 4096, poisonedAt s a 4096)

/-- The selected sectors whose level-0 decode failed. -/
def lostSectors (secs : List Nat) (obs : FlashObs) : List Nat :=
  ((secs.zip (List.range secs.length)).filter fun p => (obs.corrected.getD p.2 none).isNone).map (·.1)

/-- A READ that has run (R369, R370, R389, R390): the data goes to BUFFER, what could not be read is rebuilt from parity while
that is held and poisoned otherwise. -/
def readDone' (s : State) (o : Op) (obs : FlashObs) : State :=
  let d := o.desc
  let secs := (List.range 4).filter (bitSet d.sectors)
  let bucket := maxBucket obs.corrected
  let ew := decide (ewThreshold s d.space (descSlc d) ≤ bucket)
  let failed := bucket == 15 && (obs.level.isNone || descNoRetry d)
  let level := if bucket < 15 ∨ descNoRetry d then 0 else (obs.level.getD 7) % 8
  let k := bulkKey d.die d.block
  let unread := if failed then lostSectors secs obs else []
  let lost := if descNoRetry d then [] else unread
  let rebuilt := d.space == 0 && (heldStripe s k).isSome
  let s := trackRead s d bucket ew obs.n1 obs.n0
  let s := if d.space = 0 then countBulkRead s d.die ew level (failed && !descNoRetry d) else s
  let s := if d.space = 0 ∧ 5 ≤ level then refreshBlock s k else s
  let s := if lost = [] then s else recordErr s (descRec .read d .uncorrected 0 bucket 7 (!rebuilt))
  let s := if lost = [] ∨ rebuilt then s
    else if d.space = 0 then
      let s := lost.foldl (fun s i => poisonSector s (physKey k d.page i)) s
      refreshBlock (updBlock s k fun b => { b with strikes := max 2 b.strikes }) k
    else lost.foldl (fun s i =>
      let a := t2Addr d.die d.block d.page i
      { s with poison := ((List.range 64).map (a / 64 + ·)).foldl (fun m l => mapPut m l ()) s.poison }) s
  let s := (secs.zip (List.range secs.length)).foldl (fun s p =>
    let (b, poison) := readOne s d p.1
    memWrite s (d.buffer + 4096 * p.2) b (poison || (unread.contains p.1 && (descNoRetry d || !rebuilt)))) s
  finishOp s o (if failed then 1 else 0) bucket ew level

/-! Programs and erases (R373, R377 to R379, R382). -/

/-- A record of a program or erase that failed, or of a retirement: its status and the block's wear (R460). -/
def mediaRec (s : State) (die block op status wear : Nat) : State :=
  recordErr s { cls := .media, unitKind := 3, unit := die, op := op, address := block * 2 ^ 32, detailA := status, detailB := wear }

/-- SPARE: every retirement lowers it by one (R353). -/
def spare (s : State) : Nat := s.media.spareShip - s.media.health.retired

/-- The highest stage whose condition holds (R380). -/
def mediaStage (s : State) : MediaStage :=
  if spare s = 0 then .writeStop
  else if spare s ≤ s.media.spareLow then .lowSpare
  else if s.media.retryWatch ≤ s.media.rateRetry then .retry
  else if s.media.ewWatch ≤ s.media.rateEw then .watch
  else .normal

/-- The media stage is evaluated anew; a stage that is entered raises its event (R380, R419). -/
def restage (s : State) : State :=
  let n := mediaStage s
  if n = s.media.stage then s
  else
    let s := { s with media.stage := n }
    match n with
    | .normal => s
    | .watch | .retry => raiseEvent s (evVendor 2) 0xC2
    | .lowSpare => raiseEvent s evSmartSpare 0x02
    | .writeStop => raiseEvent s evSmartReliability 0x02

/-- A bulk block leaves use for good (R353, R379, R381). -/
def retireBlock (s : State) (k op status : Nat) : State :=
  let b := bulkBlock s k
  if b.st = .retired then s
  else
    let h := s.media.health
    let day := s.time / 86_400_000_000_000
    let s := setBlock s k { b with st := .retired }
    let s := { s with media.health := { h with retired := satAdd (ones 32) h.retired 1, dayNo := day,
                                               retiredDay := satAdd (ones 32) (if h.dayNo = day then h.retiredDay else 0) 1 } }
    restage (mediaRec s (k / Config.bulkBlocks) (k % Config.bulkBlocks) op status b.wear)

/-- Wear units of an erase (R354). -/
def eraseWear (slc : Bool) : Nat := if slc then 3 else 100

/-- A record joins companion `c`'s ledger, newest first; SEQ rises by one per record on the companion (R372). -/
def ledgerPut (s : State) (c : Nat) (kind : LedgerKind) (die block : Nat) (slc : Bool) (wear sentinels : Nat) : State :=
  let l := mapGet s.media.ledgers c []
  let seq := ((l.head?.map fun r => r.seq + 1)).getD 0
  { s with media.ledgers := mapPut s.media.ledgers c (⟨kind, slc, die, block, wear, sentinels, seq, s.time⟩ :: l) }

/-- Records of 32 bytes in an SLC block (R372). -/
def ledgerBlock : Nat := 524_288

/-- The place of block `i` of a companion's 32 ledger blocks: the spec fixes none (log entry 31). -/
def ledgerPlace (c i : Nat) : Nat × Nat := (64 * (i / 16) + 16 * c + i % 16, 3813)

/-- Whether a companion's next record begins a new ledger block and leaves no other free: the oldest is then erased (R372, R373). -/
def ledgerTurns (s : State) (c : Nat) : Bool :=
  let l := mapGet s.media.ledgers c []
  match l.head? with
  | some r => (r.seq + 1) % ledgerBlock == 0 && decide (31 * ledgerBlock ≤ l.length)
  | none => false

/-- The ledger has moved to a new block: the INTENT for the oldest one is written there, and the erase takes what that one held (R373). -/
def turnLedger (s : State) (c : Nat) : State :=
  let l := mapGet s.media.ledgers c []
  let (die, block) := ledgerPlace c ((((l.head?.map (·.seq)).getD 0 + 1) / ledgerBlock + 1) % 32)
  let k := bulkKey die block
  let wear := (bulkBlock s k).wear
  let s := { s with media.ledgers := mapPut s.media.ledgers c (l.take (l.length - ledgerBlock)) }
  let s := ledgerPut s c .intent die block true wear 0
  ledgerPut (updBlock s k fun b => { b with wear := wear + eraseWear true }) c .done die block true wear 0

/-- A ledger record of a die (R372, R373). -/
def ledger (s : State) (kind : LedgerKind) (die block : Nat) (slc : Bool) (wear sentinels : Nat) : State :=
  let c := die % 64 / 16
  ledgerPut (if ledgerTurns s c then turnLedger s c else s) c kind die block slc wear sentinels

/-- The bytes that a block's sectors held are gone. -/
def blankBlock (s : State) (k : Nat) : State :=
  { s with media.sectors := s.media.sectors.filter fun p => physBlock p.1 != k }

/-- A fast block fails: the next replacement block of its die stands in for it, or its group is FAILED (R378). -/
def failFast (s : State) (die block op status : Nat) : State :=
  let used := mapGet s.media.fastUsed die 0
  let h := s.media.health
  let s := recordErr s { cls := .media, unitKind := 4, unit := die, op := op, address := block * 2 ^ 32, detailA := status }
  if used < 64 then
    { s with media.fastUsed := mapPut s.media.fastUsed die (used + 1)
             media.health := { h with t2Replaced := satAdd (ones 32) h.t2Replaced 1 } }
  else
    let g := mapGet s.media.groups block ⟨0, false⟩
    if g.failed then s
    else { s with media.groups := mapPut s.media.groups block { g with failed := true }
                  media.health := { h with t2Failed := satAdd (ones 32) h.t2Failed 1 } }

/-- An ERASE that has run: wear is charged; a bulk block's ledger takes DONE and the block is FREE, or FAILED and it is retired
(R354, R357, R373). -/
def eraseDone (s : State) (o : Op) (good : Bool) : State :=
  let d := o.desc
  let h := s.media.health
  let s := if d.space = 0 ∧ !good then { s with media.health := { h with eraseFail := satAdd (ones 32) h.eraseFail 1 } } else s
  let s :=
    if d.space = 0 then
      let k := bulkKey d.die d.block
      let b := bulkBlock s k
      let s := setBlock s k { b with wear := b.wear + eraseWear (descSlc d), slc := (descSlc d) }
      if good then
        let s := blankBlock (ledger s .done d.die d.block (descSlc d) b.wear 0) k
        updBlock s k fun b => { b with st := if b.st = .erasing then .free else b.st, seq := 0, pages := 0, stripe := 0,
                                       foldNext := false }
      else retireBlock (ledger s .failed d.die d.block (descSlc d) b.wear 0) k 8 3
    else if good then
      let clear (s : State) (p : Nat) : State := (List.range 4).foldl (fun s i => memWrite s (t2Addr d.die d.block p i) (zeros 4096) false) s
      (List.range 1024).foldl clear s
    else failFast s d.die d.block 8 3
  finishOp s o (if good then 0 else 3) 0 false 0

/-- A PROGRAM that has run: the page holds BUFFER's data, or the block is retired (R378, R379). -/
def programDone (s : State) (o : Op) (good : Bool) : State :=
  let d := o.desc
  let h := s.media.health
  let data (i : Nat) : Bytes := cellsRead s.mem (d.buffer + 4096 * i) 4096
  let s :=
    if d.space = 0 then
      let k := bulkKey d.die d.block
      if good then
        let put (m : SMap FSector) (i : Nat) : SMap FSector := mapPut m (physKey k d.page i) ⟨noLba, data i⟩
        { s with media.sectors := (List.range 4).foldl put s.media.sectors
                 media.health := { h with mediaWritten := satAdd (ones 64) h.mediaWritten 16384 } }
      else
        retireBlock { s with media.health := { h with progFail := satAdd (ones 32) h.progFail 1 } } k 7 2
    else if good then
      (List.range 4).foldl (fun s i =>
        memWrite s (t2Addr d.die d.block d.page i) (data i) (poisonedAt s (d.buffer + 4096 * i) 4096)) s
    else failFast s d.die d.block 7 2
  finishOp s o (if good then 0 else 2) 0 false 0

/-! The code store and the counters (R391 to R393). -/

def csBase (b page : Nat) : Nat := b * 0x100_0000 + page * 16384

/-- A rollback counter: the larger of its copies (R393). -/
def counterOf (s : State) (n : Nat) : Nat := let c := mapGet s.stylus.counters n (0, 0); max c.1 c.2

def setCounter (s : State) (n v : Nat) : State := { s with stylus.counters := mapPut s.stylus.counters n (v, v) }

/-- A code-store page is read: an uncorrectable page leaves BUFFER with poison. -/
def csReadDone (s : State) (o : Op) (obs : FlashObs) : State :=
  let d := o.desc
  let bucket := maxBucket obs.corrected
  let failed := s.stylus.csBad.contains (d.die * 1024 + d.page) || (obs.level.isNone && bucket == 15)
  let ew := decide (ewThreshold s 2 true ≤ bucket)
  let s := memWrite s d.buffer (cellsRead s.stylus.cs (csBase d.die d.page) 16384) failed
  let s := if failed then recordErr s (descRec .csRead d .uncorrected 0 bucket 7 true) else s
  let level := if bucket < 15 then 0 else (obs.level.getD 7) % 8
  finishOp s o (if failed then 1 else 0) bucket ew (if failed then 7 else level)

/-- A code-store page is programmed or a block erased; a physical block that fails is remapped to the next block of the
replacement pool and the operation runs once more there (R392). Region 2 holds the configuration records (R244). -/
def csWriteDone (s : State) (o : Op) (good : Bool) : State :=
  let d := o.desc
  let st := if o.routine = .csProgram then 2 else 3
  let x := s.stylus
  if good && !x.csUnwritable.contains d.die then
    let s :=
      if o.routine = .csProgram then
        { s with stylus.cs := cellsWrite x.cs (csBase d.die d.page) (cellsRead s.mem d.buffer 16384)
                 stylus.csBad := x.csBad.filter (· != d.die * 1024 + d.page) }
      else
        { s with stylus.cs := x.cs.filter fun c => c.1 / 0x100_0000 != d.die
                 stylus.csBad := x.csBad.filter fun p => p / 1024 != d.die }
    let data := ((mapFind x.regions 2).map fun r => regionHas r d.die).getD false
    finishOp (if data then recordsChanged s else s) o 0 0 false 0
  else
    let s := recordErr s (descRec o.routine d .media o.routine.op st 0)
    if o.retried || x.csUnwritable.contains d.die then finishOp s o st 0 false 0
    else if x.csPoolUsed < 128 then
      let k := dieKey o.routine d
      let q := dieOf s k
      let s := { s with stylus.csPoolUsed := x.csPoolUsed + 1 }
      setDie s k (nextOnDie { q with waiting := { o with retried := true } :: q.waiting })
    else finishOp { s with stylus.csUnwritable := x.csUnwritable ++ [d.die] } o st 0 false 0

/-- A boot's probe of a block whose erase was cut (R374): PROBED, the wear of the erase that was cut, and a new intent with its erase. A
sentinel fails at 64 programmed bits. -/
def probeDone (s : State) (o : Op) (obs : FlashObs) : State :=
  let d := o.desc
  let k := bulkKey d.die d.block
  let b := bulkBlock s k
  let erases (x : Die) : Bool := (x.running.toList ++ x.suspended.toList ++ x.waiting).any fun y => y.routine == .erase && y.desc.die == d.die && y.desc.block == d.block && y.desc.space == 0
  match newestLedger s d.die d.block with
  | some r =>
    if b.st ≠ .erasing ∨ r.kind ≠ .intent ∨ s.stylus.dies.any fun p => erases p.2 then s
    else
      let failed := (List.range 3).filter fun j => decide (64 ≤ obs.sentinels.getD j 0)
      let h := s.media.health
      let s := { s with media.health := { h with halfErased := satAdd (ones 32) h.halfErased (b2n (failed != [])) } }
      let s := ledger s .probed d.die d.block r.slc b.wear ((failed.map fun j => 2 ^ j).sum)
      let wear := b.wear + eraseWear r.slc
      let s := if failed = [] then s else mediaRec s d.die d.block 8 0 wear
      let s := ledger (setBlock s k { b with wear := wear }) .intent d.die d.block r.slc wear 0
      submitDesc s .erase .hardware ⟨0, d.die, d.block, 0, 0, b2n r.slc, 0, 0, 0, 0, 0⟩ 0
  | none => s

/-- What an operation that has run does. -/
def opDone (s : State) (o : Op) (obs : FlashObs) : State :=
  let d := o.desc
  let bucket := maxBucket obs.corrected
  match o.routine with
  | .read => readDone' s o obs
  | .program => programDone s o obs.good
  | .erase => eraseDone s o obs.good
  | .probe => probeDone (finishOp (memWrite s d.buffer ((List.range 3).flatMap fun i => leBytes 4 (obs.sentinels.getD i 0)) false) o 0 0 false 0) o obs
  | .calRead => finishOp s o 0 bucket (decide (ewThreshold s d.space (descSlc d) ≤ bucket)) 0
  | .csRead | .csFetch => csReadDone s o obs
  | .csProgram | .csErase => csWriteDone s o obs.good
  | .rbRead => finishOp (memWrite s d.buffer (leBytes 8 (counterOf s d.die)) false) o 0 0 false 0
  | .rbAdvance =>
    if d.value ≤ counterOf s d.die then finishOp s o 4 0 false 0 else finishOp (setCounter s d.die d.value) o 0 0 false 0

/-- Whether the domain of a die is on (R32, R37), by `dieKey`; the rollback counters lie in the code store's private area (R391). -/
def diePowered (s : State) (k : Nat) : Bool :=
  if k < 1024 then domainOn s (unitDomain 3 k) else if k < 2048 then domainOn s 17
  else domainOn s (unitDomain 5 ((k - 2048) % 2048))

/-- DESCRIPTOR_COMPLETE (R384): the operation that runs under this number ends, and its die goes on. -/
def execDescriptorComplete (id : Nat) (obs : FlashObs) (s : State) : Host.Outcome State Fault Refusal :=
  .next <|
    match s.stylus.dies.find? fun p => (p.2.running.map (·.id)) == some id with
    | some (k, d) =>
      match d.running with
      | some o => if diePowered s k then opDone (setDie s k (nextOnDie { d with running := none })) o obs else s
      | none => s
    | none => s

end Sys2Proof.Machine
end

