-- ==== Sys2Proof/Machine/Flash.lean ====
section
/-! DEFINITION. Flash media management: staging, the log, parity, folds, the erase ledger, wear and the media stage (R353 to
R373, R379 to R382). -/

namespace Sys2Proof.Machine

/-! Blocks by state. -/

def blockIn (b : Block) (sts : List BlockState) : Bool := sts.contains b.st

/-- LOG_USED (R365). -/
def logUsed (s : State) : Nat := (s.media.blocks.filter fun p => blockIn p.2 [.logOpen, .logClosed]).length

def parityUsed (s : State) : Nat := (s.media.blocks.filter fun p => blockIn p.2 [.parity]).length

/-- The least of some (wear, number) pairs, by wear and then number. -/
def leastPair : List (Nat × Nat) → Option (Nat × Nat)
  | [] => none
  | x :: xs =>
    match leastPair xs with
    | none => some x
    | some y => if x.1 < y.1 ∨ (x.1 = y.1 ∧ x.2 ≤ y.2) then some x else some y

/-- The least worn free block of a die, the lower number on a tie (R355); an unlisted block is as shipped. `skip` are blocks
already chosen. -/
def leastFree (s : State) (die : Nat) (skip : List Nat) : Option Nat :=
  let lo := die * Config.bulkBlocks
  let listed := s.media.blocks.filter fun p => decide (lo ≤ p.1) && decide (p.1 < lo + Config.bulkBlocks)
  let unlisted := (takeFree (listed.length + skip.length + 2) 0 (listed.map fun p => p.1 - lo) (skip.length + 1)).filter fun b =>
    decide (b < 3813)
  let fresh := (unlisted.map (lo + ·)).filter fun k => !skip.contains k
  let free := (listed.filter fun p => p.2.st == .free && !skip.contains p.1).map fun p => (p.2.wear, p.1)
  (leastPair ((fresh.map fun k => (0, k)) ++ free)).map (·.2)

/-- `n` blocks of one die, the least worn first. -/
def leastFreeN (s : State) (die : Nat) : Nat → List Nat → Option (List Nat)
  | 0, got => some got
  | n + 1, got => (leastFree s die got).bind fun k => leastFreeN s die n (got ++ [k])

/-- Channel `i` of stripe group `g` = 16 × companion + position: its die (R350, R351). -/
def groupDie (g i : Nat) : Nat := 64 * (g % 16) + 16 * (g / 16) + i
def dieGroup (die : Nat) : Nat := 16 * (die % 64 / 16) + die / 64

/-! Live sectors of the log. -/

/-- Logical sectors whose newest log copy lies in a block (R357, R360). -/
def liveIn (s : State) (k : Nat) : List Nat :=
  (s.media.log.filter fun p => ((newestCopy p.2).map fun c => physBlock c.phys) == some k).map (·.1)

/-- Log copies in a block are forgotten. -/
def forgetCopies (s : State) (k : Nat) : State :=
  let keep (cs : List LogCopy) : List LogCopy := cs.filter fun c => physBlock c.phys != k
  { s with media.log := (mapAll s.media.log fun _ => keep).filter fun p => !p.2.isEmpty }

/-- A block that holds no live data any more is DIRTY, or is retired when it was condemned (R357, R379). A log block that goes
frees log space for staging (R365). -/
def makeDirty (s : State) (k : Nat) : State :=
  let b := bulkBlock s k
  let isLog := blockIn b [.logOpen, .logClosed]
  let s := if isLog ∧ 61440 ≤ logUsed s then { s with media.quota := s.media.quota + 4088 } else s
  let s := if isLog then forgetCopies s k else s
  if 2 ≤ b.strikes then retireBlock s k 7 0 else updBlock s k fun b => { b with st := .dirty, foldNext := false }

/-- LOG_CLOSED blocks in which no live sector remains become DIRTY. -/
def sweepLog (s : State) : State :=
  let live := s.media.log.filterMap fun p => (newestCopy p.2).map fun c => physBlock c.phys
  let dead := (s.media.blocks.filter fun p => p.2.st == .logClosed && !live.contains p.1).map (·.1)
  dead.foldl makeDirty s

/-! Staging (R358, R365, R507). -/

/-- Sectors that staging holds at most. -/
def stageRoom (s : State) : Nat := min 262144 (s.power.stageMib * 256) - s.media.staging.length

/-- A waiting write takes the room there is; its completion is posted once every sector is in staging. After a shutdown notification
nothing is staged (R510). -/
def stageOne (s : State) (w : HeldWrite) : State × Option HeldWrite :=
  let tight := decide (61440 ≤ logUsed s)
  let room := if s.power.ready && s.host.shutdown == 0 then (if tight then min (stageRoom s) s.media.quota else stageRoom s) else 0
  let now := w.sectors.take room
  let rest := w.sectors.drop room
  let put (m : List Staged) (p : Bytes × Nat) : List Staged := m ++ [⟨w.lba + p.2, p.1⟩]
  let h := s.media.health
  let s := { s with
    media.staging := (now.zip (List.range now.length)).foldl put s.media.staging
    media.quota := if tight then s.media.quota - now.length else 0
    media.poisoned := (List.range now.length).foldl (fun m i => mapDrop m (w.lba + i)) s.media.poisoned
    media.lastWrite := if now = [] then s.media.lastWrite else s.time
    media.health := { h with hostWritten := satAdd (ones 64) h.hostWritten (4096 * now.length) } }
  if rest = [] then (stdCpl s ⟨none, w.sq, w.cid⟩ 0 0, none) else (s, some { w with lba := w.lba + now.length, sectors := rest })

/-- Writes that wait for staging go on, oldest first; one that still waits holds those behind it. -/
def stageWaiting (s : State) : State :=
  let rec go (ws : List HeldWrite) (s : State) : State :=
    match ws with
    | [] => { s with media.waiting := [] }
    | w :: ws =>
      match stageOne s w with
      | (s, none) => go ws s
      | (s, some w) => { s with media.waiting := w :: ws }
  go s.media.waiting s

/-- Sectors that are the newest copies of a block are written again from staging (R364, R379, R382): they join it, but for
those of which staging holds a newer write. -/
def restageBlock (s : State) (k : Nat) : State :=
  let ls := (liveIn s k).filter fun l => !s.media.staging.any fun x => x.lba == l
  { s with media.staging := s.media.staging ++ ls.map fun l => ⟨l, readSector s l⟩ }

/-! The log (R359, R362). -/

/-- A log stripe is opened on the next group: 15 log blocks and the parity block, on channel S mod 16 of the group, S the
number of the stripe. None when a die has no free block, or the parity or log limit is reached (R364, R365). -/
def openLogStripe (s : State) : Option State :=
  let n := s.media.nextStripe
  let g := s.media.nextGroup
  let ks := (List.range 16).filterMap fun i => leastFree s (groupDie g i) []
  if ks.length < 16 ∨ 4096 ≤ parityUsed s ∨ 65536 < logUsed s + 15 then none
  else
    let par := ks.getD (n % 16) 0
    let data := ks.filter (· != par)
    let s := updBlock s par fun b => { b with st := .parity, slc := true, stripe := n + 1, pages := 0 }
    let s := (data.zip (List.range 15)).foldl (fun s p =>
      updBlock s p.1 fun b => { b with st := .logOpen, slc := true, seq := s.media.nextSeq + p.2, pages := 0,
                                       stripe := n + 1, strikes := 0, foldNext := false }) s
    some { s with
      media.stripes := mapPut s.media.stripes n ⟨false, g, data, [par], false, 0, []⟩
      media.openStripe := some n
      media.nextStripe := n + 1
      media.nextGroup := (g + 1) % 64
      media.nextSeq := s.media.nextSeq + 15 }

/-- Pages that the module has programmed in the bulk array are counted (R381). -/
def countPages (s : State) (pages : Nat) : State :=
  let h := s.media.health
  { s with media.health := { h with mediaWritten := satAdd (ones 64) h.mediaWritten (16384 * pages) } }

/-- Sector `sector` of a log block's summary: 512 of the tags of its data sectors in page order; a page that the block closed without, and what
follows the last tag, have the tag of no sector (R359; log entry 149). -/
def summarySector (s : State) (k sector : Nat) : Bytes :=
  (List.range 512).flatMap fun i =>
    let o := 512 * sector + i
    leBytes 8 (if o < 4088 then ((mapFind s.media.sectors (physKey k (o / 4) (o % 4))).map (·.lba)).getD noLba else noLba)

/-- A log block takes its summary in its last two pages (R359). -/
def writeSummary (s : State) (k : Nat) : State :=
  let put (m : SMap FSector) (j : Nat) : SMap FSector := mapPut m (physKey k (1022 + j / 4) (j % 4)) ⟨noLba, summarySector s k j⟩
  countPages { s with media.sectors := (List.range 8).foldl put s.media.sectors } 2

/-- The XOR of a page position's sector over the blocks of a stripe, zeros for a page that is missing (R362, R363). -/
def paritySector (s : State) (blocks : List Nat) (page sector : Nat) : Bytes :=
  (blocks.filterMap fun k => (mapFind s.media.sectors (physKey k page sector)).map (·.data)).foldl
    (fun a b => List.zipWith (· ^^^ ·) a b) (zeros 4096)

/-- Page `w` of a log stripe's parity block is programmed (R362). -/
def parityPage (s : State) (x : Stripe) (w : Nat) : State :=
  match x.parity.head? with
  | none => s
  | some q =>
    if x.blocks.contains q then s
    else
      let put (m : SMap FSector) (j : Nat) : SMap FSector := mapPut m (physKey q w j) ⟨noLba, paritySector s x.blocks w j⟩
      updBlock (countPages { s with media.sectors := (List.range 4).foldl put s.media.sectors } 1) q fun b => { b with pages := w + 1 }

/-- The parity pages that a log stripe still owes when it closes: those of the positions at which some block has a page. -/
def closeParity (s : State) (x : Stripe) : State :=
  let from_ := ((x.parity.head?).map fun q => (bulkBlock s q).pages).getD 0
  let has (w : Nat) : Bool := x.blocks.any fun k => (mapFind s.media.sectors (physKey k w 0)).isSome
  ((List.range 1024).filter fun w => decide (from_ ≤ w) && has w).foldl (fun s w => parityPage s x w) s

/-- The open stripe closes: its log blocks still open take their summaries, its parity block the pages that it owes (R359, R362). -/
def closeLogStripe (s : State) (n : Nat) : State :=
  match mapFind s.media.stripes n with
  | none => s
  | some x =>
    let close (s : State) (k : Nat) : State :=
      if (bulkBlock s k).st = .logOpen then updBlock (writeSummary s k) k fun b => { b with st := .logClosed, pages := 1024 } else s
    let s := closeParity (x.blocks.foldl close s) x
    sweepLog { s with media.openStripe := none
                      media.stripes := mapPut s.media.stripes n { x with closed := true, firstClose := s.time } }

/-- The block of a stripe that takes the next page: the first of those with the fewest pages (rotation, R362). -/
def nextLogBlock (s : State) (x : Stripe) : Option Nat :=
  let least := x.blocks.foldl (fun m k => min m (bulkBlock s k).pages) 1024
  x.blocks.find? fun k => (bulkBlock s k).pages == least

/-- A page of up to four staged sectors is programmed (R359, R362, R382). -/
def programPage (s : State) (n : Nat) (x : Stripe) (k : Nat) (good : Bool) : State :=
  let b := bulkBlock s k
  let secs := s.media.staging.take 4
  if good then
    let put (s : State) (p : Staged × Nat) : State :=
      let phys := physKey k b.pages p.2
      { s with media.sectors := mapPut s.media.sectors phys ⟨p.1.lba, p.1.data⟩
               media.log := mapPut s.media.log p.1.lba (⟨b.seq, 4 * b.pages + p.2, phys⟩ :: logCopies s p.1.lba) }
    let s := (secs.zip (List.range 4)).foldl put { s with media.staging := s.media.staging.drop 4 }
    let full := b.pages + 1 == 1022
    let last := x.blocks.getLast? == some k
    let s := countPages s 1
    let s := if last then parityPage s x b.pages else s
    let s := if full then writeSummary s k else s
    let s := updBlock s k fun b => { b with pages := if full then 1024 else b.pages + 1, st := if full then .logClosed else .logOpen }
    sweepLog (if full ∧ last then closeLogStripe s n else s)
  else
    let h := s.media.health
    let s := { s with media.health := { h with progFail := satAdd (ones 32) h.progFail 1 } }
    let s := forgetCopies (restageBlock s k) k
    let s := retireBlock s k 7 2
    closeLogStripe { s with media.stripes := mapPut s.media.stripes n { x with blocks := x.blocks.filter (· != k) } } n

/-- STAGING_PROGRAM (R359): staged sectors go to the open stripe, in order of acceptance. -/
def execStagingProgram (good : Bool) (s : State) : Host.Outcome State Fault Refusal :=
  .next <|
    if s.media.staging = [] then s
    else
      match (if s.media.openStripe.isSome then some s else openLogStripe s) with
      | none => s
      | some s =>
        match s.media.openStripe.bind fun n => (mapFind s.media.stripes n).map fun x => (n, x) with
        | none => s
        | some (n, x) =>
          match nextLogBlock s x with
          | some k => stageWaiting (programPage s n x k good)
          | none => s

/-! Folds (R365, R366). -/

/-- A fold of logical block `n` begins: its cut, its destination on the home die. None when that die has no free block. -/
def startFold (s : State) (n : Nat) (rest : List Nat) (victim : Option Nat) : Option State :=
  (leastFree s (homeDie n) []).map fun k =>
    let s := updBlock s k fun b => { b with st := .foldDest, slc := false, pages := 0, stripe := 0, strikes := 0, foldNext := false }
    { s with media.fold := some ⟨n, s.media.nextSeq - 1, k, rest, victim⟩ }

/-- Logical blocks with a live sector in a log block, in ascending order. -/
def victimBlocks (s : State) (k : Nat) : List Nat := ((liveIn s k).map (· / blockSectors)).eraseDups

/-- The closed log block of lowest open sequence, among those folded next if there are any (R365, R369). -/
def chooseVictim (s : State) (marked : Bool) : Option Nat :=
  let closed := s.media.blocks.filter fun p => p.2.st == .logClosed && (!marked || p.2.foldNext)
  (leastPair (closed.map fun p => (p.2.seq, p.1))).map (·.2)

/-- Whether folding runs (R365, R380). -/
def foldsRun (s : State) : Bool :=
  decide (49152 ≤ logUsed s) || (decide (1 ≤ logUsed s) && decide (s.media.lastWrite + 10_000_000_000 ≤ s.time)) ||
  s.media.stage == .writeStop

def foldVictim (s : State) (k : Nat) : State :=
  match victimBlocks s k with
  | [] => makeDirty s k
  | n :: rest => (startFold s n rest (some k)).getD s

/-- FOLD_START (R365, R366, R369): marked log blocks and REFRESH entries first, then the oldest closed
log block. FLASH_HOLD pauses folds (R515). -/
def execFoldStart (s : State) : Host.Outcome State Fault Refusal :=
  .next <|
    if s.media.fold.isSome || s.power.flashHold then s
    else match chooseVictim s true with
    | some k => foldVictim s k
    | none =>
      match s.media.map.find? fun p => p.2.mapped && p.2.refresh with
      | some (n, _) => (startFold s n [] none).getD s
      | none =>
        if !foldsRun s then s
        else match chooseVictim s false, s.media.openStripe with
          | some k, _ => foldVictim s k
          | none, some n => if s.media.stage = .writeStop then closeLogStripe s n else s
          | none, none => s

/-- The fold goes on with the next logical block of its victim, or ends. -/
def nextFold (s : State) (f : Fold) : State :=
  let s := { s with media.fold := none }
  match f.rest with
  | [] => s
  | n :: rest => (startFold s n rest f.victim).getD s

/-- A fold is abandoned: the old mapping and every source stay (R366, R382). -/
def abandonFold (s : State) (f : Fold) : State := nextFold (makeDirty s f.dest) f

/-- The open fold stripe that a destination joins: one of its group without its die (R363). -/
def foldStripeFor (s : State) (die : Nat) : Option (Nat × Stripe) :=
  s.media.stripes.find? fun p => p.2.fold && !p.2.closed && p.2.group == dieGroup die && decide (p.2.blocks.length < 15) &&
    (p.2.blocks ++ p.2.parity).all fun k => k / Config.bulkBlocks != die

/-- The destination joins a fold stripe, opening one with four parity blocks on another die of the group (R363); none while
the parity limit or the group's free blocks do not allow it. -/
def joinFoldStripe (s : State) (k : Nat) : Option State :=
  let die := k / Config.bulkBlocks
  match foldStripeFor s die with
  | some (n, x) =>
    some (updBlock { s with media.stripes := mapPut s.media.stripes n { x with blocks := x.blocks ++ [k] } } k fun b =>
      { b with stripe := n + 1 })
  | none =>
    let g := dieGroup die
    let others := ((List.range 16).map (groupDie g)).filter (· != die)
    if 4096 < parityUsed s + 4 then none
    else
      (others.findSome? fun d => leastFreeN s d 4 []).map fun par =>
        let n := s.media.nextStripe
        let s := par.foldl (fun s q => updBlock s q fun b => { b with st := .parity, slc := true, stripe := n + 1 }) s
        let s := updBlock s k fun b => { b with stripe := n + 1 }
        { s with media.stripes := mapPut s.media.stripes n ⟨true, g, [k], par, false, s.time, []⟩, media.nextStripe := n + 1 }

/-- The sectors of a logical block that a fold merges: the newest log copy at or below its cut, else the MAPPED block's; with
whether the copy came from the log. -/
def foldSource (s : State) (f : Fold) (lba : Nat) : Option (FSector × Bool) :=
  let old : Option Nat :=
    match mapFind s.media.map f.n with
    | some m => if m.mapped then some (physKey m.block (lba % blockSectors / 4) (lba % 4)) else none
    | none => none
  match newestCopy ((logCopies s lba).filter fun c => decide (c.seq ≤ f.cut)) with
  | some c => (mapFind s.media.sectors c.phys).map fun x => (x, true)
  | none => (old.bind (mapFind s.media.sectors)).map fun x => (x, false)

/-- Logical sectors of a logical block that the log or its MAPPED block holds. -/
def heldSectors (s : State) (n : Nat) : List Nat :=
  let inLog := (s.media.log.filter fun p => p.1 / blockSectors == n).map (·.1)
  let inMap : List Nat :=
    match mapFind s.media.map n with
    | some m => if m.mapped then (s.media.sectors.filter fun p => physBlock p.1 == m.block).map fun p => n * blockSectors + p.1 % blockSectors else []
    | none => []
  (inLog ++ inMap).eraseDups

/-- The journal record is written and the mapping switches (R366 steps 4 to 6, R367). -/
def journalFold (s : State) (f : Fold) : State :=
  let merged := (heldSectors s f.n).filterMap fun l => (foldSource s f l).map fun x => (l, x)
  let old : MapEntry := mapGet s.media.map f.n ⟨false, false, 0, 0⟩
  let put (m : SMap FSector) (p : Nat × FSector × Bool) : SMap FSector :=
    mapPut m (physKey f.dest (p.1 % blockSectors / 4) (p.1 % 4)) ⟨p.1, p.2.1.data⟩
  let drop (m : SMap (List LogCopy)) (p : Nat × FSector × Bool) : SMap (List LogCopy) :=
    let cs := (mapGet m p.1 []).filter fun c => decide (f.cut < c.seq)
    if cs = [] then mapDrop m p.1 else mapPut m p.1 cs
  let h := s.media.health
  let s := { s with
    media.sectors := merged.foldl put s.media.sectors
    media.log := (merged.filter fun p => p.2.2).foldl drop s.media.log
    media.map := mapPut s.media.map f.n ⟨true, false, (old.gen + 1) % 2 ^ 32, f.dest⟩
    media.journal := s.media.journal + 1
    media.health := { h with mediaWritten := satAdd (ones 64) h.mediaWritten (64 * 2 ^ 20) } }
  let s := updBlock s f.dest fun b => { b with st := .mapped, pages := 4096 }
  let s := if old.mapped then makeDirty s old.block else s
  nextFold (sweepLog s) f

/-- FOLD_JOURNAL (R366): the destination is programmed; a program failure retires it and the fold starts again on another
block of the home die (R382). -/
def execFoldJournal (good : Bool) (s : State) : Host.Outcome State Fault Refusal :=
  .next <|
    match s.media.fold with
    | none => s
    | some f =>
      if s.power.flashHold then s
      else if good then
        match joinFoldStripe s f.dest with
        | some s => stageWaiting (journalFold s f)
        | none => s
      else
        let h := s.media.health
        let s := retireBlock { s with media.health := { h with progFail := satAdd (ones 32) h.progFail 1 } } f.dest 7 2
        (startFold { s with media.fold := none } f.n f.rest f.victim).getD { s with media.fold := none }

/-- MAPPING_CHECKPOINT (R367). -/
def execMappingCheckpoint (s : State) : Host.Outcome State Fault Refusal :=
  .next <|
    if s.media.journal < 65536 then s
    else { s with media.journal := 0, media.checkpoints := s.media.checkpoints + 1 }

/-- WEAR_CHECK (R356): every 60 s, on each die, the least worn QLC block against the least worn free block. -/
def execWearCheck (s : State) : Host.Outcome State Fault Refusal :=
  .next <|
    if !periodOver s s.media.wearAt 60_000_000_000 then s else
    let s := { s with media.wearAt := s.time }
    let mapped := s.media.blocks.filter fun p => p.2.st == .mapped
    let dies := (mapped.map fun p => p.1 / Config.bulkBlocks).eraseDups
    dies.foldl (fun s d =>
      let cold := leastPair ((mapped.filter fun p => p.1 / Config.bulkBlocks == d).map fun p => (p.2.wear, p.1))
      match cold, leastFree s d [] with
      | some (w, k), some f =>
        if w + 15000 < (bulkBlock s f).wear then ((homeOf s k).map (refreshLogical s)).getD s else s
      | _, _ => s) s

/-- A fold stripe's parity: page `w` of its destinations lies in page w mod 1,024 of parity block floor(w / 1,024). A position at which no
destination holds bytes has none that differ from zeros (R363). -/
def foldParity (s : State) (x : Stripe) : State :=
  let places := ((s.media.sectors.filter fun p => x.blocks.contains (physBlock p.1)).map fun p => p.1 % 16384).eraseDups
  let put (m : SMap FSector) (o : Nat) : SMap FSector :=
    match x.parity[o / 4096]? with
    | some q => mapPut m (physKey q (o / 4 % 1024) (o % 4)) ⟨noLba, paritySector s x.blocks (o / 4) (o % 4)⟩
    | none => m
  { s with media.sectors := places.foldl put s.media.sectors }

/-- FOLD_STRIPE_CLOSE (R363): the oldest fold stripe with 15 destinations, or 200 ms after its first, closes; its four parity
blocks are then written whole. -/
def execFoldStripeClose (s : State) : Host.Outcome State Fault Refusal :=
  .next <|
    match s.media.stripes.find? fun p => p.2.fold && !p.2.closed &&
        (decide (15 ≤ p.2.blocks.length) || decide (p.2.firstClose + 200_000_000 ≤ s.time)) with
    | some (n, x) => countPages (foldParity { s with media.stripes := mapPut s.media.stripes n { x with closed := true } } x) 4096
    | none => s

/-! Verification (R364). -/

/-- A block of a stripe that still holds the only copy of data under that stripe's parity. -/
def underParity (s : State) (n k : Nat) : Bool :=
  let b := bulkBlock s k
  b.stripe == n + 1 && blockIn b [.logClosed, .mapped]

/-- A block that fails verification takes a strike and its data moves (R364, R379). -/
def failVerify (s : State) (k : Nat) : State :=
  let s := updBlock s k fun b => { b with strikes := b.strikes + 1 }
  if (bulkBlock s k).st = .logClosed then makeDirty (restageBlock s k) k else refreshBlock s k

/-- Parity is released: its blocks become DIRTY (R357, R364). -/
def releaseStripe (s : State) (n : Nat) (x : Stripe) : State :=
  let s := x.parity.foldl makeDirty s
  let s := x.blocks.foldl (fun s k => if (bulkBlock s k).stripe = n + 1 then updBlock s k fun b => { b with stripe := 0 } else s) s
  { s with media.stripes := mapDrop s.media.stripes n }

/-- STRIPE_VERIFY (R364): `buckets` has, for each block of the stripe, the highest bucket that its reads returned. -/
def execStripeVerify (stripe : Nat) (buckets : List Nat) (s : State) : Host.Outcome State Fault Refusal :=
  .next <|
    match mapFind s.media.stripes stripe with
    | none => s
    | some x =>
      if !x.closed then s
      else
        let todo := (x.blocks.zip (List.range x.blocks.length)).filter fun p => underParity s stripe p.1 && !x.verified.contains p.1
        let bad (p : Nat × Nat) : Bool := decide (ewThreshold s 0 (!x.fold) ≤ buckets.getD p.2 15)
        let x := { x with verified := x.verified ++ (todo.filter fun p => !bad p).map (·.1) }
        let s := { s with media.stripes := mapPut s.media.stripes stripe x }
        let s := (todo.filter bad).foldl (fun s p => failVerify s p.1) s
        if x.blocks.all fun k => x.verified.contains k || !underParity s stripe k then releaseStripe s stripe x else s

/-! The erase ledger and the media stage. -/

/-- The INTENT of a DIRTY block is written and its erase issued (R357, R372). -/
def intendErase (s : State) (die block : Nat) (slc : Bool) : State :=
  let k := bulkKey die block
  let b := bulkBlock s k
  if b.st = .dirty ∧ die < Config.bulkDies ∧ block < Config.bulkBlocks then
    let s := ledger s .intent die block slc b.wear 0
    let s := updBlock s k fun b => { b with st := .erasing }
    submitDesc s .erase .hardware ⟨0, die, block, 0, 0, b2n slc, 0, 0, 0, 0, 0⟩ 0
  else s

/-- ERASE_INTENT (R372). -/
def execEraseIntent (die block : Nat) (slc : Bool) (s : State) : Host.Outcome State Fault Refusal :=
  .next (intendErase s die block slc)

/-- MEDIA_STAGE_WINDOW (R380): a 60 s window that has ended is closed, and the stage is evaluated anew. -/
def execMediaStageWindow (s : State) : Host.Outcome State Fault Refusal := .next (restage (mediaSettle s))

/-- MEDIA_THRESHOLDS (R380, R411): 16 bytes; a value outside its range is refused with FORMAT. -/
def execMediaThresholds (cid : Nat) (record : Bytes) (s : State) : Host.Outcome State Fault Refusal :=
  .next <| adminCmd s cid false fun s =>
    let (ew, retry, low) := (u32 record 0, u32 record 4, u32 record 8)
    let rate (v : Nat) : Bool := decide (1 ≤ v) && decide (v ≤ 1_000_000)
    if record.length = 16 ∧ rate ew ∧ rate retry ∧ low ≤ s.media.spareShip ∧ u32 record 12 = 0 then
      adminDone (restage { s with media.ewWatch := ew, media.retryWatch := retry, media.spareLow := low }) cid
    else adminRefuse s cid .format

end Sys2Proof.Machine
end

