-- ==== Sys2Proof/Machine/Commit.lean ====
section
/-! DEFINITION. The media part of the commit sequence (R375, R387), which an input failure, a shutdown, a thermal stop, a module reset and
containment run. -/

namespace Sys2Proof.Machine

/-- Programs and erases in progress complete with ABORTED (R375, R387); a code-store page whose program is cut short cannot be read (R392). -/
def abortWrites (s : State) : State :=
  let cut (o : Op) : Bool := o.routine.writes && o.caller != .commit
  s.stylus.dies.foldl (fun s p =>
    let d := p.2
    let lost := (d.running.toList ++ d.suspended.toList).filter cut
    let keepOp (o : Option Op) : Option Op := o.filter fun x => !cut x
    let s := setDie s p.1 (nextOnDie { d with running := keepOp d.running, suspended := keepOp d.suspended })
    let torn := (lost.filter fun o => o.routine == .csProgram).map fun o => o.desc.die * 1024 + o.desc.page
    let s := { s with stylus.csBad := (s.stylus.csBad ++ torn).eraseDups }
    lost.foldl (fun s o => finishOp s o 6 0 false 0) s) s

/-- R375 steps 1 and 2: a fold's program and erases are aborted, and the manifest names what staging holds. -/
def commitBegin (s : State) : State :=
  let s := abortWrites s
  let s := match s.media.fold with
    | some f => makeDirty { s with media.fold := none } f.dest
    | none => s
  { s with media.manifest := s.media.staging.map (·.lba), media.commitBegun := true, media.marker := false }

/-- Staged sectors are programmed into the open log stripes until none is left (log entry 35: each program is taken to succeed). -/
def drainStaging : Nat → State → State
  | 0, s => s
  | fuel + 1, s =>
    if s.media.staging = [] then s
    else
      match (if s.media.openStripe.isSome then some s else openLogStripe s) with
      | none => s
      | some s =>
        match s.media.openStripe.bind fun n => (mapFind s.media.stripes n).map fun x => (n, x) with
        | none => s
        | some (n, x) =>
          match nextLogBlock s x with
          | some k => drainStaging fuel (programPage s n x k true)
          | none => s

/-- R375 steps 3 and 4: the staged sectors are programmed, then the tails and the marker are written; sectors for which the
log has no block are left, and with them the marker. -/
def commitEnd (s : State) : State :=
  let s := drainStaging s.media.staging.length s
  if s.media.staging = [] then { s with media.marker := true, media.manifest := [], media.commitBegun := false } else s

/-- The whole media part. -/
def mediaCommit (s : State) : State := commitEnd (commitBegin s)

end Sys2Proof.Machine
end

