-- ==== Sys2Proof/Machine/Integrity.lean ====
section
/-! DEFINITION. Integrity: containment, uncorrectable lines, correctable errors, the patrol, and the persistent log (R448 to R458, R462,
R464, R488, R553). -/

namespace Sys2Proof.Machine

/-! Containment (R452). -/

/-- The module is contained: viral, no admission, staging programmed, writes not yet staged completed as POISONED. -/
def containModule (s : State) (code : Nat) : State :=
  if s.integ.phase = .contained then s
  else
    let s := enterPhase { s with host.viral := true } .contained
    let s := recordErr s { cls := .containment, unitKind := 7, detailA := code }
    let s := drainStaging s.media.staging.length s
    let held := s.media.waiting
    held.foldl (fun s w => stdCpl s ⟨none, w.sq, w.cid⟩ 7 0x85 true) { s with media.waiting := [] }

/-! Uncorrectable lines of T0 and T1 (R448, R449, R451). -/

/-- UNIT_KIND and UNIT of a line (R177, R461). -/
def lineUnit (a : Nat) : Nat × Nat := if a < Config.t0End then (1, a / 256 % 4) else (2, a / 256 % 24)

/-- What an uncorrectable error does to a structure that has no consumer (R451). -/
def structureLost (s : State) (h : Structure451) : State :=
  match h with
  | .mappingTable | .listDirectory _ => s
  | .stagingSector lba =>
    if s.media.staging.any fun x => x.lba == lba then
      { s with media.staging := s.media.staging.filter fun x => x.lba != lba, media.poisoned := mapPut s.media.poisoned lba () }
    else s
  | .migrationEntry k => { s with migLog := listUpd s.migLog k fun u => { u with poison := true } }
  | .marginEntry i k =>
    { s with indexes := mapUpd s.indexes i fun x => { x with cur := { x.cur with badMargin := (x.cur.badMargin ++ [k]).eraseDups } } }
  | .control code => containModule s code

/-- A line that cannot be corrected: it is marked where it lies and recorded; what it held follows R451. -/
def lineLost (s : State) (op a : Nat) (hit : Option Structure451) : State :=
  if Config.t1End ≤ a then s
  else
    let (kind, unit) := lineUnit a
    let s := { s with poison := mapPut s.poison (a / 64) () }
    let s := recordErr s { cls := .uncorrected, unitKind := kind, unit := unit, op := op, address := a / 64 * 64, poisonMade := true }
    match hit with
    | some h => structureLost s h
    | none => s

/-! Protected windows (R168, R488). -/

/-- The open windows that protect a class of resource. -/
def openScope (s : State) (bit : Nat) : List OpenWindow := s.cal.windows.filter fun w => bitSet w.scope bit && decide (s.time < w.till)

def protectedTile (s : State) (t : Tile) : Bool := s.cal.windows.any fun w => decide (s.time < w.till) && coversTile w t

/-- The FEED programs that feed a station. -/
def feedsInto (s : State) (w : OpenWindow) : List FeedEntry :=
  match (ctxOf s w.ctx).loaded with
  | none => []
  | some l => l.image.feed.filter fun f => (l.image.stream f.stream).any fun x => stationNo l.stationMap x.cons == w.station

/-- The fast channels are protected: a program that feeds the station reads a TIER 2 region. -/
def protectedFast (s : State) : Bool :=
  (openScope s 1).any fun w => (feedsInto s w).any fun f =>
    f.kind != 2 && ((regionOf s w.ctx f.region).map fun r => r.tier == 2).getD false

/-- The bulk channels are protected: a BLOCKS program feeds the station. -/
def protectedBulk (s : State) : Bool := (openScope s 1).any fun w => (feedsInto s w).any fun f => f.kind == 2

/-! Patrol (R456, R457). -/

/-- A medium's place in INT_PATROL and its number of lines or pages. -/
def patrolPlace : PatrolMedium → Nat
  | .t0 => 0 | .t1 => 1 | .tileStore => 2 | .bulk => 3
def patrolSpan : PatrolMedium → Nat
  | .t0 => Config.t0End / 64
  | .t1 => (Config.t1End - Config.t0End) / 64
  | .tileStore => Config.tiles * 32768
  | .bulk => Config.bulkDies * Config.bulkBlocks * 4096

/-- The patrol goes on to the next line or page; at the end a full pass is counted. -/
def patrolNext (s : State) (m : PatrolMedium) : State :=
  let k := patrolPlace m
  let next := s.integ.patrolPos.getD k 0 + 1
  if next < patrolSpan m then { s with integ.patrolPos := listUpd s.integ.patrolPos k fun _ => next }
  else { s with integ.patrolPos := listUpd s.integ.patrolPos k fun _ => 0, integ.patrolPass := listUpd s.integ.patrolPass k (· + 1) }

/-- The sheet in the slot that holds a tile-store line carries POISON from now on (R57, R449). -/
def poisonStoreLine (t : Tile) (line : Nat) : Tile :=
  let hit (b : Buffer) : Bool := decide (b.base ≤ line) && decide (line < b.base + b.slotLines * b.slots) && b.slotLines != 0
  let mark (v : TSlot) : TSlot := { v with sheet := reflag v.sheet (v.sheet.flags ||| flagPoison) }
  { t with buffers := mapAll t.buffers fun _ b =>
      if hit b then { b with ring := mapUpd b.ring ((line - b.base) / b.slotLines) mark } else b }

/-- Where the T0 system reserve takes the data of patrol reads of bulk flash, which is discarded (log entry 39). -/
def patrolBuffer : Nat := 0x20_0000

/-- The patrol of bulk flash submits a READ of the next page, dies first (log entry 39), when its block holds data. -/
def patrolPage (s : State) (i : Nat) : State :=
  let die := i % Config.bulkDies
  let page := i / Config.bulkDies % 4096
  let block := i / Config.bulkDies / 4096
  let b := bulkBlock s (bulkKey die block)
  if blockIn b [.logOpen, .logClosed, .foldDest, .mapped, .parity] && decide (page < b.pages) && !isHeldBlock block then
    submitDesc s .read .hardware ⟨0, die, block, page, 15, b2n b.slc, 0, 0, 0, patrolBuffer, 0⟩ 0
  else s

/-- PATROL_READ (R456, R457, R465): nothing while the period is 0, while a protected window covers the unit, or, for bulk flash, while
FLASH_HOLD stands. A corrected line is written back unchanged, or not at all when it was rewritten since. -/
def execPatrolRead (m : PatrolMedium) (obs : PatrolObs) (s : State) : Host.Outcome State Fault Refusal :=
  .next <|
    let i := s.integ.patrolPos.getD (patrolPlace m) 0
    if bitsAt s.integ.patrol.toNat (16 * patrolPlace m) 16 = 0 then s
    else
      match m with
      | .bulk => if protectedBulk s || s.power.flashHold then s else patrolNext (patrolPage s i) m
      | .tileStore =>
        if protectedTile s (tileOf s (i / 32768)) then s
        else
          let s := patrolNext s m
          match obs with
          | .uncorrectable _ =>
            let hit (t : Tile) : Tile := { tileFault (poisonStoreLine t (i % 32768)) faultStoreUe false with
              counts.storeUe := satAdd (ones 16) t.counts.storeUe 1 }
            tileRec (updTile s (i / 32768) hit) (i / 32768) .uncorrected 2 (i % 32768) 0 true
          | .corrected => updTile s (i / 32768) fun t => { t with counts.storeCe := satAdd (ones 32) t.counts.storeCe 1 }
          | .clean | .rewrittenSince => s
      | .t0 | .t1 =>
        let s := patrolNext s m
        match obs with
        | .uncorrectable hit => lineLost s 2 ((if m = .t0 then 0 else Config.t0End) + 64 * i) hit
        | _ => s

/-! Correctable errors (R453 to R455). -/

/-- UNIT_KIND and UNIT of a source. -/
def ceUnit (src : Nat) : Nat × Nat :=
  if src < 4 then (1, src) else if src < 28 then (2, src - 4) else if src < 572 then (0, src - 28) else (7, 0)

/-- A level that has reached CAPACITY: a STORM record with the level and OVERFLOWS as they stood, then the level is 0 (R454). -/
def ceStorm (s : State) (src address : Nat) : State :=
  let x := ceOf s src
  if s.integ.ceCapacity.toNat ≤ x.level then
    let (kind, unit) := ceUnit src
    let s := recordErr s { cls := .storm, unitKind := kind, unit := unit, address := address, detailA := x.level, detailB := x.overflows }
    { s with integ.ce := mapPut s.integ.ce src { x with level := 0, overflows := satAdd 0xFF x.overflows 1 } }
  else s

/-- An error in a source's table of 64 (R455). -/
def ceLogEntry (x : CeSource) (address ms : Nat) : CeSource :=
  if x.table.any fun e => e.1 == address then
    { x with table := x.table.map fun e => if e.1 = address then (e.1, ms, satAdd (ones 32) e.2.2 1) else e }
  else if x.table.length < 64 then { x with table := x.table ++ [(address, ms, 1)] }
  else { x with missed := satAdd 0xFFFF x.missed 1 }

/-- The ends of windows that have come since the levels last leaked: at each one every level falls; a level that a lowered CAPACITY has
reached overflows, in ascending order of source (R454, R465). -/
def ceSettle (s : State) : State :=
  let k := s.time / (s.integ.ceWindow.toNat * 1_000_000)
  if s.integ.ceLog || decide (k ≤ s.integ.ceWin) then s
  else
    let leak (_ : Nat) (x : CeSource) : CeSource :=
      { x with level := x.level - min x.level ((k - s.integ.ceWin) * s.integ.ceLeak.toNat) }
    let s := { s with integ.ce := mapAll s.integ.ce leak, integ.ceWin := k }
    (s.integ.ce.map (·.1)).foldl (fun s src => ceStorm s src 0) s

/-- CORRECTABLE_ERROR (R453 to R455). An error stamped at or past a window's end is counted after that end's leak (R8, R454). -/
def execCorrectableError (source address : Nat) (s : State) : Host.Outcome State Fault Refusal :=
  onUnit (decide (source < 573)) <|
    let s := ceSettle s
    let x := ceOf s source
    let x := { x with count := satAdd (ones 32) x.count 1 }
    if s.integ.ceLog then
      { s with integ.ce := mapPut s.integ.ce source (ceLogEntry x address (s.time / 1000000 % 2 ^ 32)) }
    else ceStorm { s with integ.ce := mapPut s.integ.ce source { x with level := x.level + 1 } } source address

/-- CE_LEAK (R454): the end of a window has come. -/
def execCeLeak (s : State) : Host.Outcome State Fault Refusal := .next (ceSettle s)

/-! The persistent log (R462, R553). -/

/-- Entries that one of the region's 64 blocks of 16 MiB holds, at 64 bytes each (log entry 40). -/
def logBlockEntries : Nat := 262144

/-- An entry joins the log, newest first; when the region is full its oldest block goes. -/
def persist (s : State) (e : LogEntry) : State :=
  let kept := if s.easel.log.length < 64 * logBlockEntries then s.easel.log else s.easel.log.take (63 * logBlockEntries)
  { s with easel.log := e :: kept }

/-- The oldest record not yet copied goes to the log and carries PERSISTED. -/
def persistRecord (s : State) : State :=
  match s.easel.unpersisted with
  | [] => s
  | r :: rest =>
    let now := (s.integ.recs.find? fun x => x.seq == r.seq).getD r
    let now := { now with persisted := true }
    let s := { s with easel.unpersisted := rest, integ.recs := s.integ.recs.map fun x => if x.seq = r.seq then { x with persisted := true } else x }
    persist s (.errRec now)

/-- RECORD_PERSIST (R462). -/
def execRecordPersist (s : State) : Host.Outcome State Fault Refusal := .next (persistRecord s)

end Sys2Proof.Machine
end

