-- ==== Sys2Proof/Machine/Feed.lean ====
section
/-! DEFINITION. FEED: its programs, tier reads and their draft paths, scatter, and the feeder's moves (R182 to R197, R203, R208 to
R231, R371). -/

namespace Sys2Proof.Machine

/-! Records. -/

/-- A DETECTED record of a station (R460). -/
def detected (s : State) (stn c n : Nat) (seq a b : Nat) (made : Bool) : State :=
  recordErr s { cls := .detected, unitKind := 6, unit := stn, op := 5, ctx := c, station := stn, stream := n, sheetSeq := seq,
                detailA := a, detailB := b, poisonMade := made }

/-- Whether a sheet about to leave the stream world enters its medium marked, with the DETECTED record that a failed check makes
(R125). -/
def exitCheck (s : State) (stn c n : Nat) (sh : Sheet) : Bool × State :=
  if sh.check = checkOf sh then (sh.poison, s)
  else (true, detected s stn c n sh.seq.toNat sh.check.toNat (checkOf sh).toNat true)

/-- A USAGE record of a station (R460). -/
def usageStn (s : State) (stn c n seq : Nat) (a : Nat := 0) : State :=
  recordErr s { cls := .usage, unitKind := 6, unit := stn, op := 11, ctx := c, station := stn, stream := n, sheetSeq := seq,
                detailA := a }

/-! Programs. -/

def feedProg (s : State) (c k : Nat) : Option FeedEntry := (ctxOf s c).loaded.bind fun l => l.image.feed[k]?

def FeedState.empty : FeedState := ⟨0, [], [], []⟩

def feedState (s : State) (c k : Nat) : FeedState := mapGet (ctxOf s c).feeds k .empty

def setFeed (s : State) (c k : Nat) (x : FeedState) : State :=
  updCtx s c fun y => { y with feeds := mapPut y.feeds k x }

/-- The stream that a program feeds or drains. -/
def feedStream (s : State) (c k : Nat) : Option (Nat × Stream) :=
  (feedProg s c k).bind fun f => (localStream s c f.stream).bind fun n => (streamOf s n).map (n, ·)

/-! Runs (R196, R213). -/

/-- A block row of zero codes in a stream's format (R120). -/
def zeroRow (f : Nat) (grid : Option (List (BitVec 16))) : Byte × List Nat :=
  (if hasScales f then 0x7F else 0, List.replicate 32 (zeroCode f grid))

/-- Block rows as sheets: 32 to a sheet, VALID counting them, each sheet with the flags of the rows it holds
and of the sheet that asked for them (R121). -/
def rowSheets (x : Stream) (tag : BitVec 32) (origin : BitVec 64) (base : BitVec 16) (rows : List ((Byte × List Nat) × Bool × Bool)) : List Sheet :=
  (pieces 32 rows).map fun rs =>
    let flags := base ||| (if rs.any (·.2.1) then flagPoison else 0) ||| (if rs.any (·.2.2) then flagDraft else 0)
    mkSheet x.format x.shape rs.length flags tag origin x.grid (rs.map (·.1.1)) (pack x.format (rs.flatMap (·.1.2)))

/-- Bytes of a unit as INT8 vector sheets (R371); a sheet that holds poisoned bytes carries POISON. -/
def spanSheets (x : Stream) (tag : BitVec 32) (origin : BitVec 64) (base : BitVec 16) (ps : List (Bytes × Bool)) : List Sheet :=
  (pieces 1024 (ps.flatMap fun p => p.1.map (·, p.2))).map fun bs =>
    mkSheet x.format x.shape bs.length (base ||| if bs.any (·.2) then flagPoison else 0) tag origin x.grid [] (bs.map (·.1))

/-- The sheets of a run whose parts are all there. -/
def runSheets (x : Stream) (r : Run) : List Sheet :=
  let ps := r.parts.filterMap id
  let rows := ps.flatMap fun p => match p with
    | .row bs poison draft => bs.map (·, poison, draft)
    | _ => []
  let spans := ps.filterMap fun p => match p with | .span b poison => some (b, poison) | _ => none
  (ps.flatMap fun p => match p with | .sheets xs => xs | _ => []) ++ rowSheets x r.tag r.origin r.flags rows ++
    spanSheets x r.tag r.origin r.flags spans

/-- The runs of a program leave in order, each once all its parts are there. -/
def emitRuns (s : State) (c k : Nat) : Nat → State
  | 0 => s
  | fuel + 1 =>
    match s.runs.find? fun p => p.2.ctx == c && p.2.feed == k with
    | none => s
    | some (n, r) =>
      if r.parts.any Option.isNone then s
      else
        let t := { s with runs := mapDrop s.runs n }
        match feedStream s c k with
        | some (m, x) => emitRuns (emitAll t m (runSheets x r)) c k fuel
        | none => emitRuns t c k fuel

def pumpRuns (s : State) (c k : Nat) : State := emitRuns s c k (s.runs.length + 1)

/-! What reads supply. -/

/-- Bytes of a region as reads of it are served now, with their poison (R184). -/
def regionRead (s : State) (c : Nat) (r : RegionEntry) (origin off n : Nat) : Bytes × Bool :=
  let ps := servedPages s c r origin
  (pagesRead s ps off n, pagesPoison s ps off n)

/-- Bytes [off, off + n) of a region, off at any byte, with the poison of the 256-byte units that they touch (R177, R449). -/
def regionUnits (s : State) (c : Nat) (r : RegionEntry) (origin off n : Nat) : Bytes × Bool :=
  let ps := servedPages s c r origin
  let first := off / 256 * 256
  let len := ceilDiv (off + n) 256 * 256 - first
  (slice (pagesRead s ps first len) (off - first) n, pagesPoison s ps first len)

/-- The sheet of a slot of a region read by a SWEEP (R197), in the stream's format. -/
def sweepSheet (x : Stream) (tag : BitVec 32) (origin : BitVec 64) (slot : Bytes) (bad : Bool) : Sheet :=
  let data := slot.drop 64
  let sc := slice slot 32 32
  let bound := if x.shape = 0 then 32 else 1024
  let flags := if bad then flagPoison else 0
  if x.srcFmt = x.format then
    mkSheet x.format x.shape bound flags tag origin x.grid sc data
  else
    let rows := (pieces 32 (unpack x.srcFmt data)).mapIdx fun i cs => (sc.getD i 0, cs)
    let out := convertBlocks x.srcFmt [] x.format (x.grid.getD []) rows
    mkSheet x.format x.shape bound flags tag origin x.grid (out.map (·.1)) (pack x.format (out.flatMap (·.2)))

/-- The sheets of a SWEEP run. A slot at or past SIZE is not read: its sheet holds zero codes with POISON, and a DETECTED record
is written (R182). -/
def sweepPart (s : State) (r : TierRead) (reg : RegionEntry) (x : Stream) (run : Run) : List Sheet × State :=
  let w := 64 * (slotLines x.srcFmt).getD 1
  let origin := versionOrigin s r.ctx r.batch run.origin.toNat
  let size := regionSize s r.ctx reg origin
  (List.range (r.bytes / w)).foldl (fun acc i =>
    let off := r.offset + i * w
    if off + w ≤ size then
      let (b, bad) := regionRead acc.2 r.ctx reg origin off w
      (acc.1 ++ [sweepSheet x run.tag run.origin b bad], acc.2)
    else
      let z := (List.range 32).map fun _ => zeroRow x.format x.grid
      let sh := mkSheet x.format x.shape (if x.shape = 0 then 32 else 1024) flagPoison run.tag run.origin x.grid (z.map (·.1))
        (pack x.format (z.flatMap (·.2)))
      (acc.1 ++ [sh], detected acc.2 stnFeed r.ctx 0 0 0 0 true)) ([], s)

/-- Elements of a row of LENGTH bytes that no table describes: as many blocks of 32 as fit with their scales (log entry 25). -/
def plainDesc (f n : Nat) : TableDesc :=
  let per := 4 * elemBits f + if hasScales f then 1 else 0
  let d := tableDescOf (zeros 192)
  { d with format := f, d := n / max 1 per * 32 }

/-- The replica entry that covers a physical row of a table (R215): where its bytes lie in the region, and its descriptor. -/
def replicaRow (s : State) (c : Nat) (reg : RegionEntry) (table : BitVec 64) (row : Nat) : Option (Nat × Nat × TableDesc) :=
  (List.range 8).findSome? fun k =>
    let (e, _) := regionRead s c reg 0 (64 * k) 64
    let d := u16 e 24
    let stride := ceilDiv (d / 2 + d / 32) 64 * 64
    if table ≠ 0 ∧ u64 e 0 = table.toNat ∧ row < u64 e 8 then
      some (u64 e 16 + row * stride, d / 2 + d / 32, { tableDescOf (zeros 192) with format := 0x08, d := d, grid := gridEntry (slice e 32 32) })
    else none

/-- The REPLICA region of FEED's draft path, if it has one (R193). -/
def replicaRegion (s : State) (c : Nat) : Option RegionEntry :=
  (draftOf s c stnFeed).bind fun d => if d.kind = 0 then regionOf s c d.replica else none

/-- Physical row of an index as a replica knows it. -/
def TableVer.physRow (v : TableVer) (i : Nat) : Nat := v.desc.rowOf i

/-- What a row read supplies: the row in the stream's format, with its flags. -/
def rowPart (s : State) (r : TierRead) (reg : RegionEntry) (x : Stream) (origin i : Nat) : Part × State :=
  let grid := x.grid.getD []
  match regionTable s reg origin with
  | some v =>
    if r.replica then
      match replicaRegion s r.ctx with
      | some rr =>
        match replicaRow s r.ctx rr v.desc.tableId (v.physRow i) with
        | some (off, n, d) =>
          let (b, bad) := regionUnits s r.ctx rr origin off n
          let vals := (d.rowBlocks b).map fun q => q.2.map (scaledVal 0x08 d.grid q.1)
          let grid := if x.format = 0x08 ∧ grid = [] then v.desc.grid else grid
          (.row (vals.map (encodeBlock x.format grid)) bad true, s)
        | none => (.row [] false true, s)
      | none => (.row [] false true, s)
    else
      let ((bs, bad), s) := indexBlocks s { v with pages := servedPages s r.ctx reg origin } i origin
      (.row (convertBlocks v.desc.format v.desc.grid x.format grid bs) bad false, s)
  | none =>
    let (b, bad) := regionRead s r.ctx reg origin r.offset r.bytes
    (.row (convertBlocks x.srcFmt [] x.format grid ((plainDesc x.srcFmt r.bytes).rowBlocks b)) bad false, s)

/-- Block rows of one row that a program reads. -/
def rowLength (s : State) (f : FeedEntry) (reg : RegionEntry) (x : Stream) (origin : Nat) : Nat :=
  match regionTable s reg origin with
  | some v => v.desc.d / 32
  | none => (plainDesc x.srcFmt f.length).d / 32

def zeroPart (x : Stream) (n : Nat) (poison draft : Bool) : Part :=
  .row ((List.range n).map fun _ => zeroRow x.format x.grid) poison draft

/-! Late reads (R191 to R193). -/

/-- What a late read comes to: its row replaced at once, a read of the replica in its place, or a wait. -/
def lateRead (s : State) (r : TierRead) : State × Bool :=
  match mapFind s.runs r.run with
  | none => (s, true)
  | some run =>
    match feedProg s r.ctx run.feed, feedStream s r.ctx run.feed, r.row with
    | some f, some (_, x), some i =>
      let counted (s : State) : State :=
        let up (m : TierMon) : TierMon := { m with draftReads := satAdd (ones 32) m.draftReads 1 }
        updCtx s r.ctx fun y => { y with tier := up y.tier }
      match regionOf s r.ctx f.region with
      | none => (s, false)
      | some reg =>
        let origin := versionOrigin s r.ctx r.batch run.origin.toNat
        if ((draftOf s r.ctx x.cons).map fun d => d.kind == 1).getD false then
          let s := putPart (counted s) r.run r.part (zeroPart x (rowLength s f reg x origin) false true)
          let s := match reqByBatch s r.ctx r.batch with
            | some q => updReq s q.rid fun q => { q with late := q.late ++ [run.base + r.part] }
            | none => s
          (pumpRuns s r.ctx run.feed, true)
        else
          match regionTable s reg origin, replicaRegion s r.ctx with
          | some v, some rr =>
            if (replicaRow s r.ctx rr v.desc.tableId (v.physRow i)).isSome then
              ({ counted s with reads := s.reads ++ [{ r with late := true, replica := true, deadline := none }] }, true)
            else (s, false)
          | _, _ => (s, false)
    | _, _, _ => (s, false)

/-- A read is issued; at or past its deadline it is late at once (R191). -/
def issueRead (s : State) (r : TierRead) : State :=
  if (r.deadline.map fun e => decide (e ≤ s.time)).getD false then
    let (t, gone) := lateRead s r
    if gone then t else { t with reads := t.reads ++ [{ r with late := true }] }
  else { s with reads := s.reads ++ [r] }

/-- The station whose deadline a read of a program's row keeps (R191, R193): its consumer when that takes the SKETCH_SCORE path,
else FEED. -/
def deadlineStation (s : State) (c : Nat) (x : Stream) : Nat :=
  if ((draftOf s c x.cons).map fun d => d.kind == 1).getD false then x.cons else stnFeed

/-- STATION_DEADLINE (R191 to R193): the reads of a batch for a station that have not returned by E are late. -/
def execStationDeadline (ctx station batch : Nat) (s : State) : Host.Outcome State Fault Refusal :=
  .next <|
    let hit (r : TierRead) : Bool :=
      r.ctx == ctx && r.batch == batch && !r.late && (r.deadline.map fun e => decide (e ≤ s.time)).getD false &&
      (((mapFind s.runs r.run).bind fun run => feedStream s ctx run.feed).map fun p =>
        (if r.row.isSome then deadlineStation s ctx p.2 else stnFeed) == station).getD false
    (s.reads.filter hit).foldl (fun s r =>
      let (t, gone) := lateRead s r
      if gone then t else { t with reads := t.reads ++ [{ r with late := true }] })
      { s with reads := s.reads.filter fun r => !hit r }

/-! STORE rings (R197). -/

/-- Bytes of a slot of a STORE ring, and its slots. -/
def ringSlot (x : Stream) : Nat := 64 * (slotLines x.format).getD 1

/-- Sheets that wait for a slot of a STORE ring are written while one is free: whole, header line included. A sheet with POISON, or
one that fails its check, marks what it writes (R125, R450). -/
def pumpStore (s : State) (c k : Nat) : Nat → State
  | 0 => s
  | fuel + 1 =>
    match feedProg s c k, feedStream s c k with
    | some f, some (n, x) =>
      let st := feedState s c k
      let slots := f.length / ringSlot x
      match st.waiting with
      | [] => s
      | sh :: rest =>
        if slots ≤ st.unread.length then s
        else
          let pages := ((regionOf s c f.region).map fun r => regionPages s c r 0).getD []
          let (bad, s) := exitCheck s stnFeed c n sh
          let s := pagesWrite s pages (f.offset + st.next * ringSlot x) (sheetSlot sh) bad
          let s := setFeed s c k { st with waiting := rest, unread := st.unread ++ [st.next], next := (st.next + 1) % max 1 slots }
          pumpStore (freeSlots s n 1) c k fuel
    | _, _ => s

/-- A read of a region has taken the bytes [off, off + n): the slots of a STORE ring there may be written again. -/
def ringRead (s : State) (c region off n : Nat) : State :=
  let fs := ((ctxOf s c).loaded.map fun l => l.image.feed).getD []
  (fs.zipIdx).foldl (fun s p =>
    if p.1.kind = 3 ∧ p.1.region = region then
      match feedStream s c p.2 with
      | some (_, x) =>
        let w := ringSlot x
        let st := feedState s c p.2
        let inside (i : Nat) : Bool := decide (off ≤ p.1.offset + i * w) && decide (p.1.offset + i * w + w ≤ off + n)
        let s := setFeed s c p.2 { st with unread := st.unread.filter fun i => !inside i }
        pumpStore s c p.2 (st.waiting.length + 1)
      | none => s
    else s) s

/-! Scatter (R220 to R225). -/

/-- The indices of a sheet (R208); none for the last element of an odd count of halves. -/
def sheetIndices (idx64 : Bool) (sh : Sheet) : List (Option Nat) :=
  let ws := (unpack 0x20 sh.data).take sh.valid.toNat
  if idx64 then (pieces 2 ws).map fun p => match p with
    | [lo, hi] => some (lo + hi * 2 ^ 32)
    | _ => none
  else ws.map some

def scatterOf (s : State) (c k : Nat) : Scatter :=
  (s.scatters.find? fun x => x.ctx == c && x.feed == k).getD ⟨c, k, [], [], []⟩

def setScatter (s : State) (x : Scatter) : State :=
  { s with scatters := (s.scatters.filter fun y => !(y.ctx == x.ctx && y.feed == x.feed)) ++ [x] }

/-- Value sheets of an index sheet's run (R213, R220). -/
def valueSheets (d rows : Nat) : Nat := ceilDiv (rows * (d / 32)) 32

/-- Whether a run's value sheets agree with its index sheet (R221). -/
def valuesAgree (idx : Sheet) (d rows : Nat) (vs : List Sheet) : Bool :=
  let last := rows * (d / 32) - 32 * (vs.length - 1)
  (vs.zipIdx).all fun p => p.1.tag == idx.tag && p.1.valid.toNat == (if p.2 + 1 = vs.length then last else 32)

/-- The updates of a run join the open group; a full group is applied (R222). An index out of range, past 2²⁶ in its batch or in a
poisoned sheet changes no row (R211, R221, R450). -/
def scatterRun (s : State) (tbl : BitVec 64) (c : Nat) (x : ScatterBatch) (n : Nat) (idx : Sheet) (vs : List Sheet) : ScatterBatch × State :=
  match tableOf s tbl with
  | none => (x, s)
  | some (_, t) =>
    let origin := versionOrigin s c (tagBatch idx.tag) idx.origin.toNat
    let v := t.verAt origin
    let ids := sheetIndices v.desc.idx64 idx
    let agree := valuesAgree idx v.desc.d ids.length vs
    let per := v.desc.d / 32
    let (rows, s) := vs.foldl (fun (a : List (List Nat × Bool) × State) sh =>
      let (bad, s) := exitCheck a.2 stnFeed c n sh
      (a.1 ++ (pieces 32 (unpack v.desc.format sh.data)).map (·, bad), s)) ([], s)
    let s := if agree then s else detected s stnFeed c n ((vs.head?.map fun v => v.seq.toNat).getD 0) 0 0 false
    (ids.zipIdx).foldl (fun acc p =>
      let (x, s) := acc
      let mine := (rows.drop (p.2 * per)).take per
      let step (x : ScatterBatch) (s : State) : ScatterBatch × State :=
        let x := { x with pos := x.pos + 1 }
        if x.pos % 65536 = 0 then ({ x with group := [] }, flushGroup s c x tbl) else (x, s)
      match p.1 with
      | some i =>
        if !v.desc.inRange s i origin || decide (2 ^ 26 ≤ x.pos) then step x (usageStn s stnFeed c n idx.seq.toNat)
        else if !agree || idx.poison then step x s
        else
          let u : RawUpdate := ⟨v.desc.rowOf i, x.pos, mine.flatMap (·.1), mine.any (·.2)⟩
          step { x with group := x.group ++ [u] } s
      | none => step x (usageStn s stnFeed c n idx.seq.toNat)) (x, s)

/-- Runs of a scatter program whose sheets are all there are taken in order; while an update of the context waits, sheets and their
credits stay (R133, R230). -/
def pumpScatter (s : State) (c k : Nat) : Nat → State
  | 0 => s
  | fuel + 1 =>
    match feedProg s c k, feedStream s c k with
    | some f, some (nv, _) =>
      match (regionOf s c f.region).map (·.object), localStream s c f.start with
      | some tbl, some ni =>
        let x := scatterOf s c k
        match x.idxs, tableOf s tbl with
        | idx :: rest, some (_, t) =>
          let v := t.verAt (versionOrigin s c (tagBatch idx.tag) idx.origin.toNat)
          let need := valueSheets v.desc.d (sheetIndices v.desc.idx64 idx).length
          if x.vals.length < need ∨ s.updates.any (fun u => u.ctx == c) then s
          else
            let b := tagBatch idx.tag
            let y := (x.batches.find? fun y => y.batch == b).getD ⟨b, idx.origin.toNat, 0, []⟩
            let (y, s) := scatterRun s tbl c y ni idx (x.vals.take need)
            let x := { x with idxs := rest, vals := x.vals.drop need, batches := (x.batches.filter fun y => y.batch != b) ++ [y] }
            pumpScatter (freeSlots (freeSlots (setScatter s x) ni 1) nv need) c k fuel
        | _, _ => s
      | _, _ => s
    | _, _ => s

/-- The open group of a batch is applied once nothing more of the batch can come (R222, log entry 21). -/
def closeScatter (s : State) (c b : Nat) : State :=
  (s.scatters.filter fun x => x.ctx == c && x.batches.any fun y => y.batch == b).foldl (fun s x =>
    let s := setScatter s { x with batches := x.batches.filter fun y => y.batch != b }
    match (feedProg s c x.feed).bind fun f => regionOf s c f.region, x.batches.find? fun y => y.batch == b with
    | some r, some y => flushGroup s c y r.object
    | _, _ => s) s

/-- Batches that belong to no request end when nothing of them moves any more (R145, R222). -/
def closeIdle (s : State) : State :=
  s.scatters.foldl (fun s x => x.batches.foldl (fun s y =>
    if (reqByBatch s x.ctx y.batch).isSome || batchMoving s x.ctx y.batch then s else closeScatter s x.ctx y.batch) s) s

/-- Every scatter program goes on. -/
def drainScatter (s : State) : State :=
  closeIdle (s.scatters.foldl (fun s x => pumpScatter s x.ctx x.feed (x.idxs.length + 1)) s)

/-- Versions that no batch uses any more are freed, which ends the waits of their updates, and scatter programs go on (R219, R230). -/
def settleTables (s : State) : State := drainScatter (s.tables.foldl (fun s p => freeDrainedTable s p.1) s)

/-! Reads that return. -/

/-- A read of a replica row has completed: the replica's page was read (R185). -/
def readReplica (s : State) (r : TierRead) (reg : RegionEntry) (origin : Nat) : State :=
  match regionTable s reg origin, replicaRegion s r.ctx, r.row with
  | some v, some rr, some i =>
    match replicaRow s r.ctx rr v.desc.tableId (v.physRow i) with
    | some (off, n, _) => readDone s r.ctx rr.id 0 (pagesTouched off n) r.batch
    | none => s
  | _, _, _ => s

/-- What a read supplies, where FEED's check of what it forms has failed twice: it carries POISON (R447). -/
def spoilPart : Part → Part
  | .sheets xs => .sheets (xs.map fun sh => { sh with flags := sh.flags ||| flagPoison })
  | .row blocks _ draft => .row blocks true draft
  | .span b _ => .span b true

/-- A read's part takes its place in its run; one that FEED's check spoils has its record (R447). -/
def readPart (s : State) (r : TierRead) (p : Part) (checkFailed : Bool) : State :=
  if checkFailed then putPart (detected s stnFeed r.ctx 0 0 0 0 true) r.run r.part (spoilPart p) else putPart s r.run r.part p

/-- TIER_READ_RETURN (R182, R184, R191 to R193, R197, R203, R213 to R215, R371, R447, R449): the `k`-th read that is under way returns; lines that
it could not correct are marked first. -/
def execTierReadReturn (k : Nat) (obs : ReadObs) (s : State) : Host.Outcome State Fault Refusal :=
  .next <|
    match s.reads[k]? with
    | none => s
    | some r =>
      if tierHeld s stnFeed r.ctx then s else
      let s := obs.lost.foldl (fun s x => lineLost s 0 x.1 x.2) { s with reads := listDrop s.reads k }
      match mapFind s.runs r.run with
      | none => s
      | some run =>
        let past := (r.deadline.map fun e => decide (e ≤ s.time)).getD false
        let (t, gone) := if past && !r.late then lateRead s r else (s, false)
        if gone then settleTables t
        else settleTables <|
          let late := (past || (r.moveDeadline.map fun e => decide (e ≤ s.time)).getD false) && !r.replica
          let up (m : TierMon) : TierMon := { m with waits := satAdd (ones 32) m.waits (b2n late) }
          let s := updCtx s r.ctx fun y => { y with tier := up y.tier }
          if r.region = 0xFFFF then
            let lbas := (List.range (ceilDiv (r.offset % 4096 + r.bytes) 4096)).map (r.offset / 4096 + ·)
            let b := slice (lbas.flatMap (readSector s)) (r.offset % 4096) r.bytes
            pumpRuns (readPart s r (.span b (lbas.any (sectorPoisoned s))) obs.checkFailed) r.ctx run.feed
          else
            match feedStream s r.ctx run.feed, regionOf s r.ctx r.region with
            | some (_, x), some reg =>
              let origin := versionOrigin s r.ctx r.batch run.origin.toNat
              let (p, s) := match r.row with
                | some i => rowPart s r reg x origin i
                | none => let (xs, s) := sweepPart s r reg x run; (Part.sheets xs, s)
              let s := readDone s r.ctx r.region (regionVer s reg origin) (pagesTouched r.offset r.bytes) r.batch
              let s := if r.replica then readReplica s r reg origin else s
              let s := pumpRuns (readPart s r p obs.checkFailed) r.ctx run.feed
              ringRead s r.ctx r.region r.offset r.bytes
            | _, _ => s

/-! ROWS programs (R208 to R213). -/

/-- An index sheet starts a run of a ROWS program: one read per row; an index out of range and an index of a poisoned sheet give
a row of zero codes with POISON, the former with a USAGE record (R211, R450). -/
def rowsRun (s : State) (c k n : Nat) (sh : Sheet) : State :=
  match feedProg s c k, feedStream s c k with
  | some f, some (_, x) =>
    match regionOf s c f.region with
    | none => s
    | some reg =>
      let b := tagBatch sh.tag
      let origin := versionOrigin s c b sh.origin.toNat
      let ver := regionTable s reg origin
      let idx := sheetIndices ((ver.map fun v => v.desc.idx64).getD false) sh
      let st := feedState s c k
      let base := ((st.counts.find? fun p => p.1 == sh.tag).map (·.2)).getD 0
      let live := st.counts.filter fun p => p.1 != sh.tag && batchMoving s c (tagBatch p.1)
      let s := setFeed s c k { st with counts := live ++ [(sh.tag, base + idx.length)] }
      let (run, s) := newRun s c k sh.tag sh.origin base idx.length sh.flags
      let len := rowLength s f reg x origin
      let stn := deadlineStation s c x
      let s := (idx.zipIdx).foldl (fun s p =>
        let ok := match p.1, ver with
          | some i, some v => v.desc.inRange s i origin
          | some i, none => decide (f.offset + (i + 1) * f.length ≤ reg.size)
          | none, _ => false
        match p.1 with
        | some i =>
          if sh.poison then putPart s run p.2 (zeroPart x len true false)
          else if !ok then
            putPart (if ver.isSome then usageStn s stnFeed c n sh.seq.toNat else detected s stnFeed c n sh.seq.toNat 0 0 true) run p.2
              (zeroPart x len true false)
          else
            let off := match ver with
              | some v => ((v.desc.rowOffset s.folio.number (v.physRow i)).getD 0)
              | none => f.offset + i * f.length
            let s := match ver.bind fun v => (tableOf s v.desc.tableId).map fun t => (t.1, v) with
              | some (t, v) => if v.desc.storage = 2 then s else countRead s t v.desc.version (v.physRow i) origin v.desc
              | none => s
            issueRead s { run := run, part := p.2, ctx := c, batch := b, region := f.region, offset := off, bytes := f.length,
                          row := some i, deadline := deadlineOf s c stn sh.origin.toNat ((ver.map fun v => v.desc.home).getD reg.tier), late := false, replica := false,
                          moveDeadline := moveDeadlineOf s c f.region (pagesTouched off f.length) }
        | none => putPart (usageStn s stnFeed c n sh.seq.toNat) run p.2 (zeroPart x len true false)) s
      pumpRuns s c k
  | _, _ => s

/-- A request of SHUFFLE starts a unit (R324, R371): FEED gives it a batch, and reads its span in parts that end at logical-block
boundaries. The request's 64 bytes are the unit header (log entry 26). -/
def blocksRun (s : State) (c k : Nat) (sh : Sheet) : State :=
  let hdr := sh.data.take 64
  let start := u64 hdr 0
  let n := u32 hdr 8
  let cut := blockSectors * 4096
  let first := min n (cut - start % cut)
  let parts := if n = 0 then [] else (start, first) :: (List.range (ceilDiv (n - first) cut)).map fun i =>
    (start + first + i * cut, min cut (n - first - i * cut))
  let (b, s) := formBatch s c
  let origin := BitVec.ofNat 64 s.time
  let (run, s) := newRun s c k (tagOf c b) origin 0 (parts.length + 1) sh.flags
  let s := putPart s run 0 (.span hdr sh.poison)
  let s := (parts.zipIdx).foldl (fun s p =>
    { s with reads := s.reads ++ [{ run := run, part := p.2 + 1, ctx := c, batch := b, region := 0xFFFF, offset := p.1.1,
                                    bytes := p.1.2, row := none, deadline := none, late := false, replica := false,
                                    moveDeadline := none }] }) s
  pumpRuns s c k

/-! Hot rows. -/

/-- HOT_ROW_COPY_END (R228, R229, R231): the copy into the slot is complete, with its source's poison; the log's entries of
the row are replayed in order, the entry flips to MOVED with its stamp F, and what waits is offered again. -/
def execHotRowCopyEnd (table : BitVec 64) (version row : Nat) (s : State) : Host.Outcome State Fault Refusal :=
  .next <|
    match tableOf s table with
    | none => s
    | some (k, t) =>
      match (t.version version).bind fun v => (mapFind v.hot row).map fun h => (v, h) with
      | none => s
      | some (v, h) =>
        if h.moved then s
        else
          match v.desc.rowOffset s.folio.number row with
          | none => s
          | some off =>
            let dst := h.slot * v.desc.stride
            let bad := pagesPoison s v.pages off v.desc.stride
            let s := pagesWrite s v.hotPages dst (pagesRead s v.pages off v.desc.stride) bad
            let mine (u : Update) : Bool := u.table == table && u.version == version && u.row == row
            let log := s.migLog.filter mine
            let s := log.foldl (fun s u => applyAt s v.desc v.hotPages dst u) s
            let s := updTable { s with migLog := s.migLog.filter fun u => !mine u } k fun t =>
              { t.updVersion version fun v => { v with hot := mapPut v.hot row ⟨h.slot, true, s.time⟩ } with
                updates := satAdd (ones 32) t.updates log.length }
            settleTables (retryPromotions (retryUpdates s))


/-- HOT_GROW (R230). -/
def execHotGrow (cid pages : Nat) (id : BitVec 64) (s : State) : Host.Outcome State Fault Refusal :=
  .next <| adminCmd s cid false fun s =>
    match (tableOf s id).bind fun p => growHot s p.1 p.2 pages with
    | some t => adminDone (drainScatter (retryUpdates t)) cid
    | none => adminRefuse s cid .format


/-! FEED's ingress. -/

/-- FEED takes a sheet of stream `n`: a run starts, a ring or a scatter batch takes it. Its slot is free once it is taken. -/
def feedSheet (s : State) (n : Nat) (x : Stream) (sh : Sheet) : State :=
  let fs := ((ctxOf s x.ctx).loaded.map fun l => l.image.feed).getD []
  let scatter (f : FeedEntry) : Bool := ((regionOf s x.ctx f.region).map fun r => r.source == 2).getD false
  let c := x.ctx
  let kept := fs.any fun f => f.kind == 3 && (f.stream == x.localNo || (f.start == x.localNo && scatter f))
  let s := (fs.zipIdx).foldl (fun s p =>
    let f := p.1
    let k := p.2
    if f.kind = 3 then
      if f.stream = x.localNo then
        if scatter f then
          let y := scatterOf s c k
          pumpScatter (setScatter s { y with vals := y.vals ++ [sh] }) c k (y.idxs.length + 1)
        else
          let st := feedState s c k
          pumpStore (setFeed s c k { st with waiting := st.waiting ++ [sh] }) c k (st.waiting.length + 2)
      else if f.start = x.localNo ∧ scatter f then
        let y := scatterOf s c k
        pumpScatter (setScatter s { y with idxs := y.idxs ++ [sh] }) c k (y.idxs.length + 2)
      else s
    else if f.start = x.localNo then
      match f.kind with
      | 0 => sweepRun s c k sh.tag sh.origin
      | 1 => rowsRun s c k n sh
      | _ => blocksRun s c k sh
    else s) s
  if kept then s else freeSlots s n 1

/-! The feeder (R183 to R189). -/

/-- Pages of a context's share of a tier that no use of it holds. -/
def stagingFree (s : State) (c t : Nat) : Nat := (ctxOf s c).share t - ctxPages s c t

def bumpTier (s : State) (c : Nat) (f : TierMon → TierMon) : State := updCtx s c fun y => { y with tier := f y.tier }

/-- One page of an entry that fires (R187, R188), at the version that the triggering batch reads. A pin is renewed beside those of earlier
batches that may still read the page (DESIGN CHOICE, log entry 135). -/
def firePage (s : State) (c k : Nat) (e : PrefetchEntry) (batch origin page : Nat) (prio : Nat) : State :=
  let ver := ((regionOf s c e.region).map fun r => regionVer s r (versionOrigin s c batch origin)).getD 0
  let here (x : Copy) : Bool := x.ctx == c && x.region == e.region && x.ver == ver && x.page == page && x.tier == e.dest
  if s.copies.any here then
    let pin (x : Copy) : Copy :=
      if here x then { x with pins := if x.pins.contains batch then x.pins else x.pins ++ [batch] } else x
    let s := { s with copies := s.copies.map pin }
    bumpTier s c fun m => { m with hits := satAdd (ones 32) m.hits 1 }
  else if 4096 ≤ s.queued.length then bumpTier s c fun m => { m with dropped := satAdd (ones 32) m.dropped 1 }
  else
    let d := s.time + e.deadlineNs
    { s with queued := s.queued ++ [⟨c, k, e.region, page, ver, e.dest, max s.time (d - e.leadNs), d, prio, s.time, batch⟩] }

/-- A sheet accepted on a stream fires the PREFETCH entries that it triggers (R186). -/
def firePrefetch (s : State) (x : Stream) (sh : Sheet) : State :=
  match (ctxOf s x.ctx).loaded with
  | none => s
  | some l =>
    (l.image.prefetch.zipIdx).foldl (fun s p =>
      let e := p.1
      if e.triggerStream = x.localNo ∧ stationNo l.stationMap e.trigger = x.cons ∧ sh.seq.toNat % max 1 e.every = 0 then
        let prio := ((l.image.stations.find? fun q => stationNo l.stationMap q.number == x.cons).map (·.priority)).getD 0
        (List.range e.pages).foldl (fun s i => firePage s x.ctx p.2 e (tagBatch sh.tag) sh.origin.toNat (e.firstPage + i) prio) s
      else s) s

/-- Whether move `a` begins before move `b` (R189). -/
def Move.before (a b : Move) : Bool :=
  decide ([a.deadline, 7 - a.prio, a.stamp, a.entry] ≤ [b.deadline, 7 - b.prio, b.stamp, b.entry])

/-- Whether a copy is pinned: a batch that pins it has not completed (R185). A batch with a request ends its pins with it; another one has
completed when nothing of it is left in the module (log entry 135). -/
def pinned (s : State) (x : Copy) : Bool := x.pins.any fun b => (reqByBatch s x.ctx b).isSome || batchMoving s x.ctx b

/-- A staging page for a copy: a free page of the share, or that of the least recently read unpinned copy (R185). A copy that was never
read counts as read when its move began, the earliest made goes first among equals, and one that is still COPYING is not evicted
(DESIGN CHOICE, log entry 135). -/
def stagingPage (s : State) (c t : Nat) : Option (Nat × State) :=
  if 0 < stagingFree s c t then (allocPages s t 1 (.staging c)).bind fun p => p.1.head?.map (·, p.2)
  else
    let old := (s.copies.filter fun x => x.ctx == c && x.tier == t && x.valid && !pinned s x).foldl (fun best x =>
      match best with
      | none => some x
      | some b => if x.lastRead < b.lastRead then some x else some b) (none : Option Copy)
    old.map fun x => (x.dst, { s with copies := s.copies.filter (· != x) })

/-- MOVE_ISSUE (R183, R185, R188, R189): the feeder begins the first move whose time has come, when it has a staging page and fewer
than 64 are under way. A move whose page has a copy in DEST by now leaves the queue and is not counted, and a first move without a staging
page holds back those behind it (DESIGN CHOICE, log entry 135). -/
def execMoveIssue (s : State) : Host.Outcome State Fault Refusal :=
  .next <|
    let due := s.queued.filter fun m => decide (m.issueAt ≤ s.time) && decide (s.time < m.deadline)
    match (sortBy Move.before due).head? with
    | none => s
    | some m =>
      if 64 ≤ s.inflight.length then s
      else if s.copies.any fun x => x.ctx == m.ctx && x.region == m.region && x.ver == m.ver && x.page == m.page && x.tier == m.dest then
        { s with queued := s.queued.erase m }
      else
        match stagingPage s m.ctx m.dest with
        | none => s
        | some (p, s) =>
          let s := { s with
            queued := s.queued.erase m
            inflight := s.inflight ++ [m]
            copies := s.copies ++ [⟨m.ctx, m.region, m.page, m.ver, m.dest, p, false, [m.batch], s.time⟩] }
          bumpTier s m.ctx fun t => { t with issued := satAdd (ones 32) t.issued 1 }

/-- MOVE_DEADLINE (R188): queued moves that have not begun by their deadline are dropped. -/
def execMoveDeadline (s : State) : Host.Outcome State Fault Refusal :=
  .next <|
    let dead := s.queued.filter fun m => decide (m.deadline ≤ s.time)
    dead.foldl (fun s m => bumpTier s m.ctx fun t => { t with dropped := satAdd (ones 32) t.dropped 1 })
      { s with queued := s.queued.filter fun m => decide (s.time < m.deadline) }

/-- Source pages of a region at a version. -/
def sourcePages (s : State) (c : Nat) (r : RegionEntry) (ver : Nat) : List Nat :=
  if r.source = 2 then (((tableOf s r.object).bind fun t => t.2.version ver).map (·.pages)).getD [] else regionPages s c r 0

/-- The station whose priority a move has at the channels: that of the entry's TRIGGER (R189). -/
def moveStation (s : State) (m : Move) : Nat :=
  ((ctxOf s m.ctx).loaded.bind fun l => (l.image.prefetch[m.entry]?).map fun e => stationNo l.stationMap e.trigger).getD stnFeed

/-- MOVE_COMPLETE (R184, R185, R187, R188): the last unit of the `k`-th move under way is written. The copy takes the bytes and the
poison of the fastest VALID copy in a slower tier, or of the source. -/
def execMoveComplete (k : Nat) (s : State) : Host.Outcome State Fault Refusal :=
  .next <|
    match s.inflight[k]? with
    | none => s
    | some m =>
      if tierHeld s (moveStation s m) m.ctx then s else
      let s := { s with inflight := listDrop s.inflight k }
      let late := decide (m.deadline ≤ s.time)
      let s := bumpTier s m.ctx fun t => { t with late := satAdd (ones 32) t.late (b2n late) }
      let mine (x : Copy) : Bool := x.ctx == m.ctx && x.region == m.region && x.ver == m.ver && x.page == m.page
      match s.copies.find? fun x => mine x && x.tier == m.dest, regionOf s m.ctx m.region with
      | some c, some r =>
        let src := match s.copies.find? fun x => mine x && x.valid && decide (m.dest < x.tier) with
          | some x => x.dst
          | none => (sourcePages s m.ctx r m.ver).getD m.page 0
        let lo := src * Config.pageBytes
        let dst := c.dst * Config.pageBytes
        let s := zeroPage s c.dst
        let cells := s.mem.filter fun b => decide (lo ≤ b.1) && decide (b.1 < lo + Config.pageBytes)
        let marks := s.poison.filter fun b => decide (lo ≤ b.1 * 64) && decide (b.1 * 64 < lo + Config.pageBytes)
        let poison := marks.foldl (fun p b => mapPut p ((b.1 * 64 - lo + dst) / 64) ()) s.poison
        { s with mem := cells.foldl (fun mm b => cellWrite mm (b.1 - lo + dst) b.2) s.mem
                 poison := poison
                 copies := s.copies.map fun x => if mine x && x.tier == m.dest then { x with valid := true } else x }
      | _, _ => s

/-- A batch that completes releases its pins (R185). -/
def unpinBatch (s : State) (c b : Nat) : State :=
  { s with copies := s.copies.map fun x => if x.ctx == c then { x with pins := x.pins.filter (· != b) } else x }

end Sys2Proof.Machine
end

