-- ==== Sys2Proof/Machine/Front.lean ====
section
/-! DEFINITION. Front-end sequences: grammar steps, detokenisation and holdback (R306 to R315). -/

namespace Sys2Proof.Machine

def vocabById (s : State) (id : BitVec 64) : Option Vocab := (s.vocabs.find? fun p => p.2.id == id).map (·.2)
def grammarById (s : State) (id : BitVec 64) : Option Grammar := (s.grammars.find? fun p => p.2.id == id).map (·.2)

/-- A bitmap as a number, bit t allowing token t (R294). -/
def maskNat (bs : Bytes) : Nat := leNat bs

/-- The mask in state `g` at depth `d` (R311). -/
def grammarMask (v : Vocab) (g : Grammar) (st d : Nat) : Nat :=
  match g.states[st]? with
  | none => 0
  | some x =>
    let bitmap (k : Option Nat) : Nat := ((k.bind fun k => g.masks[k]?).map maskNat).getD 0
    let m := bitmap (some x.mask)
    let m := if d = 64 then m - (m &&& bitmap x.pushMask) else m
    let m := if d = 0 then m - (m &&& bitmap x.popMask) else m
    if x.final then v.ends.foldl (fun m t => m ||| 2 ^ t) m else m

/-- The next mask of a sequence (R311). -/
def nextMask (s : State) (v : Vocab) (q : FrontSeq) : Nat :=
  match q.grammar.bind (grammarById s) with
  | some g => grammarMask v g q.gstate q.stack.length
  | none => 2 ^ v.tokens - 1

/-- The action of a token in a state (R295). -/
def gActionFor (g : Grammar) (st t : Nat) : Option GAction :=
  (g.states[st]?).map fun x => ((x.exceptions.find? fun p => p.1 == t).map (·.2)).getD x.dflt

/-- An action applied to a sequence (R296, R310); none for a PUSH at depth 64 or a POP at depth 0. -/
def applyAction (q : FrontSeq) : GAction → Option FrontSeq
  | .shift n => some { q with gstate := n }
  | .push r n => if q.stack.length < 64 then some { q with stack := r :: q.stack, gstate := n } else none
  | .pop => match q.stack with
    | [] => none
    | r :: rest => some { q with stack := rest, gstate := r }

/-- The stop string that the candidate ends with (R313, R314): the one that begins earlier, then the lower entry. -/
def stopAt (stops : List Bytes) (cand : Bytes) : Option (Nat × Bytes) :=
  ((stops.zipIdx).filter fun p => decide (p.1.length ≤ cand.length) && cand.drop (cand.length - p.1.length) == p.1).foldl
    (fun best p => match best with
      | none => some (p.2, p.1)
      | some b => if b.2.length < p.1.length then some (p.2, p.1) else some b) none

/-- Length of the longest suffix of a text that is a proper prefix of a stop string (R313). -/
def heldLen (stops : List Bytes) (cand : Bytes) : Nat :=
  ((List.range 64).filter fun k => decide (k ≤ cand.length) && stops.any fun z =>
    decide (k < z.length) && z.take k == cand.drop (cand.length - k)).foldl max 0

/-- What one step releases. -/
structure FrontText where
  q : FrontSeq
  text : Bytes
  bad : Nat
  stop : Option (Nat × Nat)

/-- A whole character joins the candidate, U+FFFD for an ill-formed subpart; the text that no stop string can still claim is released
(R312, R313). Nothing after the completing character counts (R314). -/
def takeChar (r : FrontText) (c : Option Nat) : FrontText :=
  if r.stop.isSome then r
  else
    let cand := r.q.cand ++ utf8Encode (c.getD replacement)
    let r := { r with bad := r.bad + b2n c.isNone }
    match stopAt r.q.stops cand with
    | some (k, z) =>
      let out := cand.take (cand.length - z.length)
      { r with q := { r.q with cand := [], charBuf := [], total := r.q.total + out.length }, text := r.text ++ out,
               stop := some (k, r.q.total + out.length) }
    | none =>
      let keep := heldLen r.q.stops cand
      let out := cand.take (cand.length - keep)
      { r with q := { r.q with cand := cand.drop out.length, total := r.q.total + out.length }, text := r.text ++ out }

/-- The bytes of an accepted token (R312, R313). -/
def takeBytes (q : FrontSeq) (bs : Bytes) : FrontText :=
  let (cs, rest) := utf8Decode (q.charBuf ++ bs)
  let r := cs.foldl takeChar ⟨{ q with charBuf := rest }, [], 0, none⟩
  if r.stop.isSome then { r with q := { r.q with charBuf := [] } } else r

/-- Any end but STOP releases what is held (R315). -/
def releaseHeld (r : FrontText) : FrontText :=
  let tail := if r.q.charBuf.isEmpty then [] else utf8Encode replacement
  let out := r.q.cand ++ tail
  { r with q := { r.q with cand := [], charBuf := [], total := r.q.total + out.length }, text := r.text ++ out,
           bad := r.bad + b2n (!r.q.charBuf.isEmpty) }

/-- Codes of END (R308). -/
def SeqEnd.code : SeqEnd → Nat
  | .open_ => 0 | .stop => 1 | .endToken => 2 | .length => 3 | .dead => 4 | .grammarFault => 5 | .closed => 6 | .poison => 7

/-- The step header (R308). -/
def stepHeader (s : State) (v : Vocab) (r : FrontText) (stopTok : Option Nat) : Bytes :=
  let q := r.q
  leBytes 8 q.tag.toNat ++ leBytes 4 q.stepN ++ leBytes 4 (if q.grammar.isSome then q.gstate else 0xFFFFFFFF) ++
  leBytes 1 q.stack.length ++ leBytes 1 q.fin.code ++ leBytes 1 ((r.stop.map (·.1)).getD 0xFF) ++
  leBytes 1 (b2n (decide (0 < r.bad)) + 2 * b2n q.grammar.isSome + 4 * b2n (q.fin == .poison)) ++ leBytes 4 r.text.length ++
  leBytes 8 q.total ++ leBytes 4 (stopTok.getD 0xFFFFFFFF) ++ zeros 4 ++
  leBytes 8 ((r.stop.map (·.2)).getD (2 ^ 64 - 1)) ++ leBytes 4 (q.cand.length + q.charBuf.length) ++
  leBytes 4 (maskBytes v.tokens) ++ leBytes 8 s.time

/-- A step's three parts written into the buffer, and its completion owed (R308). -/
def writeStep (s : State) (v : Vocab) (slot : Nat) (r : FrontText) (src : Origin) (stopTok : Option Nat) (opening : Bool) : State :=
  let q := r.q
  let rec0 := stepHeader s v r stopTok ++ q.mask ++ r.text
  let s := windowWrite s q.bufOffset (padTo rec0 (ceilDiv rec0.length 64 * 64)) false (some q.rid)
  let cond : BitVec 10 := if q.fin = .poison then condBit .poisoned else 0
  let handle := slot + 256 * q.gen
  let post : Post := ⟨src, cond, if opening then 0 else q.fin.code, if opening then handle else q.stepN, q.fin != .open_⟩
  let s := updReq s q.rid fun x => { x with posts := x.posts ++ [post] }
  { s with fronts := if q.fin = .open_ then mapPut s.fronts slot q else mapDrop s.fronts slot }

/-- The mask of an ended sequence is zeros (R308). -/
def withMask (s : State) (v : Vocab) (q : FrontSeq) : FrontSeq :=
  { q with mask := if q.fin = .open_ then leBytes (maskBytes v.tokens) (nextMask s v q) else zeros (maskBytes v.tokens) }

/-- The lines of an object that a step reads: whether one of them is poisoned (R310). -/
def objectPoison (s : State) (pages : List Nat) (off n : Nat) : Bool :=
  decide (0 < n) && poisonedAt s (pageAddr pages off) n

/-- Whether the string of token `t` is read poisoned (step 4 of R310). -/
def stringPoison (s : State) (v : Vocab) (t : Nat) : Bool :=
  let idx := 128 + 64 * v.nodes.length
  let str := v.strings.getD t (true, 0, [])
  objectPoison s v.pages (idx + 8 * t) 8 || objectPoison s v.pages (idx + 8 * v.tokens + str.2.1) str.2.2.length

/-- Whether a word that gives the action in the sequence's state is read poisoned: the state record and its exceptions (step 1 of R310). -/
def actionPoison (s : State) (v : Vocab) (q : FrontSeq) : Bool :=
  ((q.grammar.bind (grammarById s)).map fun g =>
    let exc := 64 + 32 * g.states.length + g.masks.length * maskBytes v.tokens
    objectPoison s g.pages (64 + 32 * q.gstate) 32 ||
    ((g.states[q.gstate]?).map fun x => objectPoison s g.pages (exc + 16 * x.excFirst) (16 * x.exceptions.length)).getD false).getD false

/-- Whether a word from which the next mask is formed is read poisoned: the state record, MASK, and PUSH_MASK at depth 64 or POP_MASK at
depth 0 (R311, step 6 of R310). -/
def maskPoison (s : State) (v : Vocab) (q : FrontSeq) : Bool :=
  ((q.grammar.bind (grammarById s)).map fun g =>
    let mb := maskBytes v.tokens
    let bitmap (k : Nat) : Bool := objectPoison s g.pages (64 + 32 * g.states.length + mb * k) mb
    objectPoison s g.pages (64 + 32 * q.gstate) 32 ||
    ((g.states[q.gstate]?).map fun x => bitmap x.mask || (q.stack.length == 64 && x.pushMask.any bitmap) ||
      (q.stack.isEmpty && x.popMask.any bitmap)).getD false).getD false

/-- An accepted step on token `t` (R310 to R315). -/
def frontStep (s : State) (v : Vocab) (slot : Nat) (q : FrontSeq) (t : Nat) (src : Origin) : State :=
  let isEnd := v.ends.contains t
  let finish (s : State) (r : FrontText) (e : SeqEnd) (stopTok : Option Nat) : State :=
    let r := if e = .open_ ∨ e = .stop then r else releaseHeld r
    let q := withMask s v { r.q with fin := e }
    let bump (m : LtrMon) : LtrMon :=
      { m with steps := satAdd (ones 32) m.steps 1, stops := satAdd 0xFFFF m.stops (b2n (e == .stop)),
               replaced := satAdd (ones 32) m.replaced r.bad }
    writeStep (updCtx s q.ctx fun x => { x with ltr := bump x.ltr }) v slot { r with q := q } src stopTok false
  let none' (q : FrontSeq) : FrontText := ⟨q, [], 0, none⟩
  if !isEnd && actionPoison s v q then finish s (none' q) .poison none
  else
    let acted : Option FrontSeq :=
      match q.grammar.bind (grammarById s) with
      | some g => if isEnd then some q else (gActionFor g q.gstate t).bind (applyAction q)
      | none => some q
    match acted with
    | none => finish s (none' q) .grammarFault none
    | some q =>
      let n := q.stepN
      let q := { q with stepN := n + 1 }
      if isEnd then finish s (none' q) .endToken none
      else if stringPoison s v t then finish s (none' q) .poison none
      else
        let r := takeBytes q (v.strings.getD t (true, 0, [])).2.2
        if r.stop.isSome then finish s r .stop (some n)
        else if r.q.stepN = r.q.maxTokens then finish s r .length none
        else if maskPoison s v r.q then finish s r .poison none
        else if nextMask s v r.q = 0 then finish s r .dead none
        else finish s r .open_ none

/-- The open sequence that a HANDLE names in a context (R412). -/
def seqByHandle (s : State) (c h : Nat) : Option (Nat × FrontSeq) :=
  (mapFind s.fronts (h % 256)).bind fun q => if q.ctx = c ∧ q.gen = h / 256 % 256 ∧ q.fin = .open_ then some (h % 256, q) else none

/-- A refused step is counted (R318). -/
def refuseStep (s : State) (c : Nat) (src : Origin) (st : Status) : State :=
  let bump (m : LtrMon) : LtrMon := { m with refused := satAdd 0xFFFF m.refused 1 }
  vendorCpl (updCtx s c fun x => { x with ltr := bump x.ltr }) src (condBit st) 0 0

/-- A step command (R309): the buffer still mapped, the sequence open, the token below V and allowed by the last mask. -/
def submitStep (s : State) (src : Origin) (c handle t : Nat) : State :=
  match seqByHandle s c handle with
  | none => refuseStep s c src .format
  | some (slot, q) =>
    match vocabById s q.vocab with
    | none => refuseStep s c src .format
    | some v =>
      if !windowOwned s c q.bufOffset q.bufSize then refuseStep s c src .protection
      else if v.tokens ≤ t ∨ !(maskNat q.mask).testBit t then refuseStep s c src .format
      else frontStep s v slot q t src

/-- A close command (R315): the sequence ends with CLOSED, and what is held is released. -/
def submitClose (s : State) (src : Origin) (c handle : Nat) : State :=
  match seqByHandle s c handle with
  | none => vendorCpl s src (condBit .format) 0 0
  | some (slot, q) =>
    match vocabById s q.vocab with
    | none => vendorCpl s src (condBit .format) 0 0
    | some v =>
      let r := releaseHeld ⟨{ q with fin := .closed }, [], 0, none⟩
      let bump (m : LtrMon) : LtrMon := { m with replaced := satAdd (ones 32) m.replaced r.bad }
      writeStep (updCtx s q.ctx fun x => { x with ltr := bump x.ltr }) v slot { r with q := withMask s v r.q } src none false

/-- The stop strings of an open record, in use (R306). -/
def stopStrings (r : Bytes) : List Bytes :=
  (List.range (u8 r 2)).map fun k => slice r (64 + 72 * k + 8) (u8 r (64 + 72 * k))

/-- The FORMAT conditions of R307, for the image of the context. -/
def openFormatOk (s : State) (im : Image) (r : Bytes) : Bool :=
  let pipe := im.letter[u8 r 0]?
  let vocab := pipe.bind fun p => im.bound p.vocab 0
  let gram := im.bound (u8 r 1) 1
  let entry (k : Nat) : Bytes := slice r (64 + 72 * k) 72
  let wellFormed (z : Bytes) : Bool := let d := utf8Decode z; d.1.all (·.isSome) && d.2.isEmpty
  r.length == 1216 && decide (u8 r 2 ≤ 16) && zeroAt r 3 1 && decide (1 ≤ u32 r 4) && decide (u32 r 4 ≤ 131072) &&
  u64 r 8 % 64 == 0 && u32 r 16 % 64 == 0 && decide (65536 ≤ u32 r 16) && decide (u32 r 16 ≤ 16777216) && zeroAt r 20 4 &&
  zeroAt r 32 32 && (pipe.map fun p => p.kind == 1).getD false && vocab.isSome &&
  (u8 r 1 == 0xFF || (gram.bind (grammarById s)).any fun g => some g.vocabId == vocab) &&
  ((List.range 16).all fun k =>
    let e := entry k
    zeroAt e 1 7 && zeroAt e (8 + min 64 (u8 e 0)) (64 - min 64 (u8 e 0)) &&
    (if k < u8 r 2 then decide (1 ≤ u8 e 0) && decide (u8 e 0 ≤ 64) && wellFormed (slice e 8 (u8 e 0)) else true))

/-- The status with which an open request is refused, if it is (R17, R307). -/
def openRefusal (s : State) (q : Req) : Option Status :=
  match (ctxOf s q.ctx).loaded with
  | none => some .format
  | some l =>
    if !windowOwned s q.ctx (u64 q.record 8) (u32 q.record 16) then some .protection
    else if !openFormatOk s l.image q.record then some .format
    else none

/-- An admitted open completes as step 0 (R307). -/
def openFront (s : State) (q : Req) : State :=
  match (ctxOf s q.ctx).loaded with
  | none => s
  | some l =>
    let r := q.record
    let vid := ((l.image.letter[u8 r 0]?).bind fun p => l.image.bound p.vocab 0).getD 0
    match vocabById s vid, mapFree s.fronts 0 256 with
    | some v, some slot =>
      let gram := if u8 r 1 = 0xFF then none else l.image.bound (u8 r 1) 1
      let gen := (mapGet s.gens slot 0 + 1) % 256
      let st := ((gram.bind (grammarById s)).map (·.start)).getD 0
      let f : FrontSeq :=
        { gen := gen, rid := q.rid, ctx := q.ctx, vocab := vid, grammar := gram, stops := stopStrings r, maxTokens := u32 r 4,
          bufOffset := u64 r 8, bufSize := u32 r 16, tag := BitVec.ofNat 64 (u64 r 24), stepN := 0, gstate := st, stack := [],
          charBuf := [], cand := [], total := 0, mask := [], fin := .open_ }
      let s := { s with gens := mapPut s.gens slot gen }
      let f := if maskPoison s v f then { f with fin := .poison } else f
      writeStep s v slot ⟨withMask s v f, [], 0, none⟩ q.src none true
    | _, _ => s

end Sys2Proof.Machine
end

