-- ==== Sys2Proof/Machine/AdmitOps.lean ====
section
/-! DEFINITION. Requests on their way to admission, the checks of R267, R307, R412 and R414, and what ADMIT sends for each kind of
request (R145, R166, R241, R242, R469, R572). -/

namespace Sys2Proof.Machine

/-! Sheets that ADMIT and the retrieval stations form. -/

/-- Bytes as elements of a stream's SRC_FMT, packed under R86 without scales of their own (so 0x7F, log entry 27), and converted to its FORMAT
(R166). The last sheet carries what remains, with VALID counting elements or rows. -/
def payloadSheets (x : Stream) (flags : BitVec 16) (tag : BitVec 32) (origin : BitVec 64) (b : Bytes) : List Sheet :=
  let w := elemBits x.srcFmt
  let src := leNat b
  let codes := (List.range (b.length * 8 / max 1 w)).map fun i => bitsAt src (w * i) w
  (pieces 1024 codes).map fun cs =>
    let rows : BlockRows := (pieces 32 cs).map fun r => (if hasScales x.srcFmt then 0x7F else 0, r)
    let out := convertBlocks x.srcFmt [] x.format (x.grid.getD []) rows
    mkSheet x.format x.shape (if x.shape = 0 then ceilDiv cs.length 32 else cs.length) flags tag origin x.grid (out.map (·.1))
      (pack x.format (out.flatMap (·.2)))

/-- Bytes sent on a local stream, as `payloadSheets` carries them. -/
def sendBytes (s : State) (c l : Nat) (flags : BitVec 16) (tag : BitVec 32) (origin : BitVec 64) (b : Bytes) : State :=
  match localStream s c l with
  | some n => match streamOf s n with
    | some x => emitAll s n (payloadSheets { x with srcFmt := x.format } flags tag origin b)
    | none => s
  | none => s

/-- Live bytes of a sheet. -/
def liveBytes (sh : Sheet) : Bytes :=
  let n := if sh.shape = 0 then 32 * sh.valid.toNat else sh.valid.toNat
  sh.data.take (n * elemBits sh.format.toNat / 8)

/-! Requests. -/

/-- A request as it is submitted. -/
def newReq (rid c : Nat) (kind : ReqKind) (src : Origin) (record payload : Bytes) (id : BitVec 64) : Req :=
  { rid := rid, ctx := c, kind := kind, src := src, record := record, payload := payload, objectId := id, admitted := false,
    batch := 0, origin := 0, firstOrigin := 0, snapshot := 0, cond := 0, recordIn := false, sketch := none, probed := 0,
    scanned := 0, localRecs := none, recs := none, recsIn := 0, queryWords := [], scores := [], sketchScores := [], textWords := [], late := [],
    groups := 0, accepted := 0, done := false, posts := [] }

/-- A request is offered (R412): it joins those that wait for admission while its context is RUNNING, STOPPING or REPLACING, and is
refused with FORMAT in every other state. -/
def offerReq (s : State) (c : Nat) (kind : ReqKind) (src : Origin) (record payload : Bytes) (id : BitVec 64) : State :=
  match (ctxOf s c).st with
  | .running | .stopping | .replacing =>
    { s with reqs := mapPut s.reqs s.nextRid (newReq s.nextRid c kind src record payload id), nextRid := s.nextRid + 1 }
  | _ => vendorCpl s src (condBit .format) 0 0

/-- Whether a state takes the commands that act on open sequences (R412). -/
def ctxTakesSteps (x : Ctx) : Bool := x.st == .running || x.st == .stopping || x.st == .replacing

/-! Admission checks. -/

/-- The fields of a query record that R265 fixes alone. -/
def queryFieldsOk (r : Bytes) : Bool :=
  let k := u16 r 24
  let mode := u8 r 30
  r.length == 512 && decide (1 ≤ u32 r 20) && decide (u32 r 20 ≤ 65536) && decide (1 ≤ k) && decide (k ≤ 16384) &&
  (if mode = 2 then decide (k ≤ u16 r 26) && decide (u16 r 26 ≤ 16384) else u16 r 26 == 0) &&
  decide (u16 r 28 ≤ min k 4096) && decide (mode ≤ 2) && decide (u8 r 31 ≤ 16) && (u8 r 31 == 0) == (mode == 0) &&
  decide (u32 r 32 ≤ 131072) && zeroAt r 37 3 && u64 r 40 % 64 == 0 && u32 r 48 % 64 == 0 && decide (65536 ≤ u32 r 48) &&
  decide (u32 r 48 ≤ 16777216) && zeroAt r 52 12 && decide (u32 r 80 ≤ 65536) && (u32 r 80 != 0 || u64 r 72 == 0) &&
  zeroAt r 84 44 && zeroAt r (128 + 24 * u8 r 31) (24 * (16 - u8 r 31))

/-- The predicates of a query record for an index of `c` columns (R273). -/
def predicatesOk (r : Bytes) (c : Nat) : Bool :=
  (List.range (u8 r 31)).all fun k =>
    let e := 128 + 24 * k
    decide (u8 r e < c) && decide (u8 r (e + 1) ≤ 6) && zeroAt r (e + 2) 6

/-- N_D and K_max (R266). -/
def demand (r : Bytes) : Nat := u16 r 24 + ceilDiv (u32 r 32) 4
def spaceMax (r : Bytes) : Nat := (u32 r 48 - 64) / 16

/-- The snapshot that a query applies (R260, R265). -/
def snapshotOf (x : Index) (r : Bytes) (origin : Nat) : Nat := if u64 r 8 = 0 then x.commitAt origin + 1 else u64 r 8

/-- The status with which a query is refused at admission, if it is (R17, R266, R267). An image has RERANK when PACK has a stream of its
scores (log entry 28). -/
def queryRefusal (s : State) (q : Req) : Option Status :=
  let r := q.record
  let im := ((ctxOf s q.ctx).loaded.map (·.image))
  if !windowOwned s q.ctx (u64 r 40) (u32 r 48) || !windowOwned s q.ctx (u64 r 72) (u32 r 80) then some .protection
  else
    match im.bind (·.probe), im.bind (·.pack), indexOf s (BitVec.ofNat 64 (u64 r 0)) with
    | some p, pk, some (_, x) =>
      let d := x.cur.desc
      let snap := snapshotOf x r s.time
      let rerank := (pk.map fun k => k.scoreStream != 0).getD false
      let templates := (pk.map fun k => k.templates.length).getD 0
      if !queryFieldsOk r || decide (x.commitAt s.time + 1 < snap) || !predicatesOk r d.columns || (u8 r 30 == 1 && d.apart) ||
          (u16 r 28 != 0 && !rerank) || (u32 r 32 != 0 && decide (templates ≤ u8 r 36)) || decide (p.kCap < u16 r 24) ||
          (u32 r 80 != 0 && p.textStream == 0) then some .format
      else if spaceMax r < demand r then some .resultSpace
      else if (u32 r 16 != 0 && u32 r 16 != d.version) || decide (snap < (x.verAt s.time).desc.baseEpoch) then some .staleVersion
      else none
    | _, _, _ => some .format

/-- The manifest of a delivery job (R322). -/
def manifestOk (t : TableDesc) : Bool :=
  t.storage == 0 && t.format == 0x01 && t.d == 32 && decide (1 ≤ t.shards)

/-- Whether a DELIVERY job record is taken (R323, R414). -/
def deliveryOk (s : State) (q : Req) : Bool :=
  let r := q.record
  let im := ((ctxOf s q.ctx).loaded.map (·.image))
  r.length == 64 && u8 r 0 == 0 && zeroAt r 1 7 && zeroAt r 12 4 && zeroAt r 24 40 && q.payload.isEmpty &&
  (im.map fun im => im.decode.isSome && im.deliver.isSome).getD false &&
  ((im.bind (·.shuffle)).map fun h => ((tableOf s h.manifest).map fun t => manifestOk t.2.cur.desc).getD false).getD false

/-- Whether a BATCH job is taken (R414). -/
def batchOk (s : State) (q : Req) : Bool :=
  let r := q.record
  match (localStream s q.ctx (u16 r 2)).bind (streamOf s) with
  | some x =>
    let n := q.payload.length
    let w := elemBits x.srcFmt
    r.length == 64 && u8 r 0 == 1 && zeroAt r 1 1 && zeroAt r 4 4 && zeroAt r 12 52 && x.prod == stnAdmit && u32 r 8 == n &&
    n * 8 % max 1 w == 0 && (x.shape != 0 || n * 8 / max 1 w % 32 == 0)
  | none => false

/-! Admission. -/

/-- Tables whose versions the batches of a context use (R218, R219): those that regions name, with their components, and
the manifest of a delivery job. -/
def usedTables (s : State) (q : Req) : List (BitVec 64) :=
  match (ctxOf s q.ctx).loaded with
  | none => []
  | some l =>
    let rs := (l.image.regions.filter fun r => r.source == 2).map (·.object)
    ((if q.kind = .delivery then rs ++ (l.image.shuffle.map (·.manifest)).toList else rs).flatMap (tableAndParts s)).dedup

/-- The request begins or ends its use of table and index versions (R219, R257); `up` says which. -/
def useVersions (s : State) (q : Req) (up : Bool) : State :=
  let step (n : Nat) : Nat := if up then n + 1 else n - 1
  let s := if q.kind = .query ∨ q.kind = .batch ∨ q.kind = .delivery then
      (usedTables s q).foldl (fun s id => match tableOf s id with
        | some (k, t) =>
          let n := (t.verAt q.firstOrigin).desc.version
          freeDrainedTable (updTable s k fun t => t.updVersion n fun v => { v with batches := step v.batches }) k
        | none => s) s
    else s
  if q.kind = .query then
    match indexOf s (BitVec.ofNat 64 (u64 q.record 0)) with
    | some (k, x) =>
      let n := (x.verAt q.firstOrigin).desc.version
      freeDrainedIndex (updIndex s k fun x => x.updVersion n fun v => { v with batches := step v.batches }) k
    | none => s
  else s

/-- What ADMIT sends for an admitted query: its record and its text (R572). -/
def sendQuery (s : State) (q : Req) : State :=
  match (ctxOf s q.ctx).loaded.bind fun l => l.image.probe with
  | none => s
  | some p =>
    let tag := tagOf q.ctx q.batch
    let origin := BitVec.ofNat 64 q.origin
    let s := sendBytes s q.ctx p.recordStream 0 tag origin q.record
    if p.textStream = 0 then s
    else sendBytes s q.ctx p.textStream 0 tag origin (leBytes 8 q.payload.length ++ q.payload)

/-- What ADMIT sends for an admitted BATCH job (R414), with the number of sheets. -/
def batchSheets (s : State) (q : Req) : List Sheet :=
  match (localStream s q.ctx (u16 q.record 2)).bind (streamOf s) with
  | some x => payloadSheets x 0 (tagOf q.ctx q.batch) (BitVec.ofNat 64 q.origin) q.payload
  | none => []

/-- The delivery job of an admitted request (R323): the manifest version that is CURRENT at its ORIGIN. -/
def startDelivery (s : State) (q : Req) : State :=
  match ((ctxOf s q.ctx).loaded.bind fun l => l.image.shuffle).bind fun h => (tableOf s h.manifest).map fun t => (h, t.2) with
  | none => s
  | some (h, t) =>
    let v := t.verAt q.firstOrigin
    let d : Delivery :=
      { rid := q.rid, epoch := u32 q.record 8, seed := BitVec.ofNat 64 (u64 q.record 16), manifest := h.manifest,
        version := v.desc.version, rows := v.desc.rows, shards := v.desc.shards, nextQ := [], open_ := [], repeats := [], again := [],
        ended := 0, stopped := false, poison := false }
    updCtx s q.ctx fun x => { x with delivery := some d, dec := { x.dec with epoch := d.epoch, ended := 0 } }

/-- The work of an admitted request begins, at its first admission or at a replay. -/
def beginReq (s : State) (q : Req) : State :=
  match q.kind with
  | .query => sendQuery s q
  | .batch =>
    match localStream s q.ctx (u16 q.record 2) with
    | some n =>
      let shs := batchSheets s q
      let s := emitAll s n shs
      if shs.isEmpty then updReq s q.rid fun q => { q with done := true, posts := [⟨q.src, 0, 0, 0, true⟩] } else s
    | none => s
  | .delivery => startDelivery s q
  | .commit => startCommit s q.rid q.objectId q.payload
  | .front => openFront s q

/-- A request is admitted (R145, R218, R241, R488, R572): the text of a query is copied from the window, its batch is formed, the versions
it uses are counted, and its work begins. -/
def admitReq (s : State) (q : Req) : State :=
  let forms := q.kind == .query || q.kind == .batch
  let (b, s) := if forms then formBatch s q.ctx else (0, s)
  let text := if q.kind = .query then
      (List.range (u32 q.record 80)).map fun i => ((windowAddr s (u64 q.record 72 + i)).map (cellRead s.mem)).getD 0
    else q.payload
  let snap := if q.kind = .query then
      ((indexOf s (BitVec.ofNat 64 (u64 q.record 0))).map fun p => snapshotOf p.2 q.record s.time).getD 0
    else 0
  let q := { q with admitted := true, batch := b, origin := s.time, firstOrigin := s.time, payload := text, snapshot := snap,
                    objectId := if q.kind = .query then BitVec.ofNat 64 (u64 q.record 0) else q.objectId }
  let s := { s with reqs := mapPut s.reqs q.rid q
                    easel.admittedAll := s.easel.admittedAll + 1 }
  let s := updCtx s q.ctx fun x => { x with admitted := satAdd (ones 32) x.admitted 1 }
  beginReq (useVersions s q true) q

/-- A request refused at admission leaves with its status (R16, R412). -/
def refuseReq (s : State) (q : Req) (st : Status) : State := vendorCpl (dropReq s q.rid) q.src (condBit st) 0 0

/-- Refusals of a query are counted (R284). -/
def countRefused (s : State) (q : Req) (st : Status) : State :=
  match indexOf s (BitVec.ofNat 64 (u64 q.record 0)) with
  | some (k, _) => match st with
    | .resultSpace => updIndex s k fun x => { x with space := satAdd 0xFFFF x.space 1 }
    | .staleVersion => updIndex s k fun x => { x with stale := satAdd 0xFFFF x.stale 1 }
    | _ => s
  | none => s

/-- A ring's front entry is taken: HEAD rises (R406). -/
def takeEntry (s : State) (r : Nat) : State :=
  { s with host.rings := mapUpd s.host.rings r fun x => { x with head := x.head + 1, entries := x.entries.drop 1 } }

/-- The checks of a request that the arbiter has granted, and its admission or refusal (R16, R17); one from a ring leaves the ring now
(R242). -/
def grantReq (s : State) (q : Req) : State :=
  let s := match q.src.ring with | some r => takeEntry s r | none => s
  match q.kind with
  | .query => match queryRefusal s q with
    | some st => refuseReq (countRefused s q st) q st
    | none => admitReq s q
  | .front => match openRefusal s q with
    | some st => refuseReq s q st
    | none => admitReq s q
  | .delivery => if deliveryOk s q then admitReq s q else refuseReq s q .format
  | .batch => if batchOk s q then admitReq s q else refuseReq s q .format
  | .commit => match commitRefusal s q.objectId (u32 q.record 0) q.payload with
    | some s => refuseReq s q .format
    | none => admitReq s q

/-- Whether a request may be granted now: its context is RUNNING below SEQ_LIMIT (R242), a commit's index takes one (R264), and no other
delivery job runs for the context (R414). -/
def grantable (s : State) (q : Req) : Bool :=
  let x := ctxOf s q.ctx
  !q.admitted && x.st == .running && decide (inFlight s q.ctx < x.seqLimit) &&
  (match q.kind with
   | .commit => commitReady s q.objectId
   | .delivery => x.delivery.isNone
   | .front => decide (s.fronts.length < 256)
   | _ => true)

/-- The first request of a context that may be granted, in order of arrival. -/
def nextGrant (s : State) (c : Nat) : Option Req :=
  (s.reqs.find? fun p => p.2.ctx == c && grantable s p.2).map (·.2)

end Sys2Proof.Machine
end

