-- ==== Sys2Proof/Machine/Admit.lean ====
section
/-! DEFINITION. The vendor I/O commands, query rings, and the admission arbiter (R242, R401, R405 to R407, R411, R412, R414). -/

namespace Sys2Proof.Machine

/-! Submission. -/

def queueOrigin (sq cid : Nat) : Origin := ⟨none, sq, cid⟩

/-- Whether the link carries CXL.cache and CXL.mem (R401). -/
def linkUsable (s : State) : Bool := decide (32 ≤ s.host.rate) && decide (4 ≤ s.host.width) && !s.host.perst

/-- The front entry of a ring, when the module may take it (R406, R407, R412): the context is RUNNING below SEQ_LIMIT, the ring is not being
deleted, and no earlier entry of the ring waits for admission. -/
def frontEntry (s : State) (r : Nat) : Option (Ring × Bytes) :=
  (mapFind s.host.rings r).bind fun x =>
    let waits := s.reqs.any fun p => p.2.src.ring == some r && !p.2.admitted
    if (ctxOf s x.ctx).st == .running && x.deleting.isNone && !waits then x.entries.head?.map (x, ·) else none

/-- The reserved and unused bytes of an entry (R405). -/
def ringEntryOk (e : Bytes) : Bool :=
  e.length == 576 && zeroAt e 3 1 && zeroAt e 6 2 && zeroAt e 12 52 &&
  (if u8 e 2 = 0 then zeroAt e 4 2 && zeroAt e 8 4 else zeroAt e 64 512)

/-- A ring's front entry is acted on: a QUERY is offered and stays in the ring until it is granted (R242), a STEP is taken and carried out, any
other KIND is taken and refused (R405, R406). -/
def takeRing (s : State) (r : Nat) (step : Bool) : State :=
  match frontEntry s r with
  | none => s
  | some (x, e) =>
    let src : Origin := ⟨some r, 0, u16 e 0⟩
    let kind := u8 e 2
    if kind ≤ 1 ∧ (kind == 1) ≠ step then s
    else if kind = 0 ∧ (ctxOf s x.ctx).seqLimit ≤ inFlight s x.ctx then s
    else
      if 2 ≤ kind ∨ !ringEntryOk e then vendorCpl (takeEntry s r) src (condBit .format) 0 0
      else if kind = 0 then offerReq s x.ctx .query src (slice e 64 512) [] 0
      else submitStep (takeEntry s r) src x.ctx (u16 e 4) (u32 e 8)

/-- QUERY (R265, R405, R412). -/
def execQuery (src : ReqSrc) (ctx : Nat) (record : Bytes) (s : State) : Host.Outcome State Fault Refusal :=
  onUnit (decide (ctx < 16)) <|
    match src with
    | .queue sq cid => ioCmd s sq cid fun s => offerReq s ctx .query (queueOrigin sq cid) record [] 0
    | .ring r => takeRing s r false

/-- FRONT_OPEN (R306, R307, R412). -/
def execFrontOpen (sq cid ctx : Nat) (record : Bytes) (s : State) : Host.Outcome State Fault Refusal :=
  onUnit (decide (ctx < 16)) <| ioCmd s sq cid fun s => offerReq s ctx .front (queueOrigin sq cid) record [] 0

/-- FRONT_STEP (R309, R412). -/
def execFrontStep (src : ReqSrc) (ctx handle token : Nat) (s : State) : Host.Outcome State Fault Refusal :=
  onUnit (decide (ctx < 16)) <|
    match src with
    | .queue sq cid => ioCmd s sq cid fun s =>
      if ctxTakesSteps (ctxOf s ctx) then submitStep s (queueOrigin sq cid) ctx handle token
      else vendorCpl s (queueOrigin sq cid) (condBit .format) 0 0
    | .ring r => takeRing s r true

/-- FRONT_CLOSE (R315, R412). -/
def execFrontClose (sq cid ctx handle : Nat) (s : State) : Host.Outcome State Fault Refusal :=
  onUnit (decide (ctx < 16)) <| ioCmd s sq cid fun s =>
    if ctxTakesSteps (ctxOf s ctx) then submitClose s (queueOrigin sq cid) ctx handle
    else vendorCpl s (queueOrigin sq cid) (condBit .format) 0 0

/-- DELIVERY_JOB (R323, R414). -/
def execDeliveryJob (sq cid ctx : Nat) (record : Bytes) (s : State) : Host.Outcome State Fault Refusal :=
  onUnit (decide (ctx < 16)) <| ioCmd s sq cid fun s =>
    offerReq s ctx .delivery (queueOrigin sq cid) (record.take 64) (record.drop 64) 0

/-- BATCH_JOB (R414). -/
def execBatchJob (sq cid ctx : Nat) (record : Bytes) (s : State) : Host.Outcome State Fault Refusal :=
  onUnit (decide (ctx < 16)) <| ioCmd s sq cid fun s =>
    offerReq s ctx .batch (queueOrigin sq cid) (record.take 64) (record.drop 64) 0

/-- INDEX_COMMIT (R259, R412): the operation count travels with the request. -/
def execIndexCommit (sq cid ctx ops : Nat) (id : BitVec 64) (data : Bytes) (s : State) : Host.Outcome State Fault Refusal :=
  onUnit (decide (ctx < 16)) <| ioCmd s sq cid fun s => offerReq s ctx .commit (queueOrigin sq cid) (leBytes 4 ops) data id

/-! Admission. -/

/-- ADMISSION_GRANT (R142, R241, R242, R422, R452): among the contexts that hold a request ready for admission, the first at or after
the rotating pointer is granted one. Once viral is raised, nothing more is admitted. -/
def execAdmissionGrant (s : State) : Host.Outcome State Fault Refusal :=
  .next <|
    if s.host.viral || s.integ.phase == .contained then s
    else
      let ports := (List.range 16).map fun i => (s.admitPtr + i) % 16
      match ports.findSome? (nextGrant s) with
      | none => s
      | some q => grantReq { s with admitPtr := (q.ctx + 1) % 16 } q

/-! Rings. -/

/-- RING_CREATE (R401, R405, R407, R411). -/
def execRingCreate (cid address ring slots cq ctx : Nat) (s : State) : Host.Outcome State Fault Refusal :=
  .next <| adminCmd s cid false fun s =>
    if !linkUsable s || (ctxOf s ctx).st == .empty || decide (16 ≤ ctx) || decide (64 ≤ ring) || address % 64 != 0 ||
        (mapFind s.host.rings ring).isSome || slots == 0 || decide (65536 < slots) || cq == 0 || (mapFind s.host.cqs cq).isNone then
      adminRefuse s cid .format
    else
      adminDone { s with host.rings := mapPut s.host.rings ring ⟨address, slots, cq, ctx, 0, 0, [], none⟩ } cid

/-- RING_DELETE (R411, R422): from its acceptance the ring gives no further entry. -/
def execRingDelete (cid ring : Nat) (s : State) : Host.Outcome State Fault Refusal :=
  .next <| adminCmd s cid false fun s =>
    match mapFind s.host.rings ring with
    | some x =>
      if x.deleting.isSome then adminRefuse s cid .format
      else
        { s with
          host.rings := mapPut s.host.rings ring { x with deleting := some cid, entries := [] }
          reqs := s.reqs.filter fun p => !(p.2.src.ring == some ring && !p.2.admitted) }
    | none => adminRefuse s cid .format

/-- RING_DELETE_DONE (R411): every entry that was admitted has completed; the ring goes and the command completes. -/
def execRingDeleteDone (ring : Nat) (s : State) : Host.Outcome State Fault Refusal :=
  .next <|
    match mapFind s.host.rings ring with
    | some x =>
      match x.deleting with
      | some cid =>
        if s.reqs.any fun p => p.2.src.ring == some ring || p.2.posts.any fun o => o.src.ring == some ring then s
        else adminDone { s with host.rings := mapDrop s.host.rings ring } cid
      | none => s
    | none => s

/-- A USAGE record of a ring: a host access at the CXL port (R406, R461). -/
def usageRing (s : State) (c : Nat) : State := recordErr s { cls := .usage, unitKind := 9, op := 11, ctx := c }

/-- RING_TAIL_SNOOP (R401, R406): the module rereads TAIL and finds the entries below it. A TAIL below HEAD is ignored, one above HEAD +
SLOTS is an overrun; both are recorded. -/
def execRingTailSnoop (ring tail : Nat) (entries : List Bytes) (s : State) : Host.Outcome State Fault Refusal :=
  .next <|
    match mapFind s.host.rings ring with
    | none => s
    | some x =>
      if !linkUsable s || x.deleting.isSome then s
      else if tail < x.head then usageRing s x.ctx
      else
        let top := min tail (x.head + x.slots)
        let known := x.head + x.entries.length
        let y := { x with tail := tail, entries := x.entries ++ entries.take (top - known) }
        let s := { s with host.rings := mapPut s.host.rings ring y }
        if x.head + x.slots < tail then usageRing s x.ctx else s

end Sys2Proof.Machine
end

