-- ==== Sys2Proof/Machine/Hatch.lean ====
section
/-! DEFINITION. Hatch ports and routes (R425 to R432), and sheets that leave for another member. -/

namespace Sys2Proof.Machine

def Port.idle : Port := ⟨.off, 0, 0, 0, [], 0, 0, 0, 0, 0, 0⟩

def portOf (s : State) (p : Nat) : Port := mapGet s.folio.ports p .idle

def setPort (s : State) (p : Nat) (x : Port) : State := { s with folio.ports := mapPut s.folio.ports p x }

def updPort (s : State) (p : Nat) (f : Port → Port) : State := setPort s p (f (portOf s p))

/-- Codes of the roles of R439: 1 x+, 2 x−, 3 y+, 4 y−, 5 z+, 6 z−, 7 spare to m + 1, 8 spare from m − 1 (R425). -/
def portRole (topology p : Nat) : Nat :=
  match topology with
  | 1 => if p % 2 = 0 then 1 else 2
  | 2 => [1, 2, 3, 4, 1, 2, 3, 4].getD p 0
  | 3 => [1, 2, 3, 4, 5, 6, 7, 8].getD p 0
  | _ => 0

/-! Coordinates (R423). -/

def dimSize (s : State) (i : Nat) : Nat := match i with | 0 => s.folio.dimX | 1 => s.folio.dimY | _ => s.folio.dimZ

def coord (s : State) (m i : Nat) : Nat :=
  match i with
  | 0 => m % max 1 s.folio.dimX
  | 1 => m / max 1 s.folio.dimX % max 1 s.folio.dimY
  | _ => m / max 1 (s.folio.dimX * s.folio.dimY)

def memberAt (s : State) (x y z : Nat) : Nat := x + s.folio.dimX * (y + s.folio.dimY * z)

/-- The neighbour of member `m` in the direction of a role (R425). -/
def neighbour (s : State) (m role : Nat) : Nat :=
  let n := max 1 (folioSize s)
  let step (i : Nat) : Nat :=
    let d := max 1 (dimSize s i)
    (coord s m i + if role % 2 = 1 then 1 else d - 1) % d
  match role with
  | 1 | 2 => memberAt s (step 0) (coord s m 1) (coord s m 2)
  | 3 | 4 => memberAt s (coord s m 0) (step 1) (coord s m 2)
  | 5 | 6 => memberAt s (coord s m 0) (coord s m 1) (step 2)
  | 7 => (m + 1) % n
  | 8 => (m + n - 1) % n
  | _ => m

/-- The role of the first hop from member `m` to member `t`: dimension order, shortest way, + at a tie (R427). -/
def firstHop (s : State) (m t : Nat) : Option Nat :=
  (List.range 3).findSome? fun i =>
    let d := max 1 (dimSize s i)
    let k := (coord s t i + d - coord s m i) % d
    if k = 0 then none else some (2 * i + if 2 * k ≤ d then 1 else 2)

/-! Ports of a hop. -/

/-- Ports of a role that carry traffic. -/
def upPorts (s : State) (role : Nat) : List Nat :=
  (List.range 8).filter fun p => portRole s.folio.topology p == role && (portOf s p).st == .up

/-- The port of a stream in a trunk (R427). -/
def trunkPort (s : State) (role n : Nat) : Option Nat :=
  let ps := upPorts s role
  ps[n % max 1 ps.length]?

/-- A spare link that joins the same two members as a hop (R430). -/
def sparePort (s : State) (role : Nat) : Option Nat :=
  if s.folio.topology ≠ 3 then none
  else [6, 7].find? fun p =>
    neighbour s s.folio.number (portRole 3 p) == neighbour s s.folio.number role &&
    ((portOf s p).st == .spare || (portOf s p).st == .detour)

/-- The direction of a sidestep: + in the next dimension (R430). -/
def sidestep (s : State) (role : Nat) : Nat :=
  let dims := if s.folio.topology = 2 then 2 else 3
  2 * (((role - 1) / 2 + 1) % dims) + 1

/-- The detour of a hop with no port that is up (R430). -/
def detourPort (s : State) (role n : Nat) : Option Nat :=
  match s.folio.topology with
  | 1 => trunkPort s (if role = 1 then 2 else 1) n
  | _ => (sparePort s role).or (trunkPort s (sidestep s role) n)

/-- The port by which stream `n` leaves for member `t`: while sheets of it wait for their acknowledgement on a port, that port (R432);
else its trunk's, else the detour. -/
def routePort (s : State) (n t : Nat) : Option Nat :=
  let live (p : Nat) : Bool := (portOf s p).st == .up || (portOf s p).st == .detour
  match (List.range 8).find? fun p => live p && (portOf s p).replay.any fun x => x.1 == n with
  | some p => some p
  | none => (firstHop s s.folio.number t).bind fun r => (trunkPort s r n).or (detourPort s r n)

/-- A sheet enters a port's replay buffer and is sent; a spare link that carries it is a detour (R426, R429). -/
def sendPort (s : State) (p n : Nat) (sh : Sheet) : State :=
  updPort s p fun x => { x with
    replay := x.replay ++ [(n, sh)]
    since := if x.replay.isEmpty then s.time else x.since
    sent := satAdd (ones 64) x.sent 1
    st := if x.st = .spare then .detour else x.st }

/-- Whether sheets of stream `n` still wait in the buffer of a port that is down: what follows them keeps its order (R430). -/
def heldBack (s : State) (n : Nat) : Bool :=
  s.folio.ports.any fun p => !(p.2.st == .up || p.2.st == .detour) && p.2.replay.any fun x => x.1 == n

/-- The port by which the oldest sheet that waits at HATCH on stream `n` may leave now. -/
def leavesBy (s : State) (n : Nat) : Option Nat :=
  match (streamOf s n).bind fun x => x.arrived.head?.bind fun _ => routePort s n x.hatchModule with
  | some p => if 256 ≤ (portOf s p).replay.length || heldBack s n then none else some p
  | none => none

/-- A stream's sheet goes out on the port that granted it (R144); it is checked, and one that fails carries POISON (R125, R429). -/
def sendHatch (s : State) (n : Nat) : State :=
  match streamOf s n, leavesBy s n with
  | some x, some p =>
    match nextArrived s x with
    | some sh =>
      let (bad, s) := exitCheck s stnHatch x.ctx n sh
      let out := if bad then reflag sh (sh.flags ||| flagPoison) else sh
      sendPort (setStream s n { x with arrived := x.arrived.drop 1 }) p n out
    | none => s
  | _, _ => s

/-- The far module has accepted the oldest sheet of a stream: it leaves the replay buffer, and its credit is on its way (R131). -/
def ackHatch (s : State) (n : Nat) : State :=
  match (List.range 8).find? fun p => (portOf s p).replay.any fun x => x.1 == n with
  | some p =>
    let drop (x : Port) : Port := { x with replay := x.replay.eraseP fun y => y.1 == n, since := s.time }
    updStream (updPort s p drop) n fun x => { x with present := x.present - 1, returning := x.returning + 1 }
  | none => s

end Sys2Proof.Machine
end

