-- ==== Sys2Proof/Machine/Registers.lean ====
section
/-! DEFINITION. What the BAR2 registers read as (R9 to R14), block by block, and the snapshots of the selector registers
(R147). -/

namespace Sys2Proof.Machine

def sat (n v : Nat) : Nat := min (ones n) v

/-! Snapshots (R147): the values of the latched registers in the order of their offsets. -/

/-- GLB_SMON_EP to GLB_SMON_ZERO of a stream (R148). -/
def snapStream (s : State) (n : Nat) : List (BitVec 64) :=
  match streamOf s n with
  | none => []
  | some x => [
    regOf [(63, 1, 1), (48, 8, x.format), (40, 8, x.prod), (30, 10, x.prodTile.getD 0x3FF), (20, 8, x.cons),
      (10, 10, x.consTile.getD 0x3FF), (0, 4, x.ctx)],
    regOf [(32, 16, x.slots), (16, 16, x.credits), (0, 16, x.present)],
    regOf [(32, 32, x.nextSend.toNat), (0, 32, x.nextAccept.toNat)],
    regOf [(0, 64, sat 64 x.accepted)],
    regOf [(32, 32, sat 32 x.resends), (0, 32, sat 32 x.substitutes)],
    regOf [(0, 64, sat 64 x.zeroNs)]]

def isHardStation (n : Nat) : Bool := decide (0xE0 ≤ n) && decide (n ≤ 0xE7)
def isEndpoint (n : Nat) : Bool := decide (0xF0 ≤ n) && decide (n ≤ 0xF2)

/-- ESCALATIONS and PRIORITY of a station in a context's image, by the image's own station number `own` (R149). -/
def stationPrio (s : State) (c own n : Nat) : BitVec 64 :=
  match (ctxOf s c).loaded with
  | none => 0
  | some l =>
    match l.image.stations.find? fun e => e.number == own with
    | some e => regOf [(32, 32, mapGet l.escalations n 0), (0, 3, e.priority)]
    | none => 0

/-- GLB_HMON_BUSY to GLB_HMON_PRIO of a station (R149): a hard station or endpoint, the soft station of a context, or nothing. -/
def snapStation (s : State) (c n : Nat) : List (BitVec 64) :=
  if isHardStation n ∨ isEndpoint n then
    let h := mapGet s.hard n ⟨0, 0, 0⟩
    [regOf [(0, 64, sat 64 h.busyNs)], regOf [(0, 64, sat 64 h.starveNs)], regOf [(0, 64, sat 64 h.blockNs)], stationPrio s c n n]
  else
    match s.ctxs.findSome? fun p => p.2.loaded.bind fun l => (l.stationMap.idxOf? n).map fun own => (p.1, own) with
    | some (d, own) => [0, 0, 0, stationPrio s d own n]
    | none => []

/-- Staging pages of a tier with no copy, or with a copy that may be evicted (R185, R203). -/
def stagingOpen (s : State) (c t : Nat) : Nat :=
  stagingFree s c t + (s.copies.filter fun x => x.ctx == c && x.tier == t && x.valid && !pinned s x).length

/-- TIER_MON_MOVES to TIER_MON_POOL of a context (R203). -/
def snapTier (s : State) (c : Nat) : List (BitVec 64) :=
  let x := ctxOf s c
  let pool := if x.st = .empty then 0 else regOf [(38, 19, stagingOpen s c 1), (20, 18, stagingOpen s c 0)]
  if x.loaded.isNone then [0, 0, 0, pool]
  else [regOf [(32, 32, x.tier.issued), (0, 32, x.tier.hits)], regOf [(32, 32, x.tier.late), (0, 32, x.tier.dropped)],
    regOf [(32, 32, x.tier.draftReads), (0, 32, x.tier.waits)], pool]

/-- TBL_ID to TBL_MON_WAIT of a table slot (R233). -/
def snapTable (s : State) (k : Nat) : List (BitVec 64) :=
  match mapFind s.tables k with
  | none => []
  | some t =>
    let d := t.cur.desc
    let pend := ((t.pend.map fun v => v.desc.version)).getD 0
    let drain := ((t.drain.map fun v => v.desc.version)).getD 0
    [t.id,
     regOf [(63, 1, 1), (62, 1, b2n t.hotFull), (60, 2, d.storage), (59, 1, b2n d.writable), (58, 1, b2n d.put),
       (57, 1, b2n d.idx64), (50, 7, d.shards), (42, 8, d.format), (40, 2, if d.storage = 2 then 3 else d.home), (24, 16, d.d),
       (0, 10, d.stride / 64)],
     regOf [(32, 32, d.version), (0, 32, pend)],
     regOf [(32, 32, drain), (0, 32, ((t.drain.map fun v => versionBatches s t v)).getD 0)],
     regOf [(32, 32, t.stepN), (0, 32, versionBatches s t t.cur)],
     regOf [(32, 32, t.cur.hotSlots), (0, 32, t.cur.hot.length)],
     regOf [(32, 32, sat 32 t.updates), (0, 32, sat 32 t.reduced)],
     regOf [(40, 24, sat 24 t.logWaits), (17, 23, sat 23 t.hotWaits), (0, 17, s.migLog.length)]]

/-- GLB_CTX_STATE to GLB_CTX_SEQ of a context (R250). -/
def snapCtx (s : State) (c : Nat) : List (BitVec 64) :=
  let x := ctxOf s c
  let code := match x.st with
    | .empty => 0 | .configured => 1 | .loaded => 2 | .running => 3 | .stopping => 4 | .replacing => 5
  let first := regOf [(3, 6, if code < 2 then 0 else x.mcEntry), (0, 3, code)]
  if x.st = .empty then [first]
  else [first,
    regOf [(36, 1, b2n x.overcommit), (28, 8, x.halves), (18, 10, x.tileLimit), (0, 10, (placedTiles s c).length)],
    regOf [(37, 21, x.slowPages), (18, 19, x.midPages), (0, 18, x.fastPages)],
    regOf [(32, 32, sat 32 x.admitted), (9, 9, x.seqLimit), (0, 9, inFlight s c)]]

/-- GLB_MC_ID and GLB_MC_USE of a model-cache entry (R250). -/
def snapCache (s : State) (k : Nat) : List (BitVec 64) :=
  match mapFind s.cache k with
  | none => []
  | some e =>
    let uses (c : Nat) : Bool :=
      let x := ctxOf s c
      (x.load.map fun l => l.imageId == e.imageId).getD false || (x.loaded.isSome && x.mcEntry == k)
    let users := ((List.range 16).map fun c => if uses c then 2 ^ c else 0).sum
    [e.imageId,
     regOf [(23, 13, ceilDiv e.bytes.length (2 ^ 20)), (7, 16, users), (2, 1, b2n e.validated), (1, 1, b2n e.pinned), (0, 1, 1)]]

/-- RTV_IDX_ID to RTV_MON_RERANK of an index slot (R284). -/
def snapIndex (s : State) (k : Nat) : List (BitVec 64) :=
  match mapFind s.indexes k with
  | none => []
  | some x =>
    let d := x.cur.desc
    [x.id,
     regOf [(63, 1, 1), (62, 1, b2n x.marginFull), (61, 1, b2n x.copying.isSome), (58, 3, d.home), (57, 1, b2n d.apart),
       (52, 5, d.columns), (45, 7, d.shards), (34, 11, d.sketchBits), (17, 17, d.lists)],
     regOf [(32, 32, d.version), (0, 32, ((x.pend.map fun v => v.desc.version)).getD 0)],
     regOf [(0, 64, x.eCommit)],
     regOf [(27, 27, d.marginCap), (0, 27, x.cur.margin.length)],
     regOf [(32, 32, sat 32 x.passes), (0, 32, sat 32 x.queries)],
     regOf [(32, 32, sat 32 x.short), (16, 16, sat 16 x.space), (0, 16, sat 16 x.stale)],
     regOf [(32, 32, sat 32 x.reranked), (0, 32, sat 32 x.drafted)]]

/-- Contexts whose image binds a vocabulary (R318). -/
def binders (s : State) (id : BitVec 64) : Nat :=
  (s.ctxs.filter fun p => (p.2.loaded.map fun l => l.image.bindings.any fun b => b.kind == 0 && b.object == id).getD false).length

/-- LTR_VOC_ID and LTR_VOC_SHAPE of a vocabulary slot (R318). -/
def snapVocab (s : State) (k : Nat) : List (BitVec 64) :=
  match mapFind s.vocabs k with
  | none => []
  | some v => [v.id, regOf [(63, 1, 1), (58, 5, binders s v.id), (50, 8, v.maxBytes), (25, 25, v.nodes.length), (0, 19, v.tokens)]]

/-- LTR_MON_BYTES to LTR_MON_STALL of a context (R318). -/
def snapLetter (s : State) (c : Nat) : List (BitVec 64) :=
  let x := ctxOf s c
  let m := x.ltr
  if x.loaded.isNone then []
  else [regOf [(0, 64, sat 64 m.bytesIn)], regOf [(0, 64, sat 64 m.tokensOut)],
    regOf [(32, 32, sat 32 m.replaced), (16, 16, sat 16 m.streamSafe), (8, 8, sat 8 m.cut), (0, 8, sat 8 m.trunc)],
    regOf [(32, 32, sat 32 m.steps), (16, 16, sat 16 m.stops), (0, 16, sat 16 m.refused)], regOf [(0, 64, sat 64 m.missNs)]]

/-- DEC_MON_PIX to DEC_MON_DLV of a context (R339). -/
def snapDecode (s : State) (c : Nat) : List (BitVec 64) :=
  let x := ctxOf s c
  let m := x.dec
  if x.loaded.isNone then []
  else [regOf [(0, 64, sat 64 m.pixels)], regOf [(32, 32, sat 32 m.kept), (0, 32, sat 32 m.dropped)],
    regOf [(32, 32, sat 32 m.pictErr), (16, 16, sat 16 m.skipped), (0, 16, sat 16 m.resync)],
    regOf [(32, 32, m.epoch), (0, 32, sat 32 m.ended)], regOf [(0, 64, sat 64 m.fullNs)]]

/-- HLK_MON_TX to HLK_MON_ERR of a hatch port (R439). -/
def snapPort (s : State) (p : Nat) : List (BitVec 64) :=
  let x := portOf s p
  [regOf [(0, 64, sat 64 x.sent)], regOf [(0, 64, sat 64 x.received)],
   regOf [(32, 32, sat 32 x.replays), (16, 16, sat 16 x.failures), (0, 16, sat 16 x.duplicates)]]

/-- INT_CE_STAT, INT_CE_LOG_ADDR and INT_CE_LOG_INFO of a source and log entry (R467). -/
def snapCe (s : State) (src e : Nat) : List (BitVec 64) :=
  let x := ceOf s src
  let stat := regOf [(32, 32, sat 32 x.count), (16, 16, sat 16 (if s.integ.ceLog then x.missed else x.level)), (8, 8, sat 8 x.overflows),
    (0, 7, x.table.length)]
  match x.table[e]? with
  | some (a, ms, n) => [stat, regOf [(63, 1, 1), (0, 42, a)], regOf [(32, 32, ms), (0, 32, sat 32 n)]]
  | none => [stat, 0, 0]

def dieCal (s : State) (unit : Nat) (slc : Bool) : DieCal := mapGet s.cal.dies (2 * unit + b2n slc) .fresh

/-- CAL_MON_TILE and CAL_MON_DIE of a tile or die (R501). The counts of a bulk die are those of both its modes; its EW rate is
the higher. -/
def snapCal (s : State) (die : Bool) (unit : Nat) : List (BitVec 64) :=
  if die then
    let q := dieCal s unit false
    let c := dieCal s unit true
    if 1024 + Config.fastDies ≤ unit then []
    else [0, regOf [(48, 8, if 1024 ≤ unit then 0 else twos 8 q.shift), (40, 8, twos 8 c.shift), (20, 20, sat 20 (max q.ewPpm c.ewPpm)),
      (4, 16, sat 16 (q.sweeps + c.sweeps)), (3, 1, b2n (q.held || c.held))]]
  else if Config.tiles ≤ unit then []
  else
    let x := (tileOf s unit).cal
    [regOf [(40, 24, sat 24 x.stepsUp), (16, 24, sat 24 x.stepsDown), (15, 1, b2n x.exhausted), (14, 1, b2n x.held)], 0]

/-- The two words of a calibration log entry (R501, R502). -/
def calEntryWords (e : CalEntry) : List (BitVec 64) :=
  [regOf [(0, 64, e.stamp)],
   regOf [(56, 8, e.kind), (45, 11, e.unit), (32, 8, e.cause), (24, 8, twos 8 e.oldA), (16, 8, twos 8 e.newA), (8, 8, e.oldB),
     (0, 8, e.newB)]]

/-- CAL_LOG_LO and CAL_LOG_HI of a calibration log entry, 0 the newest (R501, R502). -/
def snapCalLog (s : State) (i : Nat) : List (BitVec 64) := (s.cal.log[i]?.map calEntryWords).getD []

/-- PWR_TEMP of a sensor (R520). -/
def snapTemp (s : State) (n : Nat) : List (BitVec 64) :=
  if 24 ≤ n then []
  else
    let x := sensorOf s n
    [regOf [(32, 16, twos 16 x.reading), (16, 16, twos 16 x.maximum), (0, 16, sat 16 x.overMs)]]

/-! Registers that show the state as it stands. -/

/-- GLB_IDENT (R23). -/
def regIdent : BitVec 64 := regOf [(16, 16, 0x4E09), (8, 8, Config.stepMajor.toNat), (0, 8, Config.stepMinor.toNat)]

/-- GLB_SHAPE (R24). -/
def regShape (s : State) : BitVec 64 :=
  regOf [(40, 8, 4), (30, 10, Config.tiles), (20, 10, countRole s .service), (10, 10, countRole s .spare), (0, 10, countRole s .retired)]

/-- GLB_RCV_STAT and GLB_RCV_MIRROR (R486). -/
def regRecovery (s : State) (i : Nat) : BitVec 64 :=
  let r := s.recov
  if i = 0 then
    regOf [(32, 16, sat 16 r.restencils), (24, 8, sat 8 r.takeovers), (16, 8, sat 8 r.remirrors), (8, 8, sat 8 r.unabsorbed),
      (1, 3, r.kind), (0, 1, b2n r.active)]
  else regOf [(52, 6, r.mirrorMember), (51, 1, b2n r.mirrorActive), (0, 48, r.mibLeft)]

/-- GLB_BOOT and GLB_DEBUG (R542). -/
def regBoot (s : State) (i : Nat) : BitVec 64 :=
  let b := s.boot
  if i = 0 then
    regOf [(48, 16, b.fwSvn), (32, 16, b.st1Svn), (19, 5, counterOf s 4), (18, 1, b2n b.identityFail), (17, 1, b2n b.rolesStale),
      (16, 1, b2n b.ownerSet), (15, 1, b2n b.fwConfirmed), (8, 4, b.attempts), (3, 1, b.fwSlot), (2, 1, b.st1Slot), (0, 2, b.stage)]
  else
    regOf [(24, 8, sat 8 b.dbgFails), (15, 1, b2n b.pwLocked), (8, 4, b.dbgMethod), (0, 2, b.dbgLevel)]

/-- GLB_EASEL and GLB_TELEM (R557). -/
def regEasel (s : State) (i : Nat) : BitVec 64 :=
  let e := s.easel
  if i = 0 then
    regOf [(48, 16, sat 16 e.restarts), (32, 16, sat 16 e.refusals), (23, 9, e.q3.length), (3, 20, retryUs e), (0, 1, b2n e.overload)]
  else regOf [(32, 32, e.frameSeq), (16, 3, e.decim), (0, 16, e.telemMs.toNat)]

/-- RATE codes of GLB_LINK by transfer rate in GT/s, 2.5 GT/s written 2 (R571). -/
def rateCode (r : Nat) : Nat := match r with | 2 => 1 | 5 => 2 | 8 => 3 | 16 => 4 | 32 => 5 | 64 => 6 | _ => 0

/-- CXL.cache and CXL.mem are available from 32 GT/s on, on 4 lanes or more (R401). -/
def memCache (s : State) : Bool := decide (32 ≤ s.host.rate) && decide (4 ≤ s.host.width)

/-- GLB_LINK and GLB_PINS (R571). -/
def regLink (s : State) (i : Nat) : BitVec 64 :=
  if i = 0 then
    regOf [(32, 16, sat 16 s.host.retrains), (9, 1, b2n (memCache s)), (8, 1, b2n s.host.latFlit), (3, 5, s.host.width),
      (0, 3, rateCode s.host.rate)]
  else
    regOf [(5, 3, s.power.sbAddr), (4, 1, b2n s.power.latchOpen), (3, 1, b2n s.power.removeReq), (2, 1, b2n s.host.perst),
      (1, 1, b2n s.power.done), (0, 1, 1)]

/-- Word `w` of the write-protect bitmap; a word of 14,306 or more reads as zero (R398). -/
def wpWord (s : State) (w : Nat) : BitVec 64 := if 14306 ≤ w then 0 else mapGet s.stylus.wp w 0

def regionReg (s : State) : BitVec 64 := mapGet s.stylus.regions s.stylus.csSel.toNat 0

/-- BAR0's NVMe registers as 4-byte words (R9): VS says NVMe 2.1 and CSTS holds RDY and SHST (R510) at the places that NVMe gives them; the
spec states no other value, and no command writes one (log entry 124). -/
def readBar0 (s : State) (off : Nat) : BitVec 32 :=
  match off with
  | 0x08 => 0x0002_0100
  | 0x1C => BitVec.ofNat 32 (b2n s.host.ready + 4 * s.host.shutdown)
  | _ => Config.stdByte 0xBA 0 (off + 3) ++ Config.stdByte 0xBA 0 (off + 2) ++ Config.stdByte 0xBA 0 (off + 1) ++ Config.stdByte 0xBA 0 off

/-- The GLB block (R23 to R25, R146, R249, R486, R542, R557, R571). -/
def readGlb (s : State) (off : Nat) : BitVec 64 :=
  let m := s.mon
  match off with
  | 0x000 => regIdent
  | 0x008 => regShape s
  | 0x010 => BitVec.ofNat 64 (if s.resumed then s.time else 0)
  | 0x100 => m.smonSel
  | 0x140 => m.hmonSel
  | 0x200 => m.ctxSel
  | 0x240 => m.mcSel
  | 0x300 => regRecovery s 0
  | 0x308 => regRecovery s 1
  | 0x400 => regBoot s 0
  | 0x408 => regBoot s 1
  | 0x500 => regEasel s 0
  | 0x508 => regEasel s 1
  | 0x600 => regLink s 0
  | 0x608 => regLink s 1
  | _ =>
    if 0x108 ≤ off ∧ off ≤ 0x130 then m.smon.getD ((off - 0x108) / 8) 0
    else if 0x148 ≤ off ∧ off ≤ 0x160 then m.hmon.getD ((off - 0x148) / 8) 0
    else if 0x208 ≤ off ∧ off ≤ 0x220 then m.ctx.getD ((off - 0x208) / 8) 0
    else if 0x248 ≤ off ∧ off ≤ 0x250 then m.mc.getD ((off - 0x248) / 8) 0
    else 0

/-- The PRT block (R397, R398). PRT_MBX_GO is write-only. -/
def readPrt (s : State) (off : Nat) : BitVec 64 :=
  let x := s.stylus
  match off with
  | 0x00 => regOf [(1, 1, b2n x.bootMode), (0, 1, b2n x.lock)]
  | 0x08 => x.ew.setWidth 64
  | 0x10 => x.wpSel.setWidth 64
  | 0x18 => wpWord s x.wpSel.toNat
  | 0x20 => x.csSel.setWidth 64
  | 0x28 => regionReg s
  | 0x68 => x.mbxCpl0 ||| (if x.mbxBusy.isSome then 1 else 0)
  | 0x70 => x.mbxCpl1
  | _ => if 0x40 ≤ off ∧ off ≤ 0x58 then mapGet x.mbxDesc ((off - 0x40) / 8) 0 else 0

/-- INT_CE_CFG (R467). -/
def regCeCfg (s : State) : BitVec 64 :=
  regOf [(63, 1, b2n s.integ.ceLog), (32, 16, s.integ.ceWindow.toNat), (16, 16, s.integ.ceCapacity.toNat), (0, 16, s.integ.ceLeak.toNat)]

def Phase.code : Phase → Nat
  | .startUp => 0 | .service => 1 | .test => 2 | .recovery => 3 | .contained => 4

/-- The INT block (R466, R467). INT_CE_CTRL is write-only. -/
def readInt (s : State) (off : Nat) : BitVec 64 :=
  let x := s.integ
  match off with
  | 0x00 => regOf [(0, 3, x.phase.code)]
  | 0x08 => regOf [(32, 32, sat 32 x.written), (0, 32, sat 32 x.lost)]
  | 0x10 => regCeCfg s
  | 0x18 => s.mon.ceSel
  | 0x40 => x.patrol
  | 0x48 => regOf [(48, 16, sat 16 (x.patrolPass.getD 3 0)), (32, 16, sat 16 (x.patrolPass.getD 2 0)),
      (16, 16, sat 16 (x.patrolPass.getD 1 0)), (0, 16, sat 16 (x.patrolPass.getD 0 0))]
  | 0x50 => regOf [(1, 1, b2n x.scrub.space), (0, 1, b2n x.scrub.busy)]
  | 0x58 => regOf [(32, 32, x.scrub.count.toNat), (0, 32, x.scrub.first.toNat)]
  | 0x60 => x.scrub.sum0
  | 0x68 => x.scrub.sum1
  | _ => if 0x28 ≤ off ∧ off ≤ 0x38 then s.mon.ce.getD ((off - 0x28) / 8) 0 else 0

/-- The TIER block (R202, R203). -/
def readTier (s : State) (off : Nat) : BitVec 64 :=
  match off with
  | 0x00 => regOf [(37, 21, tierPages 2), (18, 19, tierPages 1), (0, 18, tierPages 0)]
  | 0x08 => regOf [(7, 13, s.queued.length), (0, 7, s.inflight.length)]
  | 0x10 => regOf [(0, 11, s.host.winSize)]
  | 0x20 => s.mon.tierSel
  | _ => if 0x28 ≤ off ∧ off ≤ 0x40 then s.mon.tier.getD ((off - 0x28) / 8) 0 else 0

/-- The RTV block (R283, R284). -/
def readRtv (s : State) (off : Nat) : BitVec 64 :=
  let vers (x : Index) : List IndexVer := x.cur :: (x.pend.toList ++ x.drain.toList)
  match off with
  | 0x00 => regOf [(32, 15, 16384), (16, 13, 4096), (0, 7, 64)]
  | 0x08 =>
    regOf [(27, 27, otherCaps s 0), (0, 27, (s.indexes.map fun p => ((vers p.2).map fun v => v.margin.length + v.mirror.length).sum).sum)]
  | 0x10 => s.mon.idxSel
  | _ => if 0x18 ≤ off ∧ off ≤ 0x50 then s.mon.idx.getD ((off - 0x18) / 8) 0 else 0

/-- The LTR block (R317, R318). -/
def readLtr (s : State) (off : Nat) : BitVec 64 :=
  match off with
  | 0x00 => regOf [(32, 8, 16), (16, 8, 32), (4, 4, s.vocabs.length), (0, 4, 8)]
  | 0x08 => s.mon.vocSel
  | 0x20 => s.mon.ltrSel
  | _ =>
    if 0x10 ≤ off ∧ off ≤ 0x18 then s.mon.voc.getD ((off - 0x10) / 8) 0
    else if 0x28 ≤ off ∧ off ≤ 0x48 then s.mon.ltr.getD ((off - 0x28) / 8) 0
    else 0

/-- The DEC block (R339). -/
def readDec (s : State) (off : Nat) : BitVec 64 :=
  match off with
  | 0x00 => regOf [(56, 8, 8), (40, 16, 1500), (24, 16, 1000), (8, 16, 4000), (0, 8, (s.engines.map fun p => 2 ^ p.1).sum)]
  | 0x08 => s.mon.decSel
  | _ => if 0x10 ≤ off ∧ off ≤ 0x30 then s.mon.dec.getD ((off - 0x10) / 8) 0 else 0

/-- HLK_PORTn (R439): PEER and PEER_PORT are valid from CHECKING. -/
def regPort (s : State) (p : Nat) : BitVec 64 :=
  let x := portOf s p
  let known := x.st != .off && x.st != .training
  regOf [(34, 6, if known then x.peer else 0), (31, 3, if known then x.peerPort else 0), (28, 3, x.lanes), (24, 4, x.st.code),
    (20, 4, portRole s.folio.topology p)]

/-- The HLK block (R438, R439). -/
def readHlk (s : State) (off : Nat) : BitVec 64 :=
  let f := s.folio
  match off with
  | 0x00 => f.folioId
  | 0x08 =>
    regOf [(40, 8, (f.members.filter fun p => p.2.inService).length), (32, 8, folioSize s), (31, 1, b2n (isHead s)), (28, 3, f.topology),
      (23, 4, f.dimX), (20, 3, f.dimY), (17, 3, f.dimZ), (0, 6, f.number)]
  | 0x10 => regOf [(63, 1, b2n f.holdover), (48, 6, f.master), (0, 16, twos 16 f.offset)]
  | 0x80 => s.mon.hlkSel
  | _ =>
    if 0x40 ≤ off ∧ off ≤ 0x78 then regPort s ((off - 0x40) / 8)
    else if 0x88 ≤ off ∧ off ≤ 0x98 then s.mon.hlk.getD ((off - 0x88) / 8) 0
    else 0

/-- The CAL block (R500, R501). -/
def readCal (s : State) (off : Nat) : BitVec 64 :=
  let x := s.cal
  match off with
  | 0x00 => x.ctrl.setWidth 64
  | 0x08 => x.tileCfg
  | 0x10 => x.flashCfg
  | 0x18 => regOf [(32, 32, sat 32 x.heldChanges), (16, 16, (x.windows.filter fun w => decide (s.time < w.till)).length)]
  | 0x20 => s.mon.calSel
  | 0x38 => s.mon.logSel
  | _ =>
    if 0x28 ≤ off ∧ off ≤ 0x30 then s.mon.cal.getD ((off - 0x28) / 8) 0
    else if 0x40 ≤ off ∧ off ≤ 0x48 then s.mon.log.getD ((off - 0x40) / 8) 0
    else 0

/-- The PWR block (R520). -/
def readPwr (s : State) (off : Nat) : BitVec 64 :=
  let p := s.power
  match off with
  | 0x00 => regOf [(32, 16, p.inputMv), (16, 16, p.inputW), (0, 16, p.peakW)]
  | 0x08 => regOf [(16, 16, budgetW s), (0, 16, p.limitW)]
  | 0x10 => regOf [(63, 1, b2n p.ready), (62, 1, b2n p.holdupFail), (32, 16, p.bankMv), (16, 16, p.emeasMj), (0, 16, p.stageMib)]
  | 0x18 => regOf [(32, 10, allocW s), (0, 20, p.domains.toNat)]
  | 0x20 => regOf [(32, 32, sat 32 p.throttledMs), (16, 16, sat 16 p.surges), (12, 4, p.cause.toNat), (0, 8, p.freqCap)]
  | 0x28 => s.mon.tempSel
  | 0x30 => s.mon.temp.getD 0 0
  | 0x38 => regOf [(32, 16, p.flow), (16, 16, twos 16 (sensorOf s 1).reading), (0, 16, twos 16 (sensorOf s 0).reading)]
  | _ => 0

def TileState.code : TileState → Nat
  | .off => 0 | .spareIdle => 1 | .testing => 2 | .loading => 3 | .ready => 4 | .running => 5 | .quiescing => 6 | .fault => 7
  | .retired => 8

def Role.code : Role → Nat
  | .service => 0 | .spare => 1 | .retired => 2

/-- TILE_BUFn (R83). -/
def regBuf (t : Tile) (b : Nat) : BitVec 64 :=
  match mapFind t.buffers b with
  | none => 0
  | some x =>
    regOf [(61, 1, 1), (60, 1, b2n x.resident), (44, 16, x.stream), (29, 15, x.base), (22, 7, x.slotLines), (11, 11, x.slots),
      (0, 11, (x.ring.filter fun p => p.2.st == .present).length)]

/-- TILE_STATE (R76). Lists run while strokes issue or execute, in RUNNING and QUIESCING (R70). -/
def regTileState (t : Tile) : BitVec 64 :=
  let active := if t.st = .running ∨ t.st = .quiescing then (t.islots.map fun p => 2 ^ p.1).sum else 0
  let pc (n : Nat) : Nat := ((mapFind t.islots n).map fun i => i.pc).getD 0
  regOf [(52, 4, active), (48, 4, t.st.code), (36, 12, pc 3), (24, 12, pc 2), (12, 12, pc 1), (0, 12, pc 0)]

/-- The window of tile `p` (R72 to R83). TILE_CTRL is write-only. -/
def readTile (s : State) (p off : Nat) : BitVec 64 :=
  let t := tileOf s p
  let c := t.counts
  match off with
  | 0x00 => regOf [(22, 2, t.role.code), (20, 2, p / 136), (19, 1, p % 136 / 68), (12, 7, p % 68), (0, 10, p)]
  | 0x08 => regOf [(31, 1, b2n (clockPending s t)), (16, 8, twos 8 t.vofs), (8, 8, t.runFreq), (0, 8, t.freq)]
  | 0x10 => regOf [(24, 8, t.station), (20, 4, t.context), (19, 1, b2n t.placed), (16, 3, t.mode), (0, 5, t.nlists)]
  | 0x18 => regTileState t
  | 0x28 => t.faults.setWidth 64
  | 0x30 => regOf [(32, 16, t.testRuns), (16, 16, t.testFails), (1, 1, b2n t.testBusy), (0, 1, b2n t.lastPass)]
  | 0x40 => regOf [(0, 64, sat 64 c.issued)]
  | 0x48 => regOf [(0, 64, sat 64 c.stallIn)]
  | 0x50 => regOf [(0, 64, sat 64 c.stallOut)]
  | 0x58 => regOf [(0, 64, sat 64 c.stallBank)]
  | 0x60 => regOf [(0, 64, sat 64 c.arrayBusy)]
  | 0x68 => regOf [(32, 32, sat 32 c.repeats), (0, 32, sat 32 (c.checks / 1024))]
  | 0x70 => regOf [(32, 32, sat 32 c.storeCe), (16, 16, sat 16 c.storeUe), (0, 16, sat 16 c.strokeCe)]
  | 0x80 =>
    match t.nan with
    | some n => regOf [(32, 32, n.seq.toNat), (16, 16, n.stream), (8, 8, n.station), (0, 1, 1)]
    | none => 0
  | 0x88 => match t.nan with | some n => regOf [(12, 4, n.list), (0, 12, n.stroke)] | none => 0
  | _ => if 0x100 ≤ off ∧ off ≤ 0x1F8 ∧ off % 8 = 0 then regBuf t ((off - 0x100) / 8) else 0

/-- An aligned 8-byte read of BAR2; reserved space reads as zero (R11, R12). -/
def readReg (s : State) (off : Nat) : BitVec 64 :=
  if 0x188_0000 ≤ off ∨ off % 8 ≠ 0 then 0
  else if 0x100_0000 ≤ off then readTile s ((off - 0x100_0000) / 0x4000) ((off - 0x100_0000) % 0x4000)
  else
    let o := off % 0x10_0000
    match off / 0x10_0000 with
    | 0 => readGlb s o
    | 1 => readPrt s o
    | 2 => readInt s o
    | 3 => readTier s o
    | 4 => match o with
      | 0 => s.mon.tblSel
      | _ => if o ≤ 0x40 then s.mon.tbl.getD ((o - 8) / 8) 0 else 0
    | 5 => readRtv s o
    | 6 => readLtr s o
    | 7 => readDec s o
    | 8 => readHlk s o
    | 9 => readCal s o
    | 10 => readPwr s o
    | _ => 0

/-- A BAR2 read of any kind: one that is not an aligned 8-byte access returns zero (R10). -/
def readBar2 (s : State) (off size : Nat) : BitVec 64 := if size = 8 then readReg s off else 0

end Sys2Proof.Machine
end

