-- ==== Sys2Proof/Machine/Nvm.lean ====
section
/-! DEFINITION. The NVM commands of the drive (R358, R360, R361, R370, R380, R394, R409, R410, R420, R452). The status codes of malformed
commands are NVMe's (log entry 34). -/

namespace Sys2Proof.Machine

/-- An invalid namespace, field or LBA range, as NVMe numbers them. -/
def scField : Nat := 0x02
def scNamespace : Nat := 0x0B
def scRange : Nat := 0x80

/-- A standard command that is refused and need not be retried. -/
def stdRefuse (s : State) (o : Origin) (sct sc : Nat) : State := stdCpl s o sct sc true

/-- A command for the namespace of another member in service is forwarded; what that member answers is not of this model (R420, log
entry 20). -/
def forwardNvm (s : State) (o : Origin) (n : Nat) : State :=
  let (k, s) := draw s 1
  let v := Config.remoteStatus k
  stdCpl s o (v / 512 % 8) (v / 2 % 256) (v % 2 == 1) 0 ((List.range n).map (Config.remoteByte k))

/-- An NVM command of queue `sq` for a namespace: `n` bytes go to the host, `f` acts on this module's own namespace (R420). -/
def nvmCmd (s : State) (sq cid nsid n : Nat) (f : State → Origin → State) : State :=
  ioCmd s sq cid fun s =>
    let o := queueOrigin sq cid
    if nsid = ownNsid s then f s o
    else if nsid = 0 ∨ folioSize s < nsid then stdRefuse s o 0 scNamespace
    else if inService s (nsid - 1) then forwardNvm s o n
    else stdCpl s o 0 0x82

/-- Whether a range of sectors lies in the namespace. -/
def lbasOk (slba n : Nat) : Bool := decide (slba + n ≤ userSectors)

/-- Whether a protect region that sectors [a, a + n) touch has its bit set (R394): 65,536 sectors to a region. -/
def protectedAt (s : State) (a n : Nat) : Bool :=
  n != 0 && (List.range ((a + n - 1) / 65536 + 1 - a / 65536)).any fun i =>
    let j := a / 65536 + i
    (wpWord s (j / 64)).getLsbD (j % 64)

/-- Whether any protect bit is set. -/
def anyProtected (s : State) : Bool := s.stylus.wp.any fun p => p.2 != 0

/-- Whether host writes are refused for want of spare blocks or of hold-up (R380, R507). -/
def writesStopped (s : State) : Bool := s.media.stage == .writeStop || s.power.holdupFail

/-- The status with which a write to sectors [a, a + n) is refused (R409, R452). -/
def writeRefusal (s : State) (a n : Nat) : Option (Nat × Nat) :=
  if protectedAt s a n then some (2, 0x86)
  else if writesStopped s then some (0, 0x20)
  else if s.integ.phase = .contained then some (7, 0x85)
  else none

/-- An Error Information entry for a command (R409, R416). -/
def errorEntry (s : State) (o : Origin) (sct sc lba nsid : Nat) : State :=
  let n := (s.host.errorLog.head?.map fun e => e.count + 1).getD 1
  { s with host.errorLog := (⟨n, o.sq, o.cid, sct * 256 + sc, lba, nsid⟩ :: s.host.errorLog).take 64 }

/-- NVM_READ (R360, R370, R409, R450): zeros stand in place of each poisoned sector. -/
def execNvmRead (sq cid nsid slba count : Nat) (s : State) : Host.Outcome State Fault Refusal :=
  .next <| nvmCmd s sq cid nsid (4096 * count) fun s o =>
    if count = 0 ∨ 512 < count then stdRefuse s o 0 scField
    else if !lbasOk slba count then stdRefuse s o 0 scRange
    else
      let ls := (List.range count).map (slba + ·)
      let data := ls.flatMap fun l => if sectorPoisoned s l then zeros 4096 else readSector s l
      match ls.find? (sectorPoisoned s) with
      | none => stdCpl s o 0 0 false 0 data
      | some l =>
        let s := recordErr s { cls := .consumed, unitKind := 9, op := 0, detailA := 5 }
        complete (errorEntry s o 2 0x81 l nsid) o 2 0x81 true 0 0 data true

/-- Sectors to write: they wait for staging behind the writes that wait already (R358). -/
def acceptWrite (s : State) (o : Origin) (slba : Nat) (sectors : List Bytes) : State :=
  match writeRefusal s slba sectors.length with
  | some (sct, sc) => stdRefuse s o sct sc
  | none => stageWaiting { s with media.waiting := s.media.waiting ++ [⟨o.sq, o.cid, slba, sectors⟩] }

/-- NVM_WRITE (R358, R370, R394, R409). -/
def execNvmWrite (sq cid nsid slba : Nat) (data : Bytes) (s : State) : Host.Outcome State Fault Refusal :=
  .next <| nvmCmd s sq cid nsid 0 fun s o =>
    if data = [] ∨ data.length % 4096 ≠ 0 ∨ 2097152 < data.length then stdRefuse s o 0 scField
    else if !lbasOk slba (data.length / 4096) then stdRefuse s o 0 scRange
    else acceptWrite s o slba (pieces 4096 data)

/-- WRITE_ZEROES (R358, R370, R394, R409): a write of zero sectors, up to the 65,536 that NVMe's count allows. -/
def execWriteZeroes (sq cid nsid slba count : Nat) (s : State) : Host.Outcome State Fault Refusal :=
  .next <| nvmCmd s sq cid nsid 0 fun s o =>
    if count = 0 ∨ 65536 < count then stdRefuse s o 0 scField
    else if !lbasOk slba count then stdRefuse s o 0 scRange
    else acceptWrite s o slba (List.replicate count (zeros 4096))

/-- FLUSH (R409): nothing is held that it could commit. NSID 0xFFFFFFFF names every namespace. -/
def execFlush (sq cid nsid : Nat) (s : State) : Host.Outcome State Fault Refusal :=
  .next <|
    if nsid = 0xFFFFFFFF then ioCmd s sq cid fun s => stdCpl s (queueOrigin sq cid) 0 0
    else nvmCmd s sq cid nsid 0 fun s o => stdCpl s o 0 0

/-- A logical block is deallocated (R361, R382): its mapping and its logged and staged sectors are dropped, its poison is cleared,
and a fold of it is abandoned. -/
def deallocate (s : State) (n : Nat) : State :=
  let s := match s.media.fold with | some f => if f.n = n then abandonFold s f else s | none => s
  let s := match mapFind s.media.map n with
    | some m =>
      if m.mapped then makeDirty { s with media.map := mapPut s.media.map n { m with mapped := false, refresh := false, block := 0 } } m.block
      else s
    | none => s
  sweepLog { s with
    media.log := s.media.log.filter fun p => p.1 / blockSectors != n
    media.staging := s.media.staging.filter fun x => x.lba / blockSectors != n
    media.poisoned := s.media.poisoned.filter fun p => p.1 / blockSectors != n }

/-- Logical blocks that hold something: a mapping, a logged, staged or poisoned sector, or the fold in progress. -/
def usedBlocks (s : State) : List Nat :=
  ((s.media.map.filter fun p => p.2.mapped).map (·.1) ++ s.media.log.map (fun p => p.1 / blockSectors) ++
    s.media.staging.map (fun x => x.lba / blockSectors) ++ s.media.poisoned.map (fun p => p.1 / blockSectors) ++
    (s.media.fold.map (·.n)).toList).eraseDups

/-- DATASET_MANAGEMENT (R361, R394, R409): deallocation of the whole logical blocks inside each range. A range of another purpose
than deallocation has no effect and is not told apart here (log entry 1). -/
def execDatasetManagement (sq cid nsid : Nat) (ranges : List (Nat × Nat)) (s : State) : Host.Outcome State Fault Refusal :=
  .next <| nvmCmd s sq cid nsid 0 fun s o =>
    if ranges = [] ∨ 256 < ranges.length then stdRefuse s o 0 scField
    else if !ranges.all fun r => lbasOk r.1 r.2 then stdRefuse s o 0 scRange
    else if ranges.any fun r => protectedAt s r.1 r.2 then stdRefuse s o 2 0x86
    else if writesStopped s then stdRefuse s o 0 0x20
    else
      let whole (n : Nat) : Bool := ranges.any fun r =>
        decide (r.1 ≤ n * blockSectors) && decide (min userSectors ((n + 1) * blockSectors) ≤ r.1 + r.2)
      stdCpl (stageWaiting (((usedBlocks s).filter whole).foldl deallocate s)) o 0 0

/-! Whole-namespace erasure. -/

/-- Everything in the namespace is deallocated; its blocks are erased through the ledger as they leave DIRTY (R372). -/
def eraseNamespace (s : State) : State := stageWaiting ((usedBlocks s).foldl deallocate s)

/-- FORMAT_NVM (R394, R410): secure erase settings 0 and 1. -/
def execFormatNvm (cid nsid ses : Nat) (s : State) : Host.Outcome State Fault Refusal :=
  .next <| adminCmd s cid false fun s =>
    let o := adminOrigin cid
    if nsid ≠ 0xFFFFFFFF ∧ (nsid = 0 ∨ folioSize s < nsid) then stdRefuse s o 0 scNamespace
    else if 1 < ses then stdRefuse s o 0 scField
    else if anyProtected s then stdRefuse s o 2 0x86
    else if nsid = ownNsid s ∨ nsid = 0xFFFFFFFF then stdCpl (eraseNamespace s) o 0 0
    else if inService s (nsid - 1) then forwardNvm s o 0
    else stdCpl s o 0 0x82

/-- SANITIZE (R394, R410): action 2, block erase, only. -/
def execSanitize (cid action : Nat) (s : State) : Host.Outcome State Fault Refusal :=
  .next <| adminCmd s cid false fun s =>
    let o := adminOrigin cid
    if action ≠ 2 then stdRefuse s o 0 scField
    else if anyProtected s then stdRefuse s o 2 0x86
    else stdCpl (eraseNamespace s) o 0 0

end Sys2Proof.Machine
end

