-- ==== Sys2Proof/Machine/Logs.lean ====
section
/-! DEFINITION. Log pages and Identify data (R114, R173, R204, R253, R381, R410, R418, R459). Where the spec leaves a byte to NVMe, the byte
is free (log entry 33). -/

namespace Sys2Proof.Machine

/-- A structure of `n` bytes of which the spec fixes the fields `fs` (offset, bytes); the rest is left to the standard. -/
def stdStruct (kind k n : Nat) (fs : List (Nat × Bytes)) : Bytes :=
  fs.foldl (fun b f => overlay b f.1 f.2) ((List.range n).map (Config.stdByte kind k))

/-! Vendor pages. -/

/-- A context's load report (R173); zeros when it has none. -/
def reportBytes (c : Nat) (r : Option LoadReport) : Bytes :=
  match r with
  | none => zeros 256
  | some r =>
    leBytes 8 r.imageId.toNat ++ leBytes 1 c ++ leBytes 1 r.placement ++ leBytes 1 r.reason ++ zeros 1 ++
    leBytes 4 (r.sect?.getD 0xFFFFFFFF) ++ leBytes 4 (r.ent?.getD 0xFFFFFFFF) ++ zeros 4 ++ leBytes 8 r.stamp ++
    (List.range 224).map fun k => BitVec.ofNat 8 (r.stationMap.getD k 0xFF)

/-- A context's first-NaN record (R114). -/
def nanBytes (c : Nat) (r : Option CtxNan) : Bytes :=
  match r with
  | none => zeros 32
  | some r =>
    leBytes 8 r.stamp ++ leBytes 4 r.seq.toNat ++ leBytes 2 r.stream ++ leBytes 1 r.station ++
    leBytes 1 (c + 128 + 64 * b2n r.trapped) ++ leBytes 2 r.tile ++ leBytes 1 r.list ++ zeros 1 ++ leBytes 2 r.stroke ++ zeros 10

/-- Bulk blocks that hold data, for the mean wear (log entry 36). -/
def dataBlocks (s : State) : List Block :=
  (s.media.blocks.filter fun p => blockIn p.2 [.mapped, .logOpen, .logClosed]).map (·.2)

/-- The mean wear count of blocks holding data. -/
def meanWear (s : State) : Nat :=
  let bs := dataBlocks s
  if bs = [] then 0 else (bs.map (·.wear)).sum / bs.length

def MediaStage.code : MediaStage → Nat
  | .normal => 0 | .watch => 1 | .retry => 2 | .lowSpare => 3 | .writeStop => 4

/-- The media health log (R381). -/
def healthBytes (s : State) : Bytes :=
  let h := s.media.health
  let top := (s.media.blocks.filter fun p => p.2.st != .retired).foldl (fun m p => max m p.2.wear) 0
  let day := s.time / 86400000000000
  leBytes 8 s.time ++ leBytes 1 s.media.stage.code ++ leBytes 1 (b2n h.commitIncomplete) ++ zeros 2 ++ leBytes 4 (spare s) ++
  leBytes 4 s.media.spareShip ++ leBytes 4 h.retired ++ leBytes 4 (if h.dayNo = day then h.retiredDay else 0) ++
  leBytes 4 (meanWear s) ++ leBytes 4 top ++ leBytes 4 (logUsed s) ++ leBytes 8 h.hostWritten ++ leBytes 8 h.mediaWritten ++
  leBytes 4 h.ewPpm ++ leBytes 4 h.retryPpm ++ leBytes 8 h.level7 ++ leBytes 8 h.uncorrected ++ leBytes 4 h.progFail ++
  leBytes 4 h.eraseFail ++ leBytes 4 h.halfErased ++ leBytes 4 h.lostSectors ++ leBytes 2 h.worstDie ++ zeros 2 ++
  leBytes 4 h.worstEwPpm ++ leBytes 4 h.t2Replaced ++ leBytes 4 h.t2Failed ++ zeros 16

/-- A table descriptor's bytes (R204). -/
def tableDescBytes (t : TableDesc) : Bytes :=
  leBytes 8 t.tableId.toNat ++ leBytes 4 t.version ++ leBytes 1 t.storage ++ leBytes 1 t.format ++
  leBytes 1 (b2n t.writable + 2 * b2n t.idx64 + 4 * b2n t.put) ++ leBytes 1 t.home ++ leBytes 2 t.d ++ leBytes 1 t.combine ++
  leBytes 1 t.shards ++ leBytes 4 t.hotRows ++ leBytes 8 t.rows ++ leBytes 8 t.salt.toNat ++ leBytes 8 t.partA.toNat ++
  leBytes 8 t.partB.toNat ++ leBytes 4 t.hotReads ++ zeros 4 ++ padTo (t.grid.flatMap fun v => leBytes 2 v.toNat) 32 ++
  padTo (t.member.map (BitVec.ofNat 8)) 64 ++ zeros 32

/-- Page 0xC3: LSP 0 a table, 1 an index; LSI its slot (R418). -/
def objectPage (s : State) (lsp lsi : Nat) : Option Bytes :=
  match lsp with
  | 0 => (mapFind s.tables lsi).map fun t => padTo (tableDescBytes (t.verAt s.time).desc) 256
  | 1 => (mapFind s.indexes lsi).map fun x => padTo (x.verAt s.time).desc.raw 256
  | _ => none

/-! Standard pages. -/

/-- Page 0x01 (R409): 64 entries of 64 bytes, newest first. -/
def errorPage (s : State) : Bytes :=
  padTo (s.host.errorLog.flatMap fun e =>
    leBytes 8 e.count ++ leBytes 2 e.sq ++ leBytes 2 e.cid ++ leBytes 2 (2 * e.status) ++ leBytes 2 0xFFFF ++ leBytes 8 e.lba ++
    leBytes 4 e.nsid ++ zeros 36) 4096

/-- Kelvin of a sensor's reading. -/
def kelvin (s : State) (ns : List Nat) : Nat := ((ns.map fun n => (sensorOf s n).reading).foldl max (-2184) / 8 + 273).toNat

/-- Critical warnings (R380, R507): spare below threshold, read only, volatile backup failed. -/
def criticalWarning (s : State) : Nat :=
  b2n (decide (spare s ≤ s.media.spareLow)) + 8 * b2n (s.media.stage == .writeStop) + 16 * b2n s.power.holdupFail

def spareThreshold (s : State) : Nat := if s.media.spareShip = 0 then 0 else 100 * s.media.spareLow / s.media.spareShip
def spareNow (s : State) : Nat := if s.media.spareShip = 0 then 0 else 100 * spare s / s.media.spareShip

/-- Page 0x02 (R380, R516): 512 bytes. -/
def smartPage (s : State) (k : Nat) : Bytes :=
  let temp (ns : List Nat) : Bytes := leBytes 2 (kelvin s ns)
  stdStruct 2 k 512 [(0, leBytes 1 (criticalWarning s)), (1, temp [20]), (3, leBytes 1 (spareNow s)),
    (4, leBytes 1 (spareThreshold s)), (5, leBytes 1 (min 255 (meanWear s / 1500))),
    (200, temp ((List.range 8).map (· + 3)) ++ temp [11] ++ temp [12, 13, 14, 15] ++ temp [16, 17, 18, 19] ++ temp [21] ++
      temp [22] ++ temp [23] ++ temp [0])]

/-- Page 0x03 (R525): the slot that runs; slot 1 is A, slot 2 is B. -/
def slotPage (s : State) (k : Nat) : Bytes := stdStruct 3 k 512 [(0, leBytes 1 (s.boot.fwSlot + 1))]

/-- Admin and I/O opcodes that the controller takes (R409 to R412). -/
def adminOpcodes : List Nat :=
  [0x00, 0x01, 0x02, 0x04, 0x05, 0x06, 0x08, 0x09, 0x0A, 0x0C, 0x10, 0x11, 0x80, 0x84, 0xC1, 0xC4, 0xC5, 0xC8, 0xC9, 0xCC, 0xD0,
   0xD1, 0xD4, 0xD8, 0xDC, 0xE0, 0xE1, 0xE4, 0xE8]
def ioOpcodes : List Nat := [0x00, 0x01, 0x02, 0x08, 0x09, 0x81, 0x85, 0x88, 0x89, 0x8D, 0x90]

/-- Page 0x05: bit 0 of an opcode's entry says that it is taken; other bits of such an entry are NVMe's. -/
def effectsPage (k : Nat) : Bytes :=
  let entry (base : Nat) (ops : List Nat) (i : Nat) : Bytes :=
    if ops.contains i then
      (List.range 4).map fun j => Config.stdByte 5 k (base + 4 * i + j) ||| (if j = 0 then 1 else 0)
    else zeros 4
  (List.range 256).flatMap (entry 0 adminOpcodes) ++ (List.range 256).flatMap (entry 1024 ioOpcodes) ++ zeros 2048

/-- A log page's bytes (R410, R418); none when it is unknown or its selector is out of range. -/
def logPage (s : State) (k lid lsp lsi : Nat) : Option Bytes :=
  match lid with
  | 0x01 => some (errorPage s)
  | 0x02 => some (smartPage s k)
  | 0x03 => some (slotPage s k)
  | 0x05 => some (effectsPage k)
  | 0xC0 => some ((List.range 16).flatMap fun c => reportBytes c (ctxOf s c).report)
  | 0xC1 => some ((List.range 16).flatMap fun c => nanBytes c (ctxOf s c).nan)
  | 0xC2 => some (healthBytes s)
  | 0xC3 => objectPage s lsp lsi
  | 0xC4 => some (s.integ.recs.flatMap recBytes)
  | _ => none

/-- Event codes that a read of a page with Retain Asynchronous Event clear unmasks (R419). -/
def pageEvents (lid : Nat) : List Nat :=
  match lid with
  | 0x02 => [evSmartReliability, evSmartTemperature, evSmartSpare]
  | 0xC0 => [evVendor 4]
  | 0xC1 => [evVendor 3]
  | 0xC2 => [evVendor 2]
  | 0xC3 => [evVendor 1, evVendor 5]
  | 0xC4 => [evVendor 0]
  | _ => []

/-- What a read of bytes [off, off + n) of a page does: events unmasked, error records returned (R419, R462). -/
def logRead (s : State) (lid off n : Nat) (rae : Bool) : State :=
  let s := if rae then s else { s with host.masked := s.host.masked.filter fun k => !(pageEvents lid).contains k }
  if lid = 0xC4 ∧ 0 < n then
    let seen (i : Nat) : Bool := decide (off < 64 * i + 64) && decide (64 * i < off + n)
    { s with integ.recs := (s.integ.recs.zipIdx).map fun p => if seen p.2 then { p.1 with readBack := true } else p.1 }
  else s

/-- Get Log Page as the controller serves it: status and data (R410, R418). -/
def serveLog (s : State) (lid lsp lsi off len : Nat) (rae : Bool) : (Nat × Nat × Bytes) × State :=
  let (k, s) := draw s 1
  match logPage s k lid lsp lsi with
  | none => ((1, 0x09, []), s)
  | some page =>
    if page.length < off ∨ 2097152 < len then ((0, scField, []), s)
    else ((0, 0, slice page off len), logRead s lid off len rae)

/-! Identify (R23, R408, R410, R420, R421, R423). -/

/-- Namespaces that a controller presents: those of the folio on the head, none on a delivery port. -/
def nsids (s : State) : List Nat := if isHead s then (List.range (folioSize s)).map (· + 1) else []

/-- The controller structure; the layout of its vendor bytes is log entry 37. -/
def identController (s : State) (k : Nat) : Bytes :=
  stdStruct 0 k 4096 [(77, leBytes 1 9), (259, leBytes 1 15), (516, leBytes 4 (nsids s).length), (525, zeros 1),
    (3072, leBytes 8 regIdent.toNat ++ leBytes 1 s.folio.number ++ leBytes 1 (b2n (isHead s)) ++ leBytes 1 (folioSize s) ++ zeros 21)]

/-- The namespace structure: its size, one LBA format of 4,096 bytes without metadata or protection. -/
def identNamespace (k : Nat) : Bytes :=
  stdStruct 1 k 4096 [(0, leBytes 8 userSectors), (8, leBytes 8 userSectors), (25, zeros 3), (29, zeros 1), (128, zeros 2 ++ leBytes 1 12)]

/-- Identify as the controller serves it. -/
def serveIdentify (s : State) (cns nsid : Nat) : (Nat × Nat × Bytes) × State :=
  let (k, s) := draw s 1
  match cns with
  | 0 => if (nsids s).contains nsid then ((0, 0, identNamespace k), s) else ((0, scNamespace, []), s)
  | 1 => ((0, 0, identController s k), s)
  | 2 => ((0, 0, padTo (((nsids s).filter fun n => decide (nsid < n)).flatMap (leBytes 4)) 4096), s)
  | _ => ((0, scField, []), s)

/-! Features (R410). -/

/-- The features: Arbitration, Power Management, Temperature Threshold, Number of Queues, Interrupt Coalescing, Interrupt Vector
Configuration, Asynchronous Event Configuration, Timestamp, with NVMe's numbers. -/
def featureIds : List Nat := [0x01, 0x02, 0x04, 0x07, 0x08, 0x09, 0x0B, 0x0E]

/-- The key under which a feature's value is kept: interrupt vectors and temperature thresholds have one each. -/
def featureKey (fid dword11 : Nat) : Nat :=
  match fid with
  | 0x04 => fid + 256 * (dword11 / 65536 % 64)
  | 0x09 => fid + 256 * (dword11 % 65536)
  | _ => fid

/-- Number of Queues: 4,096 submission and completion queues, both counted from 0. -/
def queueCounts : Nat := 4095 + 65536 * 4095

/-- Get Features as the controller serves it: SCT, SC, Dword 0 and data. -/
def serveFeature (s : State) (fid dword11 : Nat) : Nat × Nat × Nat × Bytes :=
  if !featureIds.contains fid then (0, scField, 0, [])
  else if fid = 0x0E then (0, 0, 0, leBytes 6 (s.time / 1000000) ++ zeros 2)
  else if fid = 0x07 then (0, 0, queueCounts, [])
  else (0, 0, (mapGet s.host.features (featureKey fid dword11) 0).toNat, [])

end Sys2Proof.Machine
end

