-- ==== Sys2Proof/Machine/Power.lean ====
section
/-! DEFINITION. Power: the hold-up bank, the commit sequence, power-up, throttling and thermal stops (R503 to R520, R569, R570). -/

namespace Sys2Proof.Machine

/-! Records and frames of PD0. -/

def ErrClass.ofCode : Nat → ErrClass
  | 0 => .storm | 1 => .uncorrected | 2 => .consumed | 3 => .detected | 4 => .usage
  | 5 => .protection | 6 => .media | 7 => .link | 8 => .containment | _ => .recovery

/-- An error record for which a rule states no class and no details: those are free. `unit` is its UNIT_KIND and UNIT where the rule
names the unit. -/
def eventRec (s : State) (unit : Option (Nat × Nat)) : State :=
  let (k, s) := draw s 1
  let f (i : Nat) : Nat := Config.eventField i k
  let (kind, u) := unit.getD (f 1 % 12, f 2 % 2 ^ 16)
  recordErr s { cls := ErrClass.ofCode (f 0 % 10), unitKind := kind, unit := u, op := f 3 % 12,
                detailA := f 4 % 2 ^ 32, detailB := f 5 % 2 ^ 32 }

/-- The newest record goes to the persistent log at once (R508). -/
def persistNewest (s : State) : State :=
  match s.integ.recs with
  | [] => s
  | r :: rest =>
    let r := { r with persisted := true }
    persist { s with integ.recs := r :: rest, easel.unpersisted := s.easel.unpersisted.filter fun x => x.seq != r.seq } (.errRec r)

/-- A membership frame of this module: its number, whether it is faulted, whether Easel is alive, its time master and the states of its
ports (R435, R475; log entry 20). -/
def sendMembership (s : State) (faulted : Bool) : State :=
  if inFolio s then
    sendReply s .managementRing 1
      ([s.folio.number, b2n faulted, b2n !s.easel.restarting, s.folio.master].map (BitVec.ofNat 8) ++
       (List.range 8).map fun p => BitVec.ofNat 8 (((mapFind s.folio.ports p).map fun x => x.st.code).getD 0))
  else s

/-! What outlives power (R24, R34, R245, R353, R372, R381, R393, R462, R491). -/

/-- Flash management as a power loss or a reset of the module leaves it. What staging still held is what the next boot does not find
(R376). -/
def keptMedia (m : Media) : Media :=
  let lost := m.commitBegun && !m.marker
  { Media.reset with
    blocks := m.blocks, sectors := m.sectors, map := m.map, log := m.log, openStripe := m.openStripe, stripes := m.stripes
    nextStripe := m.nextStripe, nextSeq := m.nextSeq, nextGroup := m.nextGroup, journal := m.journal
    checkpoints := m.checkpoints, ledgers := m.ledgers, poisoned := m.poisoned, spareShip := m.spareShip
    health := m.health, groups := m.groups, fastUsed := m.fastUsed
    manifest := if lost then m.staging.map (·.lba) else [], marker := m.marker, commitBegun := m.commitBegun }

/-- The module at the start of a power-up: all state is as after reset but for what flash, the code store and the host hold. -/
def powerReset (s : State) : State :=
  let kept (p : Nat) (t : Tile) : Tile :=
    { Tile.shipped p with role := t.role, st := if t.role = .retired then .retired else .off }
  let s := match s.media.fold with
    | some f => makeDirty s f.dest
    | none => s
  { State.reset with
    pending := s.pending, freeCtr := s.freeCtr, floor := s.floor
    timeStarted := s.timeStarted, lastTime := max s.lastTime s.time
    tiles := mapAll s.tiles kept
    cache := mapAll s.cache fun _ e => { e with validated := false }
    cacheOrder := s.cacheOrder
    media := keptMedia s.media
    stylus := { Stylus.reset with counters := s.stylus.counters, cs := s.stylus.cs, csBad := s.stylus.csBad,
                                  csPoolUsed := s.stylus.csPoolUsed, csUnwritable := s.stylus.csUnwritable }
    host := { HostIf.reset with posted := s.host.posted, replies := s.host.replies, perst := s.host.perst }
    cal := { Calib.reset with dies := mapAll s.cal.dies fun _ x => { DieCal.fresh with shift := x.shift } }
    power := { Power.reset with sbAddr := s.power.sbAddr, latchOpen := s.power.latchOpen }
    boot := { Boot.reset with romKeys := s.boot.romKeys, rolesGen := s.boot.rolesGen, confirms := s.boot.confirms, tries := s.boot.tries }
    easel := { Easel.reset with log := s.easel.log } }

/-! Domains. -/

/-- The domains of a power-up step (R511). -/
def stepDomains : Nat → List Nat
  | 1 => [0] | 2 => [19] | 3 => [15, 16, 17] | 4 => [13, 14] | 5 => [1, 2] | _ => []

/-- Exactly these domains are on. -/
def onlyDomains (s : State) (ds : List Nat) : State :=
  ((List.range 20).filter fun d => domainOn s d && !ds.contains d).foldl dropDomain s

/-- Power-up begins: step 1 comes up (R511, R512). -/
def powerUp (s : State) : State :=
  let s := wakeDomain (powerReset s) 0
  { s with power.phase := .stepping, power.upStep := 1, power.inputOk := true }

/-- PD0 alone stays powered, and reports (R517). -/
def holdThermal (s : State) : State :=
  let s := eventRec (onlyDomains s [0]) none
  { s with power.phase := .thermalHold, power.thermal := false, power.cycled := false, host.ready := false }

/-! The commit sequence (R508, R509). -/

/-- PD0 sends its faulted frame, and the domains that carry no commit go off (R475, R508). -/
def shed (s : State) : State :=
  let s := sendMembership s true
  let s := ([1, 2, 3, 4, 5, 6, 7, 8, 9, 10, 11, 12, 14, 18].filter (domainOn s)).foldl dropDomain s
  { s with
    host.ready := false, host.rate := 0, host.width := 0, host.latFlit := false
    folio.ports := mapAll s.folio.ports fun _ p => { p with st := .off, lanes := 0 }
    power.ready := false, power.measuring := false }

/-- The commit sequence starts: the shed, and steps 1 and 2 of the media part. -/
def beginCommit (s : State) : State :=
  let s := commitBegin (shed s)
  { s with power.phase := .committing }

/-- INPUT_FAILURE (R503, R508, R519, R569). Before PD19 is good nothing is staged and nothing is committed; during a commit that runs on
input power the sequence goes on from the bank. -/
def execInputFailure (cause : InputCause) (s : State) : Host.Outcome State Fault Refusal :=
  .next <|
    let s := { s with power.inputOk := false, power.removeReq := s.power.removeReq || decide (cause = InputCause.removeReq) }
    match s.power.phase with
    | .running => beginCommit s
    | .stepping => if s.power.upStep < 3 then { onlyDomains s [] with power.phase := .waitInput } else beginCommit s
    | .stopped => { onlyDomains s [] with power.phase := .waitInput }
    | .unpowered | .committing | .committed | .waitInput | .thermalHold => s

/-- What follows the commit: a thermal hold, a reset of the module, or the wait for the input (R509, R517, R555). -/
def afterCommit (s : State) : State :=
  if s.power.thermal then holdThermal s
  else if s.power.resetAfter then powerUp s
  else { s with power.phase := .committed }

/-- COMMIT_COMPLETE (R375, R508, R560): the marker is written, DONE# goes low, the commit domains go off and PD0 writes a power-loss
record. -/
def execCommitComplete (s : State) : Host.Outcome State Fault Refusal :=
  .next <|
    if s.power.phase ≠ .committing then s
    else
      let s := commitEnd s
      if !s.media.marker then s
      else
        let s := ([13, 15, 16, 17].filter (domainOn s)).foldl dropDomain { s with power.done := true }
        afterCommit (persistNewest (eventRec s none))

/-- BANK_EXHAUSTED (R508, R509): PD0 and PD19 go off; without the marker the commit stays incomplete. -/
def execBankExhausted (s : State) : Host.Outcome State Fault Refusal :=
  .next <|
    match s.power.phase with
    | .committing | .committed => { onlyDomains s [] with power.phase := .unpowered, power.done := false }
    | _ => s

/-- Throttle limits in °C (R516). -/
def throttleC (n : Nat) : Int :=
  match n with
  | 0 => 40 | 1 => 52 | 2 => 45 | 20 => 70 | 21 => 70 | 22 => 85 | 23 => 105
  | _ => if 12 ≤ n ∧ n ≤ 15 then 95 else 100

/-- Critical limits in °C (R516). -/
def criticalC (n : Nat) : Int :=
  match n with
  | 0 => 45 | 1 => 58 | 2 => 50 | 20 => 80 | 21 => 80 | 22 => 95 | 23 => 115
  | _ => if 12 ≤ n ∧ n ≤ 15 then 105 else 110

def sensorCount : Nat := 24

/-- Every sensor stands 10 °C or more below its throttle limit (R517). -/
def cooled (s : State) : Bool := (List.range sensorCount).all fun n => decide ((sensorOf s n).reading ≤ 8 * (throttleC n - 10))

/-- A thermal hold ends once the module has cooled and its input has been cycled (R517). -/
def leaveHold (s : State) : State :=
  if s.power.phase = .thermalHold ∧ s.power.cycled ∧ s.power.inputOk ∧ cooled s then powerUp s else s

/-- INPUT_RETURN (R509, R512, R517, R569): the input is back in range. A commit under way runs to its end; a module that waits boots. -/
def execInputReturn (s : State) : Host.Outcome State Fault Refusal :=
  .next <|
    let s := { s with power.inputOk := true, power.removeReq := false, power.cycled := s.power.cycled || !s.power.inputOk }
    match s.power.phase with
    | .committed | .waitInput | .unpowered => powerUp s
    | .thermalHold => leaveHold s
    | .stepping | .running | .committing | .stopped => s

/-- INSERTION (R558, R561, R570, R571): the straps are latched and power-up begins. -/
def execInsertion (sbAddr : Nat) (s : State) : Host.Outcome State Fault Refusal :=
  .next <| if s.power.phase = .unpowered then powerUp { s with power.sbAddr := sbAddr % 8, power.removeReq := false } else s

/-! Thermal stops (R517, R518, R570). -/

/-- A thermal stop: the commit sequence on input power when the flash is up, else the hold at once; during a commit it applies
afterwards (R519). -/
def thermalStop (s : State) : State :=
  match s.power.phase with
  | .running => beginCommit { s with power.thermal := true }
  | .stepping => if s.power.upStep < 4 then holdThermal s else beginCommit { s with power.thermal := true }
  | .committing => { s with power.thermal := true }
  | .stopped => holdThermal s
  | .unpowered | .committed | .waitInput | .thermalHold => s

/-- A reading enters its sensor (R520). -/
def readSensor (s : State) (n : Nat) (reading : Int) : State :=
  let x := sensorOf s n
  { s with power.sensors := mapPut s.power.sensors n { x with reading := reading, maximum := max x.maximum reading } }

/-- THERMAL_STOP (R516, R517): a reading at or above its critical limit. -/
def execThermalStop (sensor : Nat) (reading : Int) (s : State) : Host.Outcome State Fault Refusal :=
  onUnit (decide (sensor < sensorCount)) <|
    let s := readSensor s sensor reading
    if 8 * criticalC sensor ≤ reading then thermalStop s else s

/-! Power-up (R511, R512, R570). -/

/-- POWER_UP_STEP: the step under way reports good, and the next one comes up; too little coolant after step 2 is a thermal stop. -/
def execPowerUpStep (flow : Nat) (s : State) : Host.Outcome State Fault Refusal :=
  .next <|
    if s.power.phase ≠ .stepping then s
    else
      let k := s.power.upStep
      let s := { s with power.flow := flow }
      if k = 2 ∧ flow < 80 then thermalStop { s with power.upStep := 3 }
      else if 5 ≤ k then { s with power.phase := .running }
      else { (stepDomains (k + 1)).foldl wakeDomain s with power.upStep := k + 1 }

/-- DOMAIN_GOOD_TIMEOUT (R512): the sequence stops with PD0 alone powered, and a record goes to the management network. -/
def execDomainGoodTimeout (domain : Nat) (s : State) : Host.Outcome State Fault Refusal :=
  onUnit (decide (domain < 20)) <|
    if s.power.phase = .stepping ∧ domain ∈ stepDomains s.power.upStep then
      { eventRec (onlyDomains s [0]) (some (10, domain)) with power.phase := .stopped }
    else s

/-! The hold-up bank (R505 to R507). -/

/-- STAGE_MIB for E_meas: the largest multiple of 64 in [64, 1,024] whose E_need = 0.22 J + 60 W × (0.030 s + S / 1,024 × 0.100 s) fits
(R507); in mJ that is 2,020 + 375 × S / 64. Nothing fits below 64. -/
def stageLimit (mJ : Nat) : Nat := if mJ < 2395 then 0 else min 1024 (64 * ((mJ - 2020) / 375))

/-- What is usable from 50 V of what was measured from 53 V: (50² − 36²) / (53² − 36²) (R506). -/
def usableFrom50 (mJ : Nat) : Nat := mJ * 1204 / 1513

/-- The staging limit becomes that from 50 V, and the measurement starts once the staged data is within it (R506, R507). -/
def startMeasurement (s : State) : State :=
  if s.power.measuring || !domainOn s 19 || s.power.phase == .committing then s
  else
    let limit := stageLimit (usableFrom50 s.power.emeasMj)
    let s := { s with power.stageMib := limit }
    if s.media.staging.length ≤ 256 * limit then { s with power.measuring := true } else s

/-- The length of a day's window in ns (R381, R474, R506). -/
def dayNs : Nat := 86_400_000_000_000

/-- BANK_MEASUREMENT (R506, R507): at each boot, and once in each 24-hour window. -/
def execBankMeasurement (s : State) : Host.Outcome State Fault Refusal :=
  .next <|
    let day := s.time / dayNs
    if s.power.measuredDay = some day then s
    else
      let t := startMeasurement s
      if t.power.measuring && !s.power.measuring then { t with power.measuredDay := some day } else t

/-- BANK_MEASUREMENT_END (R506, R507): E_meas and STAGE_MIB; when not even 64 MiB fits, HOLDUP_FAIL and its event. -/
def execBankMeasurementEnd (mJ : Nat) (s : State) : Host.Outcome State Fault Refusal :=
  .next <|
    if !s.power.measuring then s
    else
      let fail := decide (mJ < 2395)
      let s := { s with power.measuring := false, power.emeasMj := mJ, power.stageMib := stageLimit mJ,
                        power.holdupFail := fail }
      let s := if fail then raiseEvent s evSmartReliability 0x02 else s
      stageWaiting s

/-- BANK_CHARGED (R505, R506): a bank at 53.0 V ± 0.5 V; staging takes writes once a measurement of this boot has ended. -/
def execBankCharged (mV : Nat) (s : State) : Host.Outcome State Fault Refusal :=
  .next <|
    let s := { s with power.bankMv := mV }
    if 52500 ≤ mV ∧ mV ≤ 53500 ∧ s.power.emeasMj ≠ 0 ∧ !s.power.measuring ∧ (s.power.phase = .running ∨ s.power.phase = .stepping) then
      stageWaiting { s with power.ready := true }
    else s

/-! Throttling (R513 to R515). -/

/-- Whether the 10-window mean compares so with the budget. -/
def meanSum (s : State) : Nat := s.power.means.sum
def overBudget (s : State) : Bool := decide (budgetW s * s.power.means.length < meanSum s)
def underBudget (s : State) : Bool := decide (meanSum s < budgetW s * s.power.means.length)
def wellUnderBudget (s : State) : Bool := decide (100 * meanSum s < 95 * budgetW s * s.power.means.length)

/-- A window's sensor readings, with the count of windows at or above the throttle limit. -/
def sampleTemps (s : State) (temps : List Int) : State :=
  (temps.zip (List.range sensorCount)).foldl (fun s p =>
    let s := readSensor s p.2 p.1
    let x := sensorOf s p.2
    if 8 * throttleC p.2 ≤ p.1 then { s with power.sensors := mapPut s.power.sensors p.2 { x with overMs := satAdd 0xFFFF x.overMs 1 } }
    else s) s

/-- What a window has sampled (R515, R520). -/
def sampleWindow (s : State) (o : PowerObs) : State :=
  let s := sampleTemps s o.temps
  let means := (o.meanW :: s.power.means).take 10
  { s with
    power.means := means
    power.inputW := means.sum / means.length
    power.peakW := min 0xFFFF (max s.power.peakW o.peakW)
    power.windowPeak := min 0xFFFF (max s.power.windowPeak o.peakW)
    power.inputMv := o.inputMv
    power.flow := o.flow }

/-- FREQ_CAP at the end of a window (R514, R515). -/
def throttle (s : State) : State :=
  let p := s.power
  let budget := overBudget s
  let thermal := (List.range sensorCount).any fun n => decide (8 * throttleC n ≤ (sensorOf s n).reading)
  let cap := p.freqCap - (if budget then 4 else 0) - (if thermal then 4 else 0)
  let cap := max 40 cap
  let cap := if !budget && !thermal && !p.surged && wellUnderBudget s then min 132 (cap + 1) else cap
  let hold := (p.flashHold || (budget && p.freqCap == 40)) && !underBudget s
  { s with
    power.freqCap := cap
    power.flashHold := hold
    power.cause := BitVec.ofNat 4 (b2n p.surged + 2 * b2n budget + 4 * b2n thermal + 8 * b2n hold)
    power.surged := false
    power.throttledMs := satAdd (ones 32) p.throttledMs (b2n (decide (cap < 132))) }

/-- Whether a window's readings call for a thermal stop (R516 to R518). -/
def mustStop (s : State) : Bool :=
  decide (s.power.flow < 80) || (List.range sensorCount).any fun n => decide (8 * criticalC n ≤ (sensorOf s n).reading)

/-- THROTTLE_WINDOW (R515 to R518): the samples of a 1 ms window that has ended, its decision, and what ends or begins a thermal stop. -/
def execThrottleWindow (obs : PowerObs) (s : State) : Host.Outcome State Fault Refusal :=
  .next <|
    if !domainOn s 0 || obs.temps.length != sensorCount || !otherWindow s s.power.window 1_000_000 then s
    else
      let s := { throttle (sampleWindow s obs) with power.window := s.time / 1_000_000 }
      if s.power.phase = .thermalHold then leaveHold s
      else if mustStop s then thermalStop s
      else s

/-- SURGE (R515): a sample above 1,050 W. -/
def execSurge (watts : Nat) (s : State) : Host.Outcome State Fault Refusal :=
  .next <|
    if watts ≤ 1050 ∨ !domainOn s 0 then s
    else { s with
      power.freqCap := min s.power.freqCap 80
      power.surges := satAdd 0xFFFF s.power.surges 1
      power.surged := true
      power.peakW := min 0xFFFF (max s.power.peakW watts)
      power.windowPeak := min 0xFFFF (max s.power.windowPeak watts) }

end Sys2Proof.Machine
end

