-- ==== Sys2Proof/Machine/Easel.lean ====
section
/-! DEFINITION. Easel: dispatch, overload, telemetry, the watchdog and the health snapshot (R543 to R556). -/

namespace Sys2Proof.Machine

/-! Dispatch and overload (R548 to R550, R555). -/

/-- Whether Easel firmware runs. -/
def easelRuns (s : State) : Bool := domainOn s 0 && decide (2 ≤ s.boot.stage) && !s.easel.restarting && !s.boot.stopped

/-- A class 3 item has been served in `ns`: it leaves the queue, and the mean covers the last 1,024. -/
def serve3 (s : State) (ns : Nat) (rest : List Nat) : State :=
  noteOverload { noteOverload s with easel.q3 := rest, easel.services := (ns :: s.easel.services).take 1024 }

/-- EASEL_DISPATCH: the oldest item of the highest non-empty class. Every 100 ms an item of class 1 clears the watchdog, and so does each
other item of that class. -/
def execEaselDispatch (serviceNs : Nat) (s : State) : Host.Outcome State Fault Refusal :=
  .next <|
    let e := s.easel
    if !easelRuns s then s
    else if e.lastClear + 100_000_000 ≤ s.time then { s with easel.lastClear := s.time }
    else
      match e.q1, e.q2, e.q3, e.q4 with
      | _ :: r, _, _, _ => { s with easel.q1 := r, easel.lastClear := s.time }
      | [], _ :: r, _, _ => { s with easel.q2 := r }
      | [], [], _ :: r, _ => serve3 s serviceNs r
      | [], [], [], _ :: r => { s with easel.q4 := r }
      | [], [], [], [] => s

/-- OVERLOAD_END: the queue has stayed within the exit bound for 100 ms. -/
def execOverloadEnd (s : State) : Host.Outcome State Fault Refusal :=
  .next <|
    let s := noteOverload s
    match s.easel.calmFrom with
    | some t => if s.easel.overload ∧ t + 100_000_000 ≤ s.time then { s with easel.overload := false, easel.lastTick := s.time } else s
    | none => s

/-! Telemetry (R551, R552). -/

/-- The 128 bytes of a frame. -/
def frameBytes (f : Frame551) : Bytes :=
  leBytes 8 f.stamp ++ leBytes 4 f.seq ++ leBytes 1 f.decim ++ leBytes 1 f.flags ++ leBytes 2 f.inputW ++ leBytes 2 f.peakW ++
  leBytes 1 f.freqCap ++ leBytes 1 f.stage ++ padTo (f.temps.flatMap fun t => leBytes 2 (twos 16 t)) 48 ++ leBytes 2 f.flow ++
  leBytes 2 f.calNew ++ leBytes 4 f.records ++ leBytes 4 f.admitted ++ leBytes 4 f.refused ++ zeros 44

/-- What the end of a window fixes of its frame, its start given; the frame's number comes when it is formed. -/
def frameNow (s : State) (start : Nat) : Frame551 where
  stamp := start
  seq := 0
  decim := s.easel.decim
  flags := b2n s.easel.overload + 2 * b2n (decide (s.power.freqCap < 132)) + 4 * b2n (decide (s.integ.phase = .contained)) +
    8 * b2n s.folio.holdover
  inputW := s.power.inputW
  peakW := s.power.windowPeak
  freqCap := s.power.freqCap
  stage := s.media.stage.code
  temps := (List.range sensorCount).map fun n => (sensorOf s n).reading
  flow := s.power.flow
  calNew := min (ones 16) (s.easel.calAll - s.easel.calAtFrame)
  records := min (ones 32) (s.integ.written - s.easel.recsAtFrame)
  admitted := min (ones 32) (s.easel.admittedAll - s.easel.admAtFrame)
  refused := min (ones 32) s.easel.refAtFrame

/-- A new window's counts begin. -/
def newFrameWindow (s : State) : State :=
  { s with
    power.windowPeak := 0, easel.calAtFrame := s.easel.calAll, easel.recsAtFrame := s.integ.written
    easel.admAtFrame := s.easel.admittedAll, easel.refAtFrame := 0 }

/-- The instant that ends a telemetry window fixes what its frame holds; what happens from that instant on belongs to the next window (R8,
R551). -/
def endWindow (s : State) : State :=
  let t := s.easel.telemMs.toNat * 1_000_000
  if !easelRuns s || t == 0 || s.time % t != 0 || s.time == 0 then s
  else newFrameWindow { s with easel.ended := s.easel.ended ++ [(s.time / t - 1, frameNow s (s.time - t))] }

/-- Folio time counts one nanosecond. -/
def countNs (s : State) : State := endWindow { s with time := (s.time + 1) % 2 ^ 64 }

/-- TELEMETRY_FRAME: the oldest window k that has ended; it has a frame when k is a multiple of 2^d, d as the window's end found it. -/
def execTelemetryFrame (s : State) : Host.Outcome State Fault Refusal :=
  .next <|
    match s.easel.ended with
    | [] => s
    | (k, f) :: rest =>
      if !easelRuns s then s
      else if k % 2 ^ f.decim ≠ 0 then { s with easel.ended := rest }
      else
        let f := { f with seq := if s.easel.frames = [] then 0 else (s.easel.frameSeq + 1) % 2 ^ 32 }
        { s with
          easel.ended := rest, easel.frames := (f :: s.easel.frames).take 4096, easel.frameSeq := f.seq
          easel.q4 := s.easel.q4 ++ [s.time] }

/-- DECIMATION_TICK: 100 ms of overload raise d, 100 ms without lower it. -/
def execDecimationTick (s : State) : Host.Outcome State Fault Refusal :=
  .next <|
    let e := s.easel
    let from_ := if e.overload then max e.lastTick e.overloadFrom else e.lastTick
    if s.time < from_ + 100_000_000 then s
    else { s with easel.decim := if e.overload then min 4 (e.decim + 1) else e.decim - 1, easel.lastTick := s.time }

/-! The watchdog (R555). -/

/-- WATCHDOG_EXPIRY: 500 ms after the last clear. The third in one window of 600 s resets the module after a commit. -/
def execWatchdogExpiry (s : State) : Host.Outcome State Fault Refusal :=
  .next <|
    if !easelRuns s || decide (s.time < s.easel.lastClear + 500_000_000) then s
    else
      let w := 600_000_000_000
      let hits := s.time :: s.easel.expiries.filter fun t => t / w == s.time / w
      let s := persist s (.watchdog s.time)
      let s := noteOverload { s with
        easel.restarts := satAdd 0xFFFF s.easel.restarts 1, easel.restarting := true, easel.expiries := hits
        easel.q3 := [], easel.serviceFrom := s.time }
      if 3 ≤ hits.length ∧ s.power.phase = .running then beginCommit { s with power.resetAfter := true } else s

/-! The health snapshot (R545). -/

/-- The NVM subsystem health data (8 bytes) and the controller health data (16 bytes) of NVMe-MI, as the module stands: the warnings, the
composite temperature, the spare and the wear (log entry 33). -/
def healthNow (s : State) (k : Nat) : Bytes :=
  let warn := criticalWarning s
  let worn := min 255 (meanWear s / 1500)
  stdStruct 9 k 24 [(1, leBytes 1 (255 - warn)), (2, leBytes 1 (twos 8 ((sensorOf s 20).reading / 8))), (3, leBytes 1 worn),
    (12, leBytes 2 (kelvin s [20])), (14, leBytes 1 worn), (15, leBytes 1 (spareNow s)), (16, leBytes 1 warn)]

/-- HEALTH_SNAPSHOT_REFRESH: PD0 takes the snapshot every 10 ms, whether or not Easel runs. -/
def execHealthSnapshotRefresh (s : State) : Host.Outcome State Fault Refusal :=
  .next <|
    if !domainOn s 0 || (s.resumed && !periodOver s s.easel.healthAt 10_000_000) then s
    else
      let (k, s) := draw s 1
      { s with easel.health := healthNow s k, easel.healthAt := s.time }

end Sys2Proof.Machine
end

