-- ==== Sys2Proof/Machine/Retrieve.lean ====
section
/-! DEFINITION. PROBE's passes, the merge of a query's records, and PACK (R251, R268 to R281). -/

namespace Sys2Proof.Machine

/-! What a sheet's flags say of the request it belongs to. -/

/-- POISON and DRAFT of a sheet that contributes to a request (R194, R281). -/
def flagCond (sh : Sheet) : BitVec 10 :=
  (if sh.poison then condBit .poisoned else 0) ||| (if sh.draft then condBit .degraded else 0)

def addCond (s : State) (rid : Nat) (m : BitVec 10) : State := updReq s rid fun q => { q with cond := q.cond ||| m }

/-- The admitted query of a sheet's batch. -/
def queryOf (s : State) (c : Nat) (sh : Sheet) : Option Req :=
  (reqByBatch s c (tagBatch sh.tag)).bind fun q => if q.kind = .query ∧ q.admitted then some q else none

def probeSec (s : State) (c : Nat) : Option ProbeSec := (ctxOf s c).loaded.bind fun l => l.image.probe
def packSec (s : State) (c : Nat) : Option PackSec := (ctxOf s c).loaded.bind fun l => l.image.pack

/-- The index of a query and the version that it reads (R257, R470). -/
def queryIndex (s : State) (q : Req) : Option (Nat × Index × IndexVer) :=
  (indexOf s q.objectId).map fun p => (p.1, p.2, p.2.verAt q.firstOrigin)

/-! PROBE. -/

/-- L of the index that a sketch sheet's query searches. -/
def sketchBitsOf (s : State) (c : Nat) (sh : Sheet) : Option Nat :=
  (queryOf s c sh).bind fun q => (queryIndex s q).map fun p => p.2.2.desc.sketchBits

/-- A query whose record and sketch have both arrived joins PROBE's waiting queries (R268). -/
def joinQuery (s : State) (rid : Nat) : State :=
  match reqOf s rid with
  | some q =>
    if q.recordIn && q.sketch.isSome && q.localRecs.isNone then
      updCtx s q.ctx fun x => { x with probeWait := x.probeWait ++ [(rid, s.time)] }
    else s
  | none => s

/-- PROBE takes a sheet of a query: the record, whose slot is free at once, or the sketch of row 0, whose slot is free after the
pass (R131, R268). -/
def probeSheet (s : State) (n : Nat) (x : Stream) (sh : Sheet) : State :=
  match queryOf s x.ctx sh, probeSec s x.ctx with
  | some q, some p =>
    if x.localNo = p.recordStream then
      let s := freeSlots (addCond s q.rid (flagCond sh)) n 1
      if q.recordIn then s else joinQuery (updReq s q.rid fun q => { q with recordIn := true }) q.rid
    else if x.localNo = p.qsketchStream ∧ q.sketch = none then
      let l := ((queryIndex s q).map fun i => i.2.2.desc.sketchBits).getD 256
      let s := addCond s q.rid (flagCond sh)
      joinQuery (updReq s q.rid fun q => { q with sketch := some (sketchAt sh.data 0 l) }) q.rid
    else freeSlots s n 1
  | _, _ => freeSlots s n 1

/-- The key of a pass: the index and the version that its queries read (R268). -/
def passKey (s : State) (rid : Nat) : Option (Nat × Nat) :=
  (reqOf s rid).bind fun q => (queryIndex s q).map fun p => (p.1, p.2.2.desc.version)

/-- The queries of the next pass that may start: the first group with BATCH_MAX queries, or whose first has waited BATCH_WAIT_NS
(R268). -/
def nextPass (s : State) (c : Nat) (p : ProbeSec) : List Nat :=
  let wait := (ctxOf s c).probeWait
  let group (r : Nat) : List (Nat × Nat) := wait.filter fun w => passKey s w.1 == passKey s r
  let due (w : Nat × Nat) : Bool :=
    decide (p.batchMax ≤ (group w.1).length) || (((group w.1).head?).map fun f => decide (f.2 + p.batchWaitNs ≤ s.time)).getD false
  match wait.find? due with
  | some w => ((group w.1).take p.batchMax).map (·.1)
  | none => []

/-- One query's search in a pass (R269 to R273, R280, R281). -/
def searchQuery (s : State) (rid : Nat) : State :=
  match (reqOf s rid).bind fun q => (queryIndex s q).map fun p => (q, p.2.2) with
  | some (q, v) =>
    let f := search s v q.record (q.sketch.getD 0) q.snapshot q.firstOrigin
    let bad := if f.poison then condBit .poisoned else 0
    updReq s rid fun q => { q with localRecs := some f.recs, probed := f.probed, scanned := f.scanned, cond := q.cond ||| bad }
  | none => s

/-- What a pass formed for a query is poisoned: PROBE's check failed twice (R447). -/
def spoilFound (s : State) (rid : Nat) : State :=
  updReq s rid fun q => { q with localRecs := q.localRecs.map fun rs => rs.map fun r => { r with poison := true },
                                 cond := q.cond ||| condBit .poisoned }

/-- PROBE_PASS (R268 to R273, R447). -/
def execProbePass (on : Checked) (s : State) : Host.Outcome State Fault Refusal :=
  let ctx := on.ctx
  onUnit (decide (ctx < 16)) <|
    match probeSec s ctx with
    | none => s
    | some p =>
      let rids := nextPass s ctx p
      match rids.head?.bind (passKey s) with
      | none => s
      | some (k, _) =>
        if !(domainOn s 14 && domainOn s 15 && domainOn s 16) then s else
        let s := rids.foldl searchQuery s
        let s := if on.checkFailed then detected (rids.foldl spoilFound s) stnProbe ctx 0 0 0 0 true else s
        let s := updIndex s k fun x => { x with passes := satAdd (ones 32) x.passes 1 }
        let s := updCtx s ctx fun x => { x with probeWait := x.probeWait.filter fun w => !rids.contains w.1 }
        match localStream s ctx p.qsketchStream with
        | some n => freeSlots s n rids.length
        | none => s

/-! PACK. -/

/-- A result record's 16 bytes (R279). -/
def resultBytes (r : ResultRec) : Bytes :=
  leBytes 8 r.key.toNat ++ leBytes 4 r.score.toNat ++ leBytes 1 r.module ++
  leBytes 1 (b2n r.reranked + 2 * b2n r.drafted + 4 * b2n r.margin) ++ leBytes 2 r.h

/-- The text-fetched candidates of a query with `n` records (R277), and those that RERANK scores (R274). -/
def fetched (r : Bytes) (n : Nat) : Nat :=
  if u16 r 28 ≠ 0 then min n (u16 r 28) else if u32 r 32 ≠ 0 then min n (min (u16 r 24) 4096) else 0
def scored (r : Bytes) (n : Nat) : Nat := min n (u16 r 28)

/-- The table that a ROWS program gathers for a stream it feeds, or whose indices a stream carries. -/
def gatherTable (s : State) (c : Nat) (q : FeedEntry → Bool) : Option TableDesc :=
  (ctxOf s c).loaded.bind fun l => (l.image.feed.find? fun f => f.kind == 1 && q f).bind fun f =>
    (l.image.regions[f.region]?).bind fun r => if r.source = 2 then (tableOf s r.object).map fun t => t.2.cur.desc else none

/-- The merged records leave for PACK, the candidates' keys for the gathers of their texts and their sketch scores for RERANK
(R193, R274, R280): 64-bit indices where the table has them. -/
def emitMerged (s : State) (q : Req) (rs : List ResultRec) : State :=
  match (ctxOf s q.ctx).loaded with
  | none => s
  | some l =>
    let tag := tagOf q.ctx q.batch
    let origin := BitVec.ofNat 64 q.origin
    let cands := rs.take (fetched q.record rs.length)
    let outs := s.streams.filter fun p => p.2.ctx == q.ctx && p.2.prod == stnFilter
    outs.foldl (fun s p =>
      let x := p.2
      if (l.image.pack.map (·.recordsStream)) = some x.localNo then
        sendBytes s q.ctx x.localNo 0 tag origin (rs.flatMap resultBytes)
      else if l.image.drafts.any fun d => d.kind == 1 && d.sketchStream == x.localNo then
        sendBytes s q.ctx x.localNo 0 tag origin (cands.flatMap fun r => leBytes 4 r.score.toNat)
      else
        let wide := ((gatherTable s q.ctx fun f => f.start == x.localNo).map (·.idx64)).getD false
        let words := cands.flatMap fun r =>
          if wide then [r.key.toNat % 2 ^ 32, r.key.toNat / 2 ^ 32] else [r.key.toNat % 2 ^ 32]
        emitAll s p.1 ((pieces 1024 words).map fun ws => wordSheet ws 0 tag origin)) s

/-- Passages that have reached PACK: rows of D words of a gathered table, each up to its first word with 0xFF in bits 31:24; else
runs of words that such a word ends, all-ones words being padding (R277, R304). -/
def passages (rowWords : Option Nat) (ws : List Nat) : List (List Nat) :=
  let isEnd (w : Nat) : Bool := w / 2 ^ 24 == 0xFF
  match rowWords with
  | some d => ((pieces d ws).filter fun p => p.length == d).map fun p => p.takeWhile fun w => !isEnd w
  | none =>
    let r := (ws.filter (· != 0xFFFFFFFF)).foldl (fun (a : List (List Nat) × List Nat) w =>
      if isEnd w then (a.1 ++ [a.2], []) else (a.1, a.2 ++ [w])) ([], [])
    r.1

def reqPassages (s : State) (q : Req) (p : PackSec) : List (List Nat) :=
  passages ((gatherTable s q.ctx fun f => f.stream == p.textStream).map (·.d)) q.textWords

/-- Whether all that a query's result needs has reached PACK. -/
def packReady (s : State) (q : Req) (p : PackSec) (rs : List ResultRec) : Bool :=
  let budget := u32 q.record 32
  let text := ((probeSec s q.ctx).map (·.textStream)).getD 0
  decide (16 * rs.length ≤ q.recsIn) &&
  (budget == 0 || p.queryStream == 0 || text == 0 || q.queryWords.any fun w => w / 2 ^ 24 == 0xFF) &&
  decide (scored q.record rs.length ≤ q.scores.length) &&
  (p.sketchScoreStream == 0 || q.late.all fun i => decide (scored q.record rs.length ≤ i) || decide (i < q.sketchScores.length)) &&
  (budget == 0 || p.textStream == 0 || decide (fetched q.record rs.length ≤ (reqPassages s q p).length))

/-- The draft score (R275): from the sketch score that RERANK forwards, or from h where the image gives PACK no such stream. -/
def draftScore (p : PackSec) (q : Req) (r : ResultRec) (i l : Nat) : BitVec 32 :=
  let sk := if p.sketchScoreStream = 0 then ExNum.sub (.ofInt 1) (.ofIntExp (2 * r.h) (-(l.log2 : Int)))
    else fp32Val (q.sketchScores.getD i 0)
  fp32Code ((fp32Val (fp32Code ((fp32Val p.draftA).mul sk))).add (fp32Val p.draftB))

/-- Descending score, a NaN after every number (R274). -/
def scoreBefore (a b : BitVec 32) : Bool :=
  let x := fp32Val a
  let y := fp32Val b
  !x.isNan && (y.isNan || ExNum.ltv y x)

/-- The records in their final order, each with its place among the merged records (R274, R275). -/
def finalOrder (p : PackSec) (q : Req) (l : Nat) (rs : List ResultRec) : List (ResultRec × Nat) :=
  let m := scored q.record rs.length
  let mark (r : ResultRec) (i : Nat) : ResultRec × Nat :=
    if q.late.contains i then ({ r with score := draftScore p q r i l, drafted := true }, i)
    else ({ r with score := q.scores.getD i 0, reranked := true }, i)
  let cands := (rs.take m).mapIdx fun i r => mark r i
  sortBy (fun a b => !scoreBefore b.1.score a.1.score) cands ++ (rs.drop m).mapIdx fun i r => (r, m + i)

/-- Passages packed one by one until the first that does not fit (R277): the tokens, and how many were packed. -/
def packMore (pre post : List Nat) (budget tail : Nat) : List (List Nat) → List Nat → Nat → List Nat × Nat
  | [], acc, n => (acc, n)
  | t :: rest, acc, n =>
    if acc.length + pre.length + t.length + post.length + tail ≤ budget then
      packMore pre post budget tail rest (acc ++ pre ++ t ++ post) (n + 1)
    else (acc, n)

/-- The prompt, the passages packed and CUT (R277). -/
def prompt (tpl : List (List Nat)) (budget : Nat) (query : List Nat) (texts : List (List Nat)) : List Nat × Nat × Bool :=
  let arr (k : Nat) : List Nat := tpl.getD k []
  let head := arr 0 ++ query ++ arr 1
  let tail := arr 4
  if budget < head.length + tail.length then ((head ++ tail).take budget, 0, true)
  else
    let r := packMore (arr 2) (arr 3) budget tail.length texts head 0
    (r.1 ++ tail, r.2, false)

/-- A result written line by line; a line that holds a poisoned record carries memory poison, and all lines do once the module is
contained (R125, R278, R281, R452). -/
def writeResult (s : State) (q : Req) (header body : Bytes) (bad : List Bool) : State :=
  let all := s.integ.phase == .contained
  let off := u64 q.record 40
  let s := windowWrite s off header all (some q.rid)
  ((pieces 64 body).zipIdx).foldl (fun s p =>
    let mark := (List.range 4).any fun j => bad.getD (4 * p.2 + j) false
    windowWrite s (off + 64 + 64 * p.2) p.1 (all || mark) (some q.rid)) s

/-- The sheets of a batch that wait at RESULT are verified as its records are written: for each record of 16 bytes in their order, whether
it must be marked (R125, R200). -/
def resultMarks (s : State) (c b : Nat) : List Bool × State :=
  let here := (s.streams.filter fun p => p.2.cons == stnResult && p.2.ctx == c).flatMap fun p =>
    (p.2.arrived.filter fun sh => tagBatch sh.tag == b).map fun sh => (p.1, readQueued s p.2 sh)
  here.foldl (fun a q =>
    let (bad, s) := exitCheck a.2 stnResult c q.1 q.2
    (a.1 ++ List.replicate (ceilDiv (liveBytes q.2).length 16) bad, s)) ([], s)

/-- PACK writes a query's result and its completion is owed (R115, R274 to R281, R417). -/
def packResult (s : State) (q : Req) (p : PackSec) (k : Nat) (v : IndexVer) (rs : List ResultRec) : State :=
  let r := q.record
  let n := rs.length
  let short := decide (n < u16 r 24)
  let order := finalOrder p q v.desc.sketchBits rs
  let drafted := (order.filter fun x => x.1.drafted).length
  let budget := u32 r 32
  let texts := reqPassages s q p
  let picked := (order.filter fun x => decide (x.2 < fetched r n) && !q.late.contains x.2).map fun x => texts.getD x.2 []
  let query := q.queryWords.takeWhile fun w => w / 2 ^ 24 != 0xFF
  let (toks, packed, cut) := if budget = 0 then ([], 0, false)
    else prompt (p.templates.getD (u8 r 36) []) budget query (if p.textStream = 0 then [] else picked)
  let cond := q.cond ||| (if short then condBit .shortResult else 0) ||| (if drafted = 0 then 0 else condBit .degraded)
  let flags := b2n short + 2 * b2n (cond &&& condBit .degraded != 0) + 4 * b2n (cond &&& condBit .poisoned != 0) + 8 * b2n cut
  let header := leBytes 8 (u64 r 64) ++ leBytes 8 q.snapshot ++ leBytes 4 v.desc.version ++ leBytes 4 n ++ leBytes 4 toks.length ++
    leBytes 2 packed ++ leBytes 2 drafted ++ leBytes 4 flags ++ leBytes 4 q.probed ++ leBytes 8 q.scanned ++ leBytes 8 s.time ++ zeros 8
  let body := order.flatMap (fun x => resultBytes x.1) ++
    toks.flatMap (leBytes 4) ++ List.replicate (16 * ceilDiv toks.length 4 - 4 * toks.length) (0xFF : Byte)
  let (marks, s) := resultMarks s q.ctx q.batch
  let s := if trapFired s q.ctx then s
    else writeResult s q header body ((List.range (ceilDiv body.length 16)).map fun i =>
      ((order[i]?).map fun x => x.1.poison).getD false || marks.getD i false)
  let s := updIndex s k fun x =>
    { x with queries := satAdd (ones 32) x.queries 1, short := satAdd (ones 32) x.short (b2n short),
             reranked := satAdd (ones 32) x.reranked (scored r n - drafted), drafted := satAdd (ones 32) x.drafted drafted }
  updReq s q.rid fun q => { q with done := true, posts := q.posts ++ [⟨q.src, cond, packed, n, true⟩] }

/-- PACK goes on with a query once it has all it needs. -/
def tryPack (s : State) (rid : Nat) : State :=
  match reqOf s rid with
  | none => s
  | some q =>
    match packSec s q.ctx, queryIndex s q, q.recs with
    | some p, some (k, _, v), some rs => if !q.done && packReady s q p rs then packResult s q p k v rs else s
    | _, _, _ => s

/-- The live elements of a sheet in FP32. -/
def liveCodes (sh : Sheet) (grid : List (BitVec 16)) : List (BitVec 32) :=
  ((sheetVals sh grid).take (if sh.shape = 0 then 32 * sh.valid.toNat else sh.valid.toNat)).map fp32Code

/-- PACK takes a sheet of a query; its slot is free once it has read the words. -/
def packSheet (s : State) (n : Nat) (x : Stream) (sh : Sheet) : State :=
  match queryOf s x.ctx sh, packSec s x.ctx with
  | some q, some p =>
    let live := liveBytes sh
    let words := (pieces 4 live).map leNat
    let add (q : Req) : Req :=
      if x.localNo = p.recordsStream then { q with recsIn := q.recsIn + live.length }
      else if x.localNo = p.queryStream then { q with queryWords := q.queryWords ++ words }
      else if x.localNo = p.textStream then { q with textWords := q.textWords ++ words }
      else if x.localNo = p.scoreStream then
        { q with scores := q.scores ++ liveCodes sh (x.grid.getD []) }
      else if x.localNo = p.sketchScoreStream then
        { q with sketchScores := q.sketchScores ++ liveCodes sh (x.grid.getD []) }
      else q
    tryPack (updReq (addCond (freeSlots s n 1) q.rid (flagCond sh)) q.rid add) q.rid
  | _, _ => freeSlots s n 1

/-- FOLIO_MERGE (R270, R278, R280 to R282): the records of this member and of the other members in service, at most K each, are merged in the
order of R252, the first K are kept, and they go to PACK. What the members scanned adds up, and poison that one met counts. -/
def execFolioMerge (rid : Nat) (remote : List RemoteFound) (s : State) : Host.Outcome State Fault Refusal :=
  .next <|
    match reqOf s rid with
    | none => s
    | some q =>
      match q.localRecs, q.recs, queryIndex s q with
      | some mine, none, some (_, _, v) =>
        let far (m : Nat) (r : RemoteRec) : ResultRec :=
          ⟨r.h, r.margin, r.list, r.pos, m, r.key,
            fp32Exact (.sub (.ofInt 1) (.ofIntExp (2 * r.h) (-(v.desc.sketchBits.log2 : Int)))), false, false, r.poison⟩
        let k := u16 q.record 24
        let others := remote.filter fun f => inFolio s && f.module != s.folio.number && inService s f.module
        let bad := others.any fun f => f.poison || f.recs.any (·.poison)
        let rs := (sortRecs (mine ++ others.flatMap fun f => (f.recs.take k).map (far f.module))).take k
        let s := updReq s rid fun q =>
          { q with recs := some rs, scanned := q.scanned + (others.map (·.scanned)).sum, cond := q.cond ||| if bad then condBit .poisoned else 0 }
        tryPack (emitMerged s q rs) rid
      | _, _, _ => s

end Sys2Proof.Machine
end

