-- ==== Sys2Proof/Machine/VideoOps.lean ====
section
/-! DEFINITION. The training path: the shuffled order (R322 to R325), frame time and sampling (R326, R327), pictures to patch sheets
(R329, R330). -/

namespace Sys2Proof.Machine

/-! The order of positions (R323). -/

/-- ceil(log2 n), raised to an even number, at least 2. -/
def permBits (n : Nat) : Nat :=
  let c := if n ≤ 2 ^ n.log2 then n.log2 else n.log2 + 1
  let b := max 2 c
  if b % 2 = 1 then b + 1 else b

/-- perm(x): six rounds. -/
def permRounds (key : BitVec 64) (h x : Nat) : Nat :=
  let f (r j : Nat) : Nat := (mix64 (BitVec.ofNat 64 r + key + BitVec.ofNat 64 (j + 1))).toNat % 2 ^ h
  let p := (List.range 6).foldl (fun (p : Nat × Nat) j => (p.2, p.1 ^^^ f p.2 j)) (x / 2 ^ h, x % 2 ^ h)
  p.1 * 2 ^ h + p.2

/-- The walk through perm until it falls below `n`. -/
def permWalk (key : BitVec 64) (h n : Nat) : Nat → Nat → Nat
  | 0, y => y
  | fuel + 1, y => if n ≤ y then permWalk key h n fuel (permRounds key h y) else y

/-- π_s(q) for a shard of `n` rows. -/
def permute (seed : BitVec 64) (s n q : Nat) : Nat :=
  let h := permBits n / 2
  let key := mix64 (seed + BitVec.ofNat 64 s)
  permWalk key h n (2 ^ (2 * h)) (permRounds key h q)

/-- Rows of shard `k` of a manifest of `n` rows in `m` shards. -/
def shardCount (n m k : Nat) : Nat := ceilDiv (n - k) (max 1 m)

/-! Frame time (R326). -/

/-- PTS values unwrapped: a value lower than its predecessor by more than 2^32 has 2^33 added; a discontinuity restarts the count one
frame duration after the last timed frame. -/
def unwrapPts (pts0 : Nat) (fs : List Frame) : List Int :=
  ((fs.foldl (fun (a : List Int × Int × Int) f =>
    let v : Int := f.pts
    let off := match f.discontinuity with
      | some d => a.2.2 + d - v
      | none => if v + a.2.1 + 2 ^ 32 < a.2.2 then a.2.1 + 2 ^ 33 else a.2.1
    ((v + off) :: a.1, off, v + off)) ([], 0, (pts0 : Int))).1).reverse

/-- T_f of every frame, as an offset to BASE_TIME in ns. -/
def frameTimes (pts0 : Nat) (fs : List Frame) : List Int := (unwrapPts pts0 fs).map fun p => (p - pts0) * 100000 / 9

/-! Sampling (R327). -/

/-- The frames that WINDOW takes, by number: for each k the first frame at or after W₀ + k × STEP, each frame once. -/
def windowFrames (w0 w1 stepNs : Int) : List (Nat × Int) → Int → List Nat
  | [], _ => []
  | (n, t) :: rest, next =>
    if next ≤ t ∧ w0 ≤ t ∧ t < w1 then
      n :: windowFrames w0 w1 stepNs rest (if stepNs = 0 then next else w0 + ((t - w0) / stepNs + 1) * stepNs)
    else windowFrames w0 w1 stepNs rest next

/-- The numbers of the frames sampled from a unit. A picture error is never sampled (R321). -/
def sampledFrames (d : DecodeSec) (hdr : Bytes) (pts0 : Nat) (fs : List Frame) (errors : List Nat) : List Nat :=
  let times := (frameTimes pts0 fs).mapIdx fun n t => (n, t)
  let w0 : Int := u32 hdr 24 * 1000000
  let w1 : Int := w0 + u32 hdr 28 * 1000000
  let ns : List Nat := match d.mode with
    | 0 => (List.range fs.length).filter fun n => n % max 1 d.stepN == 0
    | 1 => (List.range fs.length).filter fun n => (fs.map (·.intra)).getD n false
    | _ => windowFrames w0 w1 (d.stepN * 1000000) times w0
  (ns.filter fun n => !errors.contains n).take d.maxSamples

/-! Pictures (R329). -/

/-- The source positions and weights of output position `i` when `n` positions become `m`: overlap where the dimension shrinks, linear
between pixel centres where it grows (log entry 30). The weights add up to `dimTotal`. -/
def dimWeights (n m i : Nat) : List (Nat × Nat) :=
  if m ≤ n then
    let lo := i * n / max 1 m
    let hi := ceilDiv ((i + 1) * n) (max 1 m)
    (List.range (hi - lo)).map fun j => (lo + j, min ((lo + j + 1) * m) ((i + 1) * n) - max ((lo + j) * m) (i * n))
  else
    let c := (2 * i + 1) * n - m
    let k := c / (2 * m)
    let f := c % (2 * m)
    [(k, 2 * m - f), (min (k + 1) (n - 1), f)]
def dimTotal (n m : Nat) : Nat := if m ≤ n then n else 2 * m

/-- The size to which a picture is scaled, and the offset at which OUT_W × OUT_H is cropped from it. -/
def scaledSize (d : DecodeSec) (w h : Nat) : (Nat × Nat) × (Nat × Nat) :=
  if d.resize = 0 then ((d.outW, d.outH), (0, 0))
  else if w * d.outH ≤ h * d.outW then
    let h' := max d.outH (h * d.outW / max 1 w)
    ((d.outW, h'), (0, (h' - d.outH) / 2))
  else
    let w' := max d.outW (w * d.outH / max 1 h)
    ((w', d.outH), ((w' - d.outW) / 2, 0))

/-- A channel of the resized picture at (x, y): numerator over (dimTotal × dimTotal × 65,535). -/
def resized (d : DecodeSec) (f : Frame) (x y c : Nat) : Nat :=
  let ((w', h'), (ox, oy)) := scaledSize d f.width f.height
  let px := f.rgb.toArray
  ((dimWeights f.height h' (y + oy)).map fun a =>
    ((dimWeights f.width w' (x + ox)).map fun b => a.2 * b.2 * px.getD ((a.1 * f.width + b.1) * 3 + c) 0).sum).sum

/-- A rational number with 160 bits after the point and a sticky last bit, which every later rounding of R96 and R97 treats as the
number itself. -/
def ratNum (n : Int) (d : Nat) : ExNum :=
  let m := n.natAbs * 2 ^ 160
  let q := m / max 1 d
  .fin (decide (n < 0)) (2 * q + if m % max 1 d = 0 then 0 else 1) (-161)

/-- A finite FP32 value in units of 2^-149. -/
def fp32Units (w : BitVec 32) : Int := (ExNum.shift (fp32Val w) 149).floor

/-- One element of the picture before its conversion: 255x for INT8, else v (R329 step 5), from x = n / t. -/
def pixelVal (f : Nat) (d : DecodeSec) (c n t : Nat) : ExNum :=
  if f = 0x01 then ratNum (255 * n) t
  else
    let mean := fp32Units (d.mean.getD c 0)
    let std := fp32Units (d.std.getD c 0)
    let num := (n : Int) * 2 ^ 149 - mean * t
    ratNum (if std < 0 then -num else num) (t * std.natAbs)

/-- A block row of the patch stream: INT8 takes round(255x) - 128 (R329). -/
def patchRow (f : Nat) (vals : List ExNum) (live : Nat) : Byte × List Nat :=
  if f = 0x01 then (0, (vals.zipIdx).map fun p => if p.2 < live then twos 8 (satInt 0 255 p.1 - 128) else 0)
  else if f = 0x30 then (0, (vals.zipIdx).map fun p => (Config.openSketch (fp32Code p.1).toNat p.2).toNat)
  else encodeBlock f (boundGrid []) vals

/-- The patch sheets of a sampled frame, group by group (R330). -/
def patchSheets (x : Stream) (d : DecodeSec) (f : Frame) (poison : Bool) (tag : BitVec 32) (origin : BitVec 64) : List Sheet :=
  let p := max 1 d.p
  let cols := d.outW / p
  let patches := cols * (d.outH / p)
  let size := 3 * p * p
  let rows := ceilDiv size 32
  let ((w', h'), _) := scaledSize d f.width f.height
  let t := dimTotal f.height h' * dimTotal f.width w' * 65535
  let elem (k e : Nat) : ExNum :=
    let c := e / (p * p)
    let y := k / max 1 cols * p + e % (p * p) / p
    let z := k % max 1 cols * p + e % p
    if size ≤ e then .zero else pixelVal x.format d c (resized d f z y c) t
  (List.range (ceilDiv patches 32)).flatMap fun g =>
    let n := min 32 (patches - 32 * g)
    (List.range rows).map fun j =>
      let bs := (List.range n).map fun i =>
        patchRow x.format ((List.range 32).map fun e => elem (32 * g + i) (32 * j + e)) (size - 32 * j)
      mkSheet x.format x.shape n (if poison then flagPoison else 0) tag origin x.grid (bs.map (·.1)) (pack x.format (bs.flatMap (·.2)))

/-- Sheets of one sample (R330). -/
def sampleSize (d : DecodeSec) : Nat :=
  let p := max 1 d.p
  ceilDiv (d.outW / p * (d.outH / p)) 32 * ceilDiv (3 * p * p) 32

/-- The header of a ring slot as DECODE fills it (R331, R336). -/
def slotHeader (kind flags p epoch position entry time frame : Nat) : Bytes :=
  leBytes 1 kind ++ leBytes 1 flags ++ leBytes 2 p ++ leBytes 4 epoch ++ leBytes 8 position ++ leBytes 8 entry ++
  leBytes 8 time ++ leBytes 4 frame ++ zeros 28

/-- Words of a 64-byte header as a record sheet (R331). -/
def headerSheet (hdr : Bytes) (flags : BitVec 16) (tag : BitVec 32) (origin : BitVec 64) : Sheet :=
  wordSheet ((pieces 4 hdr).map leNat) flags tag origin

def decodeSec (s : State) (c : Nat) : Option DecodeSec := (ctxOf s c).loaded.bind fun l => l.image.decode
def deliverSec (s : State) (c : Nat) : Option DeliverSec := (ctxOf s c).loaded.bind fun l => l.image.deliver

def bumpDec (s : State) (c : Nat) (f : DecMon → DecMon) : State := updCtx s c fun x => { x with dec := f x.dec }

end Sys2Proof.Machine
end

