-- ==== Sys2Proof/Machine/Transport.lean ====
section
/-! DEFINITION. The transport layer that DECODE accepts (R319 to R321): packets, sync, the PAT and the PMT, the caption PES packets. The layouts
are those of ISO/IEC 13818-1, which R319 names (log entry 141). -/

namespace Sys2Proof.Machine

/-- A transport packet: where in the unit it stands, its PID, whether a section or PES packet starts in it, its payload, whether that was
discarded, and its continuity counter where it counts; `jumps`: a discontinuity_indicator stands in it. -/
structure TsPacket where
  place : Nat
  pid : Nat
  starts : Bool
  payload : Bytes
  lost : Bool
  counter : Option Nat
  jumps : Bool
deriving DecidableEq, Repr

/-- Bytes that a packet spans (R319). -/
def tsBytes : Nat := 188

/-- A packet read from its 188 bytes; the payload of one with transport_error_indicator is discarded (R321). -/
def tsPacket (place : Nat) (b : Bytes) : TsPacket :=
  let adapts := bitSet (u8 b 3) 5
  let carries := bitSet (u8 b 3) 4
  let lost := bitSet (u8 b 1) 7
  ⟨place, u8 b 1 % 32 * 256 + u8 b 2, bitSet (u8 b 1) 6, if carries && !lost then b.drop (4 + if adapts then 1 + u8 b 4 else 0) else [],
    lost, if carries && !lost then some (u8 b 3 % 16) else none, adapts && 0 < u8 b 4 && bitSet (u8 b 5) 7⟩

/-- Where sync is regained: at five 0x47 bytes spaced 188 apart (R321). -/
def syncAt : Bytes → Option Bytes
  | [] => none
  | b :: bs => if (List.range 5).all fun k => u8 (b :: bs) (tsBytes * k) == 0x47 then some (b :: bs) else syncAt bs

/-- The packets of a span from `place` on, and the sync searches that it takes (R321, R339). -/
def tsPackets : Nat → Nat → Bytes → List TsPacket × Nat
  | 0, _, _ => ([], 0)
  | fuel + 1, place, bs =>
    if u8 bs 0 = 0x47 then
      if bs.length < tsBytes then ([], 0)
      else
        let r := tsPackets fuel (place + tsBytes) (bs.drop tsBytes)
        (tsPacket place (bs.take tsBytes) :: r.1, r.2)
    else if bs.isEmpty then ([], 0)
    else match syncAt bs with
      | some rest => let r := tsPackets fuel (place + (bs.length - rest.length)) rest; (r.1, r.2 + 1)
      | none => ([], 1)

/-- The first section that a PID carries: from the first payload that starts one, past its pointer_field. -/
def tsSection (ps : List TsPacket) (pid : Nat) : Bytes :=
  match (ps.filter fun p => p.pid == pid && p.payload != []).dropWhile fun p => !p.starts with
  | [] => []
  | p :: rest =>
    let all := p.payload.drop (1 + u8 p.payload 0) ++ rest.flatMap fun q => if q.starts then q.payload.drop 1 else q.payload
    all.take (3 + beNat (slice all 1 2) % 4096)

/-- The PID of the PMT that the PAT gives for a program, or for its first program where the number is 0 (R322); entries of program_number 0
name the network, not a program. -/
def pmtPid (ps : List TsPacket) (program : Nat) : Option Nat :=
  let sec := tsSection ps 0
  let entries := (List.range ((sec.length - 12) / 4)).map fun k => (beNat (slice sec (8 + 4 * k) 2), beNat (slice sec (10 + 4 * k) 2) % 8192)
  if sec.take 1 != [0] then none
  else ((entries.filter fun e => e.1 != 0).find? fun e => program == 0 || e.1 == program).map (·.2)

/-- The elementary streams of a PMT: stream_type, PID and descriptors. -/
def pmtStreams : Nat → Bytes → List (Nat × Nat × Bytes)
  | 0, _ => []
  | fuel + 1, b =>
    if b.length < 5 then []
    else
      let n := beNat (slice b 3 2) % 4096
      (u8 b 0, beNat (slice b 1 2) % 8192, slice b 5 n) :: pmtStreams fuel (b.drop (5 + n))

/-- The elementary streams of an entry's program (R319, R322). -/
def programStreams (ps : List TsPacket) (program : Nat) : List (Nat × Nat × Bytes) :=
  match pmtPid ps program with
  | none => []
  | some pid =>
    let sec := tsSection ps pid
    let loop := (sec.take (sec.length - 4)).drop (12 + beNat (slice sec 10 2) % 4096)
    if sec.take 1 == [2] then pmtStreams loop.length loop else []

/-- A registration descriptor of 'AV01' among descriptors. -/
def av01 : Nat → Bytes → Bool
  | 0, _ => false
  | fuel + 1, d =>
    if d.length < 2 then false
    else if u8 d 0 = 5 && slice d 2 4 == [0x41, 0x56, 0x30, 0x31] then true
    else av01 fuel (d.drop (2 + u8 d 1))

/-- A video stream_type of the table of R319. -/
def videoType (e : Nat × Nat × Bytes) : Bool :=
  e.1 == 0x02 || e.1 == 0x1B || e.1 == 0x24 || (e.1 == 0x06 && av01 e.2.2.length e.2.2)

/-- Payload bytes of a PES packet; a stream_id from which the standard leaves the optional header out has them at byte 6. -/
def pesPayload (b : Bytes) : Bytes :=
  let id := u8 b 3
  let plain := [0xBC, 0xBE, 0xBF, 0xF0, 0xF1, 0xF2, 0xF8, 0xFF].contains id
  let whole := if beNat (slice b 4 2) = 0 then b else b.take (6 + beNat (slice b 4 2))
  if b.take 3 != [0, 0, 1] then [] else if plain then whole.drop 6 else whole.drop (9 + u8 b 8)

/-- A PES packet: its bytes, the places of the transport packets that it came in, and whether it is damaged (R321). -/
structure PesPacket where
  bytes : Bytes
  places : List Nat
  damaged : Bool
deriving DecidableEq, Repr

/-- A gap in a PID's continuity counters before a packet (R321): it is neither the next value nor, as the standard lets a packet be sent
twice, the same again. -/
def counterGap (last : Option Nat) (p : TsPacket) : Bool :=
  match last, p.counter with
  | some a, some b => !p.jumps && b != (a + 1) % 16 && b != a
  | _, _ => false

/-- The PES packets of a PID, newest first, with the last continuity counter: a gap damages the packet that it falls in, which is the one
under way, and so does a payload that was discarded (R321; log entry 148). -/
def pesStep (acc : List PesPacket × Option Nat) (p : TsPacket) : List PesPacket × Option Nat :=
  let gap := counterGap acc.2 p
  let open_ : List PesPacket := match acc.1 with
    | [] => []
    | x :: rest => { x with damaged := x.damaged || gap } :: rest
  let last := p.counter.or acc.2
  if p.starts then (⟨p.payload, [p.place], p.lost⟩ :: open_, last)
  else match open_ with
    | [] => ([], last)
    | x :: rest =>
      if p.counter.isSome && p.counter == acc.2 && !p.jumps then (open_, last)
      else ({ x with bytes := x.bytes ++ p.payload, places := x.places ++ [p.place], damaged := x.damaged || p.lost } :: rest, last)

def pesPackets (ps : List TsPacket) (pid : Nat) : List PesPacket :=
  ((ps.filter fun p => p.pid == pid).foldl pesStep ([], none)).1.reverse

/-- Whether a byte of the transport packets at the places given lies in one of the parts [from, to) of the unit. -/
def packetsIn (places : List Nat) (parts : List (Nat × Nat)) : Bool :=
  places.any fun a => parts.any fun r => decide (a < r.2) && decide (r.1 < a + tsBytes)

/-- What the transport layer gives of a unit (R319 to R321): whether the entry's program has a video stream of R319's table, the PES packets
of that stream, those of CAPTION_PID where the program lists it with stream_type 0x06 (R331), and the sync searches. -/
structure TsUnit where
  video : Bool
  pes : List PesPacket
  caption : List PesPacket
  searches : Nat

/-- The transport layer of a unit's bytes, header first (R322, R324). -/
def tsUnit (unit : Bytes) : TsUnit :=
  let bs := (unit.drop 64).take (u32 unit 8)
  let (ps, searches) := tsPackets (bs.length + 1) 64 bs
  let es := programStreams ps (u16 unit 12)
  let cap := u16 unit 14
  ⟨es.any videoType, ((es.find? videoType).map fun e => pesPackets ps e.2.1).getD [],
    if cap ≠ 0 ∧ (es.any fun e => e.1 == 0x06 && e.2.1 == cap) then pesPackets ps cap else [], searches⟩

/-! Damage and poison of pictures (R321). -/

/-- What a set of pictures passes on to those that reference them, up to the next picture coded wholly intra. -/
def spread (fs : List Frame) (seed : List Nat) : List Nat :=
  let grow (bad : List Nat) : List Nat := (List.range fs.length).filter fun n =>
    bad.contains n || match fs[n]? with
      | some f => !f.intra && f.refs.any bad.contains
      | none => false
  (List.range fs.length).foldl (fun bad _ => grow bad) seed

/-- The pictures of a unit that a condition on their own bytes holds for, by frame number. -/
def framesWhere (fs : List Frame) (q : Frame → Bool) : List Nat := (List.range fs.length).filter fun n => (fs.map q).getD n false

/-- The picture errors of a unit: pictures with a syntax error or from a damaged PES packet, and those that reference one. -/
def pictureErrors (ts : TsUnit) (fs : List Frame) : List Nat :=
  spread fs (framesWhere fs fun f => f.syntaxError || ts.pes.any fun p => p.damaged && packetsIn p.places f.spans)

/-- The pictures of a unit decoded from poisoned bytes, and those that reference one. -/
def poisonedPictures (poison : List (Nat × Nat)) (fs : List Frame) : List Nat :=
  spread fs (framesWhere fs fun f => f.spans.any fun a => poison.any fun r => decide (a.1 < r.2) && decide (r.1 < a.2))

/-- A unit is skipped whole (R320): it has no supported video stream, a picture beyond 4,096 × 2,304, or a stream that the engine finds beyond
the profiles, levels and formats of R319, which the codec standards define. -/
def unitSkipped (ts : TsUnit) (obs : UnitObs) : Bool :=
  obs.unsupported || !ts.video || obs.frames.any fun f => decide (4096 < f.width) || decide (2304 < f.height)

end Sys2Proof.Machine
end

