-- ==== Sys2Proof/Machine/Video.lean ====
section
/-! DEFINITION. SHUFFLE, DECODE, deduplication and DELIVER (R320 to R338). -/

namespace Sys2Proof.Machine

/-! Positions and end records. -/

/-- What is kept of a position from its first sample to its end record (R333). -/
def endOf (x : Ctx) (p : Nat) : EndRec := (x.ends.find? fun e => e.position == p).getD ⟨p, none, none, 0, 0, false⟩

def setEnd (s : State) (c : Nat) (e : EndRec) : State :=
  updCtx s c fun x => { x with ends := (x.ends.filter fun y => y.position != e.position) ++ [e] }

/-- A position that gives no samples (R324, R450): its end record is there at once. -/
def emptyPosition (s : State) (c : Nat) (d : Delivery) (flags p r : Nat) : State :=
  let hdr := slotHeader 1 flags (((decodeSec s c).map (·.p)).getD 0) d.epoch p r 0 0
  setEnd s c ⟨p, some hdr, none, 0, 0, bitSet flags 0⟩

/-! SHUFFLE. -/

/-- The shards of a manifest that this module handles (R323, R338). -/
def manifestShards (s : State) (t : TableDesc) : List Nat :=
  (List.range t.shards).filter fun k => t.member.getD k 0xFF == s.folio.number ||
    (decide (2 ≤ t.shards) && t.member.getD ((k + 1) % t.shards) 0xFF == s.folio.number && !inService s (t.member.getD k 0xFF))

/-- The next position to issue: those to be issued again, then in ascending q: (shard, q). -/
def nextPosition (s : State) (d : Delivery) (t : TableDesc) : Option (Nat × Nat) :=
  match d.again with
  | p :: _ => some (p % max 1 t.shards, p / max 1 t.shards)
  | [] =>
  ((manifestShards s t).map fun k => (k, mapGet d.nextQ k 0)).foldl (fun best p =>
    if shardCount d.rows d.shards p.1 ≤ p.2 then best
    else match best with
      | none => some p
      | some b => if p.2 < b.2 then some p else some b) none

/-- SHUFFLE_ISSUE (R323, R324, R338, R447, R450): the next position is issued while fewer than LOOKAHEAD await their end records. Its row is read;
one out of bounds or poisoned gives no samples, and every other becomes a request of 64 bytes to FEED (log entry 26). -/
def execShuffleIssue (on : Checked) (s : State) : Host.Outcome State Fault Refusal :=
  let ctx := on.ctx
  onUnit (decide (ctx < 16)) <|
    let x := ctxOf s ctx
    match x.delivery, x.loaded.bind fun l => l.image.shuffle with
    | some d, some h =>
      match ((tableOf s d.manifest).bind fun t => t.2.version d.version).map fun v => (v, nextPosition s d v.desc) with
      | some (v, some (k, q)) =>
        let again := d.again != []
        if !again && (d.stopped || decide (h.lookahead ≤ d.open_.length)) then s
        else
          let p := q * d.shards + k
          let r := permute d.seed k (shardCount d.rows d.shards k) q * d.shards + k
          let ((row, bad), s) := anyRow s v r (((reqOf s d.rid).map (·.firstOrigin)).getD 0)
          let d' := if again then { d with again := d.again.drop 1, poison := d.poison || bad }
            else { d with nextQ := mapPut d.nextQ k (q + 1), open_ := d.open_ ++ [(p, r)], poison := d.poison || bad }
          let s := setCtx s ctx { x with delivery := some d' }
          let skip (s : State) : State := bumpDec s ctx fun m => { m with skipped := satAdd 0xFFFF m.skipped 1 }
          if bad then emptyPosition s ctx d 1 p r
          else if d.rows ≤ r ∨ userBytes < u64 row 0 + u32 row 8 then emptyPosition (skip s) ctx d 8 p r
          else
            let hdr := row.take 32 ++ leBytes 8 p ++ leBytes 8 r ++ leBytes 4 d.epoch ++ zeros 12
            let (t, s) := draw s 1
            let tag := tagOf ctx (Config.slotSeq t).toNat
            let s := if on.checkFailed then detected s stnShuffle ctx 0 0 0 0 true else s
            sendBytes s ctx (h.reqStreams.getD (q % max 1 h.reqStreams.length) 0) (if on.checkFailed then flagPoison else 0) tag
              (BitVec.ofNat 64 (((reqOf s d.rid).map (·.origin)).getD 0)) hdr
      | _ => s
    | _, _ => s

/-! DECODE. -/

/-- Whether an engine's unit has all its bytes: the header and BYTES more (R324). -/
def Engine.complete (e : Engine) : Bool := decide (64 ≤ e.bytes.length) && decide (64 + u32 e.bytes 8 ≤ e.bytes.length)

/-- A bound engine takes the sheets of its unit, whose slots are free once it has their bytes. -/
def takeUnit (s : State) (n k : Nat) : Nat → State
  | 0 => s
  | fuel + 1 =>
    match mapFind s.engines k, (streamOf s n).bind fun x => x.inbox.head? with
    | some e, some sh =>
      if e.complete || sh.tag != e.tag then s
      else
        let e := { e with bytes := e.bytes ++ sh.data.take sh.valid.toNat, 
                            poison := e.poison ++ if sh.poison then [(e.bytes.length, e.bytes.length + sh.valid.toNat)] else [] }
        let s := updStream { s with engines := mapPut s.engines k e } n fun x => { x with inbox := x.inbox.drop 1 }
        takeUnit (freeSlots s n 1) n k fuel
    | _, _ => s

/-- The engine bound to a stream. -/
def engineOf (s : State) (n : Nat) : Option Nat := (s.engines.find? fun e => e.2.stream == n).map (·.1)

def pumpUnit (s : State) (n : Nat) : State :=
  match engineOf s n with
  | some k => takeUnit s n k ((((streamOf s n).map fun x => x.inbox.length).getD 0) + 1)
  | none => s

/-- DECODE takes a sheet of a unit (R324, R328). -/
def decodeSheet (s : State) (n : Nat) (sh : Sheet) : State :=
  pumpUnit (updStream s n fun x => { x with inbox := x.inbox ++ [sh] }) n

/-- Streams with a unit that waits for an engine (R328). -/
def readyStreams (s : State) : List (Nat × Stream) :=
  s.streams.filter fun p => p.2.cons == stnDecode && !p.2.inbox.isEmpty && (engineOf s p.1).isNone

/-- DECODE_ENGINE_GRANT (R142, R328): a free engine is granted to a ready stream. -/
def execDecodeEngineGrant (engine : Nat) (s : State) : Host.Outcome State Fault Refusal :=
  onUnit (decide (engine < 8)) <|
    if (mapFind s.engines engine).isSome || !domainOn s 18 then s
    else
      let a := mapGet s.arbiters engineArbiter ⟨[], 0, none⟩
      let ready := readyStreams s
      let old := mapFilter a.waiting fun n _ => ready.any fun p => p.1 == n
      let m := ready.foldl (fun m p =>
        register m ⟨p.1, stnDecode, p.2.ctx, 0, false⟩ (stationPriority s p.2.ctx stnDecode)) old
      match arbChoice false m a.pointer with
      | none => s
      | some g =>
        let rest := mapAll (mapDrop m g.port) fun _ => passOver false g
        let s := { s with arbiters := mapPut s.arbiters engineArbiter ⟨rest, g.port + 1, some g.port⟩ }
        let tag := (((streamOf s g.port).bind fun x => x.inbox.head?).map (·.tag)).getD 0
        let s := { s with engines := mapPut s.engines engine ⟨g.context, g.port, tag, [], []⟩ }
        pumpUnit (countEscalation s g) g.port

/-- One sampled frame leaves (R329 to R331): a batch of its own, its patch sheets on PATCH and COPY, its record. -/
def emitSample (s : State) (c : Nat) (d : DecodeSec) (hdr : Bytes) (f : Frame) (poison : Bool) (n : Nat) (time : Int) : State :=
  match (localStream s c d.patch).bind (streamOf s) with
  | none => s
  | some x =>
    let (b, s) := formBatch s c
    let tag := tagOf c b
    let origin := BitVec.ofNat 64 s.time
    let shs := patchSheets x d f poison tag origin
    let both (s : State) (l : Nat) : State := match localStream s c l with | some m => emitAll s m shs | none => s
    let t := ((u64 hdr 16 : Int) + time).toNat % 2 ^ 64
    emitLocal (both (both s d.patch) d.copy) c d.recordStream
      (headerSheet (slotHeader 0 0 d.p (u32 hdr 48) (u64 hdr 32) (u64 hdr 40) t n) (if poison then flagPoison else 0) tag origin)

/-- DECODE_UNIT_END (R320, R321, R326 to R331, R339, R447): the frames that R327 samples leave in order, the captions as one unit of their own
batch, and the end record, whose TAG names that batch. The engine is free. -/
def execDecodeUnitEnd (engine : Nat) (obs : UnitObs) (s : State) : Host.Outcome State Fault Refusal :=
  onUnit (decide (engine < 8)) <|
    match (mapFind s.engines engine).bind fun e => (decodeSec s e.ctx).map fun d => (e, d) with
    | none => s
    | some (e, d) =>
      if !e.complete || !domainOn s 18 then s
      else
        let c := e.ctx
        let hdr := e.bytes.take 64
        let ts := tsUnit e.bytes
        let bad := unitSkipped ts obs
        let fs := if bad then [] else obs.frames
        let errors := pictureErrors ts fs
        let marked := if obs.checkFailed then List.range fs.length else poisonedPictures e.poison fs
        let count (m : DecMon) : DecMon :=
          { m with pixels := satAdd (ones 64) m.pixels ((fs.filter (·.decoded)).map (·.luma)).sum
                   pictErr := satAdd (ones 32) m.pictErr errors.length
                   skipped := satAdd 0xFFFF m.skipped (b2n bad)
                   resync := satAdd 0xFFFF m.resync ts.searches }
        let s := bumpDec { s with engines := mapDrop s.engines engine } c count
        let times := frameTimes obs.pts0 fs
        let s := (sampledFrames d hdr obs.pts0 fs errors).foldl (fun s n =>
          match fs[n]? with
          | some f => emitSample s c d hdr f (marked.contains n) n (times.getD n 0)
          | none => s) s
        let (b, s) := formBatch s c
        let tag := tagOf c b
        let origin := BitVec.ofNat 64 s.time
        let said := if bad then [] else ts.caption
        let text := said.flatMap fun p => pesPayload p.bytes
        let s := if obs.checkFailed then detected s stnDecode c 0 0 0 0 true else s
        let s := sendBytes s c d.caption (if said.any fun p => packetsIn p.places e.poison then flagPoison else 0) tag origin (leBytes 8 text.length ++ text)
        emitLocal s c d.recordStream
          (headerSheet (slotHeader 1 (if bad then 4 else 0) d.p (u32 hdr 48) (u64 hdr 32) (u64 hdr 40) 0 0)
            (if e.poison != [] || obs.checkFailed then flagPoison else 0) tag origin)

/-! Deduplication. -/

/-- A verdict (R332): the sketch is dropped when a retained one lies nearer than THRESHOLD; a poisoned one is kept and not retained. -/
def dedupVerdict (x : Ctx) (d : DecodeSec) (sh : Sheet) : Bool × Ctx :=
  let k := sketchAt sh.data 0 d.sketchBits
  if sh.poison then (false, x)
  else if x.retained.any fun r => decide (distance r k < d.threshold) then (true, x)
  else (false, { x with retained := (x.retained ++ [k]).drop (x.retained.length + 1 - d.retain) })

/-- PROBE judges a sample's sketch (R332): the verdict keeps the sketch's flags but SUBST (R121), and the kept sketch is forwarded (R124). -/
def dedupSheet (s : State) (n : Nat) (x : Stream) (sh : Sheet) : State :=
  match decodeSec s x.ctx with
  | none => freeSlots s n 1
  | some d =>
    let (drop, y) := dedupVerdict (ctxOf s x.ctx) d sh
    let s := freeSlots (setCtx s x.ctx y) n 1
    let word := tagBatch sh.tag + 2 ^ 31 * b2n drop + 2 ^ 30 * b2n sh.poison
    let s := emitLocal s x.ctx d.verdict (wordSheet [word] (sh.flags &&& 0xB) sh.tag sh.origin)
    if d.accept = 0 ∨ drop then s
    else emitLocal s x.ctx d.accept (reflag sh (sh.flags &&& 0xB)) false

/-! DELIVER. -/

def sampleAt (x : Ctx) (b : Nat) : Sample := (x.samples.find? fun y => y.batch == b).getD ⟨b, 0, none, [], none⟩

def setSample (x : Ctx) (y : Sample) : Ctx :=
  if x.samples.any fun z => z.batch == y.batch then { x with samples := x.samples.map fun z => if z.batch == y.batch then y else z }
  else { x with samples := x.samples ++ [y] }

/-- Record, patch sheets and verdict are all there (R333). -/
def Sample.whole (y : Sample) (d : DecodeSec) : Bool :=
  y.header.isSome && y.verdict.isSome && decide (sampleSize d ≤ y.sheets.length)

def Sample.dropped (y : Sample) : Bool := ((y.verdict.map fun w => bitSet w 31)).getD false

/-- A sample leaves DELIVER: the slots that it held are free. -/
def releaseSample (s : State) (c : Nat) (d : DecodeSec) (y : Sample) : State :=
  let free (s : State) (l k : Nat) : State := match localStream s c l with | some n => freeSlots s n k | none => s
  let s := updCtx s c fun x => { x with samples := x.samples.filter fun z => z.batch != y.batch }
  free (free (free s d.recordStream 1) d.copy y.sheets.length) d.verdict 1

/-- A whole sample that was dropped is discarded and counted (R332, R333). -/
def discardDropped (s : State) (c b : Nat) : State :=
  match decodeSec s c with
  | some d =>
    let y := sampleAt (ctxOf s c) b
    if y.whole d && y.dropped then
      let e := endOf (ctxOf s c) y.position
      let s := setEnd (releaseSample s c d y) c { e with dropped := e.dropped + 1 }
      bumpDec s c fun m => { m with dropped := satAdd (ones 32) m.dropped 1 }
    else s
  | none => s

/-- DELIVER takes a sheet: a record, a patch sheet, a verdict or caption tokens (R333). -/
def deliverSheet (s : State) (n : Nat) (x : Stream) (sh : Sheet) : State :=
  match decodeSec s x.ctx, deliverSec s x.ctx with
  | some d, some v =>
    let c := x.ctx
    let y := ctxOf s c
    let b := tagBatch sh.tag
    if x.localNo = d.recordStream then
      let hdr := sh.data.take 64
      let p := u64 hdr 8
      if u8 hdr 0 = 1 then
        freeSlots (setEnd s c { endOf y p with header := some hdr, captionBatch := some b, poison := sh.poison }) n 1
      else
        let z := { sampleAt y b with header := some hdr, position := p }
        discardDropped (setCtx s c (setSample y z)) c b
    else if x.localNo = d.copy then
      let z := sampleAt y b
      discardDropped (setCtx s c (setSample y { z with sheets := z.sheets ++ [sh] })) c b
    else if x.localNo = d.verdict then
      let w := leNat (sh.data.take 4)
      let k := if sh.poison then b else w % 2 ^ 28
      let w := if sh.poison then 2 ^ 30 else w
      discardDropped (setCtx s c (setSample y { sampleAt y k with verdict := some w })) c k
    else if x.localNo = v.tokens then
      let ws := ((pieces 4 (liveBytes sh)).map leNat)
      let s := setCtx s c { y with captions := mapPut y.captions b (mapGet y.captions b [] ++ ws) }
      freeSlots s n 1
    else freeSlots s n 1
  | _, _ => freeSlots s n 1

/-- What goes into a port's ring next (R333): the oldest whole sample of the port, else an end record whose samples have all gone and whose
captions are there. -/
inductive RingItem where
  | sample (y : Sample)
  | ending (e : EndRec) (tokens : List Nat)

def nextItem (x : Ctx) (d : DecodeSec) (ports port : Nat) : Option RingItem :=
  match x.samples.find? fun y => y.whole d && !y.dropped && y.position % max 1 ports == port with
  | some y => some (.sample y)
  | none =>
    let tokens (e : EndRec) : List Nat := match e.captionBatch with | some b => mapGet x.captions b [] | none => []
    let ready (e : EndRec) : Bool :=
      e.header.isSome && e.position % max 1 ports == port && !(x.samples.any fun y => y.header.isSome && y.position == e.position) &&
      (e.captionBatch.isNone || (tokens e).any fun w => w / 2 ^ 24 == 0xFF)
    (x.ends.find? ready).map fun e => .ending e (tokens e)

/-- A slot's lines wait for the host's answers to their back-invalidate snoops; a line of a poisoned sheet carries memory poison (R125,
R335, R404). -/
def ringLines (s : State) (pages : List Nat) (off : Nat) (parts : List (Bytes × Bool)) : State :=
  (parts.foldl (fun (a : State × Nat) p =>
    (((pieces 64 p.1).zipIdx).foldl (fun s q =>
      { s with host.snoops := s.host.snoops ++ [⟨pageAddr pages (a.2 + 64 * q.2) / 64, q.1, p.2, none⟩] }) a.1,
     a.2 + ceilDiv p.1.length 64 * 64)) (s, off)).1

/-- Lines of a slot's parts that carry poison. -/
def markedLines (parts : List (Bytes × Bool)) : List Nat :=
  (parts.foldl (fun (a : List Nat × Nat) p =>
    let n := ceilDiv p.1.length 64
    (if p.2 then a.1 ++ (List.range n).map (a.2 + ·) else a.1, a.2 + n)) ([], 0)).1

/-- Slot `k` of a ring and then PRODUCED are written; a ring on another member is reached over the hatch (R333, R335). Once the context's
NaN trap has fired nothing is delivered (R115). -/
def writeSlot (s : State) (c port : Nat) (p : PortEntry) (pages : List Nat) (k : Nat) (parts : List (Bytes × Bool)) : State :=
  if trapFired s c then s else
  let s := updCtx s c fun x => { x with produced := mapPut x.produced port (k + 1) }
  if p.module ≠ s.folio.number then sendReply s .hatchFrame 0 (parts.flatMap (·.1)) (markedLines parts)
  else
    let s := ringLines s pages (64 + k % max 1 p.slots * p.slotBytes) parts
    { s with host.snoops := s.host.snoops ++ [⟨pageAddr pages 0 / 64, leBytes 8 (k + 1), false, none⟩] }

/-- CONSUMED of a ring as the host wrote it. -/
def consumedOf (s : State) (pages : List Nat) : Nat := leNat (cellsRead s.mem (pageAddr pages 8) 8)

/-- Fields of a header that DELIVER fills (R336). -/
def fillHeader (s : State) (hdr : Bytes) (flags kept dropped len : Nat) : Bytes :=
  overlay (overlay (overlay (overlay (overlay hdr 1 (leBytes 1 flags)) 36 (leBytes 4 kept)) 40 (leBytes 4 dropped)) 44
    (leBytes 4 len)) 48 (leBytes 8 s.time)

/-- CONSUMED records of poison that leaves through a ring (R450). -/
def biteRecord (s : State) (c stn : Nat) : State :=
  recordErr s { cls := .consumed, unitKind := 6, unit := stn, op := 6, ctx := c, station := stn, detailA := 5 }

/-- A sheet as a ring's slot holds it: on its way to another member a marked one is flagged POISON (R125). -/
def ringSheet (s : State) (p : PortEntry) (sh : Sheet) (bad : Bool) : Bytes :=
  sheetSlot (if p.module ≠ s.folio.number ∧ bad then reflag sh (sh.flags ||| flagPoison) else sh)

/-- A sample written to slot `k`: every sheet is checked, and one that fails makes a DETECTED record (R125, R335, R336). A sample that the
NaN trap withholds counts as neither kept nor delivered (R115). -/
def putSample (s : State) (c port : Nat) (p : PortEntry) (pages : List Nat) (k : Nat) (d : DecodeSec) (y : Sample) : State :=
  let rep := ((ctxOf s c).delivery.map fun j => j.repeats.contains y.position).getD false
  let n := (localStream s c d.copy).getD 0
  let (checked, s) := y.sheets.foldl (fun (a : List (Sheet × Bool) × State) sh =>
    let (bad, s) := exitCheck a.2 stnDeliver c n sh
    (a.1 ++ [(sh, bad)], s)) ([], s)
  let poison := checked.any (·.2) || ((y.verdict.map fun w => bitSet w 30)).getD false
  let held := trapFired s c
  let s := if poison && !held then biteRecord s c stnDeliver else s
  let payload := checked.map fun q => (ringSheet s p q.1 q.2, q.2)
  let len := (payload.map fun q => q.1.length).sum
  let hdr := fillHeader s (y.header.getD (zeros 64)) (b2n poison + 16 * b2n rep) 0 0 len
  let e := endOf (ctxOf s c) y.position
  let s := setEnd (releaseSample s c d y) c { e with kept := e.kept + b2n !held }
  let mark (j : Delivery) : Delivery := { j with poison := j.poison || poison }
  let s := updCtx s c fun x => { x with delivery := x.delivery.map mark, dec := { x.dec with kept := satAdd (ones 32) x.dec.kept (b2n !held) } }
  writeSlot s c port p pages k ((hdr, false) :: payload)

/-- An end record written to slot `k` (R333, R336). -/
def putEnd (s : State) (c port : Nat) (p : PortEntry) (pages : List Nat) (k : Nat) (e : EndRec) (tokens : List Nat) : State :=
  let rep := ((ctxOf s c).delivery.map fun j => j.repeats.contains e.position).getD false
  let room := (p.slotBytes - 64) / 4
  let cut := decide (room < tokens.length)
  let hdr0 := e.header.getD (zeros 64)
  let payload := (tokens.take room).flatMap (leBytes 4)
  let flags := u8 hdr0 1 ||| (b2n e.poison + 2 * b2n cut + 16 * b2n rep)
  let hdr := fillHeader s hdr0 flags e.kept e.dropped payload.length
  let s := if e.poison && !trapFired s c then biteRecord s c stnDeliver else s
  let drop (j : Delivery) : Delivery :=
    { j with open_ := j.open_.filter fun q => q.1 != e.position, ended := j.ended + 1, poison := j.poison || e.poison }
  let s := updCtx s c fun x =>
    { x with ends := x.ends.filter fun y => y.position != e.position
             captions := match e.captionBatch with | some b => mapDrop x.captions b | none => x.captions
             delivery := x.delivery.map drop
             dec := { x.dec with ended := satAdd (ones 32) x.dec.ended 1 } }
  writeSlot s c port p pages k [(hdr, false), (payload, false)]

/-- DELIVER_WRITE (R333 to R336): the next item of a port goes into its ring when k < CONSUMED + SLOTS; a CONSUMED above PRODUCED is taken as
PRODUCED, with a usage error. The room of a ring on another member is that member's to tell (log entry 20). -/
def execDeliverWrite (ctx port : Nat) (s : State) : Host.Outcome State Fault Refusal :=
  onUnit (decide (ctx < 16)) <|
    match decodeSec s ctx, (deliverSec s ctx).bind fun v => (v.ports[port]?).map fun p => (v, p) with
    | some d, some (v, p) =>
      let x := ctxOf s ctx
      match nextItem x d v.ports.length port with
      | none => s
      | some item =>
        let pages := (x.loaded.map fun l => mapGet l.regionPages p.region []).getD []
        let k := mapGet x.produced port 0
        let mine := p.module == s.folio.number
        let c := consumedOf s pages
        let s := if mine && decide (k < c) then usageStn s stnDeliver ctx 0 0 else s
        if mine && !trapFired s ctx && decide (min c k + p.slots ≤ k) then s
        else match item with
          | .sample y => putSample s ctx port p pages k d y
          | .ending e ts => putEnd s ctx port p pages k e ts
    | _, _ => s

/-- Whether a delivery job has come to its end: every position that this module handles has its end record, or a stop ended it with nothing
issued still open (R338, R414). -/
def deliveryEnded (s : State) (d : Delivery) : Bool :=
  d.open_.isEmpty &&
  (d.stopped || ((((tableOf s d.manifest).bind fun t => t.2.version d.version).map fun v => nextPosition s d v.desc).getD none).isNone)

end Sys2Proof.Machine
end

