-- ==== Sys2Proof/Machine/Clock.lean ====
section
/-! DEFINITION. The passing of time: what a nanosecond changes when no command waits (R6, R25, R148, R149, R339, R549). -/

namespace Sys2Proof.Machine

/-- Counts that run with time for a stream: the producer holds no credit (R148). -/
def tickStream (x : Stream) : Stream := if x.credits = 0 then { x with zeroNs := satAdd (ones 64) x.zeroNs 1 } else x

/-- Whether a hard station or endpoint processes a sheet for a context whose outputs are not blocked: a decode engine is bound, a read of FEED
is under way, or a sheet waits to be taken (log entry 129). -/
def stationWorks (s : State) (n : Nat) : Bool :=
  (n == stnDecode && s.engines.any fun e => !stationBlocked s n e.2.ctx) || (n == stnFeed && s.reads.any fun r => !stationBlocked s n r.ctx) ||
  s.streams.any fun p => p.2.cons == n && (!p.2.arrived.isEmpty || !p.2.inbox.isEmpty) && !stationBlocked s n p.2.ctx

/-- What a hard station or endpoint spends the nanosecond on (R149): processing, idle with output held for a stream with no credit, or idle with no
sheet present on any inbound stream. One that is idle and merely keeps sheets for a later step (DELIVER's samples) counts none. -/
def tickStation (s : State) (n : Nat) (h : HardMon) : HardMon :=
  if stationWorks s n then { h with busyNs := satAdd (ones 64) h.busyNs 1 }
  else if s.streams.any fun p => p.2.prod == n && p.2.credits == 0 && !p.2.queue.isEmpty then { h with blockNs := satAdd (ones 64) h.blockNs 1 }
  else if s.streams.all fun p => p.2.cons != n || p.2.present == 0 then { h with starveNs := satAdd (ones 64) h.starveNs 1 }
  else h

/-- The hard stations and the endpoints (R138). -/
def stationNumbers : List Nat := (List.range 256).filter fun n => isHardStation n || isEndpoint n

/-- Whether a ring of the context that this module holds is full (R335). -/
def ringFull (s : State) (c : Nat) : Bool :=
  let x := ctxOf s c
  ((deliverSec s c).map fun v => (v.ports.zipIdx).any fun q =>
    let pages := (x.loaded.map fun l => mapGet l.regionPages q.1.region []).getD []
    let k := mapGet x.produced q.2 0
    q.1.module == s.folio.number && decide (min (consumedOf s pages) k + q.1.slots ≤ k)).getD false

def tickCtx (s : State) (c : Nat) (x : Ctx) : Ctx :=
  if ringFull s c then { x with dec := { x.dec with fullNs := satAdd (ones 64) x.dec.fullNs 1 } } else x

/-- One nanosecond passes. It is what a step does when no command waits (log entry 11). Folio time stands until stage 1 has resumed it,
and for a nanosecond when the module slews back (R6, R434). -/
def tick (s : State) : State :=
  if !s.resumed then s
  else if s.folio.slowTick then { s with folio.slowTick := false }
  else
    noteOverload <| countNs { s with
      streams := mapAll s.streams fun _ => tickStream
      hard := stationNumbers.foldl (fun m n => mapPut m n (tickStation s n (mapGet m n ⟨0, 0, 0⟩))) s.hard
      ctxs := mapAll s.ctxs (tickCtx s) }

end Sys2Proof.Machine
end

