-- ==== Sys2Proof/Machine/Admin.lean ====
section
/-! DEFINITION. The standard admin commands (R408, R410, R418, R419, R421, R510). Status codes of malformed commands are NVMe's (log entry
34). -/

namespace Sys2Proof.Machine

/-- A standard admin command's status, Dword 0 and data. -/
def adminStd (s : State) (cid sct sc : Nat) (dw0 : Nat := 0) (data : Bytes := []) : State :=
  stdCpl s (adminOrigin cid) sct sc (sct != 0 || sc != 0) dw0 data

/-- IDENTIFY (R410). -/
def execIdentify (cid cns nsid : Nat) (s : State) : Host.Outcome State Fault Refusal :=
  .next <| adminCmd s cid true fun s =>
    let ((sct, sc, data), s) := serveIdentify s cns nsid
    adminStd s cid sct sc 0 data

/-- GET_LOG_PAGE (R410, R418, R419, R462). -/
def execGetLogPage (cid lid lsp lsi offset len : Nat) (rae : Bool) (s : State) : Host.Outcome State Fault Refusal :=
  .next <| adminCmd s cid true fun s =>
    let ((sct, sc, data), s) := serveLog s lid lsp lsi offset len rae
    adminStd s cid sct sc 0 data

/-- GET_FEATURES (R410). -/
def execGetFeatures (cid fid dword11 : Nat) (s : State) : Host.Outcome State Fault Refusal :=
  .next <| adminCmd s cid false fun s =>
    let (sct, sc, dw0, data) := serveFeature s fid dword11
    adminStd s cid sct sc dw0 data

/-- SET_FEATURES (R410): the timestamp is read only, there is one power state. -/
def execSetFeatures (cid fid : Nat) (value : BitVec 32) (s : State) : Host.Outcome State Fault Refusal :=
  .next <| adminCmd s cid false fun s =>
    let v := value.toNat
    if !featureIds.contains fid then adminStd s cid 0 scField
    else if fid = 0x0E then adminStd s cid 1 0x0E
    else if fid = 0x02 ∧ v % 32 ≠ 0 then adminStd s cid 0 scField
    else if fid = 0x07 then
      if v % 65536 = 65535 ∨ v / 65536 = 65535 then adminStd s cid 0 scField else adminStd s cid 0 0 queueCounts
    else adminStd { s with host.features := mapPut s.host.features (featureKey fid v) value } cid 0 0

/-! Queues. -/

/-- CREATE_IO_COMPLETION_QUEUE (R408, R410). -/
def execCreateIoCompletionQueue (cid qid size vector : Nat) (s : State) : Host.Outcome State Fault Refusal :=
  .next <| adminCmdAlways s fun s =>
    if qid = 0 ∨ 4096 < qid ∨ (mapFind s.host.cqs qid).isSome then adminStd s cid 1 0x01
    else if size < 2 ∨ 65536 < size then adminStd s cid 1 0x02
    else if 4096 ≤ vector then adminStd s cid 1 0x08
    else adminStd { s with host.cqs := mapPut s.host.cqs qid ⟨size, vector, 0, 0, []⟩ } cid 0 0

/-- CREATE_IO_SUBMISSION_QUEUE (R408, R410). -/
def execCreateIoSubmissionQueue (cid qid size cqid : Nat) (s : State) : Host.Outcome State Fault Refusal :=
  .next <| adminCmdAlways s fun s =>
    if cqid = 0 ∨ (mapFind s.host.cqs cqid).isNone then adminStd s cid 1 0x00
    else if qid = 0 ∨ 4096 < qid ∨ (mapFind s.host.sqs qid).isSome then adminStd s cid 1 0x01
    else if size < 2 ∨ 65536 < size then adminStd s cid 1 0x02
    else adminStd { s with host.sqs := mapPut s.host.sqs qid ⟨size, cqid, 0⟩ } cid 0 0

/-- DELETE_IO_SUBMISSION_QUEUE (R410): what waits in the queue completes as aborted first. -/
def execDeleteIoSubmissionQueue (cid qid : Nat) (s : State) : Host.Outcome State Fault Refusal :=
  .next <| adminCmdAlways s fun s =>
    if qid = 0 ∨ (mapFind s.host.sqs qid).isNone then adminStd s cid 1 0x01
    else
      let reqs := s.reqs.filter fun p => p.2.src.ring.isNone && p.2.src.sq == qid && !p.2.admitted
      let s := reqs.foldl (fun s p => stdCpl (dropReq s p.1) p.2.src 0 0x08) s
      let held := s.media.waiting.filter fun w => w.sq == qid
      let s := held.foldl (fun s w => stdCpl s ⟨none, w.sq, w.cid⟩ 0 0x08) s
      let s := { s with media.waiting := s.media.waiting.filter fun w => w.sq != qid, host.sqs := mapDrop s.host.sqs qid }
      adminStd s cid 0 0

/-- DELETE_IO_COMPLETION_QUEUE (R410): not while a ring or a submission queue names it. -/
def execDeleteIoCompletionQueue (cid qid : Nat) (s : State) : Host.Outcome State Fault Refusal :=
  .next <| adminCmdAlways s fun s =>
    if qid = 0 ∨ (mapFind s.host.cqs qid).isNone then adminStd s cid 1 0x01
    else if (s.host.rings.any fun p => p.2.cq == qid) || s.host.sqs.any fun p => p.1 != 0 && p.2.cq == qid then adminStd s cid 1 0x0C
    else adminStd { s with host.cqs := mapDrop s.host.cqs qid } cid 0 0

/-- COMPLETION_QUEUE_DOORBELL (R422): the host frees entries up to `head`, and completions that wait are posted. A head outside the entries
that it has not freed changes nothing (log entry 13). -/
def execCompletionQueueDoorbell (cq head : Nat) (s : State) : Host.Outcome State Fault Refusal :=
  .next <|
    match cqOf s cq with
    | none => s
    | some q =>
      let freed := (head + q.size - q.head) % max 1 q.size
      if q.size ≤ head ∨ q.unread < freed then s
      else
        let s := { s with host.cqs := mapPut s.host.cqs cq { q with head := head, unread := q.unread - freed, waiting := [] } }
        q.waiting.foldl postCpl s

/-! Events, aborts, other opcodes. -/

/-- ASYNCHRONOUS_EVENT_REQUEST (R410, R419): at most 16 are outstanding; an event that waits completes the request. -/
def execAsynchronousEventRequest (cid : Nat) (s : State) : Host.Outcome State Fault Refusal :=
  .next <| adminCmdAlways s fun s =>
    match s.host.events with
    | (key, lid) :: rest => eventCpl { s with host.events := rest } cid key lid
    | [] => if 16 ≤ s.host.aers.length then adminStd s cid 1 0x05 else { s with host.aers := s.host.aers ++ [cid] }

/-- ABORT_COMMAND (R410): a vendor I/O command is aborted only before admission; else bit 0 of Dword 0 is 1. -/
def execAbortCommand (cid sq target : Nat) (s : State) : Host.Outcome State Fault Refusal :=
  .next <| adminCmdAlways s fun s =>
    match s.reqs.find? fun p => p.2.src.ring.isNone && p.2.src.sq == sq && p.2.src.cid == target && !p.2.admitted with
    | some (r, q) => adminStd (stdCpl (dropReq s r) q.src 0 0x07) cid 0 0 0
    | none => adminStd s cid 0 0 1

/-- INVALID_COMMAND_OPCODE (R410). -/
def execInvalidCommandOpcode (cid opcode : Nat) (s : State) : Host.Outcome State Fault Refusal :=
  .next <| if opcode < 256 then adminCmd s cid false fun s => adminStd s cid 0 0x01 else s

/-- SHUTDOWN_NOTIFICATION (R510): the media part runs, and CSTS.SHST reports shutdown complete. -/
def execShutdownNotification (s : State) : Host.Outcome State Fault Refusal :=
  .next <| if s.host.ready then let s := mediaCommit s; { s with host.shutdown := 2 } else s

end Sys2Proof.Machine
end

