-- ==== Sys2Proof/Machine/Records.lean ====
section
/-! DEFINITION. What the code store holds for the boot: firmware images and configuration records (R522 to R530). -/

namespace Sys2Proof.Machine

/-- Bytes of the code store; none when a page of them cannot be read (R392). -/
def csBytes (s : State) (a n : Nat) : Option Bytes :=
  if s.stylus.csBad.any fun p => decide (a < (p + 1) * 16384) && decide (p * 16384 < a + n) then none
  else some (cellsRead s.stylus.cs a n)

/-- The hash of ROM key `k` (R522). -/
def romKey (s : State) (k : Nat) : Bytes := s.boot.romKeys.getD k []

/-- ROM keys that counter 4 does not revoke, among `ks`. -/
def liveKeys (s : State) (ks : List Nat) : List (Nat × Bytes) :=
  (ks.filter fun k => !bitSet (counterOf s 4) k).map fun k => (0, romKey s k)

/-! Firmware images (R523, R524). KIND 0 is stage 1, 1 is Easel firmware; slot 0 is A, 1 is B. -/

/-- The code-store region of a kind has the kind's number (R391); its slots are its halves. -/
def slotBytes (s : State) (kind : Nat) : Nat := regionCount (mapGet s.stylus.regions kind 0) / 2 * 0x100_0000
def slotBase (s : State) (kind slot : Nat) : Nat :=
  regionFirst (mapGet s.stylus.regions kind 0) * 0x100_0000 + slot * slotBytes s kind

/-- Whether bytes are a valid image of a kind (R523). -/
def firmwareOk (s : State) (kind max : Nat) (b : Bytes) : Bool :=
  u32 b 0 == 0x5746_4B4E && u8 b 4 == kind && zeroAt b 5 3 && decide (u32 b 8 ≤ 65535) && zeroAt b 12 4 &&
  u64 b 16 == b.length && decide (b.length ≤ max) && decide (384 ≤ b.length) && u16 b 24 == 0x4E09 &&
  decide (u8 b 26 ≤ Config.stepMajor.toNat) && zeroAt b 27 101 && decide (counterOf s kind ≤ u32 b 8) &&
  sigOk (liveKeys s [0, 1]) 0 b

/-- The valid image of a slot. -/
def slotImage (s : State) (kind slot : Nat) : Option Bytes :=
  if !regionValid (mapGet s.stylus.regions kind 0) then none
  else
    (csBytes s (slotBase s kind slot) 128).bind fun h =>
      if slotBytes s kind < u64 h 16 then none
      else (csBytes s (slotBase s kind slot) (u64 h 16)).filter (firmwareOk s kind (slotBytes s kind))

/-- Whether an image runs unconfirmed (R524). -/
def unconfirmed (s : State) (kind slot : Nat) (b : Bytes) : Bool :=
  decide (counterOf s kind < u32 b 8) && (s.boot.identityFail || !s.boot.confirms.contains (kind, u32 b 8, slot))

/-- An unconfirmed image that has had its three boots. -/
def spent (s : State) (kind slot : Nat) (b : Bytes) : Bool :=
  unconfirmed s kind slot b && decide (3 ≤ mapGet s.boot.tries (kind * 2 + slot) 0)

/-- The slot that a boot takes, with its image (R524). -/
def chooseSlot (s : State) (kind : Nat) : Option (Nat × Bytes) :=
  match slotImage s kind 0, slotImage s kind 1 with
  | none, none => none
  | some a, none => some (0, a)
  | none, some b => some (1, b)
  | some a, some b =>
    let bFirst := decide (u32 a 8 < u32 b 8)
    let first := if bFirst then (1, b) else (0, a)
    let other := if bFirst then (0, a) else (1, b)
    some (if spent s kind first.1 first.2 then other else first)

/-- A boot of an unconfirmed image is counted in region 4 (R524). -/
def countBoot (s : State) (kind slot : Nat) (b : Bytes) : State :=
  if unconfirmed s kind slot b then
    let k := kind * 2 + slot
    persist { s with boot.tries := mapPut s.boot.tries k (mapGet s.boot.tries k 0 + 1) } (.bootAttempt kind slot)
  else s

/-! Configuration records (R527, R528). -/

/-- A record: TYPE, INDEX, GENERATION, body, and all of its bytes. -/
abbrev CfgRec := (Nat × Nat × Nat) × Bytes × Bytes

/-- The record at the start of `b`, if it meets the table. -/
def recordAt (b : Bytes) : Option CfgRec :=
  let size := u32 b 16
  let n := 64 + ceilDiv size 64 * 64 + 256
  if u32 b 0 = 0x5243_4B4E ∧ size ≤ 65536 ∧ zeroAt b 20 44 ∧ n ≤ b.length ∧ zeroAt b (64 + size) (n - 320 - size) ∧
      (u16 b 4 ∈ [0x14, 0x15] ∨ u16 b 6 = 0) then
    some ((u16 b 4, u16 b 6, u64 b 8), slice b 64 size, b.take n)
  else none

/-- The records of region 2, one after another on 64-byte boundaries (log entry 41). -/
def recordsIn (s : State) : List CfgRec :=
  let lo := 48 * 0x100_0000
  let hi := 64 * 0x100_0000
  let starts := (s.stylus.cs.filter fun c => c.2 == 0x4E && decide (lo ≤ c.1) && decide (c.1 < hi) && c.1 % 64 == 0).map (·.1)
  let add (acc : Nat × List CfgRec) (a : Nat) : Nat × List CfgRec :=
    if a < acc.1 then acc
    else
      match (csBytes s a 64).bind fun h => (csBytes s a (min (hi - a) (320 + ceilDiv (min (u32 h 16) 65536) 64 * 64))).bind recordAt with
      | some r => (a + r.2.2.length, acc.2 ++ [r])
      | none => acc
  (starts.foldl add (lo, [])).2

/-- The valid Tchilava records of a TYPE, the highest GENERATION of each INDEX first found (R528). -/
def tchilava (s : State) (rs : List CfgRec) (typ : Nat) : Option CfgRec :=
  (rs.filter fun r => r.1.1 == typ && sigOk (liveKeys s [2, 3]) 0 r.2.2).foldl (fun best r =>
    match best with
    | none => some r
    | some b => if b.1.2.2 < r.1.2.2 then some r else some b) none

/-- The owner set in force (R529): its GENERATION and its records, in order of TYPE and INDEX. -/
def ownerSet (s : State) (rs : List CfgRec) : Option (Nat × List CfgRec) :=
  match tchilava s rs 0x02 with
  | none => none
  | some o =>
    if o.2.1.length ≠ 65 then none
    else
      let key := sha256 o.2.1
      let own := rs.filter fun r => decide (0x10 ≤ r.1.1) && decide (r.1.1 ≤ 0x16)
      let gens := ((own.filter fun r => r.1.1 == 0x10 && decide (counterOf s 2 ≤ r.1.2.2)).map fun r => r.1.2.2).filter fun g =>
        (own.filter fun r => r.1.2.2 == g).all fun r => sigOk [(0, key)] 0 r.2.2
      match gens with
      | [] => none
      | g :: gs =>
        let g := gs.foldl max g
        some (g, sortBy (fun a b => decide (a.1.1 < b.1.1) || (a.1.1 == b.1.1 && decide (a.1.2.1 ≤ b.1.2.1))) (own.filter fun r => r.1.2.2 == g))

/-- The body of the record of a TYPE in a set. -/
def bodyOf (rs : List CfgRec) (typ : Nat) : Bytes := ((rs.find? fun r => r.1.1 == typ).map fun r => r.2.1).getD []

/-- The policy of an owner set (R528). -/
def policyOf (g : Nat) (rs : List CfgRec) : Policy where
  keys := (entriesOf 33 (bodyOf rs 0x10)).map fun e => (u8 e 0, slice e 1 32)
  imageFloor := u32 (bodyOf rs 0x11) 0
  debug := let b := bodyOf rs 0x16; if b.length = 49 then some (slice b 0 16, slice b 16 32, u8 b 48) else none
  contexts := ((rs.filter fun r => r.1.1 == 0x14 && r.2.1.length == 40).map fun r => (r.1.2.1, slice r.2.1 0 32, BitVec.ofNat 64 (u64 r.2.1 32)))
  objects := ((rs.filter fun r => r.1.1 == 0x15).map fun r => (r.1.2.1, r.2.1))
  records := []
  generation := g

/-- No owner policy (R529). -/
def noPolicy : Policy := ⟨[], 0, none, [], [], [], 0⟩

/-! Records that the module signs (R528, R530). -/

/-- A record signed with the DeviceID key; the signature is free (log entry 3). -/
def moduleRec (key : BitVec 256) (typ gen : Nat) (body : Bytes) : Bytes :=
  let b := leBytes 4 0x5243_4B4E ++ leBytes 2 typ ++ leBytes 2 0 ++ leBytes 8 gen ++ leBytes 4 body.length ++ zeros 44 ++
    body ++ zeros (ceilDiv body.length 64 * 64 - body.length)
  let digest := sha256 b
  let hash := sha256 (pointBytes (p256mul 256 key.toNat p256g))
  b ++ leBytes 4 0x4753_4B4E ++ leBytes 2 1 ++ zeros 2 ++ hash ++ digest ++ (List.range 64).map (Config.signByte key digest gen) ++ zeros 120

/-- TILE_ROLES as the roles stand (R528). -/
def rolesBody (s : State) : Bytes := (allTiles s).map fun p => match p.2.role with | .service => 0 | .spare => 1 | .retired => 2

end Sys2Proof.Machine
end

