-- ==== Sys2Proof/Machine/RegWrite.lean ====
section
/-! DEFINITION. Writes of BAR2 registers (R10 to R14): the selectors, the command bits, the protection registers, and every
other field by its access code and range. -/

namespace Sys2Proof.Machine

/-- The fields of a register that a mask covers. -/
def keep (v : BitVec 64) (mask : Nat) : BitVec 64 := v &&& BitVec.ofNat 64 mask

/-! Selectors (R147). -/

def selSmon (s : State) (v : BitVec 64) : State :=
  let v := keep v 0xFFFF
  { s with mon.smonSel := v, mon.smon := snapStream s v.toNat }

def selHmon (s : State) (v : BitVec 64) : State :=
  let v := keep v 0xFFF
  { s with mon.hmonSel := v, mon.hmon := snapStation s (v.toNat / 256) (v.toNat % 256) }

def selTier (s : State) (v : BitVec 64) : State :=
  let v := keep v 0xF
  { s with mon.tierSel := v, mon.tier := snapTier s v.toNat }

def selTbl (s : State) (v : BitVec 64) : State :=
  let v := keep v 0xFF
  { s with mon.tblSel := v, mon.tbl := snapTable s v.toNat }

def selCtx (s : State) (v : BitVec 64) : State :=
  let v := keep v 0xF
  { s with mon.ctxSel := v, mon.ctx := snapCtx s v.toNat }

def selMc (s : State) (v : BitVec 64) : State :=
  let v := keep v 0x3F
  { s with mon.mcSel := v, mon.mc := snapCache s v.toNat }

def selIdx (s : State) (v : BitVec 64) : State :=
  let v := keep v 0x3F
  { s with mon.idxSel := v, mon.idx := snapIndex s v.toNat }

def selVoc (s : State) (v : BitVec 64) : State :=
  let v := keep v 0x7
  { s with mon.vocSel := v, mon.voc := snapVocab s v.toNat }

def selLtr (s : State) (v : BitVec 64) : State :=
  let v := keep v 0xF
  { s with mon.ltrSel := v, mon.ltr := snapLetter s v.toNat }

def selDec (s : State) (v : BitVec 64) : State :=
  let v := keep v 0xF
  { s with mon.decSel := v, mon.dec := snapDecode s v.toNat }

def selHlk (s : State) (v : BitVec 64) : State :=
  let v := keep v 0x7
  { s with mon.hlkSel := v, mon.hlk := snapPort s v.toNat }

/-- INT_CE_SEL: a SOURCE of 573 or more leaves its field unchanged with a USAGE record (R467). -/
def selCe (s : State) (v : BitVec 64) : State :=
  let bad := decide (573 ≤ bitsAt v.toNat 0 10)
  let src := if bad then bitsAt s.mon.ceSel.toNat 0 10 else bitsAt v.toNat 0 10
  let e := bitsAt v.toNat 16 6
  let s := { s with mon.ceSel := regOf [(16, 6, e), (0, 10, src)], mon.ce := snapCe s src e }
  if bad then usageReg s 0x020_0018 else s

def selCal (s : State) (v : BitVec 64) : State :=
  let v := keep v 0xFFF
  { s with mon.calSel := v, mon.cal := snapCal s (v.getLsbD 11) (bitsAt v.toNat 0 11) }

def selLog (s : State) (v : BitVec 64) : State :=
  let v := keep v 0x3FF
  { s with mon.logSel := v, mon.log := snapCalLog s v.toNat }

/-- PWR_TEMP_SEL: a SENSOR of 24 or more leaves its field unchanged with a USAGE record (R520). -/
def selTemp (s : State) (v : BitVec 64) : State :=
  let bad := decide (24 ≤ bitsAt v.toNat 0 5)
  let n := if bad then s.mon.tempSel.toNat else bitsAt v.toNat 0 5
  let s := { s with mon.tempSel := BitVec.ofNat 64 n, mon.temp := snapTemp s n }
  if bad then usageReg s 0x0A0_0028 else s

/-- GLB_SMON_SEL (R147, R148). -/
def execGlbSmonSel (v : BitVec 64) (s : State) : Host.Outcome State Fault Refusal := .next (selSmon s v)
/-- GLB_HMON_SEL (R147, R149). -/
def execGlbHmonSel (v : BitVec 64) (s : State) : Host.Outcome State Fault Refusal := .next (selHmon s v)
/-- TIER_MON_SEL (R203). -/
def execTierMonSel (v : BitVec 64) (s : State) : Host.Outcome State Fault Refusal := .next (selTier s v)
/-- TBL_SEL (R233). -/
def execTblSel (v : BitVec 64) (s : State) : Host.Outcome State Fault Refusal := .next (selTbl s v)
/-- GLB_CTX_SEL (R250). -/
def execGlbCtxSel (v : BitVec 64) (s : State) : Host.Outcome State Fault Refusal := .next (selCtx s v)
/-- GLB_MC_SEL (R250). -/
def execGlbMcSel (v : BitVec 64) (s : State) : Host.Outcome State Fault Refusal := .next (selMc s v)
/-- RTV_IDX_SEL (R284). -/
def execRtvIdxSel (v : BitVec 64) (s : State) : Host.Outcome State Fault Refusal := .next (selIdx s v)
/-- LTR_VOC_SEL (R318). -/
def execLtrVocSel (v : BitVec 64) (s : State) : Host.Outcome State Fault Refusal := .next (selVoc s v)
/-- LTR_MON_SEL (R318). -/
def execLtrMonSel (v : BitVec 64) (s : State) : Host.Outcome State Fault Refusal := .next (selLtr s v)
/-- DEC_MON_SEL (R339). -/
def execDecMonSel (v : BitVec 64) (s : State) : Host.Outcome State Fault Refusal := .next (selDec s v)
/-- HLK_MON_SEL (R439). -/
def execHlkMonSel (v : BitVec 64) (s : State) : Host.Outcome State Fault Refusal := .next (selHlk s v)
/-- INT_CE_SEL (R467). -/
def execIntCeSel (v : BitVec 64) (s : State) : Host.Outcome State Fault Refusal := .next (selCe s v)
/-- CAL_MON_SEL (R501). -/
def execCalMonSel (v : BitVec 64) (s : State) : Host.Outcome State Fault Refusal := .next (selCal s v)
/-- CAL_LOG_SEL (R501). -/
def execCalLogSel (v : BitVec 64) (s : State) : Host.Outcome State Fault Refusal := .next (selLog s v)
/-- PWR_TEMP_SEL (R520). -/
def execPwrTempSel (v : BitVec 64) (s : State) : Host.Outcome State Fault Refusal := .next (selTemp s v)

/-! Correctable-error sources and the triggered scrub (R455, R458, R467). -/

/-- A source's level, table and counts are cleared. -/
def clearCe (s : State) (src : Nat) : State := { s with integ.ce := mapDrop s.integ.ce src }

/-- CLEAR (R467). -/
def execClear (s : State) : Host.Outcome State Fault Refusal := .next (clearCe s (bitsAt s.mon.ceSel.toNat 0 10))

/-- Whether a scrub range lies within its bounds (R458). -/
def scrubRangeOk (space : Bool) (first count : Nat) : Bool :=
  decide (1 ≤ count) &&
  (if space then decide (8 ≤ first) && decide (first + count ≤ 1024)
   else decide (524288 ≤ first) && decide (first + count ≤ 2097152))

/-- GO written: a pass starts, or the write is ignored with a USAGE record (R458). -/
def startScrub (s : State) : State :=
  let x := s.integ.scrub
  if x.busy || !scrubRangeOk x.space x.first.toNat x.count.toNat then usageReg s 0x020_0050
  else { s with integ.scrub := { x with busy := true, aborting := false, sum0 := 0, sum1 := 0, runSpace := x.space,
                                        runFirst := x.first.toNat, runCount := x.count.toNat } }

/-- ABORT written: a running pass ends at the next codeword (R458). -/
def abortScrub (s : State) : State :=
  if s.integ.scrub.busy then { s with integ.scrub := { s.integ.scrub with aborting := true } } else s

/-- GO (R458): the write sets SPACE too. -/
def execGo (space : Bool) (s : State) : Host.Outcome State Fault Refusal :=
  .next (startScrub { s with integ.scrub := { s.integ.scrub with space := space } })

/-- ABORT (R458). -/
def execAbort (s : State) : Host.Outcome State Fault Refusal := .next (abortScrub s)

/-- 4 KiB codewords in a scrub unit: a T2 page, a code-store block. -/
def scrubUnit (space : Bool) : Nat := if space then 4096 else 512

/-- An uncorrectable T2 codeword: its lines are poisoned and a record is written (R370, R458, R461). -/
def scrubLost (s : State) (q : Nat) : State :=
  let u := q / 4
  let die := u % 48
  let a := Config.t1End + 4096 * q
  let s := { s with poison := ((List.range 64).map (a / 64 + ·)).foldl (fun m l => mapPut m l ()) s.poison }
  recordErr s { cls := .uncorrected, unitKind := 4, unit := die, op := 3,
                address := u / 48 / 1024 * 2 ^ 32 + u / 48 % 1024 * 2 ^ 16 + 2 ^ (q % 4), detailA := 15, detailB := 7, poisonMade := true }

/-- SCRUB_PASS_END (R458): the summary of the codewords that were read. A codeword counts as uncorrectable in T2 alone. -/
def execScrubPassEnd (codewords : List (Nat × Bool)) (s : State) : Host.Outcome State Fault Refusal :=
  .next <|
    let x := s.integ.scrub
    if !x.busy then s
    else
      let cw := codewords.take (x.runCount * scrubUnit x.runSpace)
      let base := if x.runSpace then x.runFirst * 4096 else (x.runFirst - 524288) * 512
      let thr := if x.runSpace then ewThreshold s 2 true else ewThreshold s 1 true
      let at15 := (List.range cw.length).filter fun i => (cw.getD i (0, false)).1 == 15
      let lost := if x.runSpace then [] else at15.filter fun i => (cw.getD i (0, false)).2
      let top := cw.foldl (fun m c => max m c.1) 0
      let s := lost.foldl (fun s i => scrubLost s (base + i)) s
      let first := ((at15.head?.map fun i => base + i)).getD (ones 32)
      { s with integ.scrub := { x with
          busy := false
          aborting := false
          sum0 := regOf [(32, 32, cw.length), (0, 32, (cw.filter fun c => decide (thr ≤ c.1)).length)]
          sum1 := regOf [(32, 32, first), (20, 12, sat 12 at15.length), (8, 12, sat 12 lost.length), (4, 4, top),
            (2, 2, if x.aborting then 2 else 1)] } }

/-! Protection (R394 to R398). -/

/-- A write of RWB fields: from boot code before the lock it takes effect; after the lock it is ignored with a PROTECTION
record; otherwise it is ignored (R14). -/
def writeRwb (s : State) (w : Writer) (off : Nat) (f : State → State) : State :=
  if s.stylus.lock then protReg s off true
  else if w = .bootCode ∧ s.stylus.bootMode then f s
  else s

/-- PRT_LOCK written (R395). -/
def writeLock (s : State) (w : Writer) (v : BitVec 64) : State :=
  writeRwb s w 0x010_0000 fun s => { s with stylus.lock := v.getLsbD 0 }

/-- LOCK (R395). -/
def execLock (w : Writer) (s : State) : Host.Outcome State Fault Refusal := .next (writeLock s w 1)

/-- Whether a region would overlap another valid region, the private area or the replacement pool (R396). -/
def regionClash (s : State) (v : BitVec 64) : Bool :=
  let blocks := (List.range (regionCount v)).map (regionFirst v + ·)
  regionValid v && blocks.any fun b =>
    decide (b < 8) || decide (896 ≤ b) || s.stylus.regions.any fun p => p.1 != s.stylus.csSel.toNat && regionHas p.2 b

/-- PRT_CS_REGION written: an overlap is turned away with its record, whoever writes (R396). -/
def writeRegion (s : State) (w : Writer) (v : BitVec 64) : State :=
  let v := keep v (0xFE00_0000_001F_FFFF)
  if regionClash s v then protReg s 0x010_0028 true
  else writeRwb s w 0x010_0028 fun s => { s with stylus.regions := mapPut s.stylus.regions s.stylus.csSel.toNat v }

/-- CS_REGION_WRITE (R396). -/
def execCsRegionWrite (w : Writer) (v : BitVec 64) (s : State) : Host.Outcome State Fault Refusal := .next (writeRegion s w v)

/-- PRT_MBX_GO written with GO (R397, R398): the descriptor of the mailbox registers is submitted. -/
def mailboxGo (s : State) (w : Writer) : State :=
  let raw := (List.range 4).flatMap fun i => leBytes 8 (mapGet s.stylus.mbxDesc i 0).toNat
  match w with
  | .host => protReg s 0x010_0060 true
  | .bootCode => offerDesc s .bootCode fun c => submitRaw s c raw 0
  | .easel => offerDesc s .mailbox fun c => submitRaw s c raw 0

/-- MAILBOX_GO (R398). -/
def execMailboxGo (w : Writer) (s : State) : Host.Outcome State Fault Refusal := .next (mailboxGo s w)

/-- PRT_WP_BITS written (R394, R398): in word 14,305 only bits 7:0 are regions. -/
def writeWp (s : State) (w : Writer) (v : BitVec 64) : State :=
  let k := s.stylus.wpSel.toNat
  if 14306 ≤ k then s
  else writeRwb s w 0x010_0018 fun s =>
    let v := if k = 14305 then keep v 0xFF else v
    { s with stylus.wp := if v = 0 then mapDrop s.stylus.wp k else mapPut s.stylus.wp k v }

/-! Fields with ranges. -/

/-- A field of a register: its lowest bit, its width, and whether a new value lies in its range. -/
structure FieldRange where
  lo : Nat
  width : Nat
  ok : Nat → Bool

/-- A register after a write: a field whose new value is out of range keeps its old one; with whether any did. -/
def writeFields (old v : BitVec 64) (fs : List FieldRange) : BitVec 64 × Bool :=
  (regOf (fs.map fun f =>
      let n := bitsAt v.toNat f.lo f.width
      (f.lo, f.width, if f.ok n then n else bitsAt old.toNat f.lo f.width)),
   fs.any fun f => !f.ok (bitsAt v.toNat f.lo f.width))

def within (lo hi : Nat) (v : Nat) : Bool := decide (lo ≤ v) && decide (v ≤ hi)
def anyValue (_ : Nat) : Bool := true

/-- A value in two's complement in 8 bits lies in [lo, hi]. -/
def within8 (lo hi : Int) (v : Nat) : Bool := decide (lo ≤ signedOf 8 v) && decide (signedOf 8 v ≤ hi)

def usageIf (s : State) (bad : Bool) (off : Nat) : State := if bad then usageReg s off else s

/-- CAL_TILE_CFG after a write (R501): the bounds of FREQ_MIN and VOFS_MAX are the FREQ_TARGET and VOFS_MIN that the write leaves. -/
def writeTileCfg (old v : BitVec 64) : BitVec 64 × Bool :=
  let base : List FieldRange := [⟨48, 8, within 20 132⟩, ⟨24, 8, within8 (-16) 0⟩, ⟨16, 8, within8 (-16) 16⟩, ⟨0, 16, within 10 65535⟩]
  let (b, _) := writeFields old v base
  let target := bitsAt b.toNat 48 8
  let vmin := signedOf 8 (bitsAt b.toNat 24 8)
  writeFields old v (base ++ [⟨40, 8, within 20 target⟩, ⟨32, 8, within8 vmin 16⟩])

/-- PRT_EW written (R390, R398). -/
def writeEw (s : State) (v : BitVec 64) : State :=
  let (n, bad) := writeFields (s.stylus.ew.setWidth 64) v [⟨0, 4, within 1 15⟩, ⟨4, 4, within 1 15⟩, ⟨8, 4, within 1 15⟩]
  usageIf { s with stylus.ew := n.setWidth 12 } bad 0x010_0008

/-! Blocks. -/

/-- The GLB block's writable registers: its selectors, and TELEM_MS (R557). -/
def writeGlb (s : State) (off : Nat) (v : BitVec 64) : State :=
  match off with
  | 0x100 => selSmon s v
  | 0x140 => selHmon s v
  | 0x200 => selCtx s v
  | 0x240 => selMc s v
  | 0x508 =>
    let (n, bad) := writeFields (s.easel.telemMs.setWidth 64) v [⟨0, 16, within 10 60000⟩]
    usageIf { s with easel.telemMs := n.setWidth 16 } bad 0x508
  | _ => s

/-- The PRT block (R397, R398). -/
def writePrt (s : State) (w : Writer) (off : Nat) (v : BitVec 64) : State :=
  match off with
  | 0x00 => writeLock s w v
  | 0x08 => writeEw s v
  | 0x10 => { s with stylus.wpSel := v.setWidth 14 }
  | 0x18 => writeWp s w v
  | 0x20 => { s with stylus.csSel := v.setWidth 3 }
  | 0x28 => writeRegion s w v
  | _ =>
    if 0x40 ≤ off ∧ off ≤ 0x70 then
      if w = .host then protReg s (0x010_0000 + off) true
      else if off ≤ 0x58 then { s with stylus.mbxDesc := mapPut s.stylus.mbxDesc ((off - 0x40) / 8) v }
      else if off = 0x60 ∧ v.getLsbD 0 then mailboxGo s w
      else s
    else s

/-- The INT block (R466, R467). -/
def writeInt (s : State) (off : Nat) (v : BitVec 64) : State :=
  match off with
  | 0x10 =>
    let s := ceSettle s
    let (n, bad) := writeFields (regCeCfg s) v [⟨32, 16, within 1 65535⟩, ⟨16, 16, within 1 65535⟩, ⟨0, 16, within 1 65535⟩]
    let w := bitsAt n.toNat 32 16
    usageIf { s with integ.ceWindow := BitVec.ofNat 16 w, integ.ceCapacity := BitVec.ofNat 16 (bitsAt n.toNat 16 16),
                     integ.ceLeak := n.setWidth 16, integ.ceWin := s.time / (w * 1_000_000) } bad 0x020_0010
  | 0x18 => selCe s v
  | 0x20 => if v.getLsbD 0 then clearCe s (bitsAt s.mon.ceSel.toNat 0 10) else s
  | 0x40 => { s with integ.patrol := v }
  | 0x50 =>
    let s := { s with integ.scrub := { s.integ.scrub with space := v.getLsbD 1 } }
    let s := if v.getLsbD 2 then startScrub s else s
    if v.getLsbD 3 then abortScrub s else s
  | 0x58 => { s with integ.scrub := { s.integ.scrub with count := BitVec.ofNat 32 (v.toNat / 2 ^ 32), first := v.setWidth 32 } }
  | _ => s

/-- The CAL block (R500, R501). -/
def writeCal (s : State) (off : Nat) (v : BitVec 64) : State :=
  match off with
  | 0x00 => { s with cal.ctrl := v.setWidth 3 }
  | 0x08 =>
    let (n, bad) := writeTileCfg s.cal.tileCfg v
    usageIf { s with cal.tileCfg := n } bad 0x090_0008
  | 0x10 =>
    let (n, bad) := writeFields s.cal.flashCfg v
      [⟨32, 20, within 1 1000000⟩, ⟨16, 16, within 256 65535⟩, ⟨8, 8, within 51 100⟩, ⟨0, 8, within 1 255⟩]
    usageIf { s with cal.flashCfg := n } bad 0x090_0010
  | 0x20 => selCal s v
  | 0x38 => selLog s v
  | _ => s

/-- The PWR block (R520). -/
def writePwr (s : State) (off : Nat) (v : BitVec 64) : State :=
  match off with
  | 0x08 =>
    let (n, bad) := writeFields (BitVec.ofNat 64 s.power.limitW) v [⟨0, 16, within 300 900⟩]
    usageIf { s with power.limitW := n.toNat } bad 0x0A0_0008
  | 0x28 => selTemp s v
  | _ => s

/-- A tile window (R77, R78): the command bits, and TILE_FAULT, whose ones clear. One write with CNT_CLR and TEST both 1 does both, and outside
SPARE_IDLE the record of the latter stands beside the cleared counters (DESIGN CHOICE, log entry 126). -/
def writeWindow (s : State) (p off : Nat) (v : BitVec 64) : State :=
  match off with
  | 0x20 =>
    let s := if v.getLsbD 1 then clearCounts s p else s
    if v.getLsbD 0 then writeTest s p else s
  | 0x28 => updTile s p fun t => { t with faults := t.faults &&& ~~~(v.setWidth 7) }
  | _ => s

/-- An aligned 8-byte write of BAR2: fields that are read-only or reserved ignore it (R12 to R14). -/
def writeReg (s : State) (w : Writer) (off : Nat) (v : BitVec 64) : State :=
  if 0x188_0000 ≤ off then s
  else if 0x100_0000 ≤ off then writeWindow s ((off - 0x100_0000) / 0x4000) ((off - 0x100_0000) % 0x4000) v
  else
    let o := off % 0x10_0000
    match off / 0x10_0000 with
    | 0 => writeGlb s o v
    | 1 => writePrt s w o v
    | 2 => writeInt s o v
    | 3 => if o = 0x20 then selTier s v else s
    | 4 => if o = 0 then selTbl s v else s
    | 5 => if o = 0x10 then selIdx s v else s
    | 6 => if o = 0x08 then selVoc s v else if o = 0x20 then selLtr s v else s
    | 7 => if o = 0x08 then selDec s v else s
    | 8 => if o = 0x80 then selHlk s v else s
    | 9 => writeCal s o v
    | 10 => writePwr s o v
    | _ => s

/-- REGISTER_WRITE (R10 to R14): an access that is not an aligned 8-byte access has no effect. -/
def execRegisterWrite (w : Writer) (offset size : Nat) (v : BitVec 64) (s : State) : Host.Outcome State Fault Refusal :=
  .next (if size = 8 ∧ offset % 8 = 0 then writeReg s w offset v else s)

end Sys2Proof.Machine
end

