-- ==== Sys2Proof/Machine/Boot.lean ====
section
/-! DEFINITION. Boot: the boot ROM, stage 1, the start of Easel firmware, restore, and firmware updates (R374, R376, R521 to R534). -/

namespace Sys2Proof.Machine

/-- The labels NK9 DeviceID, NK9 Layer1 and NK9 Alias in ASCII (R533, R534). -/
def labelDeviceId : Bytes := [0x4E, 0x4B, 0x39, 0x20, 0x44, 0x65, 0x76, 0x69, 0x63, 0x65, 0x49, 0x44]
def labelLayer1 : Bytes := [0x4E, 0x4B, 0x39, 0x20, 0x4C, 0x61, 0x79, 0x65, 0x72, 0x31]
def labelAlias : Bytes := [0x4E, 0x4B, 0x39, 0x20, 0x41, 0x6C, 0x69, 0x61, 0x73]

/-- The boot stops in START_UP and reports on the management network (R521). -/
def bootStop (s : State) : State := eventRec { s with boot.stopped := true } none

/-! The boot ROM (R521, R533, R534). -/

/-- Region 0 as the boot ROM sets it: XO, fetched by the boot ROM, written by Easel, blocks [8, 16) (R391, R398). -/
def region0 : BitVec 64 := BitVec.ofNat 64 (2 ^ 63 + 2 ^ 62 + 2 ^ 59 + 2 * 2 ^ 57 + 8 * 2 ^ 10 + 8)

/-- The public key of a certificate: the point of its P-256 SubjectPublicKeyInfo (log entry 42). -/
def spkiKey : Bytes → Bytes
  | [] => []
  | x :: t => if (x :: t).take 4 = [0x03, 0x42, 0x00, 0x04] then slice (x :: t) 3 65 else spkiKey t

/-- A key of 256 bits that HKDF derives. -/
def derive (ikm : Bytes) (label : Bytes) : BitVec 256 := BitVec.ofNat 256 (beNat (hkdf256 ikm label))

def publicKey (k : BitVec 256) : Bytes := pointBytes (p256mul 256 k.toNat p256g)

/-- Region 0, the DeviceID key and the identity check. A port that stands at FULL leaves no key (R540). -/
def romIdentity (s : State) : State :=
  let s := { s with stylus.regions := mapPut s.stylus.regions 0 region0 }
  let rs := recordsIn s
  let body (t : Nat) : Bytes := ((tchilava s rs t).map fun r => r.2.1).getD []
  let key := derive (beBytes 32 (Config.pufSecret (body 0x03)).toNat) labelDeviceId
  { s with boot.deviceKey := if s.boot.dbgLevel = 2 then none else some key, boot.identityFail := publicKey key != spkiKey (body 0x04) }

/-- The secret of the boot ROM, from the PUF and the helper data of type 0x03. -/
def romSecret (s : State) : Bytes :=
  beBytes 32 (Config.pufSecret (((tchilava s (recordsIn s) 0x03).map fun r => r.2.1).getD [])).toNat

/-- BOOT_ROM: once power-up step 3 is good, and once. -/
def execBootRom (s : State) : Host.Outcome State Fault Refusal :=
  .next <|
    let up := s.power.phase == .running || (s.power.phase == .stepping && decide (4 ≤ s.power.upStep))
    if !up || s.boot.romDone || s.boot.stopped then s
    else
      let s := romIdentity s
      match chooseSlot s 0 with
      | none => bootStop s
      | some (slot, img) =>
        { s with
          boot.st1Slot := slot, boot.st1Svn := u32 img 8, boot.st1Digest := sha256 img
          boot.layerSecret := some (derive (romSecret s ++ sha256 img) labelLayer1)
          boot.stage := 1, boot.romDone := true }

/-! Stage 1 (R6, R524, R529 to R531, R533). -/

/-- Folio time resumes from the last floor plus 60 s; the first boot of all starts from zero, a start that counts as a floor of 0, and the
count never runs backwards (R6; log entry 123). -/
def resumeTime (s : State) : State :=
  let floors := s.easel.log.filterMap fun e => match e with | .timeFloor t => some t | _ => none
  let from_ := (floors.head?.getD 0 + 60_000_000_000) % 2 ^ 64
  { s with resumed := true, timeStarted := true, time := if s.timeStarted then max from_ s.lastTime else 0 }

/-- The region table of CS_LAYOUT; none when a region write is turned away (R396, R531). -/
def applyLayout (s : State) (body : Bytes) : Option State :=
  ((entriesOf 8 body).take 8).zipIdx.foldl (fun o p =>
    o.bind fun s =>
      let v := keep (BitVec.ofNat 64 (u64 p.1 0)) 0xFE00_0000_001F_FFFF
      if regionClash { s with stylus.csSel := BitVec.ofNat 3 p.2 } v then none
      else some { s with stylus.regions := mapPut s.stylus.regions p.2 v }) (some s)

/-- The protect bits of a run of regions (R394, R528). -/
def protectRun (s : State) (first count : Nat) : State :=
  let stop := min (first + count) 915_528
  if stop ≤ first then s
  else
    let words := (List.range ((stop - 1) / 64 - first / 64 + 1)).map (first / 64 + ·)
    words.foldl (fun s w =>
      let lo := max first (64 * w) - 64 * w
      let hi := min stop (64 * w + 64) - 64 * w
      let m := BitVec.ofNat 64 (2 ^ hi - 2 ^ lo)
      { s with stylus.wp := mapPut s.stylus.wp w (mapGet s.stylus.wp w 0 ||| m) }) s

/-- The floors rise to the SVNs that CONFIRM records name (R524). -/
def raiseFloors (s : State) : State :=
  if s.boot.identityFail then s
  else s.boot.confirms.foldl (fun s c => if counterOf s c.1 < c.2.1 then setCounter s c.1 c.2.1 else s) s

/-- A tile's role by its position (R22), its half being off. -/
def shippedRole (p : Nat) (t : Tile) : Tile := { t with role := if p % 68 < 64 then .service else .spare, st := .off }

/-- The tile role map: that of TILE_ROLES when a record at or above counter 3 verifies, else by position (R530). -/
def applyRoles (s : State) : State :=
  if !s.boot.identityFail && s.boot.rolesGen != 0 && decide (counterOf s 3 ≤ s.boot.rolesGen) then
    if counterOf s 3 < s.boot.rolesGen then setCounter s 3 s.boot.rolesGen else s
  else { s with tiles := mapAll s.tiles shippedRole, boot.rolesLost := true }

/-- Whether a shape is supported (R424). -/
def shapeOk (t x y z m : Nat) : Bool :=
  let n := x * y * z
  decide (m < n) &&
  match t with
  | 1 => decide (2 ≤ x) && decide (x ≤ 8) && y == 1 && z == 1
  | 2 => (x == 3 || x == 4) && (y == 3 || y == 4) && z == 1
  | 3 => [x, y, z].all (fun d => decide (2 ≤ d) && decide (d ≤ 4)) && decide (18 ≤ n) && decide (n ≤ 64)
  | _ => false

/-- The folio fields of a FOLIO record; one that is refused leaves the module standalone, with a record on the management network
(R423, R424). -/
def applyFolio (s : State) (b : Bytes) : State :=
  if b = [] then s
  else if b.length = 13 ∧ u64 b 0 ≠ 0 ∧ shapeOk (u8 b 8) (u8 b 9) (u8 b 10) (u8 b 11) (u8 b 12) then
    let n := u8 b 9 * u8 b 10 * u8 b 11
    { s with
      folio.folioId := BitVec.ofNat 64 (u64 b 0), folio.topology := u8 b 8
      folio.dimX := u8 b 9, folio.dimY := u8 b 10, folio.dimZ := u8 b 11, folio.number := u8 b 12
      folio.joined := u8 b 12 == 0
      folio.members := (List.range n).map fun m => (m, ⟨true, false, s.time, s.time, false, 0⟩) }
  else eventRec s none

/-- The records in force, in order of TYPE and INDEX (R536). -/
def recordsInForce (s : State) (rs own : List CfgRec) : Bytes :=
  let key := s.boot.deviceKey.getD 0
  let tch := [1, 2, 3, 4].flatMap fun t => ((tchilava s rs t).map fun r => r.2.2).getD []
  let mine := if s.boot.identityFail then [] else
    (if s.boot.rolesLost then [] else moduleRec key 0x20 s.boot.rolesGen (rolesBody s)) ++
    s.boot.confirms.zipIdx.flatMap fun c => moduleRec key 0x21 (c.2 + 1) (leBytes 1 c.1.1 ++ leBytes 4 c.1.2.1 ++ leBytes 1 c.1.2.2)
  tch ++ (own.flatMap fun r => r.2.2) ++ mine

/-- What stage 1 takes from the records once the layout stands: protect bits, floors, the policy, roles and the folio fields (R531). -/
def applyRecords (s : State) (rs : List CfgRec) : State :=
  let own := ownerSet s rs
  let ownRecs := (own.map (·.2)).getD []
  let s := (entriesOf 8 (bodyOf ownRecs 0x12)).foldl (fun s e => protectRun s (u32 e 0) (u32 e 4)) s
  let s := raiseFloors s
  let s := match own with
    | some (g, l) =>
      let s := { s with boot.policy := policyOf g l, boot.ownerSet := true }
      if counterOf s 2 < g then setCounter s 2 g else s
    | none => { s with boot.policy := noPolicy, boot.ownerSet := false }
  let s := applyRoles s
  let s := applyFolio s (bodyOf ownRecs 0x13)
  { s with boot.policy := { s.boot.policy with records := recordsInForce s rs ownRecs } }

/-- Stage 1 starts the firmware of a slot: the attempts of unconfirmed images are counted, the alias key is derived, the layer secret goes,
and LOCK is set (R524, R531, R533, R395). -/
def startFirmware (s : State) (slot : Nat) (img : Bytes) : State :=
  let s := match slotImage s 0 s.boot.st1Slot with
    | some st1 => countBoot s 0 s.boot.st1Slot st1
    | none => s
  let s := countBoot s 1 slot img
  let secret := beBytes 32 (s.boot.layerSecret.getD 0).toNat
  { s with
    boot.fwSlot := slot, boot.fwSvn := u32 img 8, boot.fwDigest := sha256 img
    boot.fwConfirmed := !unconfirmed s 1 slot img
    boot.attempts := if unconfirmed s 1 slot img then mapGet s.boot.tries (2 + slot) 0 else 0
    boot.aliasKey := if s.boot.identityFail ∨ s.boot.dbgLevel = 2 then none else some (derive (secret ++ sha256 img) labelAlias)
    boot.layerSecret := none, boot.stage1Done := true
    stylus.lock := true, stylus.bootMode := false }

/-- STAGE_1 (R531): records, counters, the folio fields and the role map, then the firmware, the alias key and LOCK. -/
def execStage1 (s : State) : Host.Outcome State Fault Refusal :=
  .next <|
    if !s.boot.romDone || s.boot.stage1Done || s.boot.stopped then s
    else
      let s := resumeTime s
      let rs := recordsIn s
      match applyLayout s (((tchilava s rs 0x01).map fun r => r.2.1).getD []) with
      | none => bootStop s
      | some s =>
        let s := applyRecords s rs
        match chooseSlot s 1 with
        | none => bootStop s
        | some (slot, img) => startFirmware s slot img

/-! The start of Easel firmware (R374, R376, R463, R521, R530). -/

/-- Spares in the order of R22 for a tile, among those that a relocation class allows (R161): its own half, then its chiplet, then the
other chiplets. -/
def sparesFor (s : State) (p reloc : Nat) : List Nat :=
  let spares := (List.range Config.tiles).filter fun q => (tileOf s q).role == .spare
  let half := spares.filter fun q => tileDomain q == tileDomain p
  let chip := spares.filter fun q => q / 136 == p / 136 && tileDomain q != tileDomain p
  let rest := spares.filter fun q => q / 136 != p / 136
  match reloc with
  | 0 => half
  | 1 => half ++ chip
  | 2 => half ++ chip ++ rest
  | _ => []

/-- A spare takes the service role of a tile that was retired without a placement. -/
def promote (s : State) (p : Nat) : State :=
  match (sparesFor s p 2).head? with
  | some q => writeRoles (updTile s q fun t => { t with role := .service, st := if t.st = .off then .off else .ready })
  | none => s

/-- Every tile is self-tested (R530). -/
def testAll (s : State) (failed : List Nat) : State :=
  let s := ((List.range 8).map (· + 5)).foldl (fun s d => if domainOn s d then s else wakeDomain s d) s
  let lost := (List.range Config.tiles).filter fun p => failed.contains p && (tileOf s p).role == .service
  let s := (List.range Config.tiles).foldl (fun s p => endTest (updTile s p (startTest s)) p (!failed.contains p)) s
  let s := lost.foldl promote s
  dropIdleDomains (writeRoles { s with boot.rolesStale := true, boot.rolesLost := false })

/-- What the commit left undone: the sectors that the log does not hold are poisoned and counted (R376). -/
def recoverCommit (s : State) : State :=
  let m := s.media
  let missing := m.commitBegun && !m.marker
  let h := m.health
  { s with
    media.poisoned := if missing then m.manifest.foldl (fun p l => mapPut p l ()) m.poisoned else m.poisoned
    media.health := { h with commitIncomplete := missing,
                             lostSectors := satAdd (ones 32) h.lostSectors (if missing then m.manifest.length else 0) }
    media.manifest := [], media.marker := false, media.commitBegun := false
    media.stripes := mapAll m.stripes fun _ x => { x with verified := [] } }

/-- The PROBE of a block. -/
def probeDesc (die block : Nat) (slc : Bool) : Desc := ⟨0, die, block, 0, 0, b2n slc, 0, 0, 0, patrolBuffer, 0⟩

/-- Erases that were cut are probed (R374). -/
def probeCut (s : State) : State :=
  let cut := s.media.blocks.filter fun p =>
    p.2.st == .erasing && (newestLedger s (p.1 / Config.bulkBlocks) (p.1 % Config.bulkBlocks)).map (·.kind) == some .intent
  cut.foldl (fun s p => submitDesc s .probe .hardware (probeDesc (p.1 / Config.bulkBlocks) (p.1 % Config.bulkBlocks) p.2.slc) 0) s

/-- A folio's hatch ports begin to train (R37, R426). -/
def trainPorts (s : State) : State :=
  if !inFolio s then s
  else
    let s := [3, 4].foldl (fun s d => if canWake s d then wakeDomain s d else s) s
    (List.range 8).foldl (fun s p =>
      if portRole s.folio.topology p ≠ 0 ∧ domainOn s (3 + p / 4) then updPort s p fun x => { x with st := .training } else s) s

/-- EASEL_FIRMWARE_START: the flash state is rebuilt, tiles are tested if stage 1 found no roles, and the NVMe controller is ready, which
ends START_UP. A folio of 16 members or more logs correctable errors (R454). -/
def execEaselFirmwareStart (failed : List Nat) (s : State) : Host.Outcome State Fault Refusal :=
  .next <|
    if !s.boot.stage1Done || s.boot.stage != 1 || s.boot.stopped || s.power.phase != .running then s
    else
      let s := probeCut (recoverCommit s)
      let s := if s.boot.rolesLost then testAll s failed else s
      let s := trainPorts { s with
        boot.stage := 2, integ.ceLog := decide (16 ≤ folioSize s), easel.serviceFrom := s.time, easel.lastClear := s.time }
      enterPhase { s with host.ready := true } .service

/-- BOOT_STAGE_TIMEOUT (R521). -/
def execBootStageTimeout (s : State) : Host.Outcome State Fault Refusal :=
  .next <|
    if s.boot.stopped || s.boot.stage ≥ 2 || !(s.power.phase == .running || s.power.phase == .stepping) then s else bootStop s

/-! Restore (R532). -/

/-- An OBJECT record is loaded; a refusal leaves things as they are. -/
def restoreObject (s : State) (r : Bytes) : State :=
  let take (e : Except Status State) : State := match e with | .ok t => t | .error _ => s
  match u8 r 0 with
  | 0 => take (loadTable s r)
  | 1 => take (loadIndex s r)
  | 7 =>
    if recordOk r 7 0 ∧ zeroAt r 32 96 ∧ u8 r 1 = ownNsid s then
      match userRead s (u64 r 8) (u64 r 16) with
      | some (b, false) => (match storeImage s b with | .inr t => t | .inl _ => s)
      | _ => s
    else s
  | k => if 2 ≤ k ∧ k ≤ 4 then take (loadLexical s r k) else s

/-- A CONTEXT record is applied: configure, then load. A refused configure writes a load report whose REASON the spec does not
state. -/
def restoreContext (s : State) (r : Bytes) (id : BitVec 64) : State :=
  match configureCtx s r with
  | some t => submitLoad t none (u8 r 0) id
  | none =>
    let (k, s) := draw s 1
    if u8 r 0 < 16 then writeReport s (u8 r 0) id 0xFF (Config.eventField 6 k % 256) (none, none) [] else s

/-- RESTORE: objects, then contexts, in ascending INDEX; in a folio only the head's records are used. -/
def execRestore (s : State) : Host.Outcome State Fault Refusal :=
  .next <|
    if s.boot.stage ≠ 2 ∨ s.integ.phase = .startUp then s
    else
      let p := s.boot.policy
      let s := if isHead s then (p.contexts.foldl (fun s c => restoreContext s c.2.1 c.2.2) (p.objects.foldl (fun s o => restoreObject s o.2) s))
        else s
      { s with boot.stage := 3 }

/-! Firmware updates (R524, R525). -/

/-- FIRMWARE_CONFIRM (R524, R534): 600 s in SERVICE without a watchdog reset; the images that run are confirmed, with a
record that the DeviceID key signs. -/
def execFirmwareConfirm (s : State) : Host.Outcome State Fault Refusal :=
  .next <|
    if s.integ.phase ≠ .service ∨ s.boot.stage < 2 ∨ s.boot.identityFail ∨ s.boot.deviceKey = none ∨ s.easel.restarting ∨
        s.time < s.easel.serviceFrom + 600_000_000_000 then s
    else
      let add (cs : List (Nat × Nat × Nat)) (c : Nat × Nat × Nat) : List (Nat × Nat × Nat) :=
        if c.2.1 ≤ counterOf s c.1 ∨ cs.contains c then cs else cs ++ [c]
      recordsChanged { s with
        boot.confirms := add (add s.boot.confirms (0, s.boot.st1Svn, s.boot.st1Slot)) (1, s.boot.fwSvn, s.boot.fwSlot)
        boot.fwConfirmed := true }

/-- FIRMWARE_IMAGE_DOWNLOAD (R410, R525): a piece of an image. -/
def execFirmwareImageDownload (cid offset : Nat) (data : Bytes) (s : State) : Host.Outcome State Fault Refusal :=
  .next <| adminCmd s cid false fun s =>
    let s := { s with host.download := cellsWrite s.host.download offset data, host.downloadLen := max s.host.downloadLen (offset + data.length) }
    stdCpl s (adminOrigin cid) 0 0

/-- A slot is written with an image, or erased (R525). -/
def writeFirmware (s : State) (kind slot : Nat) (b : Bytes) : State :=
  let base := slotBase s kind slot
  let n := slotBytes s kind
  let inSlot (a : Nat) : Bool := decide (base ≤ a) && decide (a < base + n)
  { s with
    stylus.cs := cellsWrite (s.stylus.cs.filter fun c => !inSlot c.1) base b
    stylus.csBad := s.stylus.csBad.filter fun p => !inSlot (p * 16384)
    boot.tries := mapDrop s.boot.tries (kind * 2 + slot)
    host.download := [], host.downloadLen := 0 }

/-- FIRMWARE_COMMIT (R525): NVMe slot 1 is slot A, 2 is slot B; slot 0 leaves the choice to the module, which takes the one that does
not run (log entry 34). -/
def execFirmwareCommit (cid slot action : Nat) (s : State) : Host.Outcome State Fault Refusal :=
  .next <| adminCmd s cid false fun s =>
    let img := cellsRead s.host.download 0 s.host.downloadLen
    let kind := if s.host.downloadLen = 0 then 1 else u8 img 4
    let running := if kind = 0 then s.boot.st1Slot else s.boot.fwSlot
    let k := if slot = 0 then 1 - running else slot - 1
    let done (s : State) (sct sc : Nat) : State := stdCpl s (adminOrigin cid) sct sc (sct != 0 || sc != 0)
    if 3 < action then done s 0 0x02
    else if 2 < slot then done s 1 0x06
    else if action = 2 then (if k = running then done s 1 0x06 else done s 0 0)
    else if 1 < kind then done { s with host.download := [], host.downloadLen := 0 } 1 0x07
    else if k = running then done s 1 0x06
    else if firmwareOk s kind (slotBytes s kind) img then
      let s := writeFirmware s kind k img
      if action = 3 then done s 1 0x0B else done s 0 0
    else done (writeFirmware s kind k []) 1 0x07

/-- FIRMWARE_RESTART_END (R555): Easel firmware runs again. -/
def execFirmwareRestartEnd (s : State) : Host.Outcome State Fault Refusal :=
  .next <| if s.easel.restarting then { s with easel.restarting := false, easel.lastClear := s.time } else s

end Sys2Proof.Machine
end

