-- ==== Sys2Proof/Machine/Attest.lean ====
section
/-! DEFINITION. Attestation by SPDM (R533 to R536), and the debug port (R537 to R540). -/

namespace Sys2Proof.Machine

/-! SPDM responses (R535). A reply's status is 0, or the code of an SPDM ERROR response (log entry 46). -/

def errInvalid : Nat := 0x01
def errUnspecified : Nat := 0x05
def errUnsupported : Nat := 0x07
def errNotReady : Nat := 0x42

def spdmError (s : State) (code : Nat) (data : Bytes := []) : State := sendReply s .spdm code data

def spdmDone (s : State) (data : Bytes) : State := sendReply s .spdm 0 data

/-- RDTExponent: the least e for which 2^e µs reaches the retry time. -/
def rdtExponent (us : Nat) : Nat := ((List.range 32).find? fun e => decide (us ≤ 2 ^ e)).getD 32

/-- ResponseNotReady, counted as a refusal (R535, R550). -/
def spdmLater (s : State) (us : Nat) : State := spdmError (countRefusal s) errNotReady [BitVec.ofNat 8 (rdtExponent us)]

/-- An SPDM request: class 3 work of Easel. Before Easel firmware starts nothing answers. -/
def spdmRequest (s : State) (f : State → State) : Host.Outcome State Fault Refusal :=
  .next <|
    if !domainOn s 0 || decide (s.boot.stage < 2) then s
    else if s.easel.restarting then spdmLater s 1_000_000
    else if easelRefuses s then spdmLater s (retryUs s.easel)
    else f (enqueue3 s)

/-- The chain of slot 0 (R533): DEVCERT's certificates, then the alias certificate of this boot, which a module whose identity failed does
not have. -/
def certChain (s : State) : Bytes :=
  let body := ((tchilava s (recordsIn s) 0x04).map fun r => r.2.1).getD []
  let inputs := s.boot.st1Digest ++ s.boot.fwDigest
  let alias_ := if s.boot.identityFail then [] else (List.range (Config.certLength 1 inputs)).map (Config.certByte 1 inputs)
  body ++ alias_

/-- Thirty-two fresh bytes. -/
def freshNonce (k : Nat) : Bytes := (List.range 32).map (Config.randomByte k)

/-- A signature by the alias key over a transcript (log entry 3). -/
def aliasSign (key : BitVec 256) (transcript : Bytes) (k : Nat) : Bytes := (List.range 64).map (Config.signByte key (sha256 transcript) k)

/-- GET_VERSION: 1.2 and 1.3. -/
def execGetVersion (s : State) : Host.Outcome State Fault Refusal :=
  spdmRequest s fun s => spdmDone s (leBytes 2 0x1200 ++ leBytes 2 0x1300)

/-- GET_CAPABILITIES: CERT_CAP, CHAL_CAP, and MEAS_CAP with signatures. -/
def execGetCapabilities (s : State) : Host.Outcome State Fault Refusal :=
  spdmRequest s fun s => spdmDone s (leBytes 4 (0x02 + 0x04 + 0x10))

/-- NEGOTIATE_ALGORITHMS: of the masks offered, ECDSA on P-256 (bit 4) and SHA-256 (bit 0). -/
def execNegotiateAlgorithms (asym hash : Nat) (s : State) : Host.Outcome State Fault Refusal :=
  spdmRequest s fun s => spdmDone s (leBytes 4 (if bitSet asym 4 then 0x10 else 0) ++ leBytes 4 (if bitSet hash 0 then 0x01 else 0))

/-- GET_DIGESTS: slot 0 alone. -/
def execGetDigests (s : State) : Host.Outcome State Fault Refusal := spdmRequest s fun s => spdmDone s (sha256 (certChain s))

/-- GET_CERTIFICATE: a portion of the chain, with its length and what remains. -/
def execGetCertificate (slot offset len : Nat) (s : State) : Host.Outcome State Fault Refusal :=
  spdmRequest s fun s =>
    let chain := certChain s
    if slot ≠ 0 ∨ chain.length < offset then spdmError s errInvalid
    else
      let part := slice chain offset (min len (chain.length - offset))
      spdmDone s (leBytes 2 part.length ++ leBytes 2 (chain.length - offset - part.length) ++ part)

/-- CHALLENGE: signed with the alias key; without one, ERROR Unspecified (R535, R540). -/
def execChallenge (slot : Nat) (nonce : Bytes) (s : State) : Host.Outcome State Fault Refusal :=
  spdmRequest s fun s =>
    match s.boot.aliasKey with
    | none => spdmError s errUnspecified
    | some key =>
      if slot ≠ 0 then spdmError s errInvalid
      else
        let (k, s) := draw s 1
        let body := sha256 (certChain s) ++ freshNonce k ++ zeros 2
        spdmDone s (body ++ aliasSign key (nonce ++ body) k)

/-! Measurements (R536). -/

/-- The measurement of an index. -/
def measured (s : State) (i : Nat) : Option Bytes :=
  match i with
  | 1 => some ((List.range 32).map Config.romDigestByte)
  | 2 => some (padTo s.boot.st1Digest 32)
  | 3 => some (padTo s.boot.fwDigest 32)
  | 4 => some (sha256 s.boot.policy.records)
  | 5 => some (sha256 [BitVec.ofNat 8 s.boot.dbgLevel])
  | _ => if 16 ≤ i ∧ i < 32 then some (padTo (((ctxOf s (i - 16)).loaded.map fun l => l.image.digest).getD []) 32) else none

/-- A DMTF measurement block: its value's type is the standard's to number (log entry 33). -/
def measureBlock (s : State) (k i : Nat) : Bytes :=
  match measured s i with
  | some v => leBytes 1 i ++ leBytes 1 1 ++ leBytes 2 35 ++ [Config.stdByte 12 k i] ++ leBytes 2 32 ++ v
  | none => []

/-- The indices measured. -/
def measureIndices : List Nat := [1, 2, 3, 4, 5] ++ (List.range 16).map (16 + ·)

/-- GET_MEASUREMENTS: index 0 asks how many there are, 0xFF for all. Signed responses need the alias key (R535). -/
def execGetMeasurements (index : Nat) (signed : Bool) (nonce : Bytes) (s : State) : Host.Outcome State Fault Refusal :=
  spdmRequest s fun s =>
    let chosen := if index = 0xFF then measureIndices else measureIndices.filter (· == index)
    if index ≠ 0 ∧ chosen = [] then spdmError s errInvalid
    else if signed ∧ s.boot.aliasKey = none then spdmError s errUnspecified
    else
      let (k, s) := draw s 1
      let record := chosen.flatMap (measureBlock s k)
      let count := if index = 0 then measureIndices.length else chosen.length
      let body := leBytes 1 count ++ leBytes 3 record.length ++ record ++ freshNonce k ++ zeros 2
      match signed, s.boot.aliasKey with
      | true, some key => spdmDone s (body ++ aliasSign key (nonce ++ body) k)
      | _, _ => spdmDone s body

/-- SPDM_UNSUPPORTED: any other request. -/
def execSpdmUnsupported (code : Nat) (s : State) : Host.Outcome State Fault Refusal :=
  spdmRequest s fun s => spdmError s errUnsupported [BitVec.ofNat 8 code]

/-! The debug port (R537 to R540). -/

/-- The next shift-out: RESULT 0 NONE, 1 OPENED, 2 REFUSED, 3 LOCKED; the level open; a nonce from byte 8. -/
def shiftOut (s : State) (result : Nat) (nonce : Bytes) : State :=
  sendReply { s with boot.dbgResult := result } .debug 0
    (padTo (leBytes 1 result ++ leBytes 1 s.boot.dbgLevel ++ zeros 6 ++ nonce) 128)

/-- An ACCESS shift while PD0 is powered. -/
def access (s : State) (f : State → State) : Host.Outcome State Fault Refusal := .next (if domainOn s 0 then f s else s)

/-- An opening fails. -/
def failOpen (s : State) (result : Nat) : State := shiftOut { s with boot.dbgFails := satAdd 0xFF s.boot.dbgFails 1 } result []

/-- A PROTECTION record of the debug port; UNIT_KIND 7 (log entry 47). -/
def debugRec (s : State) : State := recordErr s { cls := .protection, unitKind := 7, op := 11, detailA := 1 }

/-- The port opens: FULL erases the DeviceID and alias keys (R540). -/
def openPort (s : State) (level method : Nat) : State :=
  let level := max s.boot.dbgLevel level
  let s := { s with boot.dbgLevel := level, boot.dbgMethod := method }
  let s := if level = 2 then { s with boot.deviceKey := none, boot.aliasKey := none } else s
  shiftOut s 1 []

/-- Whether a level is one the port opens to. -/
def debugLevel (level : Nat) : Bool := level == 1 || level == 2

/-- NONCE (R537, R539). -/
def execNonce (s : State) : Host.Outcome State Fault Refusal :=
  access s fun s =>
    let (k, s) := draw s 1
    shiftOut { s with boot.dbgNonce := some ⟨freshNonce k, s.time⟩ } 0 (freshNonce k)

/-- Whether a password's text has the right form (R538). -/
def passwordForm (text : Bytes) : Bool :=
  decide (8 ≤ text.length) && decide (text.length ≤ 16) && text.all fun c => decide (0x20 ≤ c.toNat) && decide (c.toNat ≤ 0x7E)

/-- PASSWORD (R538): the right password opens at a level that the DEBUG record allows; a wrong one is recorded, and the fifth locks the
method. Without a DEBUG record there is no password access (R529). -/
def execPassword (level : Nat) (text : Bytes) (s : State) : Host.Outcome State Fault Refusal :=
  access s fun s =>
    if s.boot.pwLocked then failOpen s 3
    else
      match s.boot.policy.debug with
      | none => failOpen s 2
      | some (salt, verifier, top) =>
        if !passwordForm text || sha256 (salt ++ text) != verifier then
          let n := s.boot.pwFails + 1
          failOpen (debugRec { s with boot.pwFails := n, boot.pwLocked := decide (5 ≤ n) }) 2
        else if debugLevel level ∧ level ≤ top then openPort s level 1
        else failOpen s 2

/-- What a response signs (R539). -/
def responseDigest (s : State) (nonce : Bytes) (level : Nat) : Bytes :=
  sha256 (nonce ++ sha256 ((s.boot.deviceKey.map publicKey).getD []) ++ leBytes 1 level)

/-- RESPONSE (R539): a nonce is valid for 60 s and one response; the key is a debug key of KEYS or the SVC key. -/
def execResponse (level sigR sigS : Nat) (s : State) : Host.Outcome State Fault Refusal :=
  access s fun s =>
    let keys := ((s.boot.policy.keys.filter fun k => k.1 == 2) ++ liveKeys s [4]).map (·.2)
    let ok (n : DbgNonce) : Bool :=
      decide (s.time < n.stamp + 60_000_000_000) && debugLevel level &&
      keys.any fun key => signedBy key (responseDigest s n.value level) sigR sigS
    let good := (s.boot.dbgNonce.map ok).getD false
    let s := { s with boot.dbgNonce := none }
    if good then openPort s level 2 else failOpen (debugRec s) 2

end Sys2Proof.Machine
end

