-- ==== Sys2Proof/Machine/Calibrate.lean ====
section
/-! DEFINITION. Calibration on live traffic (R487 to R502). -/

namespace Sys2Proof.Machine

/-- An entry of the calibration log, a ring of 1,024 (R502). -/
def calLog (s : State) (kind unit cause : Nat) (oldA newA : Int) (oldB newB : Nat) : State :=
  { s with cal.log := (⟨s.time, kind, unit, cause, oldA, newA, oldB, newB⟩ :: s.cal.log).take 1024, easel.calAll := s.easel.calAll + 1 }

/-- A change is held (R489). -/
def countHeld (s : State) : State := { s with cal.heldChanges := satAdd (ones 32) s.cal.heldChanges 1 }

/-- PROTECTED_WINDOW_END (R488, R489): windows whose end has come close; what is held acts at the next decision point of its
calibration. -/
def execProtectedWindowEnd (s : State) : Host.Outcome State Fault Refusal :=
  .next { s with cal.windows := s.cal.windows.filter fun w => decide (s.time < w.till) }

/-! Tiles (R495 to R497). -/

/-- A change of a tile's operating point is asked for; it waits for a stroke boundary (R64, R496). -/
def askPoint (s : State) (p f : Nat) (v : Int) : State := updTile s p fun t => { t with change := some (f, v) }

/-- The step after a failed interval (R496): VOFS up, else FREQ down, else the tile is exhausted. -/
def stepUp (s : State) (p cause : Nat) : State :=
  let t := tileOf s p
  let (f, v) := t.change.getD (t.freq, t.vofs)
  let fresh (t : Tile) : Tile := { t with cal.held := false, cal.heldCause := 0, cal.quietFrom := s.time }
  let moved (s : State) : State :=
    updTile s p fun t => { fresh t with cal.exhausted := false, cal.stepsUp := satAdd (ones 24) t.cal.stepsUp 1 }
  if v < calVmax s then calLog (moved (askPoint s p f (v + 1))) 1 p cause v (v + 1) f f
  else if calFreqMin s < f then calLog (moved (askPoint s p (f - 1) v)) 1 p cause v v f (f - 1)
  else
    let s := updTile s p fun t => { fresh t with cal.exhausted := true }
    if t.cal.exhausted then s else calLog s 3 p cause v v f f

/-- The step after a quiet period (R496, R497): FREQ up as far as the target and the cap allow, else VOFS down. -/
def stepDown (s : State) (p : Nat) : State :=
  let t := tileOf s p
  let (f, v) := t.change.getD (t.freq, t.vofs)
  let moved (s : State) : State :=
    updTile s p fun t => { t with cal.held := false, cal.heldCause := 0, cal.quietFrom := s.time, cal.exhausted := false,
                                  cal.stepsDown := satAdd (ones 24) t.cal.stepsDown 1 }
  if f < calTarget s then
    if f < s.power.freqCap then calLog (moved (askPoint s p (f + 1) v)) 2 p 3 v v f (f + 1) else s
  else if calVmin s < v then calLog (moved (askPoint s p f (v - 1))) 2 p 3 v (v - 1) f f
  else s

/-- CAUSE of a failed interval (R502): canary, residue, both. -/
def failCause (canary residue : Bool) : Nat := if canary && residue then 2 else if residue then 1 else 0

/-- TILE_CAL_INTERVAL (R489, R495, R496, R499): a placed tile is evaluated at the end of an interval of 1 ms,
once. -/
def execTileCalInterval (p : Nat) (s : State) : Host.Outcome State Fault Refusal :=
  onUnit (decide (p < Config.tiles)) <|
    let t := tileOf s p
    if !s.cal.ctrl.getLsbD 1 || !t.placed || !(t.st == .ready || t.st == .running || t.st == .quiescing) ||
        s.time / 1_000_000 == t.cal.interval then s
    else
      let canary := t.faults.getLsbD faultCanary
      let residue := decide (t.cal.lastRepeats < t.counts.repeats)
      let failed := canary || residue
      let quiet := decide (t.cal.quietFrom + 1000000 * bitsAt s.cal.tileCfg.toNat 0 16 ≤ s.time)
      let held := t.cal.held && decide (t.cal.heldCause < 3)
      let t := { t with faults := t.faults &&& ~~~(1#7 <<< faultCanary), cal.lastRepeats := t.counts.repeats,
                        cal.interval := s.time / 1_000_000 }
      let s := setTile s p t
      if protectedTile s t then
        if failed then
          let cause := if held ∧ t.cal.heldCause ≠ failCause canary residue then 2 else failCause canary residue
          countHeld (updTile s p fun t => { t with cal.held := true, cal.heldCause := cause })
        else if quiet ∧ t.cal.held = false then countHeld (updTile s p fun t => { t with cal.held := true, cal.heldCause := 3 })
        else s
      else if failed then
        stepUp s p (if held ∧ t.cal.heldCause ≠ failCause canary residue then 2 else failCause canary residue)
      else if held then stepUp s p t.cal.heldCause
      else if quiet then stepDown s p
      else s

/-! Flash read levels (R491 to R494). -/

/-- CAL_FLASH_CFG (R501). -/
def calFlash (s : State) (lo n : Nat) : Nat := bitsAt s.cal.flashCfg.toNat lo n

/-- The key of a unit and mode; a fast die has SLC mode only. -/
def unitKey (unit : Nat) (slc : Bool) : Nat := 2 * unit + b2n (slc || decide (1024 ≤ unit))

def dieAt (s : State) (k : Nat) : DieCal := mapGet s.cal.dies k .fresh
def setDieCal (s : State) (k : Nat) (x : DieCal) : State := { s with cal.dies := mapPut s.cal.dies k x }

/-- Whether open windows protect the die's channel. -/
def protectedDie (s : State) (unit : Nat) : Bool := if unit < 1024 then protectedBulk s else protectedFast s

/-- The tracked shift moves by `d` steps, no further than 40 either way; entries of the log (R494, R502). -/
def moveShift (s : State) (unit : Nat) (slc : Bool) (d : Int) (kind cause entry : Nat) : State :=
  let k := unitKey unit slc
  let x := dieAt s k
  let want := x.shift + d
  let new := max (-40) (min 40 want)
  let mode := b2n (slc || decide (1024 ≤ unit))
  let s := setDieCal s k { x with shift := new }
  let s := if kind = 5 ∨ new ≠ x.shift then calLog s kind unit cause x.shift new mode entry else s
  if new = want then s else calLog s 6 unit cause x.shift new mode entry

/-- LEVEL_TRACK (R489, R492): a window of TRACK_READS reads closes. -/
def execLevelTrack (unit : Nat) (slc : Bool) (s : State) : Host.Outcome State Fault Refusal :=
  onUnit (decide (unit < 1024 + Config.fastDies)) <|
    let k := unitKey unit slc
    let x := dieAt s k
    if x.reads < calFlash s 16 16 then s
    else
      let total := x.n0 + x.n1
      let heavy (n : Nat) : Bool := total != 0 && decide (calFlash s 8 8 * total ≤ 100 * n)
      let live : Int := if heavy x.n1 then -1 else if heavy x.n0 then 1 else 0
      let step := if live = 0 then x.step else live
      let rate := ppm x.ewReads x.reads
      let y := { x with n1 := 0, n0 := 0, reads := 0, ewReads := 0, ewPpm := rate, due := decide (calFlash s 32 20 ≤ rate) }
      if !s.cal.ctrl.getLsbD 0 then setDieCal s k { y with due := false }
      else if protectedDie s unit then
        let s := setDieCal s k { y with step := step }
        if live = 0 then s else countHeld s
      else
        let s := setDieCal s k { y with step := 0 }
        if step = 0 then s else moveShift s unit slc step 4 4 0

/-- The descriptor of a sweep's read at an offset entry. -/
def sweepDesc (unit : Nat) (slc : Bool) (page : Nat × Nat) (entry : Nat) : Desc :=
  if unit < 1024 then ⟨0, unit, page.1, page.2, 1, b2n slc, entry, 0, 0, patrolBuffer, 0⟩
  else ⟨1, unit - 1024, page.1, page.2, 1, 1, entry, 0, 0, patrolBuffer, 0⟩

/-- LEVEL_SWEEP (R489, R493): 15 CAL_READ descriptors at priority 0 on the page whose read last carried EW. -/
def execLevelSweep (unit : Nat) (slc : Bool) (s : State) : Host.Outcome State Fault Refusal :=
  onUnit (decide (unit < 1024 + Config.fastDies)) <|
    let k := unitKey unit slc
    let x := dieAt s k
    let rested := (x.lastSweep.map fun t => decide (t + 100000000 * calFlash s 0 8 ≤ s.time)).getD true
    if !s.cal.ctrl.getLsbD 0 || !x.due || x.sweeping || !rested then s
    else if protectedDie s unit then
      if x.held then s else countHeld (setDieCal s k { x with held := true })
    else
      let s := setDieCal s k { x with due := false, held := false, sweeping := true, lastSweep := some s.time }
      (List.range 15).foldl (fun s j => submitDesc s .calRead .hardware (sweepDesc unit slc x.lastEwPage (j + 1)) 0) s

/-- The entry a sweep adopts: the lowest bucket, then nearest to 8, then the lower entry (R493). -/
def bestEntry (buckets : List Nat) : Nat :=
  let away (j : Nat) : Nat := if j < 8 then 8 - j else j - 8
  let better (a b : Nat) : Bool :=
    let x := buckets.getD (a - 1) 15
    let y := buckets.getD (b - 1) 15
    decide (x < y) || (x == y && (decide (away a < away b) || (away a == away b && decide (a < b))))
  (List.range 15).foldl (fun best j => if better (j + 1) best then j + 1 else best) 8

/-- LEVEL_SWEEP_ADOPT (R489, R493, R494): the reads have returned; while the channel is protected the change is held. -/
def execLevelSweepAdopt (unit : Nat) (slc : Bool) (buckets : List Nat) (s : State) : Host.Outcome State Fault Refusal :=
  onUnit (decide (unit < 1024 + Config.fastDies)) <|
    let k := unitKey unit slc
    let x := dieAt s k
    if !x.sweeping || buckets.length != 15 then s
    else if protectedDie s unit then (if x.held then s else countHeld (setDieCal s k { x with held := true }))
    else
      let e := bestEntry buckets
      moveShift (setDieCal s k { x with sweeping := false, held := false, sweeps := satAdd 0xFFFF x.sweeps 1 }) unit slc
        ((e : Int) - 8) 5 5 e

end Sys2Proof.Machine
end

