-- ==== Sys2Proof/Machine/Ingress.lean ====
section
/-! DEFINITION. Ingress (R125, R135 to R137, R186, R429, R447), and the return of credits (R131, R133). -/

namespace Sys2Proof.Machine

/-- The bytes of a sheet after the wire's changes. -/
def wireBytes (err : WireError) (b : Bytes) : Bytes := err.foldl (fun b e => listUpd b e.1 (· ^^^ e.2)) b

/-- What arrives on a stream: the sheet, whether its CHECK agrees, and the value computed. -/
structure Arrival where
  sheet : Sheet
  ok : Bool
  computed : BitVec 32

def arrivalOf (b : Bytes) : Arrival :=
  let sh := slotSheet (b.take (64 * (slotLines (u8 b 2)).getD 1))
  let c := arrivedCheck b
  ⟨sh, c == sh.check, c⟩

/-- Bounds of VALID for a shape (R120); for sketches that a station takes also whole sketches (R251). -/
def validOk (x : Stream) (sh : Sheet) (bits : Option Nat) : Bool :=
  decide (1 ≤ sh.valid.toNat) && decide (sh.valid.toNat ≤ if x.shape = 0 then 32 else 1024) &&
  (bits.map fun l => sh.valid.toNat % max 1 l == 0).getD true

/-- Slot lines of the consumer (R135 check 5). -/
def consumerLines (s : State) (x : Stream) : Nat :=
  match x.consTile with
  | some p => ((mapFind (tileOf s p).buffers x.consBuf).map (·.slotLines)).getD 0
  | none => (slotLines x.format).getD 0

/-- L of the sketches that PROBE takes on a stream (R251, R332). -/
def probeBits (s : State) (x : Stream) (sh : Sheet) : Option Nat :=
  if x.cons != stnProbe then none
  else if ((decodeSec s x.ctx).map fun d => d.dedupIn == x.localNo).getD false then (decodeSec s x.ctx).map (·.sketchBits)
  else if ((probeSec s x.ctx).map fun p => p.qsketchStream == x.localNo).getD false then sketchBitsOf s x.ctx sh
  else none

/-- Checks 2 to 5 of R135. -/
def ingressOk (s : State) (n : Nat) (x : Stream) (sh : Sheet) : Bool :=
  sh.stream.toNat == n && sh.seq == x.nextAccept && sh.format.toNat == x.format && sh.shape.toNat == x.shape &&
  validOk x sh (probeBits s x sh) && decide ((slotLines sh.format.toNat).getD 0 ≤ consumerLines s x)

/-- The substitute for a sheet that failed (R137). -/
def substitute (n : Nat) (x : Stream) : Sheet :=
  let f := x.format
  sealSheet
    { stream := BitVec.ofNat 16 n, format := BitVec.ofNat 8 f, shape := BitVec.ofNat 8 x.shape, seq := x.nextAccept,
      flags := flagPoison ||| flagSubst, valid := if x.shape = 0 then 32 else 1024, tag := x.lastTag, origin := x.lastOrigin,
      check := 0, scales := List.replicate 32 (if hasScales f then 0x7F else 0),
      data := pack f (List.replicate 1024 (zeroCode f x.grid)) }

/-- The stream after it has accepted a sheet (R127, R135, R148). -/
def Stream.accept (x : Stream) (sh : Sheet) (sub : Bool) : Stream :=
  { x with
    inflight := x.inflight.drop 1
    holds := x.holds.drop 1
    resendAsked := false
    resent := false
    nextAccept := x.nextAccept + 1
    present := x.present + 1
    accepted := satAdd (ones 64) x.accepted 1
    substitutes := satAdd (ones 32) x.substitutes (b2n sub)
    lastTag := sh.tag
    lastOrigin := sh.origin
    credits := if x.prod = stnHatch then x.credits - 1 else x.credits }

/-- A tile's ingress writes the sheet into the next slot of its buffer (R55, R135). -/
def tileSheet (s : State) (x : Stream) (p : Nat) (sh : Sheet) : State :=
  updTile s p fun t =>
    match mapFind t.buffers x.consBuf with
    | some b => putSlot t (x.consBuf, x.accepted % max 1 b.slots) ⟨.present, true, sh⟩
    | none => t

/-- A sheet of a BATCH job has been accepted; with the last one the job has what it asked for (R414, R417). -/
def countAccepted (s : State) (x : Stream) (sh : Sheet) : State :=
  if x.prod != stnAdmit then s
  else match reqByBatch s x.ctx (tagBatch sh.tag) with
    | some q =>
      if q.kind = .batch ∧ !q.done then
        let n := q.accepted + 1
        let all := (batchSheets s q).length
        let c := q.cond ||| flagCond sh
        updReq s q.rid fun q =>
          if all ≤ n then { q with accepted := n, cond := c, done := true, posts := [⟨q.src, c, 0, n, true⟩] }
          else { q with accepted := n, cond := c }
      else s
    | none => s

/-- RESULT's slots of a batch are free once its record has been written (R131, R200). -/
def releaseResults (s : State) (c b : Nat) : State :=
  let mine (sh : Sheet) : Bool := tagBatch sh.tag == b
  (s.streams.filter fun p => p.2.cons == stnResult && p.2.ctx == c && p.2.arrived.any mine).foldl (fun s p =>
    freeSlots (updStream s p.1 fun x => { x with arrived := x.arrived.filter fun sh => !mine sh }) p.1
      (p.2.arrived.filter mine).length) s

/-- RESULT takes a sheet of a request: its flags count for the request's status (R194, R281). -/
def resultSheet (s : State) (x : Stream) (sh : Sheet) : State :=
  match reqByBatch s x.ctx (tagBatch sh.tag) with
  | some q => addCond s q.rid (flagCond sh)
  | none => releaseResults s x.ctx (tagBatch sh.tag)

/-- What a hard station does with a sheet that it takes from its queue. -/
def consume (s : State) (n : Nat) (x : Stream) (sh : Sheet) : State :=
    if x.cons = stnLetter then freeSlots (letterSheet s n x sh) n 1
    else if x.cons = stnProbe then
      if ((decodeSec s x.ctx).map fun d => d.dedupIn == x.localNo).getD false then dedupSheet s n x sh else probeSheet s n x sh
    else if x.cons = stnPack then packSheet s n x sh
    else if x.cons = stnFeed then feedSheet s n x sh
    else if x.cons = stnDeliver then deliverSheet s n x sh
    else freeSlots s n 1

/-- An accepted sheet is written into its slot (R129, R135): a tile's, or one of the ingress queue, where it stays until a grant at the
station's ingress or at a hatch port takes it (R144). DECODE's streams wait for its engines (R328). -/
def placeSheet (s : State) (n : Nat) (x : Stream) (sh : Sheet) : State :=
  match x.consTile with
  | some p => tileSheet s x p sh
  | none =>
    let s := storeQueued s x sh
    if x.cons = stnDecode then decodeSheet s n sh
    else
      let s := updStream s n fun x => { x with arrived := x.arrived ++ [sh] }
      if x.cons = stnResult then resultSheet s x sh else s

/-- The slot that an EMIT holds is released once every consumer of its route has accepted the sheet (R132). A tile in FAULT keeps its slots
(R71, R133). -/
def releaseHold (s : State) (h : Nat × Nat × Nat) : State :=
  if (s.streams.any fun p => p.2.holds.contains (some h)) || (tileOf s h.1).st == .fault then s else releaseSlot s h.1 h.2

/-- A sheet is accepted: it is acknowledged, so an EMIT's held slot is released and a producer that waited may send (R132, R136); PREFETCH
entries fire (R186), and the sheet is present. -/
def acceptSheet (s : State) (n : Nat) (x : Stream) (sh : Sheet) (sub : Bool) : State :=
  let s := pumpStream (setStream s n (x.accept sh sub)) n
  let s := match x.holds.head?.bind id with | some h => releaseHold s h | none => s
  let s := firePrefetch (countAccepted s x sh) x sh
  let s := placeSheet s n x sh
  if 0xE0 ≤ x.prod then releaseOwed s x.prod x.ctx else s

/-- A failed check is recorded (R137, R460): at a tile's ingress with the tile, else with the station. -/
def ingressRec (s : State) (n : Nat) (x : Stream) (a : Arrival) (made : Bool) : State :=
  match x.consTile with
  | some p =>
    recordErr s { cls := .detected, unitKind := 0, unit := p, op := 5, ctx := x.ctx, station := x.cons, stream := n,
                  sheetSeq := a.sheet.seq.toNat, detailA := a.sheet.check.toNat, detailB := a.computed.toNat, poisonMade := made }
  | none => detected s x.cons x.ctx n a.sheet.seq.toNat a.sheet.check.toNat a.computed.toNat made

/-- The checks of R135 on an arrival, and what follows from them. -/
def ingress (s : State) (n : Nat) (x : Stream) (a : Arrival) (checkFailed : Bool) : State :=
  if !a.ok && !x.resent then
    ingressRec (setStream s n { x with resendAsked := true }) n x a false
  else if !a.ok || !ingressOk s n x a.sheet then
    acceptSheet (ingressRec s n x a true) n x (substitute n x) true
  else if checkFailed && decide (0xE0 ≤ x.cons) && decide (x.cons ≤ 0xE7) then
    acceptSheet (detected s x.cons x.ctx n a.sheet.seq.toNat 0 0 true) n x { a.sheet with flags := a.sheet.flags ||| flagPoison } false
  else acceptSheet s n x a.sheet false

/-- A sheet that another member sent: the stream number is rewritten (R124, R429); one whose SEQ lies behind is a duplicate; a second
arrival after a failed check is the resend. -/
def farArrival (s : State) (n : Nat) (x : Stream) (port : Nat) (a : Arrival) (checkFailed : Bool) : State :=
  let behind := (x.nextAccept - a.sheet.seq).toNat
  if a.ok && decide (0 < behind) && decide (behind < 2 ^ 31) then
    updPort s port fun p => { p with duplicates := satAdd 0xFFFF p.duplicates 1 }
  else
    let s := updPort s port fun p => { p with received := satAdd (ones 64) p.received 1 }
    let sh := forward a.sheet (BitVec.ofNat 16 n) a.sheet.seq a.sheet.flags
    let again := if x.resendAsked then { x with resent := true, resends := satAdd (ones 32) x.resends 1 } else x
    ingress s n again { a with sheet := sh } checkFailed

/-- SHEET_INGRESS (R135 to R137). -/
def execSheetIngress (n : Nat) (err : WireError) (checkFailed : Bool) (far : Option (Nat × Bytes)) (s : State) :
    Host.Outcome State Fault Refusal :=
  .next <|
    match streamOf s n with
    | none => s
    | some x =>
      if x.prod = stnHatch then
        match far with
        | some (port, b) => farArrival s n x port (arrivalOf (wireBytes err b)) checkFailed
        | none => s
      else
        match x.inflight with
        | [] => s
        | sh :: _ => if x.resendAsked then s else ingress s n x (arrivalOf (wireBytes err (sheetSlot sh))) checkFailed

/-- CREDIT_RETURN (R131, R134): a credit on its way reaches the producer of stream `n`; a hard-station producer that held a
sheet for want of it sends, and what it kept back then goes on (R133). At HATCH it is the far module's acceptance that frees the slot. -/
def execCreditReturn (n : Nat) (s : State) : Host.Outcome State Fault Refusal :=
  .next <|
    match streamOf s n with
    | none => s
    | some x =>
      let s := if x.cons = stnHatch then ackHatch s n else s
      match streamOf s n with
      | none => s
      | some x =>
        if x.returning = 0 then s
        else
          let s := pumpStream (setStream s n { x with returning := x.returning - 1, credits := x.credits + 1 }) n
          if 0xE0 ≤ x.prod then releaseOwed s x.prod x.ctx else s

end Sys2Proof.Machine
end

