-- ==== Sys2Proof/Machine/Complete.lean ====
section
/-! DEFINITION. Completions of admitted requests (R115, R200, R219, R225, R417, R450, R452). -/

namespace Sys2Proof.Machine

/-- Whether an image has a scatter program (R220). -/
def hasScatter (s : State) (c : Nat) : Bool :=
  ((ctxOf s c).loaded.map fun l => l.image.feed.any fun f =>
    f.kind == 3 && ((l.image.regions[f.region]?).map fun r => r.source == 2).getD false).getD false

/-- A delivery job that has ended owes its completion (R338, R417). -/
def endDelivery (s : State) (q : Req) : State :=
  match (ctxOf s q.ctx).delivery with
  | some d =>
    if q.kind = .delivery ∧ d.rid = q.rid ∧ q.posts = [] ∧ deliveryEnded s d then
      let c := q.cond ||| if d.poison then condBit .poisoned else 0
      updReq s q.rid fun q => { q with done := true, posts := [⟨q.src, c, 0, d.ended, true⟩] }
    else s
  | none => s

/-- The station at which a request of a kind meets poison (R450). -/
def biteStation (k : ReqKind) : Nat := match k with | .delivery => stnDeliver | .front => stnLetter | _ => stnResult

/-- The request leaves: the versions that it used, its pins, its delivery job (R185, R219, R241). -/
def endReq (s : State) (q : Req) : State :=
  let s := unpinBatch (useVersions s q false) q.ctx q.batch
  let s := if q.kind = .delivery then updCtx s q.ctx fun x => { x with delivery := none } else s
  afterReq (dropReq s q.rid) q.ctx

/-- One completion is posted. -/
def postOne (s : State) (q : Req) (p : Post) : State :=
  let trap := trapFired s q.ctx && (q.kind == .query || q.kind == .batch || q.kind == .delivery)
  let c := p.cond ||| (if p.final then q.cond else 0) ||| (if trap then condBit .nanTrap else 0) |||
    (if s.integ.phase = .contained then condBit .poisoned else 0)
  let s := releaseResults s q.ctx q.batch
  let s := if c &&& condBit .poisoned != 0 then biteRecord s q.ctx (biteStation q.kind) else s
  let s := vendorCpl s p.src c (if trap then 0 else p.hi) (if trap then 0 else p.dw1)
  if p.final then endReq s q else updReq s q.rid fun q => { q with posts := q.posts.drop 1 }

/-- COMPLETION_POST (R115, R200, R219, R225, R417): the oldest completion that a request owes is posted once every line of its records is
visible; the last one waits until every scatter update of the batch has been applied, those in the migration log too. -/
def execCompletionPost (rid : Nat) (s : State) : Host.Outcome State Fault Refusal :=
  .next <|
    match reqOf s rid with
    | none => s
    | some q =>
      let s := endDelivery s q
      match (reqOf s rid).bind fun q => q.posts.head?.map fun p => (q, p) with
      | none => s
      | some (q, p) =>
        if !recordsVisible s rid then s
        else if !p.final then postOne s q p
        else if q.kind = .batch ∧ hasScatter s q.ctx ∧ batchMoving s q.ctx q.batch then s
        else
          let s := if q.kind = .batch ∨ q.kind = .query then closeScatter s q.ctx q.batch else s
          if (s.updates ++ s.migLog).any fun u => u.ctx == q.ctx && u.batch == q.batch && (q.kind == .batch || q.kind == .query) then s
          else endUnloads (settleTables (postOne s q p)) q.ctx

end Sys2Proof.Machine
end

