-- ==== Sys2Proof/Machine/Grants.lean ====
section
/-! DEFINITION. Grants of the arbiters and what they decide (R53, R141 to R144). -/

namespace Sys2Proof.Machine

/-- The hard station whose ingress a resource is. DECODE's streams wait for its engines instead (R328). -/
def ingressOf (resource : Nat) : Option Nat :=
  if ingressArbiter stnLetter ≤ resource ∧ resource ≤ ingressArbiter stnPack then some (resource - ingressArbiter 0) else none

/-- The hatch port that a resource is. -/
def portOfArbiter (resource : Nat) : Option Nat :=
  if portArbiter 0 ≤ resource ∧ resource < portArbiter 8 then some (resource - portArbiter 0) else none

/-- Whether what a request asks for is there: at a tile's bank a line that lies in it (R52), at a hard station's ingress a sheet present on
the stream and outputs that are not blocked (R133), at a hatch port a sheet that is bound for it. -/
def requestStands (s : State) (resource : Nat) (r : ArbReq) : Bool :=
  if isBank resource then r.line % 16 == resource % 16
  else match ingressOf resource, portOfArbiter resource with
    | some stn, _ =>
      r.station == stn &&
      ((streamOf s r.port).map fun x => x.cons == stn && x.ctx == r.context && !x.arrived.isEmpty && !stationBlocked s stn x.ctx).getD false
    | _, some h => ((streamOf s r.port).map fun x => x.cons == stnHatch && x.prod == r.station && x.ctx == r.context).getD false &&
        leavesBy s r.port == some h
    | _, _ => true

/-- The requests of a cycle register beside those that wait; at an ingress or a hatch port one whose sheet has gone is no request. -/
def registered (s : State) (resource : Nat) (reqs : List ArbReq) : SMap Requester :=
  let old := mapFilter (mapGet s.arbiters resource ⟨[], 0, none⟩).waiting fun n r =>
    isBank resource || requestStands s resource ⟨n, r.station, r.context, 0, false⟩
  (reqs.filter (requestStands s resource)).foldl (fun m r => register m r (requestPriority s r)) old

/-- A hard station takes the oldest sheet of a stream from its queue (R144). -/
def takeArrived (s : State) (n : Nat) : State :=
  match streamOf s n with
  | none => s
  | some x =>
    match nextArrived s x with
    | none => s
    | some sh => consume (updStream s n fun x => { x with arrived := x.arrived.drop 1 }) n x sh

/-- What a grant lets come about at once: the station takes the stream's sheet, the sheet goes out on the hatch port. At a memory channel or a
companion link the access that was granted comes about in its own step. -/
def granted (s : State) (resource n : Nat) : State :=
  match ingressOf resource, portOfArbiter resource with
  | some _, _ => takeArrived s n
  | _, some _ => sendHatch s n
  | _, _ => s

/-- ARBITER_GRANT (R142, R144): the requests of this cycle register, one is granted, and the pointer moves past it. In a tile's
bank every requester refused is a requester-cycle of TILE_STALL_BANK (R53, R80). -/
def execArbiterGrant (resource ports : Nat) (reqs : List ArbReq) (s : State) : Host.Outcome State Fault Refusal :=
  .next <|
    let a := mapGet s.arbiters resource ⟨[], 0, none⟩
    let bank := isBank resource
    let m := registered s resource reqs
    match arbChoice bank m a.pointer with
    | none => { s with arbiters := mapPut s.arbiters resource { a with waiting := m, granted := none } }
    | some g =>
      let rest := mapAll (mapDrop m g.port) fun _ => passOver bank g
      let s := { s with arbiters := mapPut s.arbiters resource ⟨rest, (g.port + 1) % max 1 ports, some g.port⟩ }
      let s := countEscalation s g
      if bank then
        let k := rest.length + (reqs.filter fun r => r.lostRace && requestStands s resource r).length
        updTile s (resource / 16) fun t => { t with counts.stallBank := satAdd (ones 64) t.counts.stallBank k }
      else granted s resource g.port

end Sys2Proof.Machine
end

