-- ==== Sys2Proof/Machine/Window.lean ====
section
/-! DEFINITION. The CXL.mem window: mapping, host accesses, back-invalidate snoops (R178, R198 to R200, R401 to R404). -/

namespace Sys2Proof.Machine

/-! The window map. -/

/-- An entry of WINDOW_MAP (R411). -/
structure WinEntry where
  first : Nat
  count : Nat
  ctx : Nat
  map : Bool
  hostWrite : Bool
deriving DecidableEq, Repr

def winEntry (e : Bytes) : WinEntry := ⟨u32 e 0, u32 e 4, u8 e 8, bitSet (u8 e 9) 0, bitSet (u8 e 9) 1⟩

/-- The reserved bits of an entry (R411). -/
def winEntryOk (e : Bytes) : Bool := e.length == 16 && decide (u8 e 9 < 4) && zeroAt e 10 6

/-- Window pages that the committed decoder covers (R198): 128 to each 256 MiB. -/
def windowSpan (s : State) : Nat := s.host.winSize * 128

/-- The admitted queries whose result buffer covers window page `w` (R403). -/
def bufferUsers (s : State) (w : Nat) : List Nat :=
  (s.reqs.filter fun p => p.2.admitted && p.2.kind == .query &&
    (windowPages (u64 p.2.record 40) (u32 p.2.record 48)).contains w).map (·.1)

/-- A window page leaves the map and its device page returns to the share. Lines that wait for it go with it (log entry 32). -/
def unmapPage (s : State) (c w : Nat) : State :=
  match mapFind s.host.window w with
  | some x =>
    if x.owner = c then
      let snoops := s.host.snoops.filter fun n => n.line * 64 / Config.pageBytes != x.page
      freePages (setWindow { s with host.snoops := snoops } (mapDrop s.host.window w)) [x.page]
    else s
  | none => s

/-- A valid entry acts; none when it is invalid or the share holds too few pages (R403). -/
def mapEntry (cid : Nat) (s : State) (e : WinEntry) : Option State :=
  let ws := (List.range e.count).map (e.first + ·)
  if e.count = 0 ∨ windowSpan s < e.first + e.count ∨ 16 ≤ e.ctx ∨ (ctxOf s e.ctx).st = .empty then none
  else if e.map then
    if ws.any (fun w => (mapFind s.host.window w).isSome) || decide ((ctxOf s e.ctx).fastPages < ctxPages s e.ctx 0 + e.count) then none
    else
      (allocPages s 0 e.count (.window e.ctx)).map fun r =>
        let s := r.1.foldl zeroPage r.2
        setWindow s ((ws.zip r.1).foldl (fun m p => mapPut m p.1 ⟨e.hostWrite, p.2, e.ctx⟩) s.host.window)
  else
    let owned (w : Nat) : Bool := ((mapFind s.host.window w).map fun x => x.owner == e.ctx && !ringPage s x).getD false
    if !ws.all owned then none
    else
      let users := (ws.flatMap (bufferUsers s)).eraseDups
      if users = [] then some (ws.foldl (fun s w => unmapPage s e.ctx w) s)
      else some { s with host.heldUnmaps := s.host.heldUnmaps ++ [⟨cid, ws, e.ctx, users⟩] }

/-- The entries of a command in order; none, and nothing changed, when one of them is invalid. -/
def windowEntries (cid : Nat) : List Bytes → State → Option State
  | [], s => some s
  | e :: es, s => if winEntryOk e then (mapEntry cid s (winEntry e)).bind (windowEntries cid es) else none

/-- The command WINDOW_MAP, whatever its entries (R403, R411): it completes when no unmap of it is held. -/
def windowCommand (s : State) (cid : Nat) (data : Bytes) : State :=
  adminCmd s cid false fun s =>
    if data.length % 16 ≠ 0 ∨ data = [] ∨ 65536 < data.length then adminRefuse s cid .format
    else
      match windowEntries cid (pieces 16 data) s with
      | none => adminRefuse s cid .format
      | some s => if s.host.heldUnmaps.any fun h => h.cid == cid then s else adminDone s cid

/-- WINDOW_MAP (R198, R403). -/
def execWindowMap (cid : Nat) (entries : Bytes) (s : State) : Host.Outcome State Fault Refusal :=
  .next (windowCommand s cid entries)

/-- WINDOW_UNMAP (R403). -/
def execWindowUnmap (cid : Nat) (entries : Bytes) (s : State) : Host.Outcome State Fault Refusal :=
  .next (windowCommand s cid entries)

/-- DEFERRED_UNMAP (R403): the `k`-th held unmap takes effect once the requests it waits for have completed; the command
completes with its last one. -/
def execDeferredUnmap (k : Nat) (s : State) : Host.Outcome State Fault Refusal :=
  .next <|
    match s.host.heldUnmaps[k]? with
    | none => s
    | some h =>
      if h.reqs.any fun r => (reqOf s r).isSome then s
      else
        let s := h.pages.foldl (fun s w => unmapPage s h.ctx w) { s with host.heldUnmaps := listDrop s.host.heldUnmaps k }
        if s.host.heldUnmaps.any fun x => x.cid == h.cid then s else adminDone s h.cid

/-! The decoder (R402). -/

/-- Whether admitted work, an open front-end sequence or a delivery ring still uses a window page. -/
def windowUsed (s : State) : Bool :=
  (s.reqs.any fun p => p.2.admitted && p.2.kind == .query) || !s.fronts.isEmpty || s.host.window.any fun p => ringPage s p.2

/-- The map and the ownership are cleared; unmaps that were held are over. -/
def clearWindow (s : State) : State :=
  let cids := (s.host.heldUnmaps.map (·.cid)).eraseDups
  let s := s.host.window.foldl (fun s p => if ringPage s p.2 then s else unmapPage s p.2.owner p.1) s
  cids.foldl (fun s c => adminDone s c) { setWindow s [] with host.heldUnmaps := [] }

/-- DECODER_COMMIT (R402): a size that the rules bar, or that differs from the map's while it is in use, fails with the decoder
error. -/
def execDecoderCommit (base bytes : Nat) (s : State) : Host.Outcome State Fault Refusal :=
  .next <|
    let n := bytes / 2 ^ 28
    let changes := s.host.mapSize != 0 && s.host.mapSize != n
    if bytes % 2 ^ 28 ≠ 0 ∨ n = 0 ∨ 1024 < n ∨ (changes = true ∧ windowUsed s = true) then
      sendReply { s with host.winSize := 0 } .decoder 1 []
    else
      let s := if changes then clearWindow s else s
      sendReply { s with host.winSize := n, host.mapSize := n, host.winBase := base } .decoder 0 []

/-- DECODER_DECOMMIT (R402): the window closes to the host, and what uses it goes on. -/
def execDecoderDecommit (s : State) : Host.Outcome State Fault Refusal :=
  .next (sendReply { s with host.winSize := 0 } .decoder 0 [])

/-! Host accesses. -/

/-- Whether the host can reach bytes [off, off + n) of the window (R401, R402). -/
def windowOpen (s : State) (off n : Nat) : Bool := linkUsable s && decide (off + n ≤ s.host.winSize * 2 ^ 28)

/-- A PROTECTION record of a window access (R199, R461). -/
def protWindow (s : State) (off : Nat) (write : Bool) : State :=
  recordErr s { cls := .protection, unitKind := 9, op := b2n write, address := s.host.winBase + off, detailA := b2n write }

/-- Bytes [off, off + n) as window pages hold them: pieces that end at page ends, with their offset. -/
def windowParts (off n : Nat) : List (Nat × Nat) :=
  (windowPages off n).map fun w =>
    let lo := max off (w * Config.pageBytes)
    (lo, min (off + n) ((w + 1) * Config.pageBytes) - lo)

/-- Whether an access of the window waits for its grant at a T0 or T1 channel (R144, R199). -/
def windowHeld (s : State) : Bool := (List.range 16).any (tierHeld s stnWindow)

/-- HOST_WINDOW_READ (R199, R401, R450): an unmapped page reads as zeros and is recorded; a poisoned 256-byte unit returns poison. -/
def execHostWindowRead (offset len : Nat) (s : State) : Host.Outcome State Fault Refusal :=
  .next <|
    if !windowOpen s offset len then sendReply s .windowRead 2 []
    else if windowHeld s then s
    else
      let parts := windowParts offset len
      let bytes := parts.flatMap fun p => match windowAddr s p.1 with
        | some a => cellsRead s.mem a p.2
        | none => zeros p.2
      let first := offset / 64
      let lines := (List.range ((offset + len + 63) / 64 - first)).map (first + ·)
      let bad := lines.filter fun l => ((windowAddr s (l * 64)).map fun a => poisonedAt s (a / 256 * 256) 256).getD false
      let s := parts.foldl (fun s p => if (windowAddr s p.1).isNone then protWindow s p.1 false else s) s
      let s := match bad with
        | [] => s
        | l :: _ => recordErr s { cls := .consumed, unitKind := 9, op := 0, address := s.host.winBase + l * 64, detailA := 5 }
      sendReply s .windowRead 0 bytes (bad.map (· - first))

/-- HOST_WINDOW_WRITE (R178, R199, R401): only a page marked HOST_WRITE takes it. -/
def execHostWindowWrite (offset : Nat) (data : Bytes) (s : State) : Host.Outcome State Fault Refusal :=
  .next <|
    if !windowOpen s offset data.length then sendReply s .windowRead 2 []
    else if windowHeld s then s
    else
      (windowParts offset data.length).foldl (fun s p =>
        match mapFind s.host.window (p.1 / Config.pageBytes) with
        | some x =>
          if x.hostWrite then
            memWrite s (x.page * Config.pageBytes + p.1 % Config.pageBytes) (slice data (p.1 - offset) p.2) false
          else protWindow s p.1 true
        | none => protWindow s p.1 true) s

/-- BACK_INVALIDATE_RESPONSE (R404): the host has answered for a line, and the oldest write held for it proceeds. -/
def execBackInvalidateResponse (line : Nat) (s : State) : Host.Outcome State Fault Refusal :=
  .next <|
    match s.host.snoops.findIdx? fun x => x.line == line with
    | none => s
    | some k =>
      match s.host.snoops[k]? with
      | none => s
      | some x => memWrite { s with host.snoops := listDrop s.host.snoops k } (line * 64) x.data x.poison

end Sys2Proof.Machine
end

