-- ==== Sys2Proof/Machine/HostReset.lean ====
section
/-! DEFINITION. Resets of the host interface and the state of its link (R400, R401, R422, R560). -/

namespace Sys2Proof.Machine

/-- The origin of a command whose submission path is gone. -/
def orphan : Origin := ⟨none, 0, orphanCid⟩

/-- Commands in progress whose completions are no longer posted (R422). -/
def orphanAll (s : State) : State :=
  let req (_ : Nat) (q : Req) : Req := { q with src := orphan, posts := q.posts.map fun p => { p with src := orphan } }
  let load (l : Load) : Load := { l with cid := l.cid.map fun _ => orphanCid }
  let ctx (_ : Nat) (x : Ctx) : Ctx :=
    { x with load := x.load.map load, loadQueue := x.loadQueue.map fun p => (p.1.map fun _ => orphanCid, p.2),
             pendingStart := x.pendingStart.map fun _ => orphanCid
             pendingUnload := x.pendingUnload.map fun _ => orphanCid }
  let step (p : Nat × Bool × Nat) : Nat × Bool × Nat := (p.1, p.2.1, orphanCid)
  { s with
    reqs := mapAll (s.reqs.filter fun p => p.2.admitted) req
    ctxs := mapAll s.ctxs ctx
    tables := mapAll s.tables fun _ t => { t with steps := t.steps.map step }
    indexes := mapAll s.indexes fun _ x => { x with steps := x.steps.map step, copying := x.copying.map fun p => (p.1, orphanCid) }
    host.heldUnmaps := s.host.heldUnmaps.map fun h => { h with cid := orphanCid } }

/-- Controller reset and function level reset (R422): queues and rings are deleted, admitted requests run on without completions, open
front-end sequences end as CLOSED. -/
def resetController (s : State) : State :=
  let s := orphanAll s
  let s := s.fronts.foldl (fun s p => submitClose s orphan p.2.ctx (p.1 + 256 * p.2.gen)) s
  { s with
    host.sqs := [], host.cqs := [], host.rings := [], host.aers := [], host.masked := [], host.events := [], host.features := []
    host.download := [], host.downloadLen := 0, host.shutdown := 0
    media.waiting := [] }

/-- CONTROLLER_RESET (R422). -/
def execControllerReset (s : State) : Host.Outcome State Fault Refusal := .next (resetController s)

/-- FUNCTION_LEVEL_RESET (R422). -/
def execFunctionLevelReset (s : State) : Host.Outcome State Fault Refusal := .next (resetController s)

/-! The link. -/

/-- A LINK record of the CXL port (R460, R461): the rate code and the lanes. -/
def linkRec (s : State) : State :=
  recordErr s { cls := .link, unitKind := 9, detailA := rateCode s.host.rate, detailB := s.host.width }

/-- The link goes down; a link that was up is recorded. -/
def linkDown (s : State) : State :=
  let up := s.host.rate != 0
  let s := { s with host.rate := 0, host.width := 0, host.latFlit := false }
  if up then linkRec s else s

/-- CXL_LINK_TRAIN (R400, R401, R571): the link trains to a rate and width that GLB_LINK can show, unless PERST# holds it. A link that was
up before has retrained. -/
def execCxlLinkTrain (rate width : Nat) (latencyFlit : Bool) (s : State) : Host.Outcome State Fault Refusal :=
  .next <|
    if s.host.perst || !([0, 2, 5, 8, 16, 32, 64].contains rate) || !([0, 1, 2, 4, 8, 16].contains width) ||
        (rate == 0) != (width == 0) then s
    else if rate = 0 then linkDown s
    else
      let again := s.host.rate != 0
      let s := { s with host.rate := rate, host.width := width, host.latFlit := latencyFlit,
                        host.retrains := s.host.retrains + b2n again }
      if again then linkRec s else s

/-- PERST (R560): low holds the CXL port in reset, which resets its function (log entry 38); the rest of the module runs. -/
def execPerst (low : Bool) (s : State) : Host.Outcome State Fault Refusal :=
  .next <| if low then resetController (linkDown { s with host.perst := true }) else { s with host.perst := false }

/-- HOT_RESET (R400): the link goes down and the function is reset (log entry 38). -/
def execHotReset (s : State) : Host.Outcome State Fault Refusal := .next (resetController (linkDown s))

end Sys2Proof.Machine
end

