-- ==== Sys2Proof/Machine/Recovery.lean ====
section
/-! DEFINITION. Recovery: replay of a context, re-stencil, takeover, rejoining (R434, R468 to R485). -/

namespace Sys2Proof.Machine

/-! Replay (R469, R470). -/

/-- The consumer's next slot of a buffer, from what its stream has accepted. -/
def nextSlotOf (s : State) (p k : Nat) (b : Buffer) : Nat :=
  match s.streams.find? fun x => x.2.consTile == some p && x.2.consBuf == k with
  | some x => x.2.accepted % max 1 b.slots
  | none => 0

/-- A tile of a replayed context: what executes and its streaming buffers are discarded, its lists begin again, resident buffers
stay. -/
def rewindTile (s : State) (p : Nat) (t : Tile) : Tile :=
  { t with
    exec := [], banks := []
    buffers := mapAll t.buffers fun k b => if b.resident then b else { b with ring := [], head := nextSlotOf s p k b }
    routes := mapAll t.routes fun _ r => { r with pos := 0, sent := 0 }
    islots := t.islots.map fun q => (q.1, match t.lists.find? fun l => l.2.islot == q.1 with
      | some l => ⟨l.1, l.2.first⟩
      | none => q.2)
    st := if t.st = .quiescing ∧ !t.replacing then .running else t.st }

/-- A stream re-armed (R171 step 4); its counts stand. -/
def rearm (x : Stream) : Stream :=
  { x with credits := x.slots, returning := 0, inflight := [], holds := [], resendAsked := false, resent := false, nextSend := 0,
           nextAccept := 0, present := 0, lastTag := 0, lastOrigin := 0, queue := [], owed := 0, inbox := [], arrived := [] }

/-- Everything of a context that is on its way is discarded, and its streams are re-armed (R469 steps 2 to 4). -/
def discardFlight (s : State) (c : Nat) : State :=
  let mine (t : Tile) : Bool := t.placed && t.context == c
  let back (d : Delivery) : Delivery :=
    { d with repeats := (d.repeats ++ d.open_.map (·.1)).eraseDups, again := d.open_.map (·.1) }
  let s := { s with
    tiles := mapAll s.tiles fun p t => if mine t then rewindTile s p t else t
    folio.ports := mapAll s.folio.ports fun _ x => { x with replay := x.replay.filter fun y => y.1 / 4096 != c } }
  let s := updCtx s c fun x =>
    { x with samples := [], ends := [], captions := [], retained := [], probeWait := [], feeds := [], delivery := x.delivery.map back }
  { s with
    streams := mapAll s.streams fun _ x => if x.ctx = c then rearm x else x
    runs := mapFilter s.runs fun _ r => r.ctx != c
    reads := s.reads.filter fun r => r.ctx != c
    scatters := s.scatters.filter fun r => r.ctx != c
    encodes := mapFilter s.encodes fun n _ => n / 4096 != c
    engines := mapFilter s.engines fun _ e => e.ctx != c }

/-- A request as it is admitted again: nothing of it done, its ORIGIN fresh. -/
def freshReq (s : State) (q : Req) : Req :=
  { newReq q.rid q.ctx q.kind q.src q.record q.payload q.objectId with
    admitted := true, batch := q.batch, origin := s.time, firstOrigin := q.firstOrigin, snapshot := q.snapshot, groups := q.groups }

/-- A request in flight is admitted again, without checks; a commit and a front-end sequence use no tiles and stand, and a delivery job
issues again what has no end record. -/
def readmit (s : State) (rid : Nat) : State :=
  match reqOf s rid with
  | none => s
  | some q =>
    match q.kind with
    | .query | .batch =>
      let q := freshReq s q
      beginReq (openWindows { s with reqs := mapPut s.reqs rid q } q.ctx q.batch s.time) q
    | .delivery => updReq s rid fun q => { q with origin := s.time }
    | .commit | .front => s

/-- Requests of a context in flight, in order of first admission. -/
def admittedOf (s : State) (c : Nat) : List Nat :=
  (sortBy (fun a b => decide (a.2.firstOrigin < b.2.firstOrigin) || (a.2.firstOrigin == b.2.firstOrigin && decide (a.1 ≤ b.1)))
    (s.reqs.filter fun p => p.2.ctx == c && p.2.admitted)).map (·.1)

def replayCtx (s : State) (c : Nat) : State := (admittedOf s c).foldl readmit (discardFlight s c)

/-! Records and phases (R463, R485, R486). -/

/-- A RECOVERY record: `stage` 0 BEGUN, 1 ENDED, 2 UNABSORBED; the context or none; what DETAIL_B holds. -/
def recoveryRec (s : State) (kind stage : Nat) (ctx : Option Nat) (b : Nat) (unit : Nat × Nat := (7, 0)) (address : Nat := 0) : State :=
  recordErr s { cls := .recovery, unitKind := unit.1, unit := unit.2, ctx := ctx.getD 0xFF, address := address,
                detailA := kind + 256 * stage + 65536 * ctx.getD 0xFFFF, detailB := b }

/-- A recovery begins: phase RECOVERY, unless the module is contained or tests. -/
def beginRecovery (s : State) (kind : Nat) : State :=
  let s := if s.integ.phase = .service then enterPhase s .recovery else s
  { s with recov.kind := kind, recov.active := true }

/-- It ends; SERVICE resumes unless a re-mirror still runs. -/
def endRecovery (s : State) : State :=
  let s := { s with recov.active := s.recov.mirrorActive, recov.kind := if s.recov.mirrorActive then 3 else s.recov.kind }
  if s.integ.phase = .recovery ∧ !s.recov.mirrorActive then enterPhase s .service else s

/-- A fault that recovery cannot absorb (R483). -/
def unabsorbed (s : State) (kind : Nat) (ctx : Option Nat) (b : Nat) (unit : Nat × Nat := (7, 0)) (address : Nat := 0) : State :=
  recoveryRec { s with recov.unabsorbed := satAdd 0xFF s.recov.unabsorbed 1 } kind 2 ctx b unit address

/-! Re-stencil (R472, R483). -/

/-- A spare that can be tested: idle, or in a domain that the budget lets wake. -/
def spareUsable (s : State) (q : Nat) : Bool :=
  let t := tileOf s q
  t.st == .spareIdle || (t.st == .off && !domainOn s (tileDomain q) && canWake s (tileDomain q))

/-- Spares are tested in turn, at most as many as `fuel`; the first that passes is taken, and each that fails is retired. -/
def takeSpare (s : State) (p reloc : Nat) : Nat → List Bool → Option Nat × State
  | 0, _ => (none, s)
  | fuel + 1, tests =>
    match (sparesFor s p reloc).find? (spareUsable s) with
    | none => (none, s)
    | some q =>
      let s := if domainOn s (tileDomain q) then s else wakeDomain s (tileDomain q)
      let s := endTest (updTile s q (startTest s)) q (tests.headD true)
      if tests.headD true then (some q, s) else takeSpare s p reloc fuel (tests.drop 1)

/-- A logical tile of the image that runs is written into a physical tile (R171 step 3, R472). -/
def placeLogical (s : State) (c : Nat) (l : Loaded) (k p : Nat) : State :=
  match l.image.tiles[k]? with
  | some sec =>
    updTile s p fun t =>
      let t := readyPoint s (writeTile c l.stationMap sec t)
      { t with st := if (ctxOf s c).st = .loaded ∨ (ctxOf s c).st = .configured then .ready else .running }
  | none => s

/-- Streams that name a tile name another. -/
def moveEndpoint (s : State) (c p q : Nat) : State :=
  let move (o : Option Nat) : Option Nat := if o = some p then some q else o
  { s with streams := mapAll s.streams fun _ x => if x.ctx = c then { x with prodTile := move x.prodTile, consTile := move x.consTile } else x }

/-- The first other placement of the image on which it fits, its failed tiles retired (R160, R483). -/
def otherPlacement (s : State) (c : Nat) (l : Loaded) : Option (List Nat × Nat) :=
  let x := ctxOf s c
  let load : Load := ⟨none, l.image.imageId, l.image, .allocating, 0, l.placement, [], l.stationMap, l.regionPages, [], false⟩
  (l.image.placements.zipIdx).find? fun p => placementFits s x load p.1 && canWakeAll s (placementDomains l.image p.1)

/-- The context is reloaded on another placement; its regions and station numbers stay. -/
def reloadOn (s : State) (c : Nat) (l : Loaded) (ps : List Nat) (k : Nat) : State :=
  let s := (placementDomains l.image ps).foldl (fun s d => if domainOn s d then s else wakeDomain s d) s
  let l := { l with tileMap := ps, placement := k }
  let s := updCtx s c fun x => { x with loaded := some l }
  let s := (ps.zipIdx).foldl (fun s p => placeLogical s c l p.2 p.1) s
  let phys (x : Stream) : Stream :=
    match l.image.stream x.localNo with
    | some e => { x with prodTile := if e.prod < 0xE0 then ps[e.prodTile]? else none, consTile := if e.cons < 0xE0 then ps[e.consTile]? else none }
    | none => x
  { s with streams := mapAll s.streams fun _ x => if x.ctx = c then phys x else x }

/-- The context is lost: its requests complete with POISONED, its image leaves, it is CONFIGURED (R483). -/
def loseContext (s : State) (c : Nat) : State :=
  let s := discardFlight s c
  let s := (admittedOf s c).foldl (fun s rid => match reqOf s rid with
    | some q => endReq (vendorCpl s q.src (condBit .poisoned) 0 0) q
    | none => s) s
  enterCtx (dropIdleDomains (dropImage s c)) c .configured

/-- RE_STENCIL (R472, R483, R485): a placed service tile in FAULT gives way to a spare that passes its self-test; the context is then
replayed. -/
def execReStencil (p : Nat) (selfTests : List Bool) (s : State) : Host.Outcome State Fault Refusal :=
  onUnit (decide (p < Config.tiles)) <|
    let t := tileOf s p
    let c := t.context
    match (ctxOf s c).loaded with
    | none => s
    | some l =>
      if !(t.placed && t.st == .fault && t.role == .service) then s
      else
        let k := t.logical
        let reloc := ((l.image.tiles[k]?).map (·.reloc)).getD 3
        let s := recoveryRec (beginRecovery s 0) 0 0 (some c) (65536 * p + 0xFFFF) (0, p)
        let (found, s) := takeSpare s p reloc 4 selfTests
        match found with
        | some q =>
          let s := writeRoles (updTile s q fun t => { t with role := .service })
          let s := retireTile (updTile s p unplace) p
          let l := { l with tileMap := listUpd l.tileMap k fun _ => q }
          let s := updCtx s c fun x => { x with loaded := some l }
          let s := placeLogical (moveEndpoint s c p q) c l k q
          let s := replayCtx s c
          let s := recoveryRec { s with recov.restencils := satAdd 0xFFFF s.recov.restencils 1 } 0 1 (some c) (65536 * p + q) (0, p)
          endRecovery (dropIdleDomains s)
        | none =>
          let s := freeTiles s (placedTiles s c)
          match otherPlacement s c l with
          | some (ps, k) =>
            let s := unabsorbed s 0 (some c) (65536 * p + 0xFFFF) (0, p)
            endRecovery (dropIdleDomains (replayCtx (reloadOn s c l ps k) c))
          | none => endRecovery (loseContext (unabsorbed s 1 (some c) (if l.image.placements = [] then 0xFF else l.image.placements.length - 1) (0, p)) c)

/-- Every idle spare is tested (R474). -/
def testSpares (s : State) (failed : List Nat) : State :=
  let idle := (List.range Config.tiles).filter fun q => (tileOf s q).st == .spareIdle
  idle.foldl (fun s q => endTest (updTile s q (startTest s)) q (!failed.contains q)) s

/-- SPARE_DAILY_TEST (R474): once in each 24-hour window; a tile in FAULT that no image places is retired. -/
def execSpareDailyTest (failed : List Nat) (s : State) : Host.Outcome State Fault Refusal :=
  .next <|
    let day := s.time / dayNs
    if s.easel.spareDay = some day then s else
    let s := testSpares { s with easel.spareDay := some day } failed
    let dead := (s.tiles.filter fun p => p.2.st == .fault && !p.2.placed).map (·.1)
    dead.foldl retireTile s

/-! Membership (R475, R476, R482). -/

/-- MEMBERSHIP_FRAME (R475): this module's PD0 sends its frame every 10 ms, or a frame of another member arrives; a frame of the head is a
path to it (R479). -/
def execMembershipFrame (member : Nat) (faulted easelAlive : Bool) (s : State) : Host.Outcome State Fault Refusal :=
  .next <|
    if !inFolio s then s
    else if member = s.folio.number then
      if s.resumed && !periodOver s s.folio.frameAt 10_000_000 then s
      else sendMembership { s with folio.frameAt := s.time } (faulted || s.integ.phase == .contained || s.power.phase == .committing)
    else
      let up (m : Member) : Member := { m with lastFrame := s.time, lastAlive := if easelAlive then s.time else m.lastAlive, faulted := faulted }
      { s with folio.members := mapUpd s.folio.members member up
               folio.lastReach := if member = 0 then s.time else s.folio.lastReach }

/-- The next member in service after `m` in ascending folio number, modulo n: T(m) (R476). -/
def takeoverOf (s : State) (m : Nat) : Nat :=
  let n := max 1 (folioSize s)
  (((List.range n).map fun i => (m + 1 + i) % n).find? (inService s)).getD s.folio.number

/-- Where each HATCH stream goes: the member that its image names, or the one that stands in for it. -/
def redirect (s : State) : State :=
  let goal (x : Stream) : Stream :=
    match ((ctxOf s x.ctx).loaded.bind fun l => l.image.stream x.localNo) with
    | some e => { x with hatchModule := if inService s e.hatchModule then e.hatchModule else takeoverOf s e.hatchModule }
    | none => x
  { s with streams := mapAll s.streams fun _ x => if x.prod = stnHatch ∨ x.cons = stnHatch then goal x else x }

/-- Queries whose pass is done here and whose merge is not: the shards of a lost member that this one mirrors are scanned for them too (R280,
R282). -/
def rescan (s : State) : State :=
  (s.reqs.filter fun p => p.2.localRecs.isSome && p.2.recs.isNone).foldl (fun s p => searchQuery s p.1) s

/-- Shards of an object both of whose holders are out of service (R483). -/
def deadShards (s : State) (member : List Nat) (shards : Nat) : List Nat :=
  (List.range shards).filter fun k =>
    !inService s (member.getD k 0xFF) && (decide (shards < 2) || !inService s (member.getD ((k + 1) % shards) 0xFF))

/-- A shard is LOST, with its record; a table that a SHUFFLE names is recorded as a manifest (R485). -/
def loseShard (s : State) (kind : Nat) (id : BitVec 64) (k : Nat) : State :=
  if shardLost s kind id k then s
  else
    let s := { s with folio.lostShards := s.folio.lostShards ++ [(kind, id, k)] }
    let manifest := s.ctxs.any fun p => (p.2.loaded.bind fun l => l.image.shuffle.map fun h => h.manifest == id).getD false
    unabsorbed s 4 none (65536 * (if kind = 0 ∧ manifest then 2 else kind) + k) (7, 0) id.toNat

def loseShards (s : State) : State :=
  let s := s.tables.foldl (fun s p => (deadShards s p.2.cur.desc.member p.2.cur.desc.shards).foldl (fun s k => loseShard s 0 p.2.id k) s) s
  s.indexes.foldl (fun s p => (deadShards s p.2.cur.desc.member p.2.cur.desc.shards).foldl (fun s k => loseShard s 1 p.2.id k) s) s

/-- The contexts with a HATCH stream. -/
def hatchCtxs (s : State) : List Nat :=
  ((s.streams.filter fun p => p.2.prod == stnHatch || p.2.cons == stnHatch).map fun p => p.2.ctx).eraseDups

/-- The time master while members are out of service: the head, or the lowest-numbered member in service (R434). -/
def lowestInService (s : State) : Nat := ((List.range (max 1 (folioSize s))).find? (inService s)).getD s.folio.number

/-- MEMBER_LOSS (R475, R476, R482, R484): a member of the folio leaves service at X. -/
def execMemberLoss (member : Nat) (s : State) : Host.Outcome State Fault Refusal :=
  .next <|
    let known := ((mapFind s.folio.members member).map fun m => m.inService || m.rejoining).getD false
    if !inFolio s || member == s.folio.number || !known then s
    else
      let s := recoveryRec (beginRecovery s 2) 2 0 none member
      let out (m : Member) : Member := { m with inService := false, rejoining := false }
      let s := { s with folio.members := mapUpd s.folio.members member out }
      let s := if s.recov.mirrorActive ∧ s.recov.mirrorMember = member then { s with recov.mirrorActive := false, recov.mibLeft := 0 } else s
      let s := if s.folio.master = member ∨ member = 0 then { s with folio.master := lowestInService s } else s
      let s := if member = 0 then recoveryRec s 5 0 none s.folio.master else s
      let s := rescan (redirect (loseShards s))
      let s := (hatchCtxs s).foldl replayCtx s
      endRecovery (recoveryRec { s with recov.takeovers := satAdd 0xFF s.recov.takeovers 1 } 2 1 none member)

/-- All context and object state goes (R479). -/
def discardAll (s : State) : State :=
  let s := setWindow ((s.ctxs.map (·.1)).foldl dropImage s) []
  { s with
    ctxs := [], reqs := [], pages := [], tables := [], indexes := [], vocabs := [], norms := [], grammars := [], fronts := []
    migLog := [], readCtrs := [], updates := [], copies := [], queued := [], inflight := [], reads := [], runs := [], scatters := []
    encodes := [], engines := [], streams := [], host.heldUnmaps := [] }

/-- SELF_FENCE (R479): no path to the head for 1,000 ms. -/
def execSelfFence (s : State) : Host.Outcome State Fault Refusal :=
  .next <|
    if !inFolio s || isHead s || decide (s.time < s.folio.lastReach + 1_000_000_000) ||
        !((mapFind s.folio.members s.folio.number).map (·.inService)).getD false then s
    else
      let s := recoveryRec (dropIdleDomains (discardAll s)) 6 0 none s.folio.number
      { s with folio.members := mapUpd s.folio.members s.folio.number fun m => { m with inService := false } }

/-! Rejoining (R480, R481). -/

/-- Bytes of an object's shards that a member holds as primary or mirror. -/
def tableBytesOn (m : Nat) (v : TableVer) : Nat := ((v.desc.holdings m).map fun h => v.desc.shardRows h.1 * v.desc.stride).sum
def indexBytesOn (m : Nat) (v : IndexVer) : Nat :=
  let d := v.desc
  ((List.range v.lists.length).map fun l =>
    if d.holds m (l % max 1 d.shards) then (v.lists.getD l ⟨0, []⟩).items.length * (d.entryBytes + 8 + if d.apart then 8 * d.columns else 0) else 0).sum

/-- MiB that the rejoining member's shards take (R486). -/
def mirrorMib (s : State) (m : Nat) : Nat :=
  ceilDiv ((s.tables.map fun p => tableBytesOn m p.2.cur).sum + (s.indexes.map fun p => indexBytesOn m p.2.cur).sum) 0x10_0000

/-- MEMBER_REJOIN (R480, R485): the head admits a member; copies begin, from or to this module. A member that rejoins steps its time
once more. -/
def execMemberRejoin (member : Nat) (s : State) : Host.Outcome State Fault Refusal :=
  .next <|
    let lost := ((mapFind s.folio.members member).map fun m => !m.inService && !m.rejoining).getD false
    if !inFolio s || !lost then s
    else
      let s := recoveryRec (beginRecovery s 3) 3 0 none member
      let back (m : Member) : Member := { m with rejoining := true, faulted := false, lastFrame := s.time, lastAlive := s.time }
      { s with
        folio.members := mapUpd s.folio.members member back
        folio.joined := if member = s.folio.number then isHead s else s.folio.joined
        folio.lastReach := s.time
        recov.mirrorMember := member, recov.mirrorActive := true, recov.mibLeft := mirrorMib s member }

/-- REMIRROR_END (R481, R485): R is stamped, and the member serves in its own roles. -/
def execRemirrorEnd (member : Nat) (s : State) : Host.Outcome State Fault Refusal :=
  .next <|
    if !((mapFind s.folio.members member).map (·.rejoining)).getD false then s
    else
      let s := { s with
        folio.members := mapUpd s.folio.members member fun m =>
          { m with inService := true, rejoining := false, since := s.time }
        recov.mirrorActive := false, recov.mibLeft := 0, recov.remirrors := satAdd 0xFF s.recov.remirrors 1
        folio.remirrorStamp := s.time }
      endRecovery (recoveryRec (redirect s) 3 1 none member)

/-! Folio time (R433, R434). -/

/-- Whether this module is the time master. -/
def isMaster (s : State) : Bool := s.folio.master == s.folio.number

/-- A timing mark leaves on every port that is UP: here the sender's count (R433). -/
def sendMarks (s : State) : State :=
  ((List.range 8).filter fun p => (portOf s p).st == .up).foldl (fun s p => sendReply s .hatchFrame (1 + p) (leBytes 8 s.time)) s

/-- TIMING_MARK: every 1 µs a member sends its marks and corrects its count. A member that is behind counts one more, one that is ahead lets a tick pass; without a path it holds over. The head takes
mastership back with its first mark after it has rejoined (R482). -/
def execTimingMark (offset : Option Int) (s : State) : Host.Outcome State Fault Refusal :=
  .next <|
    if !inFolio s || (s.resumed && !periodOver s s.folio.markAt 1_000) then s else
    let s := sendMarks { s with folio.markAt := s.time }
    let s := if s.folio.master ≠ 0 ∧ inService s 0 then { s with folio.master := 0 } else s
    if isMaster s then s
    else match offset with
      | none => { s with folio.holdover := true }
      | some d =>
        let s := { s with folio.holdover := false, folio.offset := d }
        if !s.folio.joined || !s.resumed then s
        else if d < 0 then countNs s
        else if 0 < d then { s with folio.slowTick := true }
        else s

/-- FOLIO_JOIN: a member steps its count once, to the master's. -/
def execFolioJoin (count : Nat) (s : State) : Host.Outcome State Fault Refusal :=
  .next <|
    if !inFolio s || isHead s || s.folio.joined then s
    else { s with time := count % 2 ^ 64, folio.joined := true, folio.lastReach := count % 2 ^ 64 }

/-- TIME_FLOOR (R6, R553): every 60 s the present count goes to the persistent log. -/
def execTimeFloor (s : State) : Host.Outcome State Fault Refusal :=
  .next <| if s.resumed && periodOver s s.floor 60_000_000_000 then persist { s with floor := s.time } (.timeFloor s.time) else s

end Sys2Proof.Machine
end

