-- ==== Sys2Proof/Machine/Ports.lean ====
section
/-! DEFINITION. Events of the hatch ports and of the management ring (R425 to R437). -/

namespace Sys2Proof.Machine

/-- A LINK record of a hatch port: its state and lanes (R460). -/
def portRec (s : State) (p : Nat) : State :=
  recordErr s { cls := .link, unitKind := 8, unit := p, detailA := (portOf s p).st.code, detailB := (portOf s p).lanes }

/-- The role at the far end of a link whose near end has this role (R425). -/
def farRole (role : Nat) : Nat := if role % 2 = 1 then role + 1 else role - 1

/-- Whether the far end is the one that R425 requires. -/
def rightlyWired (s : State) (p : Nat) (folioId : BitVec 64) (peer peerPort : Nat) : Bool :=
  let role := portRole s.folio.topology p
  folioId == s.folio.folioId && peer == neighbour s s.folio.number role && portRole s.folio.topology peerPort == farRole role

/-! Sheets of a port that is down (R430, R431). -/

/-- The port by which a sheet in the replay buffer of failed port `p` goes on: its trunk's, else a detour; one that was on a detour already
is not detoured again. -/
def escapePort (s : State) (p n t : Nat) : Option Nat :=
  (firstHop s s.folio.number t).bind fun r =>
    (trunkPort s r n).or (if portRole s.folio.topology p = r then detourPort s r n else none)

/-- The oldest sheet of a failed port that can go on does so: it is sent again (R429, R430). -/
def moveOne (s : State) (p : Nat) (blocked : List Nat) (x : Nat × Sheet) : List Nat × State :=
  let way : Option Nat :=
    if x.1 ∈ blocked then none
    else ((streamOf s x.1).bind fun y => escapePort s p x.1 y.hatchModule).bind fun q =>
      if 256 ≤ (portOf s q).replay.length then none else some q
  match way with
  | none => (x.1 :: blocked, s)
  | some q =>
    let s := updPort s p fun y => { y with replay := y.replay.eraseP fun z => z == x }
    (blocked, updPort s q fun y => { y with
      replay := y.replay ++ [x], replays := satAdd (ones 32) y.replays 1, st := if y.st = .spare then .detour else y.st
      since := if y.replay.isEmpty then s.time else y.since })

/-- Every sheet that waits on a failed port and has another way takes it, each stream's in their order. -/
def drainPort (s : State) (p : Nat) : State :=
  if (portOf s p).st ≠ .failed then s
  else ((portOf s p).replay.foldl (fun (acc : List Nat × State) x => moveOne acc.2 p acc.1 x) ([], s)).2

/-- What a change of the ports sets going: sheets of failed ports go another way, and records that waited for a link go to the head. -/
def portsChanged (s : State) : State := forwardRecs ((List.range 8).foldl drainPort s)

/-- A port that works loses its link: it is FAILED, and its traffic goes another way (R430). -/
def failPort (s : State) (p : Nat) : State :=
  match (portOf s p).st with
  | .off | .failed | .miswired => s
  | .training | .checking | .up | .spare | .detour =>
    let s := updPort s p fun x => { x with st := .failed, lanes := 0, failures := satAdd 0xFFFF x.failures 1, since := s.time }
    let role := portRole s.folio.topology p
    let detour := if upPorts s role = [] ∧ role < 7 then detourPort s role 0 else none
    let s := portsChanged (portRec s p)
    match detour with
    | some q => portRec s q
    | none => s

/-! Commands. -/

/-- PORT_CHECK (R426): the two ends exchange FOLIO_ID, NUMBER and port. A port that has just trained has 4 lanes. -/
def execPortCheck (port : Nat) (folioId : BitVec 64) (peer peerPort : Nat) (s : State) : Host.Outcome State Fault Refusal :=
  onUnit (decide (port < 8)) <|
    let x := portOf s port
    if x.st ≠ PortState.training ∧ x.st ≠ PortState.checking then s
    else
      let x : Port := { x with peer := peer % 64, peerPort := peerPort % 8, lanes := if x.st = .training then 4 else x.lanes }
      if rightlyWired s port folioId peer peerPort then
        portsChanged (setPort s port { x with st := if 7 ≤ portRole s.folio.topology port then .spare else .up })
      else portRec (setPort s port { x with st := .miswired }) port

/-- Whether a time limit of a port has run out: `ns` since its stamp; no limit is held before stage 1 has resumed folio time. -/
def portDue (s : State) (x : Port) (ns : Nat) : Bool := !s.resumed || periodOver s x.since ns

/-- PORT_RETRAIN (R426): every 100 ms a FAILED port trains again; with 2 working lanes or more it goes on to the check. -/
def execPortRetrain (port lanes : Nat) (s : State) : Host.Outcome State Fault Refusal :=
  onUnit (decide (port < 8)) <|
    let x := portOf s port
    if x.st ≠ .failed ∨ !portDue s x 100_000_000 then s
    else if lanes < 2 then setPort s port { x with since := s.time }
    else portRec (setPort s port { x with st := .checking, lanes := if lanes < 4 then 2 else 4, since := s.time }) port

/-- HATCH_LINK_FAILURE (R430): every lane has lost lock. -/
def execHatchLinkFailure (port : Nat) (s : State) : Host.Outcome State Fault Refusal :=
  onUnit (decide (port < 8)) (failPort s port)

/-- HATCH_ACK_TIMEOUT (R430): no acknowledgement for 10 µs while sheets wait. -/
def execHatchAckTimeout (port : Nat) (s : State) : Host.Outcome State Fault Refusal :=
  onUnit (decide (port < 8)) <| let x := portOf s port
    if x.replay = [] ∨ !portDue s x 10_000 then s else failPort s port

/-- HATCH_LANE_LOSS (R426): a port goes on with 2 lanes, or fails with fewer. -/
def execHatchLaneLoss (port lanes : Nat) (s : State) : Host.Outcome State Fault Refusal :=
  onUnit (decide (port < 8)) <|
    let x := portOf s port
    if lanes < 2 then failPort s port
    else if lanes < 4 ∧ x.lanes = 4 then setPort s port { x with lanes := 2 }
    else s

/-- HATCH_REPLAY (R429): sheet `k` of the replay buffer is sent again. -/
def execHatchReplay (port k : Nat) (s : State) : Host.Outcome State Fault Refusal :=
  onUnit (decide (port < 8)) <|
    let x := portOf s port
    if k < x.replay.length ∧ (x.st = .up ∨ x.st = .detour) then setPort s port { x with replays := satAdd (ones 32) x.replays 1 } else s

/-- Whether the traffic on a spare link has ended: its sheets are acknowledged and a primary port of the same hop is UP (R432). -/
def detourOver (s : State) (q : Nat) : Bool :=
  let there (p : Nat) : Nat := neighbour s s.folio.number (portRole s.folio.topology p)
  (portOf s q).st == .detour && (portOf s q).replay.isEmpty && (List.range 6).any fun p => (portOf s p).st == .up && there p == there q

/-- DETOUR_END (R432): a primary port is UP again, and the spare link for its hop returns to SPARE. `port` is the one or the other. -/
def execDetourEnd (port : Nat) (s : State) : Host.Outcome State Fault Refusal :=
  onUnit (decide (port < 8)) <|
    let there (p : Nat) : Nat := neighbour s s.folio.number (portRole s.folio.topology p)
    let over_ := [6, 7].filter fun q => (q == port || there q == there port) && detourOver s q
    over_.foldl (fun s q => updPort s q fun x => { x with st := .spare }) s

/-- A frame leaves on the management ring: to the next member, or the other way round a break. -/
def ringSend (s : State) (payload : Bytes) : State :=
  sendReply s .managementRing (if s.folio.number ∈ s.folio.broken then 3 else 2) payload

/-- MANAGEMENT_FRAME (R435): PD0 forwards a frame for another member; at the head, frames leave the ring for the management network. -/
def execManagementFrame (dest : Nat) (payload : Bytes) (s : State) : Host.Outcome State Fault Refusal :=
  .next <|
    if !inFolio s || !domainOn s 0 then s
    else if dest ≠ s.folio.number then ringSend s payload
    else if isHead s then sendReply s .sideband 2 payload
    else s

/-- MANAGEMENT_RING_BREAK (R435): the pair from `member` to the next one breaks. -/
def execManagementRingBreak (member : Nat) (s : State) : Host.Outcome State Fault Refusal :=
  .next <|
    if !inFolio s || decide (folioSize s ≤ member) || s.folio.broken.contains member then s
    else { s with folio.broken := s.folio.broken ++ [member] }

end Sys2Proof.Machine
end

