-- ==== Sys2Proof/Machine/Sideband.lean ====
section
/-! DEFINITION. The sideband: NVMe-MI and the vendor commands (R545 to R547, R550, R554). -/

namespace Sys2Proof.Machine

/-! Responses. A reply's status is NVMe-MI's. -/

def miInvalid (s : State) : State := sendReply s .sideband 4 []

/-- More Processing Required with the retry time in µs; the refusal is counted (R550). -/
def miLater (s : State) (us : Nat) : State := sendReply (countRefusal s) .sideband 1 (leBytes 4 us)

def miDone (s : State) (data : Bytes) : State := sendReply s .sideband 0 data

/-- Accepted 1 or refused 0 (log entry 44). -/
def miAnswer (s : State) (accepted : Bool) : State := miDone s [BitVec.ofNat 8 (b2n accepted)]

/-! Requests. -/

/-- A class 3 request: refused while Easel is overloaded or restarts, else queued and served (R548, R550, R555). -/
def miClass3 (s : State) (f : State → State) : State :=
  if s.easel.restarting then miLater s 1_000_000
  else if easelRefuses s then miLater s (retryUs s.easel)
  else f (enqueue3 s)

/-- A request while PD0 is powered (R545). -/
def miRequest (s : State) (f : State → State) : Host.Outcome State Fault Refusal := .next (if domainOn s 0 then f s else s)

/-- A vendor request, by its MEMBER: this module serves its own; another member's travels over the management ring, or is answered with
Invalid Parameter when that member cannot be reached (R546, R547, R556). -/
def miVendor (s : State) (opcode member : Nat) (args : Bytes) (f : State → State) : Host.Outcome State Fault Refusal :=
  miRequest s fun s =>
    if member = 0xFF ∨ member = s.folio.number then f s
    else if inFolio s ∧ member < folioSize s ∧ inService s member then
      ringSend s (BitVec.ofNat 8 opcode :: BitVec.ofNat 8 member :: args)
    else miInvalid s

/-! Vendor commands (R546). -/

/-- POWER_ON: refused unless a thermal stop holds the module and its sensors have cooled (R517). -/
def execPowerOn (member : Nat) (s : State) : Host.Outcome State Fault Refusal :=
  miVendor s 0xC0 member [] fun s =>
    let s := { s with easel.q1 := s.easel.q1 ++ [s.time] }
    if s.power.phase = .thermalHold ∧ cooled s then powerUp (miAnswer s true) else miAnswer s false

/-- A test begins (R554). -/
def beginTest (s : State) (kind : Nat) : State :=
  let s := enterPhase s .test
  let run (n : Nat) : Option TestRun := some ⟨kind, n, 0, true⟩
  match kind with
  | 0 =>
    let idle := (List.range Config.tiles).filter fun q => (tileOf s q).st == .spareIdle
    { idle.foldl (fun s q => updTile s q (startTest s)) s with easel.test := run idle.length }
  | 1 =>
    let ports := (List.range 8).filter fun p => (portOf s p).st == .spare || (portOf s p).st == .off
    { s with easel.test := run ports.length }
  | _ => { startMeasurement s with easel.test := run 1 }

/-- TEST_START: refused when a test already runs, or outside SERVICE. -/
def execTestStart (member kind : Nat) (s : State) : Host.Outcome State Fault Refusal :=
  miVendor s 0xC1 member [BitVec.ofNat 8 kind] fun s =>
    if 2 < kind then miInvalid s
    else miClass3 s fun s =>
      let busy := (s.easel.test.map (·.running)).getD false
      if busy ∨ s.integ.phase ≠ .service then miAnswer s false else beginTest (miAnswer s true) kind

/-- TEST_END (R554): spare tiles that fail are retired, the result goes to the persistent log, and SERVICE resumes. A bank test ends once
its measurement has. -/
def execTestEnd (failed : List Nat) (s : State) : Host.Outcome State Fault Refusal :=
  .next <|
    match s.easel.test with
    | none => s
    | some t =>
      if !t.running || (t.kind == 2 && s.power.measuring) then s
      else
        let tested := (List.range Config.tiles).filter fun q => t.kind == 0 && (tileOf s q).st == .testing
        let s := tested.foldl (fun s q => endTest s q (!failed.contains q)) s
        let bad := if t.kind = 2 then b2n s.power.holdupFail else min t.tested failed.eraseDups.length
        let s := persist { s with easel.test := some { t with failed := bad, running := false } } (.testResult t.kind t.tested bad s.time)
        if s.integ.phase = .test then enterPhase s .service else s

/-- TEST_STATUS: state (0 none, 1 running, 2 ended), kind, units tested, units failed; More Processing Required when Easel is overloaded
while a test runs (R556). -/
def execTestStatus (member : Nat) (s : State) : Host.Outcome State Fault Refusal :=
  miVendor s 0xC2 member [] fun s =>
    let busy := (s.easel.test.map (·.running)).getD false
    if busy ∧ (noteOverload s).easel.overload then miLater s (retryUs s.easel)
    else miClass3 s fun s =>
      match s.easel.test with
      | none => miDone s (zeros 6)
      | some t => miDone s (leBytes 1 (if t.running then 1 else 2) ++ leBytes 1 t.kind ++ leBytes 2 t.tested ++ leBytes 2 t.failed)

/-- Entry `i` of a correctable-error source's table, as INT_CE_LOG_ADDR and INT_CE_LOG_INFO show it. -/
def ceEntryBytes (s : State) (src i : Nat) : Bytes := ((snapCe s src i).drop 1).flatMap fun w => leBytes 8 w.toNat

/-- TELEMETRY_READ: up to 32 frames or calibration log entries from position `start`, the newest at 0, or the 64 entries of the source
that `start` names (log entry 44). -/
def execTelemetryRead (member select start : Nat) (s : State) : Host.Outcome State Fault Refusal :=
  miVendor s 0xC3 member (BitVec.ofNat 8 select :: leBytes 4 start) fun s =>
    let s := { s with easel.q4 := s.easel.q4 ++ [s.time] }
    match select with
    | 0 => miDone s (((s.easel.frames.drop start).take 32).flatMap frameBytes)
    | 1 => miDone s (((s.cal.log.drop start).take 32).flatMap fun e => (calEntryWords e).flatMap fun w => leBytes 8 w.toNat)
    | 2 => if 572 < start then miInvalid s else miDone s (if s.integ.ceLog then (List.range 64).flatMap (ceEntryBytes s start) else [])
    | _ => miInvalid s

/-- The 64 bytes of an entry of the persistent log; what an entry that is no error record looks like is not stated: free (log entry 40). -/
def logEntryBytes (k : Nat) (p : LogEntry × Nat) : Bytes :=
  match p.1 with
  | .errRec r => recBytes r
  | .testResult _ _ _ _ | .bootAttempt _ _ | .watchdog _ | .timeFloor _ => (List.range 64).map fun i => Config.stdByte 10 k (64 * p.2 + i)

/-- RECORDS_READ: up to 16 records from position `start`, the newest at 0 (R462, R553, log entry 44). -/
def execRecordsRead (member source start : Nat) (s : State) : Host.Outcome State Fault Refusal :=
  miVendor s 0xC4 member (BitVec.ofNat 8 source :: leBytes 4 start) fun s =>
    let s := { s with easel.q2 := s.easel.q2 ++ [s.time] }
    match source with
    | 0 =>
      let seen (i : Nat) : Bool := decide (start ≤ i) && decide (i < start + 16)
      let recs := (s.integ.recs.zipIdx).map fun p => if seen p.2 then { p.1 with readBack := true } else p.1
      miDone { s with integ.recs := recs } (((s.integ.recs.drop start).take 16).flatMap recBytes)
    | 1 =>
      let (k, s) := draw s 1
      miDone s ((((s.easel.log.drop start).take 16).zipIdx).flatMap (logEntryBytes k))
    | _ => miInvalid s

/-- CE_CLEAR: the effect of CLEAR in INT_CE_CTRL. -/
def execCeClear (member source : Nat) (s : State) : Host.Outcome State Fault Refusal :=
  miVendor s 0xC5 member (leBytes 2 source) fun s =>
    if 572 < source then miInvalid s else miClass3 s fun s => miDone (clearCe s source) []

/-! Standard commands (R545). Their structures are NVMe-MI's; what the spec does not state of them is free (log entry 33). -/

/-- The bytes of a management data structure by its type: subsystem, port, controller list, controller, optional commands. -/
def miStructLength : Nat → Option Nat
  | 0 => some 32 | 1 => some 32 | 2 => some 4096 | 3 => some 32 | 4 => some 4096 | _ => none

/-- READ_NVME_MI_DATA_STRUCTURE. A port's transmission unit is the 64-byte baseline. -/
def execReadNvmeMiDataStructure (dtyp portId : Nat) (s : State) : Host.Outcome State Fault Refusal :=
  miRequest s fun s => miClass3 s fun s =>
    match miStructLength dtyp with
    | none => miInvalid s
    | some n =>
      let (k, s) := draw s 1
      miDone s (stdStruct (16 + 256 * dtyp + 65536 * (portId % 256)) k n (if dtyp = 1 then [(2, leBytes 2 64)] else []))

/-- SUBSYSTEM_HEALTH_STATUS_POLL: from PD0's snapshot, without Easel. -/
def execSubsystemHealthStatusPoll (s : State) : Host.Outcome State Fault Refusal := miRequest s fun s => miDone s (slice s.easel.health 0 8)

/-- CONTROLLER_HEALTH_STATUS_POLL: from PD0's snapshot, without Easel. -/
def execControllerHealthStatusPoll (s : State) : Host.Outcome State Fault Refusal := miRequest s fun s => miDone s (slice s.easel.health 8 16)

/-- The configuration identifiers: bus frequency, health status change, transmission unit (log entry 45). -/
def miConfigured (id : Nat) : Bool := decide (1 ≤ id) && decide (id ≤ 3)

/-- CONFIGURATION_GET. -/
def execConfigurationGet (id : Nat) (s : State) : Host.Outcome State Fault Refusal :=
  miRequest s fun s => miClass3 s fun s =>
    if miConfigured id then miDone s (leBytes 4 (mapGet s.easel.miConfig id (if id = 3 then 64 else 0))) else miInvalid s

/-- CONFIGURATION_SET. The transmission unit is the baseline of 64 bytes. -/
def execConfigurationSet (id value : Nat) (s : State) : Host.Outcome State Fault Refusal :=
  miRequest s fun s => miClass3 s fun s =>
    if !miConfigured id || (id == 3 && value != 64) then miInvalid s
    else miDone { s with easel.miConfig := mapPut s.easel.miConfig id (value % 2 ^ 32) } []

/-- VPD_READ: the product data stay the same from one read to the next. -/
def execVpdRead (offset len : Nat) (s : State) : Host.Outcome State Fault Refusal :=
  miRequest s fun s => miClass3 s fun s => miDone s ((List.range len).map fun i => Config.stdByte 11 0 (offset + i))

/-- A tunnelled completion: SCT, SC, Dword 0 and the data. -/
def tunnelled (r : Nat × Nat × Bytes) (dw0 : Nat) : Bytes := leBytes 1 r.1 ++ leBytes 1 r.2.1 ++ leBytes 4 dw0 ++ r.2.2

/-- TUNNELLED_ADMIN: Identify of this module's namespace or of the controller, Get Log Page from its start, Get Features; nothing else. -/
def execTunnelledAdmin (opcode dword10 : Nat) (s : State) : Host.Outcome State Fault Refusal :=
  miRequest s fun s => miClass3 s fun s =>
    match opcode with
    | 0x06 =>
      let cns := dword10 % 256
      let (r, s) := serveIdentify s cns (if cns = 0 then s.folio.number + 1 else 0)
      miDone s (tunnelled r 0)
    | 0x02 =>
      let (r, s) := serveLog s (dword10 % 256) (dword10 / 256 % 128) 0 0 (4 * (dword10 / 65536 % 65536 + 1)) (bitSet dword10 15)
      miDone s (tunnelled r 0)
    | 0x0A =>
      let (sct, sc, dw0, data) := serveFeature s (dword10 % 256) 0
      miDone s (tunnelled (sct, sc, data) dw0)
    | _ => miInvalid s

end Sys2Proof.Machine
end

