-- ==== Sys2Proof/Machine/Dispatch.lean ====
section
/-! DEFINITION. The command dispatch: one arm per constructor of `Instr`, in the opcode table's order. -/

namespace Sys2Proof.Machine

/-- The effect of a command on everything but the queue. -/
def exec (i : Instr) (s : State) : Host.Outcome State Fault Refusal :=
  match i with
  | .nop p n => Sys2Proof.Machine.execNop p n s
  | .mma p n => Sys2Proof.Machine.execMma p n s
  | .preload p n => Sys2Proof.Machine.execPreload p n s
  | .drain p n => Sys2Proof.Machine.execDrain p n s
  | .ctbl p n => Sys2Proof.Machine.execCtbl p n s
  | .vop p n => Sys2Proof.Machine.execVop p n s
  | .func p n => Sys2Proof.Machine.execFunc p n s
  | .reduce p n => Sys2Proof.Machine.execReduce p n s
  | .cvt p n => Sys2Proof.Machine.execCvt p n s
  | .signpack p n => Sys2Proof.Machine.execSignpack p n s
  | .emit p o => Sys2Proof.Machine.execEmit p o s
  | .release p n => Sys2Proof.Machine.execRelease p n s
  | .copy p n => Sys2Proof.Machine.execCopy p n s
  | .invalidStroke p o => Sys2Proof.Machine.execInvalidStroke p o s
  | .strokeComplete p k obs => Sys2Proof.Machine.execStrokeComplete p k obs s
  | .firstNanTrap p => Sys2Proof.Machine.execFirstNanTrap p s
  | .handshakeTimeout p => Sys2Proof.Machine.execHandshakeTimeout p s
  | .clockChange p => Sys2Proof.Machine.execClockChange p s
  | .quiesceTimeout p => Sys2Proof.Machine.execQuiesceTimeout p s
  | .cntClr p => Sys2Proof.Machine.execCntClr p s
  | .test p => Sys2Proof.Machine.execTest p s
  | .selfTestEnd p pass => Sys2Proof.Machine.execSelfTestEnd p pass s
  | .islandTransferAck boundary => Sys2Proof.Machine.execIslandTransferAck boundary s
  | .arbiterGrant resource ports reqs => Sys2Proof.Machine.execArbiterGrant resource ports reqs s
  | .escalation resource port => Sys2Proof.Machine.execEscalation resource port s
  | .sheetIngress k err checkFailed far => Sys2Proof.Machine.execSheetIngress k err checkFailed far s
  | .resend k => Sys2Proof.Machine.execResend k s
  | .creditReturn k => Sys2Proof.Machine.execCreditReturn k s
  | .glbSmonSel v => Sys2Proof.Machine.execGlbSmonSel v s
  | .glbHmonSel v => Sys2Proof.Machine.execGlbHmonSel v s
  | .tierMonSel v => Sys2Proof.Machine.execTierMonSel v s
  | .tblSel v => Sys2Proof.Machine.execTblSel v s
  | .glbCtxSel v => Sys2Proof.Machine.execGlbCtxSel v s
  | .glbMcSel v => Sys2Proof.Machine.execGlbMcSel v s
  | .rtvIdxSel v => Sys2Proof.Machine.execRtvIdxSel v s
  | .ltrVocSel v => Sys2Proof.Machine.execLtrVocSel v s
  | .ltrMonSel v => Sys2Proof.Machine.execLtrMonSel v s
  | .decMonSel v => Sys2Proof.Machine.execDecMonSel v s
  | .hlkMonSel v => Sys2Proof.Machine.execHlkMonSel v s
  | .intCeSel v => Sys2Proof.Machine.execIntCeSel v s
  | .calMonSel v => Sys2Proof.Machine.execCalMonSel v s
  | .calLogSel v => Sys2Proof.Machine.execCalLogSel v s
  | .pwrTempSel v => Sys2Proof.Machine.execPwrTempSel v s
  | .clear => Sys2Proof.Machine.execClear s
  | .go space => Sys2Proof.Machine.execGo space s
  | .abort => Sys2Proof.Machine.execAbort s
  | .scrubPassEnd codewords => Sys2Proof.Machine.execScrubPassEnd codewords s
  | .lock w => Sys2Proof.Machine.execLock w s
  | .csRegionWrite w v => Sys2Proof.Machine.execCsRegionWrite w v s
  | .mailboxGo w => Sys2Proof.Machine.execMailboxGo w s
  | .registerWrite w offset size v => Sys2Proof.Machine.execRegisterWrite w offset size v s
  | .read c d prio => Sys2Proof.Machine.execRead c d prio s
  | .program c d prio => Sys2Proof.Machine.execProgram c d prio s
  | .erase c d prio => Sys2Proof.Machine.execErase c d prio s
  | .probe c d prio => Sys2Proof.Machine.execProbe c d prio s
  | .calRead c d prio => Sys2Proof.Machine.execCalRead c d prio s
  | .csRead c d prio => Sys2Proof.Machine.execCsRead c d prio s
  | .csProgram c d prio => Sys2Proof.Machine.execCsProgram c d prio s
  | .csErase c d prio => Sys2Proof.Machine.execCsErase c d prio s
  | .csFetch c d prio => Sys2Proof.Machine.execCsFetch c d prio s
  | .rbRead c d prio => Sys2Proof.Machine.execRbRead c d prio s
  | .rbAdvance c d prio => Sys2Proof.Machine.execRbAdvance c d prio s
  | .badDescriptor c raw => Sys2Proof.Machine.execBadDescriptor c raw s
  | .descriptorComplete id obs => Sys2Proof.Machine.execDescriptorComplete id obs s
  | .imageLoad cid ctx imageId => Sys2Proof.Machine.execImageLoad cid ctx imageId s
  | .loadAllocation ctx => Sys2Proof.Machine.execLoadAllocation ctx s
  | .loadComplete ctx faults poisoned => Sys2Proof.Machine.execLoadComplete ctx faults poisoned s
  | .replacementDrained ctx => Sys2Proof.Machine.execReplacementDrained ctx s
  | .imageStore cid record => Sys2Proof.Machine.execImageStore cid record s
  | .cachePin cid imageId => Sys2Proof.Machine.execCachePin cid imageId s
  | .cacheUnpin cid imageId => Sys2Proof.Machine.execCacheUnpin cid imageId s
  | .ctxConfigure cid record => Sys2Proof.Machine.execCtxConfigure cid record s
  | .ctxRelease cid ctx => Sys2Proof.Machine.execCtxRelease cid ctx s
  | .ctxStart cid ctx => Sys2Proof.Machine.execCtxStart cid ctx s
  | .ctxStop cid ctx => Sys2Proof.Machine.execCtxStop cid ctx s
  | .ctxUnload cid ctx => Sys2Proof.Machine.execCtxUnload cid ctx s
  | .tableLoad cid record => Sys2Proof.Machine.execTableLoad cid record s
  | .indexLoad cid record => Sys2Proof.Machine.execIndexLoad cid record s
  | .vocabularyLoad cid record => Sys2Proof.Machine.execVocabularyLoad cid record s
  | .normalisationLoad cid record => Sys2Proof.Machine.execNormalisationLoad cid record s
  | .grammarLoad cid record => Sys2Proof.Machine.execGrammarLoad cid record s
  | .objectUnload cid kind id => Sys2Proof.Machine.execObjectUnload cid kind id s
  | .windowMap cid entries => Sys2Proof.Machine.execWindowMap cid entries s
  | .windowUnmap cid entries => Sys2Proof.Machine.execWindowUnmap cid entries s
  | .deferredUnmap k => Sys2Proof.Machine.execDeferredUnmap k s
  | .versionStepTable cid id => Sys2Proof.Machine.execVersionStepTable cid id s
  | .versionStepIndex cid id => Sys2Proof.Machine.execVersionStepIndex cid id s
  | .versionSwitch index id => Sys2Proof.Machine.execVersionSwitch index id s
  | .hotGrow cid pages id => Sys2Proof.Machine.execHotGrow cid pages id s
  | .nanClear cid ctx => Sys2Proof.Machine.execNanClear cid ctx s
  | .fairCopy cid id => Sys2Proof.Machine.execFairCopy cid id s
  | .fairCopyEnd id poisoned => Sys2Proof.Machine.execFairCopyEnd id poisoned s
  | .mediaThresholds cid record => Sys2Proof.Machine.execMediaThresholds cid record s
  | .ringCreate cid address ring slots cq ctx => Sys2Proof.Machine.execRingCreate cid address ring slots cq ctx s
  | .ringDelete cid ring => Sys2Proof.Machine.execRingDelete cid ring s
  | .ringDeleteDone ring => Sys2Proof.Machine.execRingDeleteDone ring s
  | .ringTailSnoop ring tail entries => Sys2Proof.Machine.execRingTailSnoop ring tail entries s
  | .indexCommit sq cid ctx ops id data => Sys2Proof.Machine.execIndexCommit sq cid ctx ops id data s
  | .commitEpoch id => Sys2Proof.Machine.execCommitEpoch id s
  | .query src ctx record => Sys2Proof.Machine.execQuery src ctx record s
  | .frontOpen sq cid ctx record => Sys2Proof.Machine.execFrontOpen sq cid ctx record s
  | .frontStep src ctx handle token => Sys2Proof.Machine.execFrontStep src ctx handle token s
  | .frontClose sq cid ctx handle => Sys2Proof.Machine.execFrontClose sq cid ctx handle s
  | .deliveryJob sq cid ctx record => Sys2Proof.Machine.execDeliveryJob sq cid ctx record s
  | .batchJob sq cid ctx record => Sys2Proof.Machine.execBatchJob sq cid ctx record s
  | .admissionGrant => Sys2Proof.Machine.execAdmissionGrant s
  | .completionPost rid => Sys2Proof.Machine.execCompletionPost rid s
  | .nvmRead sq cid nsid slba count => Sys2Proof.Machine.execNvmRead sq cid nsid slba count s
  | .nvmWrite sq cid nsid slba data => Sys2Proof.Machine.execNvmWrite sq cid nsid slba data s
  | .writeZeroes sq cid nsid slba count => Sys2Proof.Machine.execWriteZeroes sq cid nsid slba count s
  | .flush sq cid nsid => Sys2Proof.Machine.execFlush sq cid nsid s
  | .datasetManagement sq cid nsid ranges => Sys2Proof.Machine.execDatasetManagement sq cid nsid ranges s
  | .identify cid cns nsid => Sys2Proof.Machine.execIdentify cid cns nsid s
  | .createIoSubmissionQueue cid qid size cqid => Sys2Proof.Machine.execCreateIoSubmissionQueue cid qid size cqid s
  | .createIoCompletionQueue cid qid size vector => Sys2Proof.Machine.execCreateIoCompletionQueue cid qid size vector s
  | .deleteIoSubmissionQueue cid qid => Sys2Proof.Machine.execDeleteIoSubmissionQueue cid qid s
  | .deleteIoCompletionQueue cid qid => Sys2Proof.Machine.execDeleteIoCompletionQueue cid qid s
  | .getLogPage cid lid lsp lsi offset len rae => Sys2Proof.Machine.execGetLogPage cid lid lsp lsi offset len rae s
  | .setFeatures cid fid value => Sys2Proof.Machine.execSetFeatures cid fid value s
  | .getFeatures cid fid dword11 => Sys2Proof.Machine.execGetFeatures cid fid dword11 s
  | .asynchronousEventRequest cid => Sys2Proof.Machine.execAsynchronousEventRequest cid s
  | .abortCommand cid sq target => Sys2Proof.Machine.execAbortCommand cid sq target s
  | .firmwareImageDownload cid offset data => Sys2Proof.Machine.execFirmwareImageDownload cid offset data s
  | .firmwareCommit cid slot action => Sys2Proof.Machine.execFirmwareCommit cid slot action s
  | .formatNvm cid nsid ses => Sys2Proof.Machine.execFormatNvm cid nsid ses s
  | .sanitize cid action => Sys2Proof.Machine.execSanitize cid action s
  | .invalidCommandOpcode cid opcode => Sys2Proof.Machine.execInvalidCommandOpcode cid opcode s
  | .shutdownNotification => Sys2Proof.Machine.execShutdownNotification s
  | .controllerReset => Sys2Proof.Machine.execControllerReset s
  | .functionLevelReset => Sys2Proof.Machine.execFunctionLevelReset s
  | .decoderCommit base bytes => Sys2Proof.Machine.execDecoderCommit base bytes s
  | .decoderDecommit => Sys2Proof.Machine.execDecoderDecommit s
  | .hostWindowRead offset len => Sys2Proof.Machine.execHostWindowRead offset len s
  | .hostWindowWrite offset data => Sys2Proof.Machine.execHostWindowWrite offset data s
  | .cxlLinkTrain rate width latencyFlit => Sys2Proof.Machine.execCxlLinkTrain rate width latencyFlit s
  | .perst low => Sys2Proof.Machine.execPerst low s
  | .moveIssue => Sys2Proof.Machine.execMoveIssue s
  | .moveDeadline => Sys2Proof.Machine.execMoveDeadline s
  | .moveComplete k => Sys2Proof.Machine.execMoveComplete k s
  | .stationDeadline ctx station batch => Sys2Proof.Machine.execStationDeadline ctx station batch s
  | .tierReadReturn k obs => Sys2Proof.Machine.execTierReadReturn k obs s
  | .hotRowCopyEnd table version row => Sys2Proof.Machine.execHotRowCopyEnd table version row s
  | .hotReadWindow => Sys2Proof.Machine.execHotReadWindow s
  | .probePass on => Sys2Proof.Machine.execProbePass on s
  | .folioMerge rid remote => Sys2Proof.Machine.execFolioMerge rid remote s
  | .decodeEngineGrant engine => Sys2Proof.Machine.execDecodeEngineGrant engine s
  | .decodeUnitEnd engine obs => Sys2Proof.Machine.execDecodeUnitEnd engine obs s
  | .shuffleIssue on => Sys2Proof.Machine.execShuffleIssue on s
  | .deliverWrite ctx port => Sys2Proof.Machine.execDeliverWrite ctx port s
  | .stagingProgram good => Sys2Proof.Machine.execStagingProgram good s
  | .foldStart => Sys2Proof.Machine.execFoldStart s
  | .foldJournal good => Sys2Proof.Machine.execFoldJournal good s
  | .mappingCheckpoint => Sys2Proof.Machine.execMappingCheckpoint s
  | .wearCheck => Sys2Proof.Machine.execWearCheck s
  | .foldStripeClose => Sys2Proof.Machine.execFoldStripeClose s
  | .stripeVerify stripe buckets => Sys2Proof.Machine.execStripeVerify stripe buckets s
  | .eraseIntent die block slc => Sys2Proof.Machine.execEraseIntent die block slc s
  | .mediaStageWindow => Sys2Proof.Machine.execMediaStageWindow s
  | .patrolRead m obs => Sys2Proof.Machine.execPatrolRead m obs s
  | .correctableError source address => Sys2Proof.Machine.execCorrectableError source address s
  | .ceLeak => Sys2Proof.Machine.execCeLeak s
  | .recordPersist => Sys2Proof.Machine.execRecordPersist s
  | .reStencil p selfTests => Sys2Proof.Machine.execReStencil p selfTests s
  | .spareDailyTest failed => Sys2Proof.Machine.execSpareDailyTest failed s
  | .membershipFrame member faulted easelAlive => Sys2Proof.Machine.execMembershipFrame member faulted easelAlive s
  | .memberLoss member => Sys2Proof.Machine.execMemberLoss member s
  | .selfFence => Sys2Proof.Machine.execSelfFence s
  | .memberRejoin member => Sys2Proof.Machine.execMemberRejoin member s
  | .remirrorEnd member => Sys2Proof.Machine.execRemirrorEnd member s
  | .timingMark offset => Sys2Proof.Machine.execTimingMark offset s
  | .folioJoin count => Sys2Proof.Machine.execFolioJoin count s
  | .timeFloor => Sys2Proof.Machine.execTimeFloor s
  | .portCheck port folioId peer peerPort => Sys2Proof.Machine.execPortCheck port folioId peer peerPort s
  | .portRetrain port lanes => Sys2Proof.Machine.execPortRetrain port lanes s
  | .hatchLinkFailure port => Sys2Proof.Machine.execHatchLinkFailure port s
  | .hatchAckTimeout port => Sys2Proof.Machine.execHatchAckTimeout port s
  | .hatchReplay port k => Sys2Proof.Machine.execHatchReplay port k s
  | .detourEnd port => Sys2Proof.Machine.execDetourEnd port s
  | .managementFrame dest payload => Sys2Proof.Machine.execManagementFrame dest payload s
  | .protectedWindowEnd => Sys2Proof.Machine.execProtectedWindowEnd s
  | .tileCalInterval p => Sys2Proof.Machine.execTileCalInterval p s
  | .levelTrack unit slc => Sys2Proof.Machine.execLevelTrack unit slc s
  | .levelSweep unit slc => Sys2Proof.Machine.execLevelSweep unit slc s
  | .levelSweepAdopt unit slc buckets => Sys2Proof.Machine.execLevelSweepAdopt unit slc buckets s
  | .inputFailure cause => Sys2Proof.Machine.execInputFailure cause s
  | .commitComplete => Sys2Proof.Machine.execCommitComplete s
  | .bankExhausted => Sys2Proof.Machine.execBankExhausted s
  | .inputReturn => Sys2Proof.Machine.execInputReturn s
  | .insertion sbAddr => Sys2Proof.Machine.execInsertion sbAddr s
  | .powerUpStep flow => Sys2Proof.Machine.execPowerUpStep flow s
  | .domainGoodTimeout domain => Sys2Proof.Machine.execDomainGoodTimeout domain s
  | .bootRom => Sys2Proof.Machine.execBootRom s
  | .stage1 => Sys2Proof.Machine.execStage1 s
  | .easelFirmwareStart failed => Sys2Proof.Machine.execEaselFirmwareStart failed s
  | .restore => Sys2Proof.Machine.execRestore s
  | .bootStageTimeout => Sys2Proof.Machine.execBootStageTimeout s
  | .bankMeasurement => Sys2Proof.Machine.execBankMeasurement s
  | .bankMeasurementEnd mJ => Sys2Proof.Machine.execBankMeasurementEnd mJ s
  | .throttleWindow obs => Sys2Proof.Machine.execThrottleWindow obs s
  | .surge watts => Sys2Proof.Machine.execSurge watts s
  | .thermalStop sensor reading => Sys2Proof.Machine.execThermalStop sensor reading s
  | .firmwareConfirm => Sys2Proof.Machine.execFirmwareConfirm s
  | .easelDispatch serviceNs => Sys2Proof.Machine.execEaselDispatch serviceNs s
  | .overloadEnd => Sys2Proof.Machine.execOverloadEnd s
  | .telemetryFrame => Sys2Proof.Machine.execTelemetryFrame s
  | .decimationTick => Sys2Proof.Machine.execDecimationTick s
  | .watchdogExpiry => Sys2Proof.Machine.execWatchdogExpiry s
  | .powerOn member => Sys2Proof.Machine.execPowerOn member s
  | .testStart member kind => Sys2Proof.Machine.execTestStart member kind s
  | .testEnd failed => Sys2Proof.Machine.execTestEnd failed s
  | .testStatus member => Sys2Proof.Machine.execTestStatus member s
  | .telemetryRead member select start => Sys2Proof.Machine.execTelemetryRead member select start s
  | .recordsRead member source start => Sys2Proof.Machine.execRecordsRead member source start s
  | .ceClear member source => Sys2Proof.Machine.execCeClear member source s
  | .readNvmeMiDataStructure dtyp portId => Sys2Proof.Machine.execReadNvmeMiDataStructure dtyp portId s
  | .subsystemHealthStatusPoll => Sys2Proof.Machine.execSubsystemHealthStatusPoll s
  | .controllerHealthStatusPoll => Sys2Proof.Machine.execControllerHealthStatusPoll s
  | .configurationGet id => Sys2Proof.Machine.execConfigurationGet id s
  | .configurationSet id value => Sys2Proof.Machine.execConfigurationSet id value s
  | .vpdRead offset len => Sys2Proof.Machine.execVpdRead offset len s
  | .tunnelledAdmin opcode dword10 => Sys2Proof.Machine.execTunnelledAdmin opcode dword10 s
  | .getVersion => Sys2Proof.Machine.execGetVersion s
  | .getCapabilities => Sys2Proof.Machine.execGetCapabilities s
  | .negotiateAlgorithms asym hash => Sys2Proof.Machine.execNegotiateAlgorithms asym hash s
  | .getDigests => Sys2Proof.Machine.execGetDigests s
  | .getCertificate slot offset len => Sys2Proof.Machine.execGetCertificate slot offset len s
  | .challenge slot nonce => Sys2Proof.Machine.execChallenge slot nonce s
  | .getMeasurements index signed nonce => Sys2Proof.Machine.execGetMeasurements index signed nonce s
  | .spdmUnsupported code => Sys2Proof.Machine.execSpdmUnsupported code s
  | .nonce => Sys2Proof.Machine.execNonce s
  | .password level text => Sys2Proof.Machine.execPassword level text s
  | .response level sigR sigS => Sys2Proof.Machine.execResponse level sigR sigS s
  | .canaryFail p => Sys2Proof.Machine.execCanaryFail p s
  | .hatchLaneLoss port lanes => Sys2Proof.Machine.execHatchLaneLoss port lanes s
  | .bankCharged mV => Sys2Proof.Machine.execBankCharged mV s
  | .managementRingBreak member => Sys2Proof.Machine.execManagementRingBreak member s
  | .backInvalidateResponse line => Sys2Proof.Machine.execBackInvalidateResponse line s
  | .completionQueueDoorbell cq head => Sys2Proof.Machine.execCompletionQueueDoorbell cq head s
  | .hotReset => Sys2Proof.Machine.execHotReset s
  | .healthSnapshotRefresh => Sys2Proof.Machine.execHealthSnapshotRefresh s
  | .firmwareRestartEnd => Sys2Proof.Machine.execFirmwareRestartEnd s

end Sys2Proof.Machine
end

