-- ==== Sys2Proof/Safety.lean ====
section
/-! DEFINITION. The terms in which the statements speak: what a step leaves alone, answers and completions, when a command is taken, which
commands may change what, and what holds of every state. -/

namespace Sys2Proof.Safety

open Sys2Proof.Machine

/-- What the issue of a stroke does to its issue slot, to the rotating pointer and to the count of strokes (R61, R80, R163): `v` is tile
`t` after issue slot `n`, which stood at `i`, has issued. -/
def Issued (t v : Tile) (n : Nat) (i : IssueSlot) : Prop :=
  v.counts.issued = satAdd (ones 64) t.counts.issued 1 ∧ v.turn = (n + 1) % 4 ∧
  (∀ l, mapFind t.lists i.list = some l → i.pc ≠ l.last → mapFind v.islots n = some { i with pc := i.pc + 1 }) ∧
  (∀ l, mapFind t.lists i.list = some l → i.pc = l.last →
    mapFind v.islots n = some (((nextList t n i.list).map fun x => (⟨x.1, x.2.first⟩ : IssueSlot)).getD i)) ∧
  ∀ m, m ≠ n → mapFind v.islots m = mapFind t.islots m

/-- The head of issue slot `n` of tile `p` is the stroke `k`, valid, with its operands present and its destinations free, and it is the first
ready head from the rotating pointer on, so that no unit it needs is busy and, for EMIT, its streams may take the sheet (R61, R27, R131). -/
def Goes (s : State) (p n op : Nat) (i : IssueSlot) (k : Stroke) (w : BitVec 128) : Prop :=
  issueState (tileOf s p) op n = .ready i k w ∧ firstReady s p (tileOf s p) = some n

/-- A slot of a tile that an open chain has used, which is released with the chain's DRAIN (R62). -/
def InChain (t : Tile) (x : Nat × Nat) : Prop := ∃ b ∈ t.banks, ∃ c, b.2.chain = some c ∧ x ∈ c.used

/-- Everything but tile `p` and the free values drawn is as before. -/
def OnlyTile (s u : State) (p : Nat) : Prop :=
  { u with tiles := s.tiles, freeCtr := s.freeCtr } = s ∧ ∀ q, q ≠ p → tileOf u q = tileOf s q

/-- The stroke stands last among the executing strokes of tile `v`, which were those of `t`, and occupies the arrays, the
banks and the vector unit given until it completes (R56, R61). -/
def Executes (t v : Tile) (i : IssueSlot) (w : BitVec 128) (arrays banks : List Nat) (vector : Bool)
    (writes : List (Nat × Nat)) : Prop :=
  ∃ e, v.exec = t.exec ++ [e] ∧ e.addr = i.pc ∧ e.list = i.list ∧ e.stroke = w ∧ e.arrays = arrays ∧ e.banks = banks ∧
    e.vector = vector ∧ e.writes = writes ∧ e.repeated = false

/-- A vector stroke wrote `o` into slot `x`, which is reserved until the stroke completes (R56), under the stream of its
buffer and the flags of its operands (R121). -/
def Writes (v : Tile) (x : Nat × Nat) (o : VecOut) (flags : BitVec 16) : Prop :=
  ∃ y, slotOf v x = some y ∧ y.st = .reserved ∧ y.arrived = false ∧ y.sheet.format.toNat = o.format % 256 ∧
    y.sheet.valid.toNat = o.valid % 65536 ∧ y.sheet.scales = o.scales ∧ y.sheet.data = o.data ∧ y.sheet.flags = flags

/-- A stroke of the vector unit, or COPY, that has issued on slot `n` of tile `p` with output `o` made from `srcs`: it
executes and has reserved its destination; accumulators and tables are as before, and so is the rest of the machine. -/
def WritesDst (s u : State) (p n : Nat) (i : IssueSlot) (k : Stroke) (w : BitVec 128) (vector : Bool) (o : VecOut)
    (srcs : List Sheet) : Prop :=
  OnlyTile s u p ∧ Issued (tileOf s p) (tileOf u p) n i ∧
  Executes (tileOf s p) (tileOf u p) i w [] [] vector [reach (tileOf s p) k.dst 0] ∧
  Writes (tileOf u p) (reach (tileOf s p) k.dst 0) o (carried srcs) ∧
  (∀ x, x ≠ reach (tileOf s p) k.dst 0 → slotOf (tileOf u p) x = slotOf (tileOf s p) x) ∧
  (tileOf u p).banks = (tileOf s p).banks ∧ (tileOf u p).arrays = (tileOf s p).arrays

/-- The sheet in the slot that SRC_A or SRC_B of a stroke names. -/
def srcOf (s : State) (p : Nat) (o : Operand) : Sheet := sheetAt (tileOf s p) (reach (tileOf s p) o 0)

/-- What reports an event may change beside the machine proper: the ring of error records, events and completions of the
host interface, Easel's queues, and the free values drawn. -/
def SameButReports (s u : State) : Prop :=
  { u with integ := s.integ, host := s.host, easel := s.easel, freeCtr := s.freeCtr } = s

/-- The controller takes an admin command now (R410, R421, R548 to R550, R555): it is ready, Easel runs and does not refuse
work, the member is the head of its folio, and the identifier is one that a command can have. -/
def AdminReady (s : State) (cid : Nat) : Prop :=
  s.host.ready = true ∧ s.easel.restarting = false ∧ easelRefuses s = false ∧ isHead s = true ∧ cid < orphanCid

/-- The state in which Easel serves an admin command: the queue's head has moved, and the command is queued as class 3. -/
def taken (s : State) : State := enqueue3 (takeSq s 0)

/-- `u` is `t` but for what the taking and the completion of an admin command change: queue heads, completions that are
posted, Easel's class 3 queue. -/
def AdminBut (t u : State) : Prop :=
  { u with host.sqs := t.host.sqs, host.cqs := t.host.cqs, host.posted := t.host.posted, easel := t.easel } = t

/-- The newest completion of queue `cq` is that of command `cid` from queue `sq`, with this status code type and code: it
is posted, or it waits last for room in its queue (R416, R422). -/
def Answers (u : State) (cq sq cid sct sc : Nat) : Prop :=
  ∃ x, (u.host.posted.head? = some x ∨ ∃ q, cqOf u cq = some q ∧ q.waiting.getLast? = some x) ∧ x.cq = cq ∧ x.sqId = sq ∧
    x.cid = cid ∧ x.sct = sct ∧ x.sc = sc

/-- An admin command's completion. -/
def Posts (u : State) (cid sct sc : Nat) : Prop := Answers u 0 0 cid sct sc

/-- An admin command that ends with SUCCESS and leaves `t`. -/
def Succeeds (t u : State) (cid : Nat) : Prop := AdminBut t u ∧ Posts u cid 0 0

/-- A vendor command that ends with FORMAT (R15, R416) and changes nothing else. -/
def EndsFormat (s u : State) (cid : Nat) : Prop := AdminBut s u ∧ Posts u cid 7 0x81

/-- The controller takes an I/O command from submission queue `sq` (R408, R421; log entry 10). -/
def IoReady (s : State) (sq cid : Nat) : Prop :=
  s.host.ready = true ∧ sq ≠ 0 ∧ (mapFind s.host.sqs sq).isSome ∧ isHead s = true ∧ cid < orphanCid

/-- `u` is `s` with the head of queue `sq` moved and a request offered that waits for admission (R412). -/
def Offers (s u : State) (sq cid c : Nat) (kind : ReqKind) (record payload : Bytes) (id : BitVec 64) : Prop :=
  u = { takeSq s sq with
        reqs := mapPut s.reqs s.nextRid (newReq s.nextRid c kind ⟨none, sq, cid⟩ record payload id), nextRid := s.nextRid + 1 }

/-- `u` is `t` but for what the taking and the completion of an I/O command change. -/
def IoBut (t u : State) : Prop :=
  { u with host.sqs := t.host.sqs, host.cqs := t.host.cqs, host.posted := t.host.posted } = t

/-- The controller takes an NVM command from submission queue `sq`, whose completions go to queue `cq` (R408, R420). -/
def NvmReady (s : State) (sq cid cq : Nat) : Prop :=
  IoReady s sq cid ∧ (cqOf s cq).isSome ∧ ∃ x, mapFind s.host.sqs sq = some x ∧ x.cq = cq

/-- The newest completion of queue `cq` carries this data to the host. -/
def Carries (u : State) (cq : Nat) (data : Bytes) : Prop :=
  ∃ x, (u.host.posted.head? = some x ∨ ∃ q, cqOf u cq = some q ∧ q.waiting.getLast? = some x) ∧ x.cq = cq ∧ x.data = data

/-- The newest admin completion is that of `cid`, with this status, Dword 0 and data. -/
def Returns (u : State) (cid sct sc dw0 : Nat) (data : Bytes) : Prop :=
  ∃ x, (u.host.posted.head? = some x ∨ ∃ q, cqOf u 0 = some q ∧ q.waiting.getLast? = some x) ∧ x.cq = 0 ∧ x.sqId = 0 ∧
    x.cid = cid ∧ x.sct = sct ∧ x.sc = sc ∧ x.dw0 = BitVec.ofNat 32 dw0 ∧ x.data = data

/-- The sideband, or another channel, sends one more answer. -/
def Replies (s u : State) (c : Channel) (status : Nat) (data : Bytes) : Prop :=
  u.host.replies = ⟨c, status, data, []⟩ :: s.host.replies

/-- Memory is as before but for the map entries of window pages that were context `c`'s (R198). -/
def KeptButMap (s u : State) (c : Nat) : Prop :=
  (cellsWf s.mem = true → ∀ a, (∀ w ∈ s.host.window, w.2.owner = c → a < 8 * w.1 ∨ 8 * w.1 + 8 ≤ a) →
    cellRead u.mem a = cellRead s.mem a) ∧
  ((∀ w ∈ s.host.window, w.2.owner ≠ c) → u.mem = s.mem)

/-- The other members in service carry out a command of the head, if there are any (R436; log entry 20). -/
def MembersAgree (s : State) : Prop := othersServing s = true → Config.farRefuses s.freeCtr = false

/-- When some other member in service refuses the command that the head has sent in `frame`, `u` is `s` with the command refused with FORMAT on
all members (R16, R436; log entry 20). -/
def RefusedByMembers (s u : State) (cid : Nat) (frame : Bytes) : Prop :=
  Config.farRefuses s.freeCtr = true → AdminBut { s with freeCtr := s.freeCtr + 1, host.replies := ⟨.hatchFrame, 0, frame, []⟩ :: s.host.replies } u ∧ Posts u cid 7 0x81

/-- The stamp of a version step goes to the other members in service, if there are any (R217). -/
def StepSent (s u : State) (id : BitVec 64) : Prop :=
  (othersServing s = true → Replies s u .hatchFrame 0 (leBytes 8 id.toNat ++ leBytes 8 (s.time + 100000))) ∧
  (othersServing s = false → u.host.replies = s.host.replies)

/-- Nothing but the answers sent, Easel's queues and counts, and the free values drawn differs. -/
def AnswersOnly (s u : State) : Prop :=
  { u with host.replies := s.host.replies, easel := s.easel, freeCtr := s.freeCtr } = s

/-- PD0 is powered and Easel takes class 3 work (R545, R550, R555). -/
def MiReady (s : State) : Prop := domainOn s 0 = true ∧ s.easel.restarting = false ∧ easelRefuses s = false

/-- The member of a sideband command is this module (R547). -/
def Own (s : State) (member : Nat) : Prop := member = 0xFF ∨ member = s.folio.number

/-- Easel firmware answers SPDM requests (R535, R550, R555). -/
def SpdmReady (s : State) : Prop := MiReady s ∧ 2 ≤ s.boot.stage

/-- What the debug port shifts out next (R537). -/
def ShiftsOut (u : State) (result : Nat) (nonce : Bytes) : Prop :=
  u.boot.dbgResult = result ∧ ∃ r, u.host.replies.head? = some r ∧ r.channel = .debug ∧
    r.data = padTo (leBytes 1 result ++ leBytes 1 u.boot.dbgLevel ++ zeros 6 ++ nonce) 128

/-- The commands that begin a power-up, or may (R509, R512, R517, R555). -/
def powersUp : Instr → Bool
  | .commitComplete | .inputReturn | .insertion _ | .throttleWindow _ | .powerOn _ => true
  | _ => false

/-- The commands that may change the bytes of the device range and their poison marks, power-ups aside. -/
def changesMemory : Instr → Bool
  | .arbiterGrant _ _ _ | .sheetIngress _ _ _ _ | .scrubPassEnd _ | .descriptorComplete _ _ | .loadAllocation _
  | .loadComplete _ _ _ | .replacementDrained _ | .ctxRelease _ _ | .ctxUnload _ _ | .tableLoad _ _
  | .vocabularyLoad _ _ | .normalisationLoad _ _ | .grammarLoad _ _ | .windowMap _ _ | .windowUnmap _ _
  | .deferredUnmap _ | .hotGrow _ _ _ | .completionPost _ | .decoderCommit _ _ | .hostWindowWrite _ _
  | .moveComplete _ | .tierReadReturn _ _ | .hotRowCopyEnd _ _ _ | .patrolRead _ _ | .reStencil _ _ | .selfFence
  | .restore | .backInvalidateResponse _ => true
  | _ => false

/-- The commands that may change the pages held, power-ups aside. -/
def changesPages : Instr → Bool
  | .loadAllocation _ | .loadComplete _ _ _ | .replacementDrained _ | .ctxRelease _ _ | .ctxUnload _ _
  | .tableLoad _ _ | .indexLoad _ _ | .vocabularyLoad _ _ | .normalisationLoad _ _ | .grammarLoad _ _
  | .objectUnload _ _ _ | .windowMap _ _ | .windowUnmap _ _ | .deferredUnmap _ | .versionSwitch _ _ | .hotGrow _ _ _
  | .fairCopyEnd _ _ | .admissionGrant | .completionPost _ | .decoderCommit _ _ | .moveIssue | .tierReadReturn _ _
  | .hotRowCopyEnd _ _ _ | .reStencil _ _ | .selfFence | .restore => true
  | _ => false

/-- The commands that may change tables, the migration log and updates, power-ups aside. -/
def changesTables : Instr → Bool
  | .arbiterGrant _ _ _ | .replacementDrained _ | .ctxUnload _ _ | .tableLoad _ _ | .objectUnload _ _ _
  | .versionStepTable _ _ | .versionSwitch _ _ | .hotGrow _ _ _ | .admissionGrant | .completionPost _
  | .controllerReset | .functionLevelReset | .perst _ | .tierReadReturn _ _ | .hotRowCopyEnd _ _ _ | .hotReadWindow
  | .patrolRead _ _ | .reStencil _ _ | .memberLoss _ | .selfFence | .restore | .hotReset => true
  | _ => false

/-- The commands that may change the indexes, power-ups aside. -/
def changesIndexes : Instr → Bool
  | .arbiterGrant _ _ _ | .indexLoad _ _ | .objectUnload _ _ _ | .versionStepIndex _ _ | .versionSwitch _ _
  | .fairCopy _ _ | .fairCopyEnd _ _ | .commitEpoch _ | .admissionGrant | .completionPost _ | .controllerReset
  | .functionLevelReset | .perst _ | .tierReadReturn _ _ | .probePass _ | .folioMerge _ _ | .patrolRead _ _
  | .reStencil _ _ | .memberLoss _ | .selfFence | .restore | .hotReset => true
  | _ => false

/-- The commands that may change vocabularies, normalisations and grammars, power-ups aside. -/
def changesLexical : Instr → Bool
  | .vocabularyLoad _ _ | .normalisationLoad _ _ | .grammarLoad _ _ | .objectUnload _ _ _ | .selfFence
  | .restore => true
  | _ => false

/-- The commands that may change staging copies, moves, tier reads and FEED runs, power-ups aside. -/
def changesMoves : Instr → Bool
  | .arbiterGrant _ _ _ | .sheetIngress _ _ _ _ | .loadComplete _ _ _ | .replacementDrained _ | .ctxStart _ _
  | .ctxUnload _ _ | .completionPost _ | .moveIssue | .moveDeadline | .moveComplete _ | .stationDeadline _ _ _
  | .tierReadReturn _ _ | .reStencil _ _ | .memberLoss _ | .selfFence => true
  | _ => false

/-- The commands that may change the model cache, power-ups aside. -/
def changesCache : Instr → Bool
  | .handshakeTimeout _ | .selfTestEnd _ _ | .descriptorComplete _ _ | .imageLoad _ _ _ | .loadAllocation _
  | .loadComplete _ _ _ | .replacementDrained _ | .imageStore _ _ | .cachePin _ _ | .cacheUnpin _ _ | .ctxUnload _ _
  | .completionPost _ | .reStencil _ _ | .spareDailyTest _ | .selfFence | .easelFirmwareStart _ | .restore
  | .firmwareConfirm | .testEnd _ => true
  | _ => false

/-- The commands that may change the contexts, power-ups aside. -/
def changesContexts : Instr → Bool
  | .firstNanTrap _ | .handshakeTimeout _ | .selfTestEnd _ _ | .arbiterGrant _ _ _ | .sheetIngress _ _ _ _
  | .imageLoad _ _ _ | .loadAllocation _ | .loadComplete _ _ _ | .replacementDrained _ | .ctxConfigure _ _
  | .ctxRelease _ _ | .ctxStart _ _ | .ctxStop _ _ | .ctxUnload _ _ | .nanClear _ _ | .query _ _ _
  | .frontStep _ _ _ _ | .frontClose _ _ _ _ | .admissionGrant | .completionPost _ | .controllerReset
  | .functionLevelReset | .perst _ | .moveIssue | .moveDeadline | .moveComplete _ | .stationDeadline _ _ _
  | .tierReadReturn _ _ | .probePass _ | .decodeEngineGrant _ | .decodeUnitEnd _ _ | .shuffleIssue _
  | .deliverWrite _ _ | .reStencil _ _ | .spareDailyTest _ | .memberLoss _ | .selfFence | .easelFirmwareStart _
  | .restore | .testEnd _ | .hotReset => true
  | _ => false

/-- The commands that may change the requests, power-ups aside. -/
def changesRequests : Instr → Bool
  | .arbiterGrant _ _ _ | .sheetIngress _ _ _ _ | .loadAllocation _ | .loadComplete _ _ _ | .ctxStart _ _
  | .ctxStop _ _ | .ctxUnload _ _ | .hotGrow _ _ _ | .ringDelete _ _ | .indexCommit _ _ _ _ _ _ | .commitEpoch _
  | .query _ _ _ | .frontOpen _ _ _ _ | .frontStep _ _ _ _ | .frontClose _ _ _ _ | .deliveryJob _ _ _ _
  | .batchJob _ _ _ _ | .admissionGrant | .completionPost _ | .deleteIoSubmissionQueue _ _ | .abortCommand _ _ _
  | .controllerReset | .functionLevelReset | .perst _ | .stationDeadline _ _ _ | .tierReadReturn _ _
  | .hotRowCopyEnd _ _ _ | .probePass _ | .folioMerge _ _ | .reStencil _ _ | .memberLoss _ | .selfFence
  | .hotReset => true
  | _ => false

/-- The commands that may change the streams, power-ups aside. -/
def changesStreams : Instr → Bool
  | .mma _ _ | .preload _ _ | .emit _ _ | .release _ _ | .strokeComplete _ _ _ | .islandTransferAck _
  | .arbiterGrant _ _ _ | .sheetIngress _ _ _ _ | .resend _ | .creditReturn _ | .loadAllocation _
  | .loadComplete _ _ _ | .replacementDrained _ | .ctxUnload _ _ | .hotGrow _ _ _ | .admissionGrant
  | .completionPost _ | .stationDeadline _ _ _ | .tierReadReturn _ _ | .hotRowCopyEnd _ _ _ | .probePass _
  | .folioMerge _ _ | .decodeEngineGrant _ | .decodeUnitEnd _ _ | .shuffleIssue _ | .deliverWrite _ _ | .reStencil _ _
  | .memberLoss _ | .selfFence | .remirrorEnd _ => true
  | _ => false

/-- The commands that may change arbiters and island boundaries, power-ups aside. -/
def changesFabric : Instr → Bool
  | .emit _ _ | .islandTransferAck _ | .arbiterGrant _ _ _ | .escalation _ _ | .sheetIngress _ _ _ _ | .creditReturn _
  | .admissionGrant | .stationDeadline _ _ _ | .tierReadReturn _ _ | .folioMerge _ _ | .decodeEngineGrant _
  | .decodeUnitEnd _ _ | .shuffleIssue _ | .reStencil _ _ | .memberLoss _ => true
  | _ => false

/-- The commands that may change the tiles, power-ups aside. -/
def changesTiles : Instr → Bool
  | .nop _ _ | .mma _ _ | .preload _ _ | .drain _ _ | .ctbl _ _ | .vop _ _ | .func _ _ | .reduce _ _ | .cvt _ _
  | .signpack _ _ | .emit _ _ | .release _ _ | .copy _ _ | .invalidStroke _ _ | .strokeComplete _ _ _
  | .firstNanTrap _ | .handshakeTimeout _ | .clockChange _ | .quiesceTimeout _ | .cntClr _ | .test _
  | .selfTestEnd _ _ | .arbiterGrant _ _ _ | .sheetIngress _ _ _ _ | .registerWrite _ _ _ _ | .loadAllocation _
  | .loadComplete _ _ _ | .replacementDrained _ | .ctxStart _ _ | .ctxStop _ _ | .ctxUnload _ _ | .admissionGrant
  | .completionPost _ | .decodeUnitEnd _ _ | .patrolRead _ _ | .reStencil _ _ | .spareDailyTest _ | .memberLoss _
  | .selfFence | .tileCalInterval _ | .inputFailure _ | .bankExhausted | .powerUpStep _ | .domainGoodTimeout _
  | .stage1 | .easelFirmwareStart _ | .thermalStop _ _ | .watchdogExpiry | .testStart _ _ | .testEnd _
  | .canaryFail _ => true
  | _ => false

/-- The commands that may change ENCODE pipelines, front-end sequences and decode engines, power-ups aside. -/
def changesStations : Instr → Bool
  | .arbiterGrant _ _ _ | .sheetIngress _ _ _ _ | .replacementDrained _ | .ctxUnload _ _ | .query _ _ _
  | .frontStep _ _ _ _ | .frontClose _ _ _ _ | .admissionGrant | .completionPost _ | .controllerReset
  | .functionLevelReset | .perst _ | .decodeEngineGrant _ | .decodeUnitEnd _ _ | .reStencil _ _ | .memberLoss _
  | .selfFence | .hotReset => true
  | _ => false

/-- The commands that may change folio time, power-ups aside. -/
def changesTime : Instr → Bool
  | .timingMark _ | .folioJoin _ | .timeFloor | .stage1 => true
  | _ => false

/-- The commands that may change the selectors and their snapshots, power-ups aside. -/
def changesSelectors : Instr → Bool
  | .glbSmonSel _ | .glbHmonSel _ | .tierMonSel _ | .tblSel _ | .glbCtxSel _ | .glbMcSel _ | .rtvIdxSel _
  | .ltrVocSel _ | .ltrMonSel _ | .decMonSel _ | .hlkMonSel _ | .intCeSel _ | .calMonSel _ | .calLogSel _
  | .pwrTempSel _ | .registerWrite _ _ _ _ => true
  | _ => false

/-- The commands that may change the recovery counts, power-ups aside. -/
def changesRecovery : Instr → Bool
  | .reStencil _ _ | .memberLoss _ | .memberRejoin _ | .remirrorEnd _ => true
  | _ => false

/-- The commands that may change calibration, power-ups aside. -/
def changesCalibration : Instr → Bool
  | .arbiterGrant _ _ _ | .registerWrite _ _ _ _ | .descriptorComplete _ _ | .loadComplete _ _ _
  | .replacementDrained _ | .ctxStart _ _ | .ctxUnload _ _ | .admissionGrant | .completionPost _ | .decodeUnitEnd _ _
  | .reStencil _ _ | .memberLoss _ | .selfFence | .protectedWindowEnd | .tileCalInterval _ | .levelTrack _ _
  | .levelSweep _ _ | .levelSweepAdopt _ _ _ => true
  | _ => false

/-- The commands that may change boot, identity and debug access, power-ups aside. -/
def changesBoot : Instr → Bool
  | .handshakeTimeout _ | .selfTestEnd _ _ | .loadAllocation _ | .loadComplete _ _ _ | .replacementDrained _
  | .ctxUnload _ _ | .completionPost _ | .firmwareCommit _ _ _ | .reStencil _ _ | .spareDailyTest _ | .selfFence
  | .bootRom | .stage1 | .easelFirmwareStart _ | .restore | .bootStageTimeout | .firmwareConfirm | .testEnd _ | .nonce
  | .password _ _ | .response _ _ _ => true
  | _ => false

/-- The commands that may change power, power-ups aside. -/
def changesPower : Instr → Bool
  | .registerWrite _ _ _ _ | .loadAllocation _ | .loadComplete _ _ _ | .ctxUnload _ _ | .completionPost _
  | .reStencil _ _ | .selfFence | .timingMark _ | .inputFailure _ | .bankExhausted | .powerUpStep _
  | .domainGoodTimeout _ | .easelFirmwareStart _ | .bankMeasurement | .bankMeasurementEnd _ | .surge _
  | .thermalStop _ _ | .watchdogExpiry | .testStart _ _ | .bankCharged _ => true
  | _ => false

/-- The commands that may change the folio and its ports, power-ups aside. -/
def changesFolio : Instr → Bool
  | .arbiterGrant _ _ _ | .sheetIngress _ _ _ _ | .creditReturn _ | .tableLoad _ _ | .indexLoad _ _
  | .versionSwitch _ _ | .reStencil _ _ | .membershipFrame _ _ _ | .memberLoss _ | .selfFence | .memberRejoin _
  | .remirrorEnd _ | .timingMark _ | .folioJoin _ | .portCheck _ _ _ _ | .portRetrain _ _ | .hatchLinkFailure _
  | .hatchAckTimeout _ | .hatchReplay _ _ | .detourEnd _ | .inputFailure _ | .powerUpStep _ | .stage1
  | .easelFirmwareStart _ | .restore | .thermalStop _ _ | .watchdogExpiry | .hatchLaneLoss _ _
  | .managementRingBreak _ => true
  | _ => false

/-- The commands that may change the Stylus ROM, the code store and the counters, power-ups aside. -/
def changesProtection : Instr → Bool
  | .lock _ | .csRegionWrite _ _ | .mailboxGo _ | .registerWrite _ _ _ _ | .read _ _ _ | .program _ _ _ | .erase _ _ _
  | .probe _ _ _ | .calRead _ _ _ | .csRead _ _ _ | .csProgram _ _ _ | .csErase _ _ _ | .csFetch _ _ _ | .rbRead _ _ _
  | .rbAdvance _ _ _ | .badDescriptor _ _ | .descriptorComplete _ _ | .firmwareCommit _ _ _ | .shutdownNotification
  | .eraseIntent _ _ _ | .patrolRead _ _ | .levelSweep _ _ | .inputFailure _ | .powerUpStep _ | .bootRom | .stage1
  | .easelFirmwareStart _ | .thermalStop _ _ | .watchdogExpiry => true
  | _ => false

/-- The commands that may change flash management, power-ups aside. -/
def changesMedia : Instr → Bool
  | .descriptorComplete _ _ | .loadAllocation _ | .tableLoad _ _ | .indexLoad _ _ | .vocabularyLoad _ _
  | .normalisationLoad _ _ | .grammarLoad _ _ | .windowMap _ _ | .windowUnmap _ _ | .hotGrow _ _ _ | .fairCopyEnd _ _
  | .mediaThresholds _ _ | .nvmWrite _ _ _ _ _ | .writeZeroes _ _ _ _ _ | .datasetManagement _ _ _ _
  | .deleteIoSubmissionQueue _ _ | .formatNvm _ _ _ | .sanitize _ _ | .shutdownNotification | .controllerReset
  | .functionLevelReset | .perst _ | .moveIssue | .tierReadReturn _ _ | .stagingProgram _ | .foldStart
  | .foldJournal _ | .mappingCheckpoint | .wearCheck | .foldStripeClose | .stripeVerify _ _ | .eraseIntent _ _ _
  | .mediaStageWindow | .patrolRead _ _ | .inputFailure _ | .powerUpStep _ | .easelFirmwareStart _ | .restore
  | .bankMeasurementEnd _ | .thermalStop _ _ | .watchdogExpiry | .bankCharged _ | .hotReset => true
  | _ => false

/-- What holds of the platform's state after every step: the clock cap and decimation stay in their ranges, the rings within their
sizes, the debug level is one of three and FULL leaves no key, boot code has not ended without LOCK, and the folio's shape is a
supported one (R395, R424, R459, R514, R515, R537, R540, R551, R552). -/
def PlatformInv (s : State) : Prop :=
  40 ≤ s.power.freqCap ∧ s.power.freqCap ≤ 132 ∧ s.power.means.length ≤ 10 ∧ s.integ.recs.length ≤ 4096 ∧
  s.easel.frames.length ≤ 4096 ∧ s.easel.services.length ≤ 1024 ∧ s.easel.decim ≤ 4 ∧ s.boot.dbgLevel ≤ 2 ∧
  (s.boot.dbgLevel = 2 → s.boot.deviceKey = none ∧ s.boot.aliasKey = none) ∧
  (s.stylus.bootMode = false → s.stylus.lock = true) ∧
  ((s.folio.topology = 0 ∧ s.folio.number = 0 ∧ folioSize s = 1) ∨
    shapeOk s.folio.topology s.folio.dimX s.folio.dimY s.folio.dimZ s.folio.number = true)

/-- What is held as sparse data stands in its one canonical form, so that equal contents are equal data (R176, R34). -/
def CanonicalInv (s : State) : Prop :=
  cellsWf s.mem = true ∧ cellsWf s.stylus.cs = true ∧ mapWf s.poison = true ∧ mapWf s.pages = true ∧ mapWf s.tiles = true ∧
  mapWf s.ctxs = true ∧ mapWf s.streams = true ∧ mapWf s.reqs = true

/-- The command that a routine's descriptor is. -/
def descriptorOf (r : Routine) (c : Caller) (d : Desc) (prio : Nat) : Instr :=
  match r with
  | .read => .read c d prio
  | .program => .program c d prio
  | .erase => .erase c d prio
  | .probe => .probe c d prio
  | .calRead => .calRead c d prio
  | .csRead => .csRead c d prio
  | .csProgram => .csProgram c d prio
  | .csErase => .csErase c d prio
  | .csFetch => .csFetch c d prio
  | .rbRead => .rbRead c d prio
  | .rbAdvance => .rbAdvance c d prio

/-- An object load that is refused: the completion has the status of the refusal, and nothing else changes (R413, R416). -/
def EndsWith (s u : State) (cid : Nat) (st : Status) : Prop :=
  AdminBut s u ∧ Posts u cid (statusField st).1 (statusField st).2.1

/-- What a reset of the function leaves of its queues (R422): they and the rings are gone with what they held; only admitted requests run on, and
no completion is posted for them. -/
def FunctionReset (u : State) : Prop :=
  u.host.sqs = [] ∧ u.host.cqs = [] ∧ u.host.rings = [] ∧ u.host.aers = [] ∧ u.host.masked = [] ∧ u.host.events = [] ∧
  u.host.features = [] ∧ u.host.shutdown = 0 ∧ u.media.waiting = [] ∧
  ∀ y ∈ u.reqs, y.2.admitted = true ∧ y.2.src.cid = orphanCid

end Sys2Proof.Safety
end

