-- ==== Sys2Proof/Certificates/Slice0/Obligations.lean ====
section
/-! DEFINITION. The statements about the model, for the provers. -/

open Sys2Proof Sys2Proof.Machine Sys2Proof.Safety

/-- A step takes the command at the front of the queue and runs it with the rest of the queue; on an empty queue a nanosecond passes (the
model's choice, log entry 11). -/
def Obligations.StepRunsTheFrontCommand : Prop :=
  ∀ (s : State),
    (∀ (c : Instr) (rest : List Instr), s.pending = c :: rest → step s = exec c { s with pending := rest }) ∧
    (s.pending = [] → step s = .next (tick s))

/-- The registers of BAR2 that do not reset to zero, and the phase, the lock and the roles after reset (R76, R83, R202, R283, R317, R339,
R398, R439, R463, R467, R501, R520, R557). -/
def Obligations.RegistersAfterReset : Prop :=
  readReg State.reset 0x100000 = 2 ∧ readReg State.reset 0x100008 = 0x668 ∧ readReg State.reset 0x100018 = 0 ∧
  readReg State.reset 0x100028 = 0 ∧ readReg State.reset 0x200000 = 0 ∧
  readReg State.reset 0x200010 = 0x0000_2710_0020_0004 ∧ readReg State.reset 0x200040 = 0x02D0_0004_0018_0018 ∧
  readReg State.reset 0x900000 = 7 ∧ readReg State.reset 0x900008 = 0x0084_5008_F404_03E8 ∧
  readReg State.reset 0x900010 = 0x0000_07D0_1000_3C0A ∧ readReg State.reset 0xA00008 = 0x0384_0384 ∧
  readReg State.reset 0xA00020 = 132 ∧ bitsAt (readReg State.reset 0x508).toNat 0 16 = 100 ∧
  bitsAt (readReg State.reset 0x800008).toNat 32 16 = 0x0101 ∧
  readReg State.reset 0x300000 = BitVec.ofNat 64 (1572864 * 2 ^ 37 + 393216 * 2 ^ 18 + 131072) ∧
  bitsAt (readReg State.reset (0x1000000 + 67 * 0x4000)).toNat 22 2 = 1 ∧
  bitsAt (readReg State.reset (0x1000000 + 63 * 0x4000)).toNat 22 2 = 0 ∧
  bitsAt (readReg State.reset 0x1000008).toNat 0 16 = 0x1414 ∧ bitsAt (readReg State.reset 0x1000030).toNat 0 2 = 1 ∧
  State.reset.stylus.lock = false ∧ State.reset.integ.phase = .startUp ∧ State.reset.mem = [] ∧ State.reset.pending = []

/-- The state after reset meets both invariants. -/
def Obligations.ResetMeetsTheInvariants : Prop := PlatformInv State.reset ∧ CanonicalInv State.reset

/-- Every step keeps the invariant of the platform's state, whatever the command. -/
def Obligations.StepKeepsThePlatformInvariant : Prop :=
  ∀ (s u : State), PlatformInv s → step s = .next u → PlatformInv u

/-- Every step keeps memory, the code store and the maps in their canonical form. -/
def Obligations.StepKeepsTheCanonicalForm : Prop :=
  ∀ (s u : State), CanonicalInv s → step s = .next u → CanonicalInv u

/-- What a command that is not listed for it leaves unchanged: memory, pages, objects, caches, contexts, requests, streams and tiles.
Commands that may begin a power-up are set apart. -/
def Obligations.CommandsKeepOtherData : Prop :=
  ∀ (c : Instr) (s u : State), exec c s = .next u → powersUp c = false →
    (changesMemory c = false → u.mem = s.mem ∧ u.poison = s.poison) ∧
    (changesPages c = false → u.pages = s.pages) ∧
    (changesTables c = false → u.tables = s.tables ∧ u.migLog = s.migLog ∧ u.updates = s.updates ∧
      u.scatters = s.scatters ∧ u.readCtrs = s.readCtrs) ∧
    (changesIndexes c = false → u.indexes = s.indexes) ∧
    (changesLexical c = false → u.vocabs = s.vocabs ∧ u.norms = s.norms ∧ u.grammars = s.grammars) ∧
    (changesMoves c = false → u.copies = s.copies ∧ u.queued = s.queued ∧ u.inflight = s.inflight ∧ u.reads = s.reads ∧
      u.runs = s.runs ∧ u.nextRun = s.nextRun) ∧
    (changesCache c = false → u.cache = s.cache ∧ u.cacheOrder = s.cacheOrder ∧ u.allocOrder = s.allocOrder) ∧
    (changesContexts c = false → u.ctxs = s.ctxs) ∧
    (changesRequests c = false → u.reqs = s.reqs ∧ u.nextRid = s.nextRid ∧ u.admitPtr = s.admitPtr) ∧
    (changesStreams c = false → u.streams = s.streams) ∧
    (changesFabric c = false → u.arbiters = s.arbiters ∧ u.boundaries = s.boundaries) ∧
    (changesTiles c = false → u.tiles = s.tiles) ∧
    (changesStations c = false → u.encodes = s.encodes ∧ u.fronts = s.fronts ∧ u.gens = s.gens ∧ u.engines = s.engines)

/-- The same for folio time, the selectors, recovery, calibration, boot, power, the folio, protection and flash management; and no
command touches the queue. -/
def Obligations.CommandsKeepOtherUnits : Prop :=
  ∀ (c : Instr) (s u : State), exec c s = .next u → u.pending = s.pending ∧ (powersUp c = false →
    (changesTime c = false → u.time = s.time ∧ u.resumed = s.resumed ∧ u.floor = s.floor ∧ u.timeStarted = s.timeStarted) ∧
    (changesSelectors c = false → u.mon = s.mon) ∧
    (changesRecovery c = false → u.recov = s.recov) ∧
    (changesCalibration c = false → u.cal = s.cal) ∧
    (changesBoot c = false → u.boot = s.boot) ∧
    (changesPower c = false → u.power = s.power) ∧
    (changesFolio c = false → u.folio = s.folio) ∧
    (changesProtection c = false → u.stylus = s.stylus) ∧
    (changesMedia c = false → u.media = s.media))

/-- R393, R395, R537: a rollback counter never falls; LOCK is cleared, and the debug level lowered, only by a power-up. -/
def Obligations.CountersLockAndDebugLevelOnlyRise : Prop :=
  ∀ (c : Instr) (s u : State), exec c s = .next u →
    (∀ n, counterOf s n ≤ counterOf u n) ∧
    (s.stylus.lock = true → u.stylus.lock = true ∨ (u.power.phase = .stepping ∧ u.power.upStep = 1)) ∧
    (s.boot.dbgLevel ≤ u.boot.dbgLevel ∨ (u.power.phase = .stepping ∧ u.power.upStep = 1))

/-- R396: a region write that overlaps another valid region, the private area or the replacement pool is ignored with a PROTECTION
record, through the command or the register, whoever writes. -/
def Obligations.OverlappingRegionWritesAreIgnored : Prop :=
  ∀ (s : State) (w : Writer) (v : BitVec 64) (b : Nat), v.getLsbD 63 = true →
    bitsAt v.toNat 0 10 ≤ b → b < bitsAt v.toNat 0 10 + bitsAt v.toNat 10 11 →
    (b < 8 ∨ 896 ≤ b ∨ ∃ n r, n ≠ s.stylus.csSel.toNat ∧ mapFind s.stylus.regions n = some r ∧ r.getLsbD 63 = true ∧
      bitsAt r.toNat 0 10 ≤ b ∧ b < bitsAt r.toNat 0 10 + bitsAt r.toNat 10 11) →
    ∃ u, exec (.csRegionWrite w v) s = .next u ∧ exec (.registerWrite w 0x100028 8 v) s = .next u ∧ SameButReports s u ∧
      ∃ r rs, u.integ.recs = r :: rs ∧ r.cls = .protection

/-- R540: opening to FULL erases the keys at once; attestation then fails until a power-up, and measurement 5 reports FULL. -/
def Obligations.FullDebugEndsAttestation : Prop :=
  (∀ (c : Instr) (s u : State), exec c s = .next u → s.boot.dbgLevel ≠ 2 → u.boot.dbgLevel = 2 →
    u.boot.deviceKey = none ∧ u.boot.aliasKey = none) ∧
  (∀ (c : Instr) (s u : State), exec c s = .next u → s.boot.dbgLevel = 2 → s.boot.deviceKey = none → s.boot.aliasKey = none →
    (u.boot.dbgLevel = 2 ∧ u.boot.deviceKey = none ∧ u.boot.aliasKey = none) ∨ (u.power.phase = .stepping ∧ u.power.upStep = 1)) ∧
  (∀ (s : State), SpdmReady s → s.boot.dbgLevel = 2 → s.boot.aliasKey = none →
    (∀ (slot : Nat) (nonce : Bytes), ∃ u, exec (.challenge slot nonce) s = .next u ∧ Replies s u .spdm errUnspecified []) ∧
    (∀ (i : Nat) (nonce : Bytes), i ∈ measureIndices →
      ∃ u, exec (.getMeasurements i true nonce) s = .next u ∧ Replies s u .spdm errUnspecified []) ∧
    measured s 5 = some (sha256 [2]))

/-- R510: a shutdown notification runs the media part of the commit and reports shutdown complete; contexts go on; a host write that comes
after it waits and is not staged. -/
def Obligations.ShutdownCommitsAndHoldsLaterWrites : Prop :=
  ∀ (s : State),
    (s.host.ready = true → ∃ u, exec .shutdownNotification s = .next u ∧ u.media = (mediaCommit s).media ∧ u.host.shutdown = 2 ∧
      u.ctxs = s.ctxs ∧ u.tiles = s.tiles ∧ u.reqs = s.reqs ∧ u.power = s.power) ∧
    (∀ (sq cid cq slba : Nat) (data : Bytes), s.host.shutdown ≠ 0 → NvmReady s sq cid cq → data ≠ [] → data.length % 4096 = 0 →
      data.length ≤ 2097152 → slba + data.length / 4096 ≤ userSectors → writeRefusal s slba (data.length / 4096) = none →
      (∀ w, w ∈ s.media.waiting → w.sectors ≠ []) →
      ∃ u, exec (.nvmWrite sq cid (ownNsid s) slba data) s = .next u ∧ u.media.staging = s.media.staging ∧
        u.media.waiting = s.media.waiting ++ [⟨sq, cid, slba, pieces 4096 data⟩] ∧ u.host.posted = s.host.posted)

/-- R41 to R51, R61, R68: NOP, MMA, PRELOAD, DRAIN and CTBL that are ready issue, with their effect on banks, chains and
tables; nothing else of the machine changes. -/
def Obligations.ArrayStrokesIssue : Prop :=
  ∀ (s : State) (p n : Nat) (i : IssueSlot) (k : Stroke) (w : BitVec 128), p < Config.tiles →
    (Goes s p n opNop i k w →
      ∃ u, exec (.nop p n) s = .next u ∧ OnlyTile s u p ∧ Issued (tileOf s p) (tileOf u p) n i ∧
        { tileOf u p with islots := (tileOf s p).islots, counts := (tileOf s p).counts, turn := (tileOf s p).turn } = tileOf s p) ∧
    (Goes s p n opMma i k w →
      (∀ x ∈ operandSlots (tileOf s p) k, (sheetAt (tileOf s p) x).format.toNat = k.fmt) →
      (k.fmt = 0x08 → ∀ a ∈ k.arrays, (mapGet (tileOf s p).arrays a ⟨none⟩).tables.isSome) →
      ∃ u, exec (.mma p n) s = .next u ∧ (∀ q, q ≠ p → tileOf u q = tileOf s q) ∧
        { u with tiles := s.tiles, streams := s.streams, freeCtr := s.freeCtr } = s ∧
        Issued (tileOf s p) (tileOf u p) n i ∧ Executes (tileOf s p) (tileOf u p) i w k.arrays k.bankKeys false [] ∧
        (tileOf u p).counts.arrayBusy =
          satAdd (ones 64) (tileOf s p).counts.arrayBusy (k.cnt * kstepCycles k.fmt * k.arrays.length) ∧
        (∀ a ∈ k.arrays, ∃ c, (bankOf (tileOf u p) (2 * a + k.bank)).chain = some c ∧
          (k.low = 0 → c.bad = false ∧ c.steps.length = 1 ∧ c.fp = (k.fmt != 0x01)) ∧
          (k.low = 1 → ∀ c', (bankOf (tileOf s p) (2 * a + k.bank)).chain = some c' →
            c.steps.length = c'.steps.length + 1 ∧ c.fp = c'.fp))) ∧
    (Goes s p n opPreload i k w →
      ∀ fp, preloadKind (sheetAt (tileOf s p) (reach (tileOf s p) k.srcA 0)).format.toNat = some fp →
      ∃ u, exec (.preload p n) s = .next u ∧ (∀ q, q ≠ p → tileOf u q = tileOf s q) ∧
        { u with tiles := s.tiles, streams := s.streams } = s ∧
        Issued (tileOf s p) (tileOf u p) n i ∧ Executes (tileOf s p) (tileOf u p) i w [] k.bankKeys false [] ∧
        ∀ b ∈ k.bankKeys,
          (bankOf (tileOf u p) b).cells = preloadCells k.aux (sheetAt (tileOf s p) (reach (tileOf s p) k.srcA 0)) ∧
          ((bankOf (tileOf u p) b).chain.map (·.fp)) = some fp) ∧
    (Goes s p n opDrain i k w →
      ∃ u, exec (.drain p n) s = .next u ∧ OnlyTile s u p ∧ Issued (tileOf s p) (tileOf u p) n i ∧
        Executes (tileOf s p) (tileOf u p) i w [] k.bankKeys true ((List.range k.arrays.length).map fun g => reach (tileOf s p) k.dst g) ∧
        (tileOf u p).banks = (tileOf s p).banks ∧
        (∀ g a, k.arrays[g]? = some a → ∃ y, slotOf (tileOf u p) (reach (tileOf s p) k.dst g) = some y ∧ y.st = .reserved ∧
          y.sheet.data = (drainOut k (((bankOf (tileOf s p) (2 * a + k.bank)).chain.map (·.fp)).getD false)
            (if k.rescale then some (sheetAt (tileOf s p) (reach (tileOf s p) k.srcB 0)) else none)
            (bankOf (tileOf s p) (2 * a + k.bank))).data)) ∧
    (Goes s p n opCtbl i k w →
      ∃ u, exec (.ctbl p n) s = .next u ∧ OnlyTile s u p ∧ Issued (tileOf s p) (tileOf u p) n i ∧
        Executes (tileOf s p) (tileOf u p) i w k.arrays [] false [] ∧
        (∀ a, mapGet (tileOf u p).arrays a ⟨none⟩ =
          if a ∈ k.arrays then ⟨some (ctblGrids (sheetAt (tileOf s p) (reach (tileOf s p) k.srcA 0)))⟩
          else mapGet (tileOf s p).arrays a ⟨none⟩) ∧
        (tileOf u p).banks = (tileOf s p).banks ∧ (tileOf u p).buffers = (tileOf s p).buffers)

/-- R58 to R61, R68, R69, R108, R112, R121: VOP, FUNC, REDUCE, CVT, SIGNPACK and COPY that are ready issue and reserve DST
with their result; nothing else of the machine changes. -/
def Obligations.VectorStrokesIssue : Prop :=
  ∀ (s : State) (p n : Nat) (i : IssueSlot) (k : Stroke) (w : BitVec 128), p < Config.tiles →
    (Goes s p n opVop i k w → operandsMatch (tileOf s p) k = true →
      ∃ u, exec (.vop p n) s = .next u ∧
        WritesDst s u p n i k w true (vopOut k (srcOf s p k.srcA) (srcOf s p k.srcB))
          (if k.usesB then [srcOf s p k.srcA, srcOf s p k.srcB] else [srcOf s p k.srcA])) ∧
    (Goes s p n opFunc i k w → operandsMatch (tileOf s p) k = true →
      ∀ f, mapFind (tileOf s p).ftabs k.aux = some f →
      ∃ u, exec (.func p n) s = .next u ∧ WritesDst s u p n i k w true (funcOut k f (srcOf s p k.srcA)) [srcOf s p k.srcA]) ∧
    (Goes s p n opReduce i k w → operandsMatch (tileOf s p) k = true →
      ∃ u, exec (.reduce p n) s = .next u ∧ WritesDst s u p n i k w true (reduceOut k (srcOf s p k.srcA)) [srcOf s p k.srcA]) ∧
    (Goes s p n opCvt i k w →
      ((srcOf s p k.srcA).format = 0x08 → (mapGet (tileOf s p).arrays (k.arrays.headD 0) ⟨none⟩).tables.isSome) →
      ∃ u, exec (.cvt p n) s = .next u ∧
        WritesDst s u p n i k w true
          (cvtOut k (((mapGet (tileOf s p).arrays (k.arrays.headD 0) ⟨none⟩).tables.map (·.1)).getD (List.replicate 16 0))
            (srcOf s p k.srcA)) [srcOf s p k.srcA]) ∧
    (Goes s p n opSignpack i k w →
      operandsMatch (tileOf s p) k = true →
      ∃ u, exec (.signpack p n) s = .next u ∧ WritesDst s u p n i k w true (signpackOut (srcOf s p k.srcA)) [srcOf s p k.srcA]) ∧
    (Goes s p n opCopy i k w →
      ∃ u o, exec (.copy p n) s = .next u ∧ WritesDst s u p n i k w false o [srcOf s p k.srcA] ∧
        o.data = (srcOf s p k.srcA).data ∧ o.scales = (srcOf s p k.srcA).scales ∧
        o.format = (srcOf s p k.srcA).format.toNat ∧ o.valid = (srcOf s p k.srcA).valid.toNat)

/-- R27, R56, R57, R61 to R63, R68, R71, R78, R127, R128, R131, R132, R443: EMIT, RELEASE, INVALID_STROKE and STROKE_COMPLETE. -/
def Obligations.SlotStrokesAndEndsOfStrokes : Prop :=
  ∀ (s : State) (p n : Nat) (i : IssueSlot) (k : Stroke) (w : BitVec 128), p < Config.tiles →
    -- EMIT: each stream of the route carries the sheet under its own number and next SEQ, and one credit is spent; a word read poisoned marks
    -- it and sets STORE_UE.
    (∀ ce ue r, Goes s p n opEmit i k w → mapFind (tileOf s p).routes k.imm = some r →
      (routeTargets r (tagBatch (srcOf s p k.srcA).tag)).1.Nodup →
      ∃ u, exec (.emit p ⟨n, ce, ue⟩) s = .next u ∧
        { u with tiles := s.tiles, streams := s.streams, boundaries := s.boundaries, integ := s.integ, host := s.host, easel := s.easel,
                 freeCtr := s.freeCtr } = s ∧
        (ue = 0 → { u with tiles := s.tiles, streams := s.streams, boundaries := s.boundaries } = s ∧
          (tileOf u p).faults = (tileOf s p).faults) ∧
        (ue ≠ 0 → (tileOf u p).faults = (tileOf s p).faults ||| 16) ∧ (tileOf u p).st = (tileOf s p).st ∧
        (tileOf u p).counts.storeCe = satAdd (ones 32) (tileOf s p).counts.storeCe ce ∧
        (tileOf u p).counts.storeUe = satAdd (ones 16) (tileOf s p).counts.storeUe ue ∧
        (∀ q, q ≠ p → tileOf u q = tileOf s q) ∧ Issued (tileOf s p) (tileOf u p) n i ∧
        (tileOf u p).buffers = (tileOf s p).buffers ∧
        mapFind (tileOf u p).routes k.imm = some (routeTargets r (tagBatch (srcOf s p k.srcA).tag)).2 ∧
        (mapGet u.boundaries p ⟨false, 0⟩).outstanding = true ∧
        (∀ m ∈ (routeTargets r (tagBatch (srcOf s p k.srcA).tag)).1, ∀ x, streamOf s m = some x →
          ∃ y sh, streamOf u m = some y ∧ y.credits + 1 = x.credits ∧ y.nextSend = x.nextSend + 1 ∧ y.inflight = [sh] ∧
            sh.stream = BitVec.ofNat 16 m ∧ sh.seq = x.nextSend ∧ sh.data = (srcOf s p k.srcA).data ∧
            sh.scales = (srcOf s p k.srcA).scales ∧ sh.tag = (srcOf s p k.srcA).tag ∧
            sh.origin = (srcOf s p k.srcA).origin ∧
            sh.flags = ((srcOf s p k.srcA).flags ||| if ue = 0 then 0 else flagPoison) &&& 0xB) ∧
        ∀ m, m ∉ (routeTargets r (tagBatch (srcOf s p k.srcA).tag)).1 → streamOf u m = streamOf s m) ∧
    -- RELEASE: without REL nothing but the issue; with it a streaming slot that no open chain has used is no longer present.
    (Goes s p n opRelease i k w →
      ∃ u, exec (.release p n) s = .next u ∧ { u with tiles := s.tiles, streams := s.streams } = s ∧
        (∀ q, q ≠ p → tileOf u q = tileOf s q) ∧ Issued (tileOf s p) (tileOf u p) n i ∧
        (k.srcA.rel = false → OnlyTile s u p ∧ (tileOf u p).buffers = (tileOf s p).buffers) ∧
        (∀ b, k.srcA.rel = true → mapFind (tileOf s p).buffers k.srcA.buf = some b → b.resident = true →
          (tileOf u p).buffers = (tileOf s p).buffers) ∧
        (k.srcA.rel = true → InChain (tileOf s p) (reach (tileOf s p) k.srcA 0) → (tileOf u p).buffers = (tileOf s p).buffers) ∧
        (∀ b, k.srcA.rel = true → mapFind (tileOf s p).buffers k.srcA.buf = some b → b.resident = false →
          mapWf b.ring = true → ¬ InChain (tileOf s p) (reach (tileOf s p) k.srcA 0) →
          presentSheet (tileOf u p) (reach (tileOf s p) k.srcA 0) = none)) ∧
    -- INVALID_STROKE: BAD_STROKE, or STROKE_UE where the stroke could not be fetched, and the tile enters FAULT with its slots as they stood.
    (∀ z, headStroke (tileOf s p) n = some z → (tileOf s p).st = .running →
      (strokeBad (tileOf s p) z.2.1 = true → ∃ u, exec (.invalidStroke p ⟨n, false⟩) s = .next u ∧ OnlyTile s u p ∧
        tileOf u p = { tileOf s p with st := .fault, faults := (tileOf s p).faults ||| 8, testBusy := false }) ∧
      (∃ u, exec (.invalidStroke p ⟨n, true⟩) s = .next u ∧
        { u with tiles := s.tiles, integ := s.integ, host := s.host, easel := s.easel, freeCtr := s.freeCtr } = s ∧
        (∀ q, q ≠ p → tileOf u q = tileOf s q) ∧
        tileOf u p = { tileOf s p with st := .fault, faults := (tileOf s p).faults ||| 2, testBusy := false })) ∧
    -- STROKE_COMPLETE of a stroke with no error and no mismatch.
    (∀ idx e obs, (tileOf s p).exec[idx]? = some e → ((tileOf s p).st = .running ∨ (tileOf s p).st = .quiescing) →
      obs.mismatch = false → obs.upsets = [] → obs.storeUe = 0 → obs.strokeUe = false →
      ((strokeOf e.stroke).op = opDrain → ∀ b ∈ e.banks, chainBad (bankOf (tileOf s p) b) = false) →
      ∃ u, exec (.strokeComplete p idx obs) s = .next u ∧
        { u with tiles := s.tiles, streams := s.streams, integ := s.integ, host := s.host, easel := s.easel,
                 freeCtr := s.freeCtr } = s ∧
        (∀ q, q ≠ p → tileOf u q = tileOf s q) ∧ (tileOf u p).exec = listDrop (tileOf s p).exec idx ∧
        (tileOf u p).counts.checks = (tileOf s p).counts.checks + e.checks ∧
        (tileOf u p).counts.storeCe = satAdd (ones 32) (tileOf s p).counts.storeCe obs.storeCe ∧
        ((strokeOf e.stroke).op ≠ opDrain → e.rels = [] → (tileOf u p).banks = (tileOf s p).banks) ∧
        ((strokeOf e.stroke).op ≠ opDrain → ∀ b, (bankOf (tileOf u p) b).cells = (bankOf (tileOf s p) b).cells ∧
          (bankOf (tileOf u p) b).chain.map (·.steps) = (bankOf (tileOf s p) b).chain.map (·.steps)) ∧
        ((strokeOf e.stroke).op = opDrain → ∀ b ∈ e.banks, (bankOf (tileOf u p) b).chain = none) ∧
        (e.rels = [] → (strokeOf e.stroke).op ≠ opDrain → ∀ x ∈ e.writes, ∀ v, slotOf (tileOf s p) x = some v →
          slotOf (tileOf u p) x = some { v with st := .present })) ∧
    -- A DRAIN whose residues do not agree is discarded and repeats with its chains, its slots still reserved; a second mismatch is
    -- RESIDUE_REPEAT.
    (∀ idx e obs, (tileOf s p).exec[idx]? = some e → ((tileOf s p).st = .running ∨ (tileOf s p).st = .quiescing) →
      (strokeOf e.stroke).op = opDrain → obs.storeUe = 0 → obs.strokeUe = false →
      (obs.mismatch = true ∨ ∃ b ∈ e.banks, chainBad (bankOf (tileOf s p) b) = true) →
      (e.repeated = false → ∃ u e', exec (.strokeComplete p idx obs) s = .next u ∧ (tileOf u p).exec[idx]? = some e' ∧
        e'.repeated = true ∧ e'.writes = e.writes ∧ (tileOf u p).st = (tileOf s p).st ∧ (tileOf u p).faults = (tileOf s p).faults ∧
        u.streams = s.streams ∧ ∀ q, q ≠ p → tileOf u q = tileOf s q) ∧
      (e.repeated = true → ∃ u, exec (.strokeComplete p idx obs) s = .next u ∧ (tileOf u p).st = .fault ∧
        (tileOf u p).faults = (tileOf s p).faults ||| 1 ∧ u.streams = s.streams))

/-- R29, R64, R65, R71, R74, R77 to R79, R113 to R115, R495: the events of a tile beside its strokes. -/
def Obligations.TileEventsComplete : Prop :=
  ∀ (s : State) (p : Nat), p < Config.tiles →
    -- CNT_CLR: every counter of the tile reads zero, and nothing else changes.
    (∃ u, exec (.cntClr p) s = .next u ∧ OnlyTile s u p ∧ tileOf u p = { tileOf s p with counts := TileCounts.zero }) ∧
    -- CANARY_FAIL does not halt; HANDSHAKE_TIMEOUT does, but for a tile in OFF or RETIRED; one that no image
    -- places is then retired.
    (∃ u, exec (.canaryFail p) s = .next u ∧ OnlyTile s u p ∧
      tileOf u p = { tileOf s p with faults := (tileOf s p).faults ||| 32 }) ∧
    ((tileOf s p).st ≠ .off → (tileOf s p).st ≠ .retired → (tileOf s p).placed = true →
      ∃ u, exec (.handshakeTimeout p) s = .next u ∧ OnlyTile s u p ∧
        tileOf u p = { tileOf s p with st := .fault, faults := (tileOf s p).faults ||| 64, testBusy := false }) ∧
    ((tileOf s p).st ≠ .off → (tileOf s p).st ≠ .retired → (tileOf s p).placed = false →
      ∃ u, exec (.handshakeTimeout p) s = .next u ∧ (tileOf u p).st = .retired ∧ (tileOf u p).role = .retired ∧
        (tileOf u p).faults = (tileOf s p).faults ||| 64 ∧ (∀ q, q ≠ p → tileOf u q = tileOf s q) ∧ u.mem = s.mem ∧ u.streams = s.streams) ∧
    -- CLOCK_CHANGE at a stroke boundary: the pending point applies, RUN_FREQ is the lower of FREQ and FREQ_CAP.
    (∀ f v, atBoundary (tileOf s p) = true → (tileOf s p).change = some (f, v) →
      ∃ u, exec (.clockChange p) s = .next u ∧ OnlyTile s u p ∧ (tileOf u p).freq = f ∧ (tileOf u p).vofs = v ∧
        (tileOf u p).change = none ∧ (tileOf u p).runFreq = min f s.power.freqCap ∧
        ((tileOf s p).st = .quiescing → (tileOf s p).replacing = false → (tileOf u p).st = .running)) ∧
    (atBoundary (tileOf s p) = false → exec (.clockChange p) s = .next s) ∧
    -- QUIESCE_TIMEOUT: a running tile that still waits for a boundary stops issuing.
    (clockPending s (tileOf s p) = true → (tileOf s p).st = .running → atBoundary (tileOf s p) = false →
      ∃ u, exec (.quiesceTimeout p) s = .next u ∧ OnlyTile s u p ∧ tileOf u p = { tileOf s p with st := .quiescing }) ∧
    -- TEST: in SPARE_IDLE the self-test starts; else the write is ignored with a PROTECTION record.
    ((tileOf s p).st = .spareIdle →
      ∃ u, exec (.test p) s = .next u ∧ OnlyTile s u p ∧ (tileOf u p).st = .testing ∧ (tileOf u p).testBusy = true ∧
        (tileOf u p).buffers = (tileOf s p).buffers ∧ (tileOf u p).counts = (tileOf s p).counts) ∧
    ((tileOf s p).st ≠ .spareIdle →
      ∃ u, exec (.test p) s = .next u ∧ SameButReports s u ∧ ∃ r rest, u.integ.recs = r :: rest ∧ r.cls = .protection ∧
        r.unitKind = 11 ∧ r.op = 1) ∧
    -- SELF_TEST_END.
    ((tileOf s p).st = .testing →
      (∃ u, exec (.selfTestEnd p true) s = .next u ∧ OnlyTile s u p ∧ (tileOf u p).testBusy = false ∧
        (tileOf u p).lastPass = true ∧ (tileOf u p).testRuns = satAdd 0xFFFF (tileOf s p).testRuns 1 ∧
        (tileOf u p).testFails = satAdd 0xFFFF (tileOf s p).testFails 0 ∧
        (tileOf u p).st = if (tileOf s p).role = .spare then .spareIdle else .ready) ∧
      ∃ u, exec (.selfTestEnd p false) s = .next u ∧ (∀ q, q ≠ p → tileOf u q = tileOf s q) ∧ u.mem = s.mem ∧
        (tileOf u p).st = .retired ∧ (tileOf u p).role = .retired ∧ (tileOf u p).lastPass = false ∧
        (tileOf u p).testRuns = satAdd 0xFFFF (tileOf s p).testRuns 1 ∧
        (tileOf u p).testFails = satAdd 0xFFFF (tileOf s p).testFails 1) ∧
    -- FIRST_NAN_TRAP: the first record of the context is stamped; a later one changes nothing there, but that of two with the same stamp the
    -- lower tile's stands.
    (∀ r, (tileOf s p).nan = some r → r.sent = false → (tileOf s p).placed = true →
      ∃ u, exec (.firstNanTrap p) s = .next u ∧ { u with tiles := s.tiles, ctxs := s.ctxs, host := s.host } = s ∧
        (∀ q, q ≠ p → tileOf u q = tileOf s q) ∧ tileOf u p = { tileOf s p with nan := some { r with sent := true } } ∧
        ((ctxOf s (tileOf s p).context).nan = none →
          ∃ z, (ctxOf u (tileOf s p).context).nan = some z ∧ z.stamp = s.time ∧ z.seq = r.seq ∧ z.tile = p ∧
            z.stroke = r.stroke) ∧
        (∀ o, (ctxOf s (tileOf s p).context).nan = some o → u.host = s.host ∧
          (o.stamp = s.time → p < o.tile → ∃ z, (ctxOf u (tileOf s p).context).nan = some z ∧ z.stamp = s.time ∧ z.seq = r.seq ∧
            z.tile = p ∧ z.stroke = r.stroke ∧ z.trapped = o.trapped) ∧
          ((o.stamp = s.time ∧ p < o.tile) ∨ u.ctxs = s.ctxs)))

/-- R27, R28, R36, R53, R131, R134 to R137, R142: the fabric between the stations. -/
def Obligations.FabricCompletes : Prop :=
  ∀ s : State,
    -- ISLAND_TRANSFER_ACK.
    (∀ b, (mapGet s.boundaries b ⟨false, 0⟩).outstanding = true →
      ∃ u, exec (.islandTransferAck b) s = .next u ∧ { u with boundaries := s.boundaries, streams := s.streams } = s ∧
        (mapGet u.boundaries b ⟨false, 0⟩).done = (mapGet s.boundaries b ⟨false, 0⟩).done + 1 ∧
        ((∀ q ∈ s.streams, q.2.queue = [] ∨ q.2.consTile.map tileBoundary ≠ some b) →
          (mapGet u.boundaries b ⟨false, 0⟩).outstanding = false ∧ u.streams = s.streams) ∧
        ∀ c, c ≠ b → mapGet u.boundaries c ⟨false, 0⟩ = mapGet s.boundaries c ⟨false, 0⟩) ∧
    -- ARBITER_GRANT: a port of the highest effective priority is granted, the first at or after the pointer, and the
    -- pointer moves past it; the others wait. At a station's ingress the station takes the oldest sheet of the stream granted.
    (∀ res ports reqs g,
      arbChoice (isBank res) (registered s res reqs) (mapGet s.arbiters res ⟨[], 0, none⟩).pointer = some g →
      ∃ u, exec (.arbiterGrant res ports reqs) s = .next u ∧
        (ingressOf res = none → portOfArbiter res = none →
          { u with arbiters := s.arbiters, ctxs := s.ctxs, tiles := s.tiles } = s ∧
          (isBank res = false → u.tiles = s.tiles) ∧ (g.escalated = false → u.ctxs = s.ctxs)) ∧
        (mapGet u.arbiters res ⟨[], 0, none⟩).granted = some g.port ∧
        (mapGet u.arbiters res ⟨[], 0, none⟩).pointer = (g.port + 1) % max 1 ports ∧
        (∀ r ∈ registered s res reqs, effPriority (isBank res) r.2 ≤ effPriority (isBank res) g) ∧
        (∀ c, c ≠ res → mapGet u.arbiters c ⟨[], 0, none⟩ = mapGet s.arbiters c ⟨[], 0, none⟩) ∧
        (∀ stn x, ingressOf res = some stn → streamOf s g.port = some x →
          ∃ y, streamOf u g.port = some y ∧ y.arrived = x.arrived.drop 1)) ∧
    -- ESCALATION: 64 passes stand a request at effective priority 8.
    (∀ res port r, mapFind (mapGet s.arbiters res ⟨[], 0, none⟩).waiting port = some r → 64 ≤ r.passes →
      ∃ u, exec (.escalation res port) s = .next u ∧ { u with arbiters := s.arbiters } = s ∧
        ∃ z, mapFind (mapGet u.arbiters res ⟨[], 0, none⟩).waiting port = some z ∧ z.escalated = true ∧
          effPriority false z = 8 ∧ { z with escalated := r.escalated } = r) ∧
    -- RESEND and CREDIT_RETURN.
    (∀ n x, streamOf s n = some x → x.resendAsked = true →
      ∃ u, exec (.resend n) s = .next u ∧ { u with streams := s.streams } = s ∧
        streamOf u n = some { x with resendAsked := false, resent := true, resends := satAdd (ones 32) x.resends 1 } ∧
        ∀ m, m ≠ n → streamOf u m = streamOf s m) ∧
    (∀ n x, streamOf s n = some x → 0 < x.returning → x.cons ≠ stnHatch → x.prod < 0xE0 → x.queue = [] →
      ∃ u, exec (.creditReturn n) s = .next u ∧ { u with streams := s.streams } = s ∧
        streamOf u n = some { x with returning := x.returning - 1, credits := x.credits + 1 } ∧
        ∀ m, m ≠ n → streamOf u m = streamOf s m)

/-- R135 to R137: SHEET_INGRESS. A sheet whose CHECK fails once is asked for again and not accepted; one that fails twice is
accepted as a substitute with POISON and SUBST; one that passes is accepted as it came. -/
def Obligations.SheetIngressCompletes : Prop :=
  ∀ (s : State) (n : Nat) (x : Stream) (sh : Sheet) (rest : List Sheet) (err : WireError) (far : Option (Nat × Bytes)),
    streamOf s n = some x → x.prod ≠ stnHatch → x.inflight = sh :: rest → x.resendAsked = false →
    ((arrivalOf (wireBytes err (sheetSlot sh))).ok = false → x.resent = false →
      ∀ cf, ∃ u, exec (.sheetIngress n err cf far) s = .next u ∧
        streamOf u n = some { x with resendAsked := true } ∧ (∀ m, m ≠ n → streamOf u m = streamOf s m) ∧
        { u with streams := s.streams, integ := s.integ, host := s.host, easel := s.easel, freeCtr := s.freeCtr } = s ∧
        ∃ r rs, u.integ.recs = r :: rs ∧ r.cls = .detected) ∧
    (∀ p b, x.consTile = some p → mapFind (tileOf s p).buffers x.consBuf = some b →
      ((arrivalOf (wireBytes err (sheetSlot sh))).ok = true →
        ingressOk s n x (arrivalOf (wireBytes err (sheetSlot sh))).sheet = true → ∀ cf, (cf = true → x.cons < 0xE0) →
        ∃ u y, exec (.sheetIngress n err cf far) s = .next u ∧ streamOf u n = some y ∧
          y.accepted = satAdd (ones 64) x.accepted 1 ∧ y.nextAccept = x.nextAccept + 1 ∧ y.substitutes = satAdd (ones 32) x.substitutes 0 ∧
          slotOf (tileOf u p) (x.consBuf, x.accepted % max 1 b.slots) =
            some ⟨.present, true, (arrivalOf (wireBytes err (sheetSlot sh))).sheet⟩ ∧ u.mem = s.mem) ∧
      ((arrivalOf (wireBytes err (sheetSlot sh))).ok = false → x.resent = true →
        ∀ cf, ∃ u y, exec (.sheetIngress n err cf far) s = .next u ∧ streamOf u n = some y ∧
          y.accepted = satAdd (ones 64) x.accepted 1 ∧ y.nextAccept = x.nextAccept + 1 ∧ y.substitutes = satAdd (ones 32) x.substitutes 1 ∧
          slotOf (tileOf u p) (x.consBuf, x.accepted % max 1 b.slots) = some ⟨.present, true, substitute n x⟩ ∧
          (substitute n x).flags = flagPoison ||| flagSubst ∧ (∃ r rs, u.integ.recs = r :: rs ∧ r.cls = .detected) ∧
          u.mem = s.mem))

/-- R147 to R149, R203, R233, R250, R284, R318, R339, R439, R467, R501, R520: a write of a selector register takes the bits
of its field, latches the instruments it selects as they stand, and changes nothing else. An INT_CE_SEL or PWR_TEMP_SEL
whose number does not exist keeps the old one and leaves a USAGE record. -/
def Obligations.SelectorsLatch : Prop :=
  ∀ (s : State) (v : BitVec 64),
    (∃ u, exec (.glbSmonSel v) s = .next u ∧ { u with mon.smonSel := s.mon.smonSel, mon.smon := s.mon.smon } = s ∧
      readReg u 0x100 = v &&& 0xFFFF ∧ u.mon.smon = snapStream s (v &&& 0xFFFF).toNat) ∧
    (∃ u, exec (.glbHmonSel v) s = .next u ∧ { u with mon.hmonSel := s.mon.hmonSel, mon.hmon := s.mon.hmon } = s ∧
      readReg u 0x140 = v &&& 0xFFF ∧
      u.mon.hmon = snapStation s ((v &&& 0xFFF).toNat / 256) ((v &&& 0xFFF).toNat % 256)) ∧
    (∃ u, exec (.tierMonSel v) s = .next u ∧ { u with mon.tierSel := s.mon.tierSel, mon.tier := s.mon.tier } = s ∧
      readReg u 0x300020 = v &&& 0xF ∧ u.mon.tier = snapTier s (v &&& 0xF).toNat) ∧
    (∃ u, exec (.tblSel v) s = .next u ∧ { u with mon.tblSel := s.mon.tblSel, mon.tbl := s.mon.tbl } = s ∧
      readReg u 0x400000 = v &&& 0xFF ∧ u.mon.tbl = snapTable s (v &&& 0xFF).toNat) ∧
    (∃ u, exec (.glbCtxSel v) s = .next u ∧ { u with mon.ctxSel := s.mon.ctxSel, mon.ctx := s.mon.ctx } = s ∧
      readReg u 0x200 = v &&& 0xF ∧ u.mon.ctx = snapCtx s (v &&& 0xF).toNat) ∧
    (∃ u, exec (.glbMcSel v) s = .next u ∧ { u with mon.mcSel := s.mon.mcSel, mon.mc := s.mon.mc } = s ∧
      readReg u 0x240 = v &&& 0x3F ∧ u.mon.mc = snapCache s (v &&& 0x3F).toNat) ∧
    (∃ u, exec (.rtvIdxSel v) s = .next u ∧ { u with mon.idxSel := s.mon.idxSel, mon.idx := s.mon.idx } = s ∧
      readReg u 0x500010 = v &&& 0x3F ∧ u.mon.idx = snapIndex s (v &&& 0x3F).toNat) ∧
    (∃ u, exec (.ltrVocSel v) s = .next u ∧ { u with mon.vocSel := s.mon.vocSel, mon.voc := s.mon.voc } = s ∧
      readReg u 0x600008 = v &&& 0x7 ∧ u.mon.voc = snapVocab s (v &&& 0x7).toNat) ∧
    (∃ u, exec (.ltrMonSel v) s = .next u ∧ { u with mon.ltrSel := s.mon.ltrSel, mon.ltr := s.mon.ltr } = s ∧
      readReg u 0x600020 = v &&& 0xF ∧ u.mon.ltr = snapLetter s (v &&& 0xF).toNat) ∧
    (∃ u, exec (.decMonSel v) s = .next u ∧ { u with mon.decSel := s.mon.decSel, mon.dec := s.mon.dec } = s ∧
      readReg u 0x700008 = v &&& 0xF ∧ u.mon.dec = snapDecode s (v &&& 0xF).toNat) ∧
    (∃ u, exec (.hlkMonSel v) s = .next u ∧ { u with mon.hlkSel := s.mon.hlkSel, mon.hlk := s.mon.hlk } = s ∧
      readReg u 0x800080 = v &&& 0x7 ∧ u.mon.hlk = snapPort s (v &&& 0x7).toNat) ∧
    (∃ u, exec (.calMonSel v) s = .next u ∧ { u with mon.calSel := s.mon.calSel, mon.cal := s.mon.cal } = s ∧
      readReg u 0x900020 = v &&& 0xFFF ∧ u.mon.cal = snapCal s ((v &&& 0xFFF).getLsbD 11) (bitsAt (v &&& 0xFFF).toNat 0 11)) ∧
    (∃ u, exec (.calLogSel v) s = .next u ∧ { u with mon.logSel := s.mon.logSel, mon.log := s.mon.log } = s ∧
      readReg u 0x900038 = v &&& 0x3FF ∧ u.mon.log = snapCalLog s (v &&& 0x3FF).toNat) ∧
    (bitsAt v.toNat 0 10 < 573 →
      ∃ u, exec (.intCeSel v) s = .next u ∧ { u with mon.ceSel := s.mon.ceSel, mon.ce := s.mon.ce } = s ∧
        (readReg u 0x200018).toNat = bitsAt v.toNat 0 10 + 65536 * bitsAt v.toNat 16 6 ∧
        u.mon.ce = snapCe s (bitsAt v.toNat 0 10) (bitsAt v.toNat 16 6)) ∧
    (573 ≤ bitsAt v.toNat 0 10 →
      ∃ u, exec (.intCeSel v) s = .next u ∧ SameButReports { s with mon := u.mon } u ∧
        bitsAt u.mon.ceSel.toNat 0 10 = bitsAt s.mon.ceSel.toNat 0 10 ∧
        ∃ r rs, u.integ.recs = r :: rs ∧ r.cls = .usage ∧ r.unitKind = 11) ∧
    (bitsAt v.toNat 0 5 < 24 →
      ∃ u, exec (.pwrTempSel v) s = .next u ∧ { u with mon.tempSel := s.mon.tempSel, mon.temp := s.mon.temp } = s ∧
        (readReg u 0xA00028).toNat = bitsAt v.toNat 0 5 ∧ u.mon.temp = snapTemp s (bitsAt v.toNat 0 5)) ∧
    (24 ≤ bitsAt v.toNat 0 5 →
      ∃ u, exec (.pwrTempSel v) s = .next u ∧ SameButReports { s with mon := u.mon } u ∧ u.mon.tempSel = s.mon.tempSel ∧
        ∃ r rs, u.integ.recs = r :: rs ∧ r.cls = .usage ∧ r.unitKind = 11) ∧
    -- A latched instrument does not follow what it shows.
    (∀ x : Stream, streamOf s (v &&& 0xFFFF).toNat = some x →
      ∃ u, exec (.glbSmonSel v) s = .next u ∧
        (x.credits < 65536 → x.present < 65536 → x.slots < 65536 →
          (readReg u 0x110).toNat = x.present + 65536 * x.credits + 2 ^ 32 * x.slots) ∧
        (readReg u 0x118).toNat = x.nextAccept.toNat + 2 ^ 32 * x.nextSend.toNat ∧
        (x.accepted < 2 ^ 64 → (readReg u 0x120).toNat = x.accepted) ∧
        ∀ (w : State) (m : Nat) (f : Stream → Stream), w = updStream u m f → ∀ k ≤ 5, readReg w (0x108 + 8 * k) = readReg u (0x108 + 8 * k))

/-- R455, R458, R467: CLEAR, GO, ABORT and SCRUB_PASS_END. -/
def Obligations.ScrubAndSourcesComplete : Prop :=
  ∀ s : State,
    (mapWf s.integ.ce = true → bitsAt s.mon.ceSel.toNat 0 10 < 573 →
      ∃ u, exec .clear s = .next u ∧ { u with integ.ce := s.integ.ce } = s ∧
        ceOf u (bitsAt s.mon.ceSel.toNat 0 10) = ⟨0, 0, 0, 0, []⟩ ∧
        ∀ n, n ≠ bitsAt s.mon.ceSel.toNat 0 10 → ceOf u n = ceOf s n) ∧
    (∀ space, s.integ.scrub.busy = false →
      scrubRangeOk space s.integ.scrub.first.toNat s.integ.scrub.count.toNat = true →
      ∃ u, exec (.go space) s = .next u ∧ { u with integ.scrub := s.integ.scrub } = s ∧ u.integ.scrub.busy = true ∧
        u.integ.scrub.space = space ∧ u.integ.scrub.runSpace = space ∧ u.integ.scrub.runFirst = s.integ.scrub.first.toNat ∧
        u.integ.scrub.runCount = s.integ.scrub.count.toNat ∧ readReg u 0x200060 = 0 ∧ readReg u 0x200068 = 0 ∧
        (readReg u 0x200050).toNat = 1 + 2 * b2n space) ∧
    (∀ space, (s.integ.scrub.busy = true ∨
        scrubRangeOk space s.integ.scrub.first.toNat s.integ.scrub.count.toNat = false) →
      ∃ u, exec (.go space) s = .next u ∧ SameButReports s u ∧
        u.integ.scrub = { s.integ.scrub with space := space } ∧
        ∃ r rs, u.integ.recs = r :: rs ∧ r.cls = .usage ∧ r.unitKind = 11) ∧
    (s.integ.scrub.busy = true →
      ∃ u, exec .abort s = .next u ∧ { u with integ.scrub := s.integ.scrub } = s ∧ u.integ.scrub.aborting = true ∧
        u.integ.scrub.busy = true) ∧
    (∀ cw, s.integ.scrub.busy = true → s.integ.scrub.runSpace = true →
      cw.length ≤ s.integ.scrub.runCount * 4096 → cw.length < 2 ^ 32 → (∀ c ∈ cw, c.1 < 15) →
      ∃ u, exec (.scrubPassEnd cw) s = .next u ∧ { u with integ.scrub := s.integ.scrub } = s ∧ u.integ.scrub.busy = false ∧
        (u.integ.scrub.sum0.toNat =
          2 ^ 32 * cw.length + (cw.filter fun c => decide (ewThreshold s 2 true ≤ c.1)).length) ∧
        bitsAt u.integ.scrub.sum1.toNat 32 32 = ones 32 ∧ bitsAt u.integ.scrub.sum1.toNat 8 24 = 0 ∧
        bitsAt u.integ.scrub.sum1.toNat 2 2 = if s.integ.scrub.aborting then 2 else 1)

/-- R14, R394 to R398: LOCK, CS_REGION_WRITE and MAILBOX_GO: RWB fields take a write from boot code before the lock alone.
That such a write leaves no record, and that an overlap is ignored whoever writes it, are the model's reading (log entries 80, 118). -/
def Obligations.ProtectionWritesComplete : Prop :=
  ∀ (s : State) (v : BitVec 64),
    (s.stylus.lock = false → s.stylus.bootMode = true →
      ∃ u, exec (.lock .bootCode) s = .next u ∧ { u with stylus.lock := false } = s ∧ u.stylus.lock = true) ∧
    (∀ w, s.stylus.lock = true →
      ∃ u, exec (.lock w) s = .next u ∧ SameButReports s u ∧ ∃ r rs, u.integ.recs = r :: rs ∧ r.cls = .protection) ∧
    (∀ w, s.stylus.lock = false → (w ≠ .bootCode ∨ s.stylus.bootMode = false) →
      exec (.lock w) s = .next s ∧
      (regionClash s (v &&& 0xFE00_0000_001F_FFFF) = false → exec (.csRegionWrite w v) s = .next s)) ∧
    (s.stylus.lock = false → s.stylus.bootMode = true → regionClash s (v &&& 0xFE00_0000_001F_FFFF) = false →
      ∃ u, exec (.csRegionWrite .bootCode v) s = .next u ∧ { u with stylus.regions := s.stylus.regions } = s ∧
        readReg u 0x100028 = v &&& 0xFE00_0000_001F_FFFF ∧
        ∀ n, n ≠ s.stylus.csSel.toNat → mapGet u.stylus.regions n 0 = mapGet s.stylus.regions n 0) ∧
    (∀ w, regionClash s (v &&& 0xFE00_0000_001F_FFFF) = true →
      ∃ u, exec (.csRegionWrite w v) s = .next u ∧ SameButReports s u ∧
        ∃ r rs, u.integ.recs = r :: rs ∧ r.cls = .protection) ∧
    (∀ w, s.stylus.lock = true →
      ∃ u, exec (.csRegionWrite w v) s = .next u ∧ SameButReports s u ∧ ∃ r rs, u.integ.recs = r :: rs ∧ r.cls = .protection) ∧
    (∃ u, exec (.mailboxGo .host) s = .next u ∧ SameButReports s u ∧ ∃ r rs, u.integ.recs = r :: rs ∧ r.cls = .protection) ∧
    (∀ w, w ≠ .host → s.stylus.mbxBusy.isSome →
      ∃ u, exec (.mailboxGo w) s = .next u ∧ SameButReports s u ∧ ∃ r rs, u.integ.recs = r :: rs ∧ r.cls = .usage) ∧
    (s.stylus.mbxBusy = none →
      let raw := (List.range 4).flatMap fun i => leBytes 8 (mapGet s.stylus.mbxDesc i 0).toNat
      ∃ u, exec (.mailboxGo .easel) s = .next u ∧ u = submitRaw s .mailbox raw 0 ∧ u.stylus.nextId = s.stylus.nextId + 1 ∧
        u.mem = s.mem ∧ u.stylus.lock = s.stylus.lock ∧ u.stylus.regions = s.stylus.regions ∧ u.stylus.wp = s.stylus.wp)

/-- R10 to R14, R77, R78, R390, R397, R398, R467, R500, R501, R520, R557: REGISTER_WRITE. -/
def Obligations.RegisterWritesComplete : Prop :=
  ∀ (s : State) (w : Writer) (v : BitVec 64),
    -- An access that is not an aligned 8-byte access has no effect, and reserved space ignores every write.
    (∀ off size, (size ≠ 8 ∨ off % 8 ≠ 0 ∨ 0x188_0000 ≤ off) → exec (.registerWrite w off size v) s = .next s) ∧
    -- A selector written as a register is the selector's own command.
    exec (.registerWrite w 0x100 8 v) s = exec (.glbSmonSel v) s ∧
    exec (.registerWrite w 0x200018 8 v) s = exec (.intCeSel v) s ∧
    exec (.registerWrite w 0xA00028 8 v) s = exec (.pwrTempSel v) s ∧
    exec (.registerWrite w 0x100028 8 v) s = exec (.csRegionWrite w v) s ∧
    -- The commands of a tile's window.
    (∀ p, p < Config.tiles → exec (.registerWrite w (tileReg p 0x20) 8 2) s = exec (.cntClr p) s ∧
      exec (.registerWrite w (tileReg p 0x20) 8 1) s = exec (.test p) s) ∧
    (∀ p, p < Config.tiles →
      ∃ u, exec (.registerWrite w (tileReg p 0x28) 8 v) s = .next u ∧ OnlyTile s u p ∧
        tileOf u p = { tileOf s p with faults := (tileOf s p).faults &&& ~~~ (v.setWidth 7) }) ∧
    -- TELEM_MS, INT_PATROL and LIMIT_W take a value in range; one out of range leaves the field, with a USAGE record.
    (10 ≤ bitsAt v.toNat 0 16 → bitsAt v.toNat 0 16 ≤ 60000 →
      ∃ u, exec (.registerWrite w 0x508 8 v) s = .next u ∧ { u with easel.telemMs := s.easel.telemMs } = s ∧
        u.easel.telemMs.toNat = bitsAt v.toNat 0 16) ∧
    ((bitsAt v.toNat 0 16 < 10 ∨ 60000 < bitsAt v.toNat 0 16) →
      ∃ u, exec (.registerWrite w 0x508 8 v) s = .next u ∧ SameButReports s u ∧ u.easel.telemMs = s.easel.telemMs ∧
        ∃ r rs, u.integ.recs = r :: rs ∧ r.cls = .usage) ∧
    (∃ u, exec (.registerWrite w 0x200040 8 v) s = .next u ∧ { u with integ.patrol := s.integ.patrol } = s ∧
      readReg u 0x200040 = v) ∧
    (300 ≤ bitsAt v.toNat 0 16 → bitsAt v.toNat 0 16 ≤ 900 →
      ∃ u, exec (.registerWrite w 0xA00008 8 v) s = .next u ∧ { u with power.limitW := s.power.limitW } = s ∧
        u.power.limitW = bitsAt v.toNat 0 16) ∧
    -- PRT_WP_BITS after the lock is ignored with a PROTECTION record; the mailbox registers are boot code's and Easel's.
    (s.stylus.lock = true → s.stylus.wpSel.toNat < 14306 →
      ∃ u, exec (.registerWrite w 0x100018 8 v) s = .next u ∧ SameButReports s u ∧
        ∃ r rs, u.integ.recs = r :: rs ∧ r.cls = .protection) ∧
    (∀ k < 4, ∃ u, exec (.registerWrite .host (0x100040 + 8 * k) 8 v) s = .next u ∧ SameButReports s u ∧
      ∃ r rs, u.integ.recs = r :: rs ∧ r.cls = .protection) ∧
    (∀ k < 4, ∃ u, exec (.registerWrite .easel (0x100040 + 8 * k) 8 v) s = .next u ∧
      { u with stylus.mbxDesc := s.stylus.mbxDesc } = s ∧ readReg u (0x100040 + 8 * k) = v)

/-- R383 to R388, R391, R393, R395, R398: READ, PROGRAM, ERASE, PROBE, CAL_READ, CS_READ, CS_PROGRAM, CS_ERASE, CS_FETCH,
RB_READ, RB_ADVANCE and BAD_DESCRIPTOR. -/
def Obligations.DescriptorsAreTakenOrRefused : Prop :=
  ∀ (s : State) (r : Routine) (c : Caller) (d : Desc) (prio : Nat), callerNow s c = c →
    (isMailbox c = true → s.stylus.mbxBusy = none) → s.stylus.mbxBusy ≠ some s.stylus.nextId →
    -- In range, from a caller that may, to a target that allows it: it joins its die's operations.
    (descFieldsOk r d = true → callerOk r c = true → accessRefusal s r c d = none → mapWf s.stylus.dies = true →
      ∃ u o, exec (descriptorOf r c d prio) s = .next u ∧
        { u with stylus.dies := s.stylus.dies, stylus.nextId := s.stylus.nextId, stylus.mbxBusy := s.stylus.mbxBusy } = s ∧
        o.id = s.stylus.nextId ∧ o.routine = r ∧ o.caller = c ∧ o.desc = d ∧ u.stylus.nextId = s.stylus.nextId + 1 ∧
        u.stylus.mbxBusy = (if isMailbox c then some o.id else s.stylus.mbxBusy) ∧
        dieOf u (dieKey r d) = nextOnDie { dieOf s (dieKey r d) with waiting := (dieOf s (dieKey r d)).waiting ++ [o] } ∧
        (dieOf s (dieKey r d) = ⟨none, none, []⟩ → dieOf u (dieKey r d) = ⟨some o, none, []⟩) ∧
        ∀ k, k ≠ dieKey r d → dieOf u k = dieOf s k) ∧
    -- A field out of range: BAD_DESCRIPTOR, and nothing runs.
    (descFieldsOk r d = false →
      ∃ u x, exec (descriptorOf r c d prio) s = .next u ∧ u.stylus.cpls = x :: s.stylus.cpls ∧ x.status = 5 ∧
        x.tag = d.tag ∧ x.id = s.stylus.nextId ∧
        { u with stylus := s.stylus } = s ∧ u.stylus.dies = s.stylus.dies ∧ u.stylus.mbxBusy = s.stylus.mbxBusy) ∧
    -- A caller that the table does not allow: PROTECTION with a record, and nothing runs.
    (descFieldsOk r d = true → callerOk r c = false →
      ∃ u x, exec (descriptorOf r c d prio) s = .next u ∧ u.stylus.cpls = x :: s.stylus.cpls ∧ x.status = 4 ∧ x.tag = d.tag ∧
        SameButReports { s with stylus := u.stylus } u ∧ u.stylus.dies = s.stylus.dies ∧
        ∃ z zs, u.integ.recs = z :: zs ∧ z.cls = .protection) ∧
    -- Bytes whose routine code is none: BAD_DESCRIPTOR.
    (∀ raw, Routine.ofCode (descOf raw).1 = none →
      ∃ u x, exec (.badDescriptor c raw) s = .next u ∧ u.stylus.cpls = x :: s.stylus.cpls ∧ x.status = 5 ∧
        x.tag = (descOf raw).2.tag ∧ { u with stylus := s.stylus } = s ∧ u.stylus.dies = s.stylus.dies)

/-- R37, R244, R384, R389, R391 to R393: DESCRIPTOR_COMPLETE: what an operation that has run leaves, by routine, while its die is powered. The
die goes on with its next operation. -/
def Obligations.DescriptorsComplete : Prop :=
  ∀ (s : State) (k : Nat) (x : Die) (o : Op) (obs : FlashObs),
    mapWf s.stylus.dies = true → cellsWf s.mem = true → cellsWf s.stylus.cs = true →
    (s.stylus.dies.find? fun p => (p.2.running.map (·.id)) == some o.id) = some (k, x) → x.running = some o →
    (diePowered s k = false → exec (.descriptorComplete o.id obs) s = .next s) ∧
    (diePowered s k = true →
    (o.routine = .rbRead →
      ∃ u c, exec (.descriptorComplete o.id obs) s = .next u ∧ u.stylus.cpls = c :: s.stylus.cpls ∧ c.status = 0 ∧
        c.tag = o.desc.tag ∧ cellsRead u.mem o.desc.buffer 8 = leBytes 8 (counterOf s o.desc.die) ∧
        (∀ a, (a < o.desc.buffer ∨ o.desc.buffer + 8 ≤ a) → cellRead u.mem a = cellRead s.mem a) ∧
        u.stylus.counters = s.stylus.counters ∧ dieOf u k = nextOnDie { x with running := none }) ∧
    (o.routine = .rbAdvance →
      ∃ u c, exec (.descriptorComplete o.id obs) s = .next u ∧ u.stylus.cpls = c :: s.stylus.cpls ∧
        { u with stylus := s.stylus } = s ∧
        (counterOf s o.desc.die < o.desc.value → c.status = 0 ∧ counterOf u o.desc.die = o.desc.value) ∧
        (o.desc.value ≤ counterOf s o.desc.die → c.status = 4 ∧ counterOf u o.desc.die = counterOf s o.desc.die) ∧
        (∀ n, n ≠ o.desc.die → counterOf u n = counterOf s n) ∧ dieOf u k = nextOnDie { x with running := none }) ∧
    (o.routine = .csProgram → obs.good = true → s.stylus.csUnwritable.contains o.desc.die = false →
      ∃ u c, exec (.descriptorComplete o.id obs) s = .next u ∧ u.stylus.cpls = c :: s.stylus.cpls ∧ c.status = 0 ∧
        { u with stylus := s.stylus, cache := s.cache } = s ∧
        (((mapFind s.stylus.regions 2).map fun r => regionHas r o.desc.die).getD false = false → u.cache = s.cache) ∧
        (((mapFind s.stylus.regions 2).map fun r => regionHas r o.desc.die).getD false = true →
          ∀ e ∈ u.cache, e.2.validated = false) ∧
        cellsRead u.stylus.cs (csBase o.desc.die o.desc.page) 16384 = cellsRead s.mem o.desc.buffer 16384 ∧
        (∀ a, (a < csBase o.desc.die o.desc.page ∨ csBase o.desc.die o.desc.page + 16384 ≤ a) →
          cellRead u.stylus.cs a = cellRead s.stylus.cs a) ∧ u.stylus.counters = s.stylus.counters) ∧
    (o.routine = .calRead →
      ∃ u c, exec (.descriptorComplete o.id obs) s = .next u ∧ u.stylus.cpls = c :: s.stylus.cpls ∧ c.status = 0 ∧
        c.bucket = maxBucket obs.corrected ∧ { u with stylus := s.stylus } = s))

/-- R160, R170 to R175, R244 to R246, R436: IMAGE_STORE, CACHE_PIN, CACHE_UNPIN, IMAGE_LOAD, LOAD_ALLOCATION, LOAD_COMPLETE and
REPLACEMENT_DRAINED. What the other members of a folio answer the head comes from outside the model (log entry 20). -/
def Obligations.ImagesAndLoadsComplete : Prop :=
  ∀ (s : State) (cid c : Nat) (id : BitVec 64), c < 16 →
    -- A stored image is in the cache by its own identifier, not validated; nothing else but the cache changes.
    (∀ record b t, AdminReady s cid → recordOk record 7 0 = true → zeroAt record 32 96 = true →
      u8 record 1 = ownNsid s → userRead s (u64 record 8) (u64 record 16) = some (b, false) →
      storeImage (taken s) b = .inr t →
      ∃ u, exec (.imageStore cid record) s = .next u ∧ Succeeds t u cid ∧
        { t with cache := s.cache, cacheOrder := s.cacheOrder } = taken s ∧
        ∃ k e, mapFind u.cache k = some e ∧ e.imageId = BitVec.ofNat 64 (u64 b 16) ∧ e.bytes = b ∧ e.validated = false) ∧
    -- An image in use is not replaced.
    (∀ record b k e, AdminReady s cid → recordOk record 7 0 = true → zeroAt record 32 96 = true →
      u8 record 1 = ownNsid s → userRead s (u64 record 8) (u64 record 16) = some (b, false) →
      cacheFind s (BitVec.ofNat 64 (u64 b 16)) = some (k, e) → cacheInUse s k e = true →
      ∃ u, exec (.imageStore cid record) s = .next u ∧ EndsFormat s u cid) ∧
    (∀ k e, AdminReady s cid → cacheFind s id = some (k, e) →
      (∃ u, exec (.cachePin cid id) s = .next u ∧ Succeeds { s with cache := mapPut s.cache k { e with pinned := true } } u cid) ∧
      ∃ u, exec (.cacheUnpin cid id) s = .next u ∧
        Succeeds { s with cache := mapPut s.cache k { e with pinned := false } } u cid) ∧
    (AdminReady s cid → cacheFind s id = none →
      (∃ u, exec (.cachePin cid id) s = .next u ∧ EndsFormat s u cid) ∧ ∃ u, exec (.cacheUnpin cid id) s = .next u ∧ EndsFormat s u cid) ∧
    -- An image for another member's namespace goes to that member, which stores or refuses it.
    (∀ record, AdminReady s cid → recordOk record 7 0 = true → zeroAt record 32 96 = true → u8 record 1 ≠ ownNsid s →
      inFolio s = true → 1 ≤ u8 record 1 → u8 record 1 ≤ folioSize s → inService s (u8 record 1 - 1) = true →
      (MembersAgree s → ∃ u, exec (.imageStore cid record) s = .next u ∧ Succeeds (askMembers Config.farRefuses (taken s) record).2 u cid) ∧
      (othersServing s = true → ∃ u, exec (.imageStore cid record) s = .next u ∧ RefusedByMembers (taken s) u cid record)) ∧
    -- A load whose checks pass waits for the allocation lock, or first for the drain of the image it replaces.
    (∀ k e, AdminReady s cid → MembersAgree s → cacheFind s id = some (k, e) → validate (taken s) c e.bytes e.validated = none →
      (ctxOf s c).load = none → ((ctxOf s c).st = .configured ∨ (ctxOf s c).st = .loaded ∨ (ctxOf s c).st = .running) →
      ∃ u l, exec (.imageLoad cid c id) s = .next u ∧ (ctxOf u c).load = some l ∧ l.cid = some cid ∧ l.imageId = id ∧
        l.image = imageOf e.bytes ∧ l.phase = (if (ctxOf s c).st = .configured then .allocating else .draining) ∧
        (ctxOf u c).st = (if (ctxOf s c).st = .configured then .configured else .replacing) ∧
        (∀ d, d ≠ c → ctxOf u d = ctxOf s d) ∧ u.host.posted = s.host.posted ∧ u.mem = s.mem ∧ u.tiles = s.tiles ∧
        ∃ e', mapFind u.cache k = some e' ∧ e'.validated = true ∧ e'.bytes = e.bytes) ∧
    -- When another member refuses a load that passes here, it is released on all, with the load report of that member.
    (∀ k e, AdminReady s cid → othersServing s = true → cacheFind s id = some (k, e) → validate (taken s) c e.bytes e.validated = none →
      (ctxOf s c).load = none → ((ctxOf s c).st = .configured ∨ (ctxOf s c).st = .loaded ∨ (ctxOf s c).st = .running) →
      ∃ u, exec (.imageLoad cid c id) s = .next u ∧ (Config.farRefuses s.freeCtr = true → Posts u cid 7 0x81 ∧
        ∃ r, r.imageId = id ∧ ctxOf u c = { ctxOf s c with report := some r }) ∧ (∀ d, d ≠ c → ctxOf u d = ctxOf s d) ∧ u.mem = s.mem ∧ u.tiles = s.tiles) ∧
    -- Allocation gives the load its tiles, in the order of the image's placements; they are LOADING.
    (∀ l ps k pages s', (ctxOf s c).load = some l → l.phase = .allocating → lockTurn s c l = true → ps.Nodup →
      (((l.image.placements.zipIdx).filter fun p => placementFits s (ctxOf s c) l p.1).find? fun p =>
        canWakeAll s (placementDomains l.image p.1)) = some (ps, k) →
      overShare s c l.image = false → allotRegions s c l.image = some (pages, s') →
      ∃ u m, exec (.loadAllocation c) s = .next u ∧ (ctxOf u c).load = some m ∧ m.phase = .writing ∧ m.placement = k ∧
        m.tileMap = ps ∧ m.regionPages = pages ∧
        (∀ p ∈ ps, (tileOf u p).st = .loading ∧ (tileOf u p).placed = true ∧ (tileOf u p).context = c) ∧
        (∀ d ∈ placementDomains l.image ps, d < 20 → domainOn u d = true)) ∧
    -- A load that ends without a fault leaves its image on the context.
    (∀ l, (ctxOf s c).load = some l → l.phase = .writing → (l.tileMap.all fun p => (tileOf s p).st != .fault) = true →
      (ctxOf s c).loadQueue = [] → (ctxOf s c).pendingStart = [] → l.image.autostart = false →
      ∃ u d, exec (.loadComplete c [] false) s = .next u ∧ (ctxOf u c).st = .loaded ∧ (ctxOf u c).load = none ∧
        (ctxOf u c).loaded = some d ∧ d.image = l.image ∧ d.tileMap = l.tileMap ∧ d.placement = l.placement ∧
        ∃ r, (ctxOf u c).report = some r ∧ r.imageId = l.image.imageId ∧ r.reason = 0 ∧ r.stamp = s.time) ∧
    -- The image that a load replaces leaves when nothing admitted, no batch, no move and no re-stencil is left and no stroke executes; tiles on
    -- which one does stop issuing first.
    (∀ l, (ctxOf s c).load = some l → l.phase = .draining → stillDrains s c = false →
      ((∀ p ∈ placedTiles s c, (tileOf s p).exec = []) →
        ∃ u m, exec (.replacementDrained c) s = .next u ∧ (ctxOf u c).load = some m ∧ m.phase = .allocating ∧
          (ctxOf u c).loaded = none ∧ (∀ y ∈ u.copies, y.ctx ≠ c) ∧ (∀ y ∈ u.streams, y.2.ctx ≠ c) ∧ KeptButMap s u c) ∧
      (∀ p ∈ placedTiles s c, (tileOf s p).st = .running → (tileOf s p).exec ≠ [] →
        ∃ u, exec (.replacementDrained c) s = .next u ∧ (tileOf u p).st = .quiescing ∧ u.ctxs = s.ctxs ∧ u.streams = s.streams ∧
          u.mem = s.mem))

/-- R116, R234 to R240, R248, R411, R436: CTX_CONFIGURE, CTX_RELEASE, CTX_START, CTX_STOP, CTX_UNLOAD and NAN_CLEAR. In a folio the
first five are applied on every member in service, and a refusal on any refuses them on all. What the members answer comes from outside the
model (log entry 20). -/
def Obligations.ContextCommandsComplete : Prop :=
  ∀ (s : State) (cid c : Nat), c < 16 → AdminReady s cid →
    (∀ record t, MembersAgree s → configureCtx (askMembers Config.farRefuses (taken s) record).2 record = some t →
      ∃ u, exec (.ctxConfigure cid record) s = .next u ∧ Succeeds t u cid ∧
        { u with ctxs := s.ctxs, host := s.host, easel := s.easel, freeCtr := s.freeCtr } = s ∧
        (ctxOf u (u8 record 0)).st = .configured ∧ (ctxOf u (u8 record 0)).tileLimit = u16 record 2 ∧
        (ctxOf u (u8 record 0)).seqLimit = u16 record 4 ∧ (ctxOf u (u8 record 0)).halves = u8 record 1 ∧
        (ctxOf u (u8 record 0)).fastPages = u32 record 8) ∧
    (∀ record, configureCtx (taken s) record = none →
      ∃ u, exec (.ctxConfigure cid record) s = .next u ∧ EndsFormat s u cid) ∧
    (MembersAgree s → (ctxOf s c).st = .configured → (ctxOf s c).load = none → (s.host.rings.any fun p => p.2.ctx == c) = false →
      mapWf s.ctxs = true →
      ∃ u, exec (.ctxRelease cid c) s = .next u ∧ Posts u cid 0 0 ∧ ctxOf u c = Ctx.empty ∧ KeptButMap s u c ∧ u.tiles = s.tiles ∧
        (∀ y ∈ u.pages, pageCtx y.2 ≠ some c) ∧ ∀ d, d ≠ c → (ctxOf u d).st = (ctxOf s d).st) ∧
    (MembersAgree s → (ctxOf s c).st = .loaded → (ctxOf s c).load = none →
      ∃ u, exec (.ctxStart cid c) s = .next u ∧ Posts u cid 0 0 ∧ (ctxOf u c).st = .running ∧
        ∀ d, d ≠ c → (ctxOf u d).st = (ctxOf s d).st) ∧
    (∀ l, MembersAgree s → (ctxOf s c).load = some l →
      ∃ u, exec (.ctxStart cid c) s = .next u ∧ u.host.posted = s.host.posted ∧
        ctxOf u c = { ctxOf s c with pendingStart := (ctxOf s c).pendingStart ++ [cid] }) ∧
    (MembersAgree s → (ctxOf s c).st = .running →
      ∃ u, exec (.ctxStop cid c) s = .next u ∧ Posts u cid 0 0 ∧ u.mem = s.mem ∧
        (ctxOf u c).st = (if inFlight s c = 0 then .loaded else .stopping) ∧ ∀ d, d ≠ c → ctxOf u d = ctxOf s d) ∧
    (MembersAgree s → (ctxOf s c).st = .loaded → (ctxOf s c).load = none →
      ∃ u, exec (.ctxUnload cid c) s = .next u ∧ Posts u cid 0 0 ∧ KeptButMap s u c ∧ (ctxOf u c).st = .configured ∧
        (ctxOf u c).loaded = none ∧ (∀ y ∈ u.streams, y.2.ctx ≠ c) ∧ ∀ y ∈ u.copies, y.ctx ≠ c) ∧
    -- An unload that meets a scatter batch waiting for a hot slot waits with it.
    (MembersAgree s → unloadWaits s c = true →
      ∃ u, exec (.ctxUnload cid c) s = .next u ∧ u.host.posted = s.host.posted ∧
        ctxOf u c = { ctxOf s c with pendingUnload := (ctxOf s c).pendingUnload ++ [cid] } ∧ ∀ d, d ≠ c → ctxOf u d = ctxOf s d) ∧
    -- What the head would do, another member may refuse.
    (othersServing s = true →
      (∀ record, (configureCtx (taken s) record).isSome = true →
        ∃ u, exec (.ctxConfigure cid record) s = .next u ∧ RefusedByMembers (taken s) u cid record) ∧
      ((ctxOf s c).st = .configured → (ctxOf s c).load = none → (s.host.rings.any fun p => p.2.ctx == c) = false →
        ∃ u, exec (.ctxRelease cid c) s = .next u ∧ RefusedByMembers (taken s) u cid (ctlFrame c 0)) ∧
      ((ctxOf s c).st = .loaded →
        ∃ u, exec (.ctxStart cid c) s = .next u ∧ RefusedByMembers (taken s) u cid (ctlFrame c 1)) ∧
      ((ctxOf s c).st = .running →
        ∃ u, exec (.ctxStop cid c) s = .next u ∧ RefusedByMembers (taken s) u cid (ctlFrame c 2)) ∧
      ((ctxOf s c).st = .loaded → (ctxOf s c).load = none →
        ∃ u, exec (.ctxUnload cid c) s = .next u ∧ RefusedByMembers (taken s) u cid (ctlFrame c 3))) ∧
    ((ctxOf s c).st ≠ .running →
      ∃ u, exec (.ctxStop cid c) s = .next u ∧ EndsFormat s u cid) ∧
    (∃ u, exec (.nanClear cid c) s = .next u ∧ Succeeds (updCtx s c fun x => { x with nan := none }) u cid)

/-- R205, R216, R254, R257, R285, R411, R413: TABLE_LOAD, INDEX_LOAD, VOCABULARY_LOAD, NORMALISATION_LOAD, GRAMMAR_LOAD and
OBJECT_UNLOAD. -/
def Obligations.ObjectCommandsComplete : Prop :=
  ∀ (s : State) (cid : Nat) (record : Bytes), AdminReady s cid →
    (∀ t, loadTable (taken s) record = .ok t →
      ∃ u, exec (.tableLoad cid record) s = .next u ∧ Succeeds t u cid ∧ u.tiles = s.tiles ∧ u.ctxs = s.ctxs ∧
        u.indexes = s.indexes ∧
        ∃ k x, mapFind u.tables k = some x ∧ x.id = (tableDescOf (slice record 128 192)).tableId ∧
          (x.cur.desc = tableDescOf (slice record 128 192) ∨
            x.pend.map (·.desc) = some (tableDescOf (slice record 128 192)))) ∧
    (∀ st, objectContents (taken s) record 0 192 = .error st →
      ∃ u, exec (.tableLoad cid record) s = .next u ∧ EndsWith s u cid st) ∧
    (∀ t, loadIndex (taken s) record = .ok t →
      ∃ u, exec (.indexLoad cid record) s = .next u ∧ Succeeds t u cid ∧ u.tiles = s.tiles ∧ u.ctxs = s.ctxs ∧
        u.tables = s.tables ∧
        ∃ k x, mapFind u.indexes k = some x ∧ x.id = (indexDescOf (slice record 128 256)).indexId ∧
          (x.cur.desc = indexDescOf (slice record 128 256) ∨ x.pend.map (·.desc) = some (indexDescOf (slice record 128 256)))) ∧
    (∀ st, objectContents (taken s) record 1 256 = .error st →
      ∃ u, exec (.indexLoad cid record) s = .next u ∧ EndsWith s u cid st) ∧
    (∀ t b, objectContents (taken s) record 2 0 = .ok b → loadLexical (taken s) record 2 = .ok t →
      ∃ u, exec (.vocabularyLoad cid record) s = .next u ∧ Succeeds t u cid ∧
        ∃ k v, mapFind u.vocabs k = some v ∧ v.id = BitVec.ofNat 64 (u64 b 0)) ∧
    (∀ t b, objectContents (taken s) record 3 0 = .ok b → loadLexical (taken s) record 3 = .ok t →
      ∃ u, exec (.normalisationLoad cid record) s = .next u ∧ Succeeds t u cid ∧
        ∃ k v, mapFind u.norms k = some v ∧ v.id = BitVec.ofNat 64 (u64 b 0)) ∧
    (∀ t b, objectContents (taken s) record 4 0 = .ok b → loadLexical (taken s) record 4 = .ok t →
      ∃ u, exec (.grammarLoad cid record) s = .next u ∧ Succeeds t u cid ∧
        ∃ k v, mapFind u.grammars k = some v ∧ v.id = BitVec.ofNat 64 (u64 b 0)) ∧
    (∀ st,
      (objectContents (taken s) record 2 0 = .error st →
        ∃ u, exec (.vocabularyLoad cid record) s = .next u ∧ EndsWith s u cid st) ∧
      (objectContents (taken s) record 3 0 = .error st →
        ∃ u, exec (.normalisationLoad cid record) s = .next u ∧ EndsWith s u cid st) ∧
      (objectContents (taken s) record 4 0 = .error st →
        ∃ u, exec (.grammarLoad cid record) s = .next u ∧ EndsWith s u cid st)) ∧
    (∀ kind id t, unloadObject (taken s) kind id = some t →
      ∃ u, exec (.objectUnload cid kind id) s = .next u ∧ Succeeds t u cid ∧ u.mem = s.mem ∧ u.ctxs = s.ctxs ∧
        (∀ y ∈ u.pages, ∀ v, y.2 ≠ .object kind id v) ∧
        (kind = 0 → mapWf s.tables = true → u.tables.length + 1 = s.tables.length) ∧
        (kind = 1 → mapWf s.indexes = true → u.indexes.length + 1 = s.indexes.length)) ∧
    (∀ kind id, imageNames s kind id = true →
      ∃ u, exec (.objectUnload cid kind id) s = .next u ∧ EndsFormat s u cid)

/-- R198, R217, R218, R226 to R230, R257, R263, R264, R380, R403, R411, R415: WINDOW_MAP, WINDOW_UNMAP, DEFERRED_UNMAP,
VERSION_STEP_TABLE, VERSION_STEP_INDEX, VERSION_SWITCH, HOT_GROW, FAIR_COPY, FAIR_COPY_END and MEDIA_THRESHOLDS. -/
def Obligations.WindowAndVersionCommandsComplete : Prop :=
  ∀ (s : State) (cid : Nat) (id : BitVec 64), mapWf s.host.window = true → mapWf s.tables = true → mapWf s.indexes = true →
    -- A member that is not the head takes a step that the head has sent at the present time.
    (∀ k t v, tableOf s id = some (k, t) → t.steps = [] → isHead s = false → t.drain = none → t.pend = some v →
      ∃ u w, exec (.versionSwitch false id) s = .next u ∧ mapFind u.tables k = some w ∧ w.stepN = (t.stepN + 1) % 2 ^ 32 ∧
        ((w.cur = v ∧ w.pend = none ∧ w.since = s.time) ∨ (w.cur = t.cur ∧ w.pend = some v ∧ othersServing s = true)) ∧ u.mem = s.mem) ∧
    (AdminReady s cid →
    (∀ data t, data.length = 16 → winEntryOk data = true → (winEntry data).map = true →
      (s.host.heldUnmaps.any fun h => h.cid == cid) = false → mapEntry cid (taken s) (winEntry data) = some t →
      ∃ u, exec (.windowMap cid data) s = .next u ∧ Succeeds t u cid ∧ u.tiles = s.tiles ∧
        (∀ i < (winEntry data).count, ∃ x, mapFind u.host.window ((winEntry data).first + i) = some x ∧
          x.owner = (winEntry data).ctx ∧ x.hostWrite = (winEntry data).hostWrite) ∧
        ∀ w, (w < (winEntry data).first ∨ (winEntry data).first + (winEntry data).count ≤ w) →
          mapFind u.host.window w = mapFind s.host.window w) ∧
    (∀ data t, data.length = 16 → winEntryOk data = true → (winEntry data).map = false →
      (s.host.heldUnmaps.any fun h => h.cid == cid) = false → mapEntry cid (taken s) (winEntry data) = some t →
      t.host.heldUnmaps = s.host.heldUnmaps →
      ∃ u, exec (.windowUnmap cid data) s = .next u ∧ Succeeds t u cid ∧
        (∀ i < (winEntry data).count, mapFind u.host.window ((winEntry data).first + i) = none) ∧
        (cellsWf s.mem = true →
          (∀ i < (winEntry data).count, cellsRead u.mem (8 * ((winEntry data).first + i)) 8 = zeros 8) ∧
          ∀ a, (a < 8 * (winEntry data).first ∨ 8 * ((winEntry data).first + (winEntry data).count) ≤ a) →
            cellRead u.mem a = cellRead s.mem a)) ∧
    (∀ data, data.length = 16 → (winEntryOk data = false ∨ mapEntry cid (taken s) (winEntry data) = none) →
      (∃ u, exec (.windowMap cid data) s = .next u ∧ EndsFormat s u cid) ∧
      ∃ u, exec (.windowUnmap cid data) s = .next u ∧ EndsFormat s u cid) ∧
    (∀ k h, s.host.heldUnmaps[k]? = some h → (h.reqs.any fun r => (reqOf s r).isSome) = false →
      ∃ u, exec (.deferredUnmap k) s = .next u ∧ u.host.heldUnmaps = listDrop s.host.heldUnmaps k ∧
        (cellsWf s.mem = true → ∀ a, (∀ w ∈ h.pages, a < 8 * w ∨ 8 * w + 8 ≤ a) → cellRead u.mem a = cellRead s.mem a) ∧
        (∀ w ∈ h.pages, ∀ x, mapFind u.host.window w = some x → x.owner ≠ h.ctx) ∧
        ∀ w, w ∉ h.pages → mapFind u.host.window w = mapFind s.host.window w) ∧
    (∀ k t, tableOf s id = some (k, t) →
      ∃ u far, exec (.versionStepTable cid id) s = .next u ∧ (othersServing s = false → far = false) ∧
        AdminBut
          { s with tables := mapPut s.tables k { t with steps := t.steps ++ [(s.time + 100000, t.drain.isSome || far, cid)] }
                   freeCtr := u.freeCtr, host.replies := u.host.replies } u ∧
        StepSent s u id ∧ u.host.posted = s.host.posted) ∧
    (∀ k x, indexOf s id = some (k, x) →
      ∃ u far, exec (.versionStepIndex cid id) s = .next u ∧ (othersServing s = false → far = false) ∧
        AdminBut
          { s with indexes := mapPut s.indexes k { x with steps := x.steps ++ [(s.time + 100000, x.drain.isSome || far, cid)] }
                   freeCtr := u.freeCtr, host.replies := u.host.replies } u ∧
        StepSent s u id ∧ u.host.posted = s.host.posted) ∧
    (∀ k t stamp c rest v, tableOf s id = some (k, t) → t.steps = (stamp, false, c) :: rest → stamp ≤ s.time →
      t.drain = none → t.pend = some v →
      ∃ u w, exec (.versionSwitch false id) s = .next u ∧ mapFind u.tables k = some w ∧ w.cur = v ∧ w.pend = none ∧
        w.steps = rest ∧ w.stepN = (t.stepN + 1) % 2 ^ 32 ∧ w.since = stamp ∧
        (0 < t.cur.batches → w.drain = some t.cur) ∧
        (t.cur.batches = 0 → s.runs = [] → t.cur.hot.all (·.2.moved) = true → w.drain = none) ∧
        ((∃ h ∈ t.cur.hot, h.2.moved = false) → w.drain = some t.cur) ∧ u.mem = s.mem) ∧
    (∀ k x stamp c rest v, indexOf s id = some (k, x) → x.steps = (stamp, false, c) :: rest → stamp ≤ s.time →
      x.drain = none → x.pend = some v →
      ∃ u w, exec (.versionSwitch true id) s = .next u ∧ mapFind u.indexes k = some w ∧ w.cur = v ∧ w.pend = none ∧
        w.steps = rest ∧ w.stepN = (x.stepN + 1) % 2 ^ 32 ∧ w.since = stamp ∧ x.eCommit ≤ w.eCommit ∧ u.mem = s.mem) ∧
    (∀ k t n w, tableOf s id = some (k, t) → growHot (taken s) k t n = some w → s.updates = [] → s.scatters = [] →
      ∃ u x, exec (.hotGrow cid n id) s = .next u ∧ Posts u cid 0 0 ∧ mapFind u.tables k = some x ∧
        x.cur.hotPages.length = t.cur.hotPages.length + n ∧ x.cur.hot = t.cur.hot ∧ x.cur.pages = t.cur.pages ∧
        x.hotFull = false) ∧
    (∀ k x, indexOf s id = some (k, x) → x.copying = none →
      ∃ u, exec (.fairCopy cid id) s = .next u ∧ u.host.posted = s.host.posted ∧
        ∃ y, mapFind u.indexes k = some y ∧ y.copying = some (((x.commit.map (·.epoch)).getD x.eCommit) + 1, cid) ∧
          { y with copying := x.copying, copyBuilt := x.copyBuilt } = x ∧ AdminBut { s with indexes := u.indexes } u) ∧
    (∀ k x f c, indexOf s id = some (k, x) → x.copying = some (f, c) → x.commit = none → x.copyBuilt = false → c < orphanCid →
      ∃ u, exec (.fairCopyEnd id true) s = .next u ∧ Posts u c 7 0x85 ∧ u.mem = s.mem ∧
        mapFind u.indexes k = some { x with copying := none }) ∧
    -- With no poisoned unit the copy becomes PENDING where the pools hold its pages, in place of the version that was, and FAIR_COPY ends;
    -- else it ends with FORMAT.
    (∀ k x f c, indexOf s id = some (k, x) → x.copying = some (f, c) → x.commit = none → x.copyBuilt = false → c < orphanCid →
      copyPoison x.cur = false →
      (∀ w t, newIndexVer (copyRoom s x) (copyDesc x f (copyLists s x.cur f)) (copyLists s x.cur f) = some (w, t) →
        ∃ u, exec (.fairCopyEnd id false) s = .next u ∧ Posts u c 0 0 ∧ u.mem = s.mem ∧ u.tiles = s.tiles ∧ u.ctxs = s.ctxs ∧
          mapFind u.indexes k = some { x with pend := some w, copyBuilt := true } ∧ w.lists = copyLists s x.cur f ∧
          w.desc.baseEpoch = f ∧ x.cur.desc.version < w.desc.version ∧ w.margin = [] ∧
          ∀ j, j ≠ k → mapFind u.indexes j = mapFind s.indexes j) ∧
      (newIndexVer (copyRoom s x) (copyDesc x f (copyLists s x.cur f)) (copyLists s x.cur f) = none →
        ∃ u, exec (.fairCopyEnd id false) s = .next u ∧ Posts u c 7 0x81 ∧ u.mem = s.mem ∧
          mapFind u.indexes k = some { x with copying := none })) ∧
    (∀ record, record.length = 16 → u32 record 12 = 0 → 1 ≤ u32 record 0 → u32 record 0 ≤ 1_000_000 → 1 ≤ u32 record 4 →
      u32 record 4 ≤ 1_000_000 → u32 record 8 ≤ s.media.spareShip →
      ∃ u, exec (.mediaThresholds cid record) s = .next u ∧ Posts u cid 0 0 ∧ u.media.ewWatch = u32 record 0 ∧
        u.media.retryWatch = u32 record 4 ∧ u.media.spareLow = u32 record 8 ∧
        { u with host := s.host, easel := s.easel, media.ewWatch := s.media.ewWatch, media.retryWatch := s.media.retryWatch,
                 media.spareLow := s.media.spareLow, media.stage := s.media.stage } = s))

/-- R401, R405 to R407, R411: RING_CREATE, RING_DELETE, RING_DELETE_DONE and RING_TAIL_SNOOP. -/
def Obligations.RingCommandsComplete : Prop :=
  ∀ (s : State) (cid ring : Nat),
    (∀ address slots cq c, AdminReady s cid → linkUsable s = true → c < 16 → (ctxOf s c).st ≠ .empty → ring < 64 →
      address % 64 = 0 → mapFind s.host.rings ring = none → 1 ≤ slots → slots ≤ 65536 → cq ≠ 0 →
      (mapFind s.host.cqs cq).isSome →
      ∃ u, exec (.ringCreate cid address ring slots cq c) s = .next u ∧
        Succeeds { s with host.rings := mapPut s.host.rings ring ⟨address, slots, cq, c, 0, 0, [], none⟩ } u cid) ∧
    (∀ address slots cq c, AdminReady s cid → (linkUsable s = false ∨ (ctxOf s c).st = .empty ∨ address % 64 ≠ 0 ∨
        (mapFind s.host.rings ring).isSome ∨ slots = 0 ∨ 65536 < slots ∨ cq = 0) →
      ∃ u, exec (.ringCreate cid address ring slots cq c) s = .next u ∧ EndsFormat s u cid) ∧
    (∀ x, AdminReady s cid → mapFind s.host.rings ring = some x → x.deleting = none →
      ∃ u, exec (.ringDelete cid ring) s = .next u ∧ u.host.posted = s.host.posted ∧
        mapFind u.host.rings ring = some { x with deleting := some cid, entries := [] } ∧
        (∀ y ∈ u.reqs, y.2.src.ring = some ring → y.2.admitted = true) ∧
        AdminBut { s with host.rings := u.host.rings, reqs := u.reqs } u) ∧
    (∀ x c, mapFind s.host.rings ring = some x → x.deleting = some c → c < orphanCid → mapWf s.host.rings = true →
      (s.reqs.any fun p => p.2.src.ring == some ring || p.2.posts.any fun o => o.src.ring == some ring) = false →
      ∃ u, exec (.ringDeleteDone ring) s = .next u ∧ mapFind u.host.rings ring = none ∧
        Succeeds { s with host.rings := mapDrop s.host.rings ring } u c) ∧
    (∀ x tail entries, mapFind s.host.rings ring = some x → linkUsable s = true → x.deleting = none → x.head ≤ tail →
      tail ≤ x.head + x.slots → x.entries.length ≤ tail - x.head →
      ∃ u, exec (.ringTailSnoop ring tail entries) s = .next u ∧ { u with host.rings := s.host.rings } = s ∧
        mapFind u.host.rings ring =
          some { x with tail := tail, entries := x.entries ++ entries.take (tail - x.head - x.entries.length) }) ∧
    (∀ x tail entries, mapFind s.host.rings ring = some x → linkUsable s = true → x.deleting = none → tail < x.head →
      ∃ u, exec (.ringTailSnoop ring tail entries) s = .next u ∧ SameButReports s u ∧ u.host.rings = s.host.rings ∧
        ∃ r rs, u.integ.recs = r :: rs ∧ r.cls = .usage)

/-- R241, R242, R265, R309, R315, R323, R405, R406, R412, R414: QUERY, FRONT_OPEN, DELIVERY_JOB, BATCH_JOB and INDEX_COMMIT
join the requests that wait for admission, or are refused with FORMAT; FRONT_STEP and FRONT_CLOSE act on an open sequence. -/
def Obligations.RequestsAreOffered : Prop :=
  ∀ (s : State) (sq cid c : Nat), c < 16 →
    (IoReady s sq cid → ((ctxOf s c).st = .running ∨ (ctxOf s c).st = .stopping ∨ (ctxOf s c).st = .replacing) →
      (∀ record, ∃ u, exec (.query (.queue sq cid) c record) s = .next u ∧ Offers s u sq cid c .query record [] 0) ∧
      (∀ record, ∃ u, exec (.frontOpen sq cid c record) s = .next u ∧ Offers s u sq cid c .front record [] 0) ∧
      (∀ record, ∃ u, exec (.deliveryJob sq cid c record) s = .next u ∧
        Offers s u sq cid c .delivery (record.take 64) (record.drop 64) 0) ∧
      (∀ record, ∃ u, exec (.batchJob sq cid c record) s = .next u ∧
        Offers s u sq cid c .batch (record.take 64) (record.drop 64) 0) ∧
      ∀ ops id data, ∃ u, exec (.indexCommit sq cid c ops id data) s = .next u ∧
        Offers s u sq cid c .commit (leBytes 4 ops) data id) ∧
    (IoReady s sq cid → ((ctxOf s c).st = .empty ∨ (ctxOf s c).st = .configured ∨ (ctxOf s c).st = .loaded) →
      ∀ x, mapFind s.host.sqs sq = some x → (cqOf s x.cq).isSome → ∀ record,
      ∃ u, exec (.query (.queue sq cid) c record) s = .next u ∧ Answers u x.cq sq cid 7 0x81 ∧ u.reqs = s.reqs) ∧
    -- The front entry of a ring is offered; it leaves the ring when it is granted.
    (∀ r x e, frontEntry s r = some (x, e) → u8 e 2 = 0 → ringEntryOk e = true → inFlight s x.ctx < (ctxOf s x.ctx).seqLimit →
      exec (.query (.ring r) c []) s = .next
        { s with reqs := mapPut s.reqs s.nextRid (newReq s.nextRid x.ctx .query ⟨some r, 0, u16 e 0⟩ (slice e 64 512) [] 0)
                 nextRid := s.nextRid + 1 }) ∧
    -- A step that is allowed owes one completion, with its record in the sequence's buffer; the count of steps rises.
    (∀ slot q v t y handle, IoReady s sq cid → ctxTakesSteps (ctxOf s c) = true → seqByHandle s c handle = some (slot, q) →
      vocabById s q.vocab = some v → windowOwned s c q.bufOffset q.bufSize = true → t < v.tokens →
      (maskNat q.mask).testBit t = true → reqOf s q.rid = some y →
      ∃ u z, exec (.frontStep (.queue sq cid) c handle t) s = .next u ∧ reqOf u q.rid = some z ∧
        z.posts.length = y.posts.length + 1 ∧ (ctxOf u c).ltr.steps = satAdd (ones 32) (ctxOf s c).ltr.steps 1 ∧
        (∀ k, k ≠ slot → mapFind u.fronts k = mapFind s.fronts k) ∧ u.tiles = s.tiles ∧ u.streams = s.streams) ∧
    -- A token that the last mask does not allow is refused, and the sequence goes on as it was.
    (∀ slot q v t x handle, IoReady s sq cid → ctxTakesSteps (ctxOf s c) = true → seqByHandle s c handle = some (slot, q) →
      vocabById s q.vocab = some v → windowOwned s c q.bufOffset q.bufSize = true → (maskNat q.mask).testBit t = false →
      mapFind s.host.sqs sq = some x → (cqOf s x.cq).isSome →
      ∃ u, exec (.frontStep (.queue sq cid) c handle t) s = .next u ∧ Answers u x.cq sq cid 7 0x81 ∧ u.fronts = s.fronts ∧
        (ctxOf u c).ltr.refused = satAdd 0xFFFF (ctxOf s c).ltr.refused 1 ∧ u.mem = s.mem) ∧
    (∀ slot q v y handle, IoReady s sq cid → ctxTakesSteps (ctxOf s c) = true → seqByHandle s c handle = some (slot, q) →
      vocabById s q.vocab = some v → reqOf s q.rid = some y → mapWf s.fronts = true →
      ∃ u z, exec (.frontClose sq cid c handle) s = .next u ∧ reqOf u q.rid = some z ∧ z.posts.length = y.posts.length + 1 ∧
        mapFind u.fronts slot = none ∧ ∀ k, k ≠ slot → mapFind u.fronts k = mapFind s.fronts k)

/-- R16, R17, R142, R241, R242, R260, R417: ADMISSION_GRANT, COMMIT_EPOCH and COMPLETION_POST. -/
def Obligations.RequestsAreAdmittedAndEnd : Prop :=
  ∀ (s : State),
    (∀ q, s.host.viral = false → s.integ.phase ≠ .contained →
      ((List.range 16).map fun i => (s.admitPtr + i) % 16).findSome? (nextGrant s) = some q →
      (∀ t s', t = { s with admitPtr := (q.ctx + 1) % 16 } →
        s' = (match q.src.ring with | some r => takeEntry t r | none => t) →
        (q.kind = .query → queryRefusal s' q = none) ∧ (q.kind = .front → openRefusal s' q = none) ∧
        (q.kind = .delivery → deliveryOk s' q = true) ∧ (q.kind = .batch → batchOk s' q = true) ∧
        (q.kind = .commit → commitRefusal s' q.objectId (u32 q.record 0) q.payload = none)) →
      ∃ u z, exec .admissionGrant s = .next u ∧ u.admitPtr = (q.ctx + 1) % 16 ∧ reqOf u q.rid = some z ∧ z.admitted = true ∧
        z.origin = s.time ∧ z.firstOrigin = s.time ∧ z.ctx = q.ctx ∧ z.kind = q.kind ∧
        (ctxOf u q.ctx).admitted = satAdd (ones 32) (ctxOf s q.ctx).admitted 1 ∧
        ∀ r x, q.src.ring = some r → mapFind s.host.rings r = some x →
          mapFind u.host.rings r = some { x with head := x.head + 1, entries := x.entries.drop 1 }) ∧
    (∀ q x, s.host.viral = false → s.integ.phase ≠ .contained →
      ((List.range 16).map fun i => (s.admitPtr + i) % 16).findSome? (nextGrant s) = some q → q.kind = .batch →
      batchOk { s with admitPtr := (q.ctx + 1) % 16 } q = false → q.src.ring = none → q.src.sq ≠ 0 →
      q.src.cid < orphanCid → mapFind s.host.sqs q.src.sq = some x → (cqOf s x.cq).isSome → mapWf s.reqs = true →
      ∃ u, exec .admissionGrant s = .next u ∧ reqOf u q.rid = none ∧ Answers u x.cq q.src.sq q.src.cid 7 0x81 ∧
        u.ctxs = s.ctxs ∧ u.mem = s.mem) ∧
    ((s.host.viral = true ∨ s.integ.phase = .contained) → exec .admissionGrant s = .next s) ∧
    (∀ id k x c y, indexOf s id = some (k, x) → mapWf s.indexes = true → x.commit = some c → reqOf s c.rid = some y →
      ∃ u z, exec (.commitEpoch id) s = .next u ∧ { u with indexes := s.indexes, reqs := s.reqs } = s ∧
        mapFind u.indexes k = some { x with ePrev := x.eCommit, eCommit := c.epoch, cStamp := s.time, commit := none } ∧
        reqOf u c.rid = some z ∧ z.done = true ∧ z.posts.length = y.posts.length + 1) ∧
    (∀ rid q p x, reqOf s rid = some q → q.rid = rid → (q.kind = .commit ∨ q.kind = .front) → q.posts = [p] → p.final = true →
      recordsVisible s rid = true → p.cond = 0 → q.cond = 0 → s.integ.phase ≠ .contained → mapWf s.reqs = true →
      p.src.ring = none → p.src.sq ≠ 0 → p.src.cid < orphanCid → mapFind s.host.sqs p.src.sq = some x → (cqOf s x.cq).isSome →
      (ctxOf s q.ctx).st = .running →
      ∃ u, exec (.completionPost rid) s = .next u ∧ reqOf u rid = none ∧
        (∃ y, (y ∈ u.host.posted ∨ ∃ z, cqOf u x.cq = some z ∧ y ∈ z.waiting) ∧ y.cq = x.cq ∧ y.sqId = p.src.sq ∧ y.cid = p.src.cid ∧
          y.sct = 0 ∧ y.sc = 0) ∧
        -- With no scatter batch that goes on, it is the newest completion, and memory stands.
        (s.scatters = [] → Answers u x.cq p.src.sq p.src.cid 0 0 ∧ u.mem = s.mem)) ∧
    (∀ rid q p rest, reqOf s rid = some q → q.rid = rid → q.kind = .front → q.posts = p :: rest → p.final = false →
      recordsVisible s rid = true →
      ∃ u, exec (.completionPost rid) s = .next u ∧ reqOf u rid = some { q with posts := rest } ∧ u.fronts = s.fronts)

/-- R358, R360, R361, R370, R394, R409, R420: NVM_READ, NVM_WRITE, WRITE_ZEROES, FLUSH and DATASET_MANAGEMENT on the module's own
namespace; a namespace that the folio does not have is refused. The status codes of malformed commands are the model's choice
(log entry 34). -/
def Obligations.NvmCommandsComplete : Prop :=
  ∀ (s : State) (sq cid cq slba n : Nat), NvmReady s sq cid cq →
    -- A read carries the newest copies of its sectors, and changes nothing else.
    (1 ≤ n → n ≤ 512 → slba + n ≤ userSectors → (∀ i, i < n → sectorPoisoned s (slba + i) = false) →
      ∃ u, exec (.nvmRead sq cid (ownNsid s) slba n) s = .next u ∧ IoBut s u ∧ Answers u cq sq cid 0 0 ∧
        Carries u cq ((List.range n).flatMap fun i => readSector s (slba + i))) ∧
    -- A read that meets a poisoned sector ends with Unrecovered Read Error, zeros in that sector's place, and a CONSUMED record.
    (1 ≤ n → n ≤ 512 → slba + n ≤ userSectors → (∃ i, i < n ∧ sectorPoisoned s (slba + i) = true) →
      ∃ u, exec (.nvmRead sq cid (ownNsid s) slba n) s = .next u ∧ SameButReports s u ∧ Answers u cq sq cid 2 0x81 ∧
        Carries u cq ((List.range n).flatMap fun i =>
          if sectorPoisoned s (slba + i) then zeros 4096 else readSector s (slba + i)) ∧
        ∃ r rs, u.integ.recs = r :: rs ∧ r.cls = .consumed ∧ r.unitKind = 9) ∧
    -- A write that staging has room for is staged: its sectors read back, every other sector as before, poison there is gone.
    (∀ data, data ≠ [] → data.length = 4096 * n → n ≤ 512 → slba + n ≤ userSectors → writeRefusal s slba n = none →
      s.media.waiting = [] → mapWf s.media.poisoned = true → s.power.ready = true → s.host.shutdown = 0 → n ≤ stageRoom s → logUsed s < 61440 →
      ∃ u, exec (.nvmWrite sq cid (ownNsid s) slba data) s = .next u ∧ IoBut { s with media := u.media } u ∧
        Answers u cq sq cid 0 0 ∧
        { u.media with staging := s.media.staging, poisoned := s.media.poisoned, lastWrite := s.media.lastWrite,
                       quota := s.media.quota, health := s.media.health } = s.media ∧
        (∀ i, i < n → readSector u (slba + i) = slice data (4096 * i) 4096 ∧ sectorPoisoned u (slba + i) = false) ∧
        ∀ l, (l < slba ∨ slba + n ≤ l) → readSector u l = readSector s l ∧ sectorPoisoned u l = sectorPoisoned s l) ∧
    (1 ≤ n → n ≤ 65536 → slba + n ≤ userSectors → writeRefusal s slba n = none → s.media.waiting = [] →
      mapWf s.media.poisoned = true → s.power.ready = true → s.host.shutdown = 0 → n ≤ stageRoom s → logUsed s < 61440 →
      ∃ u, exec (.writeZeroes sq cid (ownNsid s) slba n) s = .next u ∧ IoBut { s with media := u.media } u ∧
        Answers u cq sq cid 0 0 ∧
        (∀ i, i < n → readSector u (slba + i) = zeros 4096 ∧ sectorPoisoned u (slba + i) = false) ∧
        ∀ l, (l < slba ∨ slba + n ≤ l) → readSector u l = readSector s l ∧ sectorPoisoned u l = sectorPoisoned s l) ∧
    -- A write for which staging has no room waits, and its completion with it.
    (1 ≤ n → n ≤ 65536 → slba + n ≤ userSectors → writeRefusal s slba n = none → s.media.waiting = [] → stageRoom s = 0 →
      ∃ u, exec (.writeZeroes sq cid (ownNsid s) slba n) s = .next u ∧ u.host.posted = s.host.posted ∧
        u.media.staging = s.media.staging ∧ u.media.waiting = [⟨sq, cid, slba, List.replicate n (zeros 4096)⟩]) ∧
    -- A write to a protected region is refused, and the data stays.
    (1 ≤ n → n ≤ 65536 → slba + n ≤ userSectors → protectedAt s slba n = true →
      ∃ u, exec (.writeZeroes sq cid (ownNsid s) slba n) s = .next u ∧ IoBut s u ∧ Answers u cq sq cid 2 0x86) ∧
    (∃ u, exec (.flush sq cid (ownNsid s)) s = .next u ∧ IoBut s u ∧ Answers u cq sq cid 0 0) ∧
    (∀ nsid, nsid ≠ ownNsid s → folioSize s < nsid → nsid ≠ 0xFFFFFFFF →
      ∃ u, exec (.flush sq cid nsid) s = .next u ∧ IoBut s u ∧ Answers u cq sq cid 0 0x0B) ∧
    -- Deallocation: the sectors of every whole logical block inside a range read as zeros.
    (∀ ranges, ranges ≠ [] → ranges.length ≤ 256 → (∀ r ∈ ranges, r.1 + r.2 ≤ userSectors ∧ protectedAt s r.1 r.2 = false) →
      writesStopped s = false → s.media.waiting = [] →
      ∃ u, exec (.datasetManagement sq cid (ownNsid s) ranges) s = .next u ∧ Answers u cq sq cid 0 0 ∧ u.mem = s.mem ∧
        u.tiles = s.tiles ∧ u.ctxs = s.ctxs ∧ u.stylus = s.stylus ∧
        ∀ l, (∃ r ∈ ranges, r.1 ≤ l / 16384 * 16384 ∧ min userSectors ((l / 16384 + 1) * 16384) ≤ r.1 + r.2) →
          readSector u l = zeros 4096 ∧ sectorPoisoned u l = false)

/-- R352, R408, R410, R418, R419, R420, R462: IDENTIFY, GET_LOG_PAGE, GET_FEATURES, SET_FEATURES and INVALID_COMMAND_OPCODE. The status
codes of malformed commands, the bytes that NVMe leaves to the controller and the vendor bytes of Identify are the model's choice (log entries 33,
34, 37, 40). -/
def Obligations.IdentifyLogsAndFeaturesComplete : Prop :=
  ∀ (s : State) (cid : Nat), AdminReady s cid →
    (∀ nsid, 1 ≤ nsid → nsid ≤ folioSize s → ∃ u data, exec (.identify cid 0 nsid) s = .next u ∧
      AdminBut { s with freeCtr := s.freeCtr + 1 } u ∧ Returns u cid 0 0 0 data ∧ data.length = 4096 ∧
      u64 data 0 = 59_999_993_856 ∧ u8 data 130 = 12) ∧
    (∀ nsid, (nsid = 0 ∨ folioSize s < nsid) → ∃ u, exec (.identify cid 0 nsid) s = .next u ∧
      AdminBut { s with freeCtr := s.freeCtr + 1 } u ∧ Returns u cid 0 0x0B 0 []) ∧
    (∀ nsid, ∃ u data, exec (.identify cid 1 nsid) s = .next u ∧ Returns u cid 0 0 0 data ∧ data.length = 4096 ∧
      u32 data 516 = folioSize s % 2 ^ 32 ∧ u8 data 259 = 15) ∧
    -- A log page; the error records that it returns count as read.
    (∀ len rae, len ≤ 2097152 → ∃ u, exec (.getLogPage cid 0xC0 0 0 0 len rae) s = .next u ∧
      Returns u cid 0 0 0 (((List.range 16).flatMap fun c => reportBytes c (ctxOf s c).report).take len) ∧
      u.ctxs = s.ctxs ∧ u.mem = s.mem) ∧
    (∀ n, 1 ≤ n → n ≤ 4096 → ∃ u, exec (.getLogPage cid 0xC4 0 0 0 (64 * n) true) s = .next u ∧
      Returns u cid 0 0 0 ((s.integ.recs.flatMap recBytes).take (64 * n)) ∧ u.host.masked = s.host.masked ∧
      ∀ (i : Nat) (r : ErrRec), s.integ.recs[i]? = some r →
        u.integ.recs[i]? = some { r with readBack := r.readBack || decide (i < n) }) ∧
    (∀ lsp lsi off len, ∃ u, exec (.getLogPage cid 0x7F lsp lsi off len false) s = .next u ∧ Returns u cid 1 0x09 0 []) ∧
    -- A read without Retain Asynchronous Event unmasks the events of the page.
    (∀ len, len ≤ 2097152 → ∃ u, exec (.getLogPage cid 0xC2 0 0 0 len false) s = .next u ∧
      evVendor 2 ∉ u.host.masked ∧ ∀ k, k ≠ evVendor 2 → (k ∈ u.host.masked ↔ k ∈ s.host.masked)) ∧
    -- Features: what was set is what is read; the timestamp is folio time and cannot be set.
    (∀ fid (v : BitVec 32), (fid = 1 ∨ fid = 4 ∨ fid = 8 ∨ fid = 9 ∨ fid = 0x0B ∨ fid = 2 ∧ v.toNat % 32 = 0) →
      ∃ u, exec (.setFeatures cid fid v) s = .next u ∧ Posts u cid 0 0 ∧
        AdminBut { s with host.features := mapPut s.host.features (featureKey fid v.toNat) v } u) ∧
    (∀ (v : BitVec 32), ∃ u, exec (.setFeatures cid 0x0E v) s = .next u ∧ AdminBut s u ∧ Posts u cid 1 0x0E) ∧
    (∀ fid d, (fid = 1 ∨ fid = 2 ∨ fid = 4 ∨ fid = 8 ∨ fid = 9 ∨ fid = 0x0B) →
      ∃ u, exec (.getFeatures cid fid d) s = .next u ∧ AdminBut s u ∧
        Returns u cid 0 0 (mapGet s.host.features (featureKey fid d) 0).toNat []) ∧
    (∀ d, ∃ u, exec (.getFeatures cid 0x0E d) s = .next u ∧ AdminBut s u ∧
      Returns u cid 0 0 0 (leBytes 6 (s.time / 1000000) ++ zeros 2)) ∧
    (∀ opcode, opcode < 256 → ∃ u, exec (.invalidCommandOpcode cid opcode) s = .next u ∧ AdminBut s u ∧ Posts u cid 0 1)

/-- R408, R410, R419: the queue commands, ASYNCHRONOUS_EVENT_REQUEST and ABORT_COMMAND, which Easel never refuses. The status codes of
malformed commands are the model's choice (log entry 34). -/
def Obligations.QueueCommandsComplete : Prop :=
  ∀ (s : State) (cid qid size : Nat), s.host.ready = true → cid < orphanCid →
    (∀ vector, 1 ≤ qid → qid ≤ 4096 → mapFind s.host.cqs qid = none → 2 ≤ size → size ≤ 65536 → vector < 4096 →
      ∃ u, exec (.createIoCompletionQueue cid qid size vector) s = .next u ∧ AdminBut s u ∧ Posts u cid 0 0 ∧
        mapFind u.host.cqs qid = some ⟨size, vector, 0, 0, []⟩ ∧
        ∀ k, k ≠ 0 → k ≠ qid → mapFind u.host.cqs k = mapFind s.host.cqs k) ∧
    (∀ cqid, cqid ≠ 0 → (mapFind s.host.cqs cqid).isSome → 1 ≤ qid → qid ≤ 4096 → mapFind s.host.sqs qid = none →
      2 ≤ size → size ≤ 65536 →
      ∃ u, exec (.createIoSubmissionQueue cid qid size cqid) s = .next u ∧ AdminBut s u ∧ Posts u cid 0 0 ∧
        mapFind u.host.sqs qid = some ⟨size, cqid, 0⟩ ∧ ∀ k, k ≠ 0 → k ≠ qid → mapFind u.host.sqs k = mapFind s.host.sqs k) ∧
    -- Deleting a submission queue: its commands that wait complete as aborted, and the queue is gone.
    (qid ≠ 0 → (mapFind s.host.sqs qid).isSome → mapWf s.host.sqs = true → mapWf s.reqs = true →
      ∃ u, exec (.deleteIoSubmissionQueue cid qid) s = .next u ∧ Posts u cid 0 0 ∧ mapFind u.host.sqs qid = none ∧
        (∀ y ∈ u.reqs, y.2.src.ring = none → y.2.src.sq = qid → y.2.admitted = true) ∧ (∀ w ∈ u.media.waiting, w.sq ≠ qid) ∧
        (∀ k, k ≠ 0 → k ≠ qid → mapFind u.host.sqs k = mapFind s.host.sqs k) ∧ u.mem = s.mem) ∧
    (qid ≠ 0 → (mapFind s.host.cqs qid).isSome → mapWf s.host.cqs = true → (∀ p ∈ s.host.rings, p.2.cq ≠ qid) →
      (∀ p ∈ s.host.sqs, p.2.cq ≠ qid) →
      ∃ u, exec (.deleteIoCompletionQueue cid qid) s = .next u ∧ AdminBut s u ∧ Posts u cid 0 0 ∧ mapFind u.host.cqs qid = none) ∧
    (qid ≠ 0 → (mapFind s.host.cqs qid).isSome → (∃ p ∈ s.host.rings, p.2.cq = qid) →
      ∃ u, exec (.deleteIoCompletionQueue cid qid) s = .next u ∧ AdminBut s u ∧ Posts u cid 1 0x0C) ∧
    -- An event that waits completes the request at once; without one the request is outstanding, up to 16 of them.
    (∀ key lid rest, s.host.events = (key, lid) :: rest → ∃ u, exec (.asynchronousEventRequest cid) s = .next u ∧
      AdminBut { s with host.events := rest } u ∧ Returns u cid 0 0 (key / 256 + 256 * (key % 256) + 65536 * lid) []) ∧
    (s.host.events = [] → s.host.aers.length < 16 → ∃ u, exec (.asynchronousEventRequest cid) s = .next u ∧
      AdminBut { s with host.aers := s.host.aers ++ [cid] } u ∧ u.host.posted = s.host.posted) ∧
    (s.host.events = [] → 16 ≤ s.host.aers.length → ∃ u, exec (.asynchronousEventRequest cid) s = .next u ∧
      AdminBut s u ∧ Posts u cid 1 0x05) ∧
    -- An I/O command is aborted only while it waits for admission.
    (∀ r q sq target, (s.reqs.find? fun p => p.2.src.ring.isNone && p.2.src.sq == sq && p.2.src.cid == target && !p.2.admitted) =
        some (r, q) → mapWf s.reqs = true →
      ∃ u, exec (.abortCommand cid sq target) s = .next u ∧ Returns u cid 0 0 0 [] ∧ reqOf u r = none ∧
        AdminBut { s with reqs := u.reqs } u ∧ ∀ k, k ≠ r → reqOf u k = reqOf s k) ∧
    (∀ sq target, (∀ p ∈ s.reqs, p.2.src.ring = none → p.2.src.sq = sq → p.2.src.cid = target → p.2.admitted = true) →
      ∃ u, exec (.abortCommand cid sq target) s = .next u ∧ AdminBut s u ∧ Returns u cid 0 0 1 [])

/-- R394, R410, R524, R525: FIRMWARE_IMAGE_DOWNLOAD, FIRMWARE_COMMIT, FORMAT_NVM and SANITIZE. The status codes of malformed commands are
the model's choice (log entry 34). -/
def Obligations.FirmwareAndErasureComplete : Prop :=
  ∀ (s : State) (cid : Nat), AdminReady s cid →
    (∀ offset data, mapWf s.host.download = true →
      ∃ u, exec (.firmwareImageDownload cid offset data) s = .next u ∧ Posts u cid 0 0 ∧
        AdminBut { s with host.download := u.host.download, host.downloadLen := max s.host.downloadLen (offset + data.length) } u ∧
        cellsRead u.host.download offset data.length = data ∧
        ∀ a, (a < offset ∨ offset + data.length ≤ a) → cellRead u.host.download a = cellRead s.host.download a) ∧
    -- A commit writes the slot that does not run with an image that passes its checks, and erases it after one that does not.
    (∀ img kind running slot action, img = cellsRead s.host.download 0 s.host.downloadLen → 0 < s.host.downloadLen →
      kind = u8 img 4 → kind ≤ 1 → running = (if kind = 0 then s.boot.st1Slot else s.boot.fwSlot) → 1 ≤ slot → slot ≤ 2 →
      action ≤ 1 → slot - 1 ≠ running → mapWf s.stylus.cs = true →
      ∃ u, exec (.firmwareCommit cid slot action) s = .next u ∧ u.host.download = [] ∧ u.mem = s.mem ∧
        { u.stylus with cs := s.stylus.cs, csBad := s.stylus.csBad } = s.stylus ∧
        (firmwareOk (taken s) kind (slotBytes s kind) img = true → Posts u cid 0 0 ∧
          cellsRead u.stylus.cs (slotBase s kind (slot - 1)) img.length = img) ∧
        (firmwareOk (taken s) kind (slotBytes s kind) img = false → Posts u cid 1 0x07 ∧
          ∀ i, i < slotBytes s kind → cellRead u.stylus.cs (slotBase s kind (slot - 1) + i) = 0)) ∧
    (∀ kind slot action, kind = (if s.host.downloadLen = 0 then 1 else u8 (cellsRead s.host.download 0 s.host.downloadLen) 4) →
      kind ≤ 1 → 1 ≤ slot → slot ≤ 2 → action ≤ 3 → slot - 1 = (if kind = 0 then s.boot.st1Slot else s.boot.fwSlot) →
      ∃ u, exec (.firmwareCommit cid slot action) s = .next u ∧ AdminBut s u ∧ Posts u cid 1 0x06) ∧
    -- FORMAT_NVM and SANITIZE leave every sector of the namespace zero and without poison; a protect bit bars them.
    (∀ nsid ses, (nsid = ownNsid s ∨ nsid = 0xFFFFFFFF) → 1 ≤ folioSize s → ownNsid s ≤ folioSize s → ses ≤ 1 →
      anyProtected s = false → s.media.waiting = [] →
      ∃ u, exec (.formatNvm cid nsid ses) s = .next u ∧ Posts u cid 0 0 ∧ u.mem = s.mem ∧ u.tiles = s.tiles ∧ u.stylus = s.stylus ∧
        ∀ l, readSector u l = zeros 4096 ∧ sectorPoisoned u l = false) ∧
    (anyProtected s = true → ∃ u, exec (.formatNvm cid 0xFFFFFFFF 0) s = .next u ∧ AdminBut s u ∧ Posts u cid 2 0x86) ∧
    (anyProtected s = false → s.media.waiting = [] →
      ∃ u, exec (.sanitize cid 2) s = .next u ∧ Posts u cid 0 0 ∧ u.mem = s.mem ∧ u.tiles = s.tiles ∧ u.stylus = s.stylus ∧
        ∀ l, readSector u l = zeros 4096 ∧ sectorPoisoned u l = false) ∧
    (anyProtected s = true → ∃ u, exec (.sanitize cid 2) s = .next u ∧ AdminBut s u ∧ Posts u cid 2 0x86)

/-- R375, R400, R401, R422, R510, R560: SHUTDOWN_NOTIFICATION, CONTROLLER_RESET, FUNCTION_LEVEL_RESET, HOT_RESET, PERST and CXL_LINK_TRAIN.
That a reset of the link resets the function is the model's choice (log entry 38). -/
def Obligations.ResetsAndLinkComplete : Prop :=
  ∀ (s : State),
    (s.host.ready = true → ∃ u, exec .shutdownNotification s = .next u ∧ u.host.shutdown = 2 ∧ u.mem = s.mem ∧ u.tiles = s.tiles ∧
      u.ctxs = s.ctxs ∧
      (s.media.fold = none → s.media.staging = [] → u.media.marker = true ∧ u.media.commitBegun = false ∧ u.media.staging = [])) ∧
    (∃ u, exec .controllerReset s = .next u ∧ exec .functionLevelReset s = .next u ∧ FunctionReset u ∧
      u.host.posted = s.host.posted ∧ u.host.window = s.host.window ∧ u.mem = s.mem ∧ u.tiles = s.tiles ∧ u.integ = s.integ ∧
      ((∀ p ∈ s.fronts, p.1 < 256 ∧ p.2.gen < 256 ∧ p.2.fin = .open_ ∧ (vocabById s p.2.vocab).isSome) → mapWf s.fronts = true →
        u.fronts = [])) ∧
    (∃ u, exec .hotReset s = .next u ∧ FunctionReset u ∧ u.host.rate = 0 ∧ u.host.width = 0 ∧ u.host.perst = s.host.perst ∧
      u.mem = s.mem ∧ u.tiles = s.tiles) ∧
    (∃ u, exec (.perst true) s = .next u ∧ FunctionReset u ∧ u.host.rate = 0 ∧ u.host.width = 0 ∧ u.host.perst = true ∧
      u.mem = s.mem ∧ u.tiles = s.tiles) ∧
    (exec (.perst false) s = .next { s with host.perst := false }) ∧
    (∀ rate width lat, s.host.perst = false → rate ∈ [2, 5, 8, 16, 32, 64] → width ∈ [1, 2, 4, 8, 16] → s.host.rate = 0 →
      exec (.cxlLinkTrain rate width lat) s = .next { s with host.rate := rate, host.width := width, host.latFlit := lat }) ∧
    (∀ rate width lat, s.host.perst = false → rate ∈ [2, 5, 8, 16, 32, 64] → width ∈ [1, 2, 4, 8, 16] → s.host.rate ≠ 0 →
      ∃ u, exec (.cxlLinkTrain rate width lat) s = .next u ∧ SameButReports s u ∧ u.host.rate = rate ∧ u.host.width = width ∧
        u.host.retrains = s.host.retrains + 1 ∧ ∃ r rs, u.integ.recs = r :: rs ∧ r.cls = .link ∧ r.unitKind = 9) ∧
    (∀ lat, s.host.perst = false → s.host.rate ≠ 0 →
      ∃ u, exec (.cxlLinkTrain 0 0 lat) s = .next u ∧ SameButReports s u ∧ u.host.rate = 0 ∧ linkUsable u = false ∧
        ∃ r rs, u.integ.recs = r :: rs ∧ r.cls = .link ∧ r.unitKind = 9)

/-- R178, R198, R199, R401, R402, R404, R449, R450: DECODER_COMMIT, DECODER_DECOMMIT, HOST_WINDOW_READ, HOST_WINDOW_WRITE and
BACK_INVALIDATE_RESPONSE. What a decoder of another size does to the map, and the form of the records, are the model's reading (log entries 83,
84). -/
def Obligations.WindowAccessesComplete : Prop :=
  ∀ (s : State),
    (∀ (base n : Nat), 1 ≤ n → n ≤ 1024 → (s.host.mapSize = 0 ∨ s.host.mapSize = n) →
      exec (.decoderCommit base (n * 2 ^ 28)) s = .next
        (sendReply { s with host.winSize := n, host.mapSize := n, host.winBase := base } .decoder 0 [])) ∧
    (∀ (base n : Nat), 1 ≤ n → n ≤ 1024 → s.host.mapSize ≠ 0 → s.host.mapSize ≠ n → windowUsed s = false →
      ∃ u, exec (.decoderCommit base (n * 2 ^ 28)) s = .next u ∧ u.host.window = [] ∧ u.host.heldUnmaps = [] ∧
        u.host.winSize = n ∧ u.host.mapSize = n ∧ u.host.replies.head? = some ⟨.decoder, 0, [], []⟩ ∧
      (cellsWf s.mem = true → mapWf s.host.window = true → (∀ w ∈ s.host.window, cellsRead u.mem (8 * w.1) 8 = zeros 8) ∧
        ∀ a, (∀ w ∈ s.host.window, a < 8 * w.1 ∨ 8 * w.1 + 8 ≤ a) → cellRead u.mem a = cellRead s.mem a)) ∧
    (∀ (base bytes : Nat), (bytes = 0 ∨ bytes % 2 ^ 28 ≠ 0 ∨ 1024 < bytes / 2 ^ 28 ∨
        s.host.mapSize ≠ 0 ∧ s.host.mapSize ≠ bytes / 2 ^ 28 ∧ windowUsed s = true) →
      exec (.decoderCommit base bytes) s = .next (sendReply { s with host.winSize := 0 } .decoder 1 [])) ∧
    (exec .decoderDecommit s = .next (sendReply { s with host.winSize := 0 } .decoder 0 [])) ∧
    -- Reads and writes within one page of the window, when none waits for a grant at the memory channels.
    (∀ (off n : Nat), 1 ≤ n → off / 2097152 = (off + n - 1) / 2097152 →
      (windowOpen s off n = false → exec (.hostWindowRead off n) s = .next (sendReply s .windowRead 2 [])) ∧
      (windowOpen s off n = true → windowHeld s = false → ∀ (a : Nat), windowAddr s off = some a →
        (∀ c ∈ s.poison, c.1 < a / 256 * 4 ∨ (a + n - 1) / 256 * 4 + 3 < c.1) →
        exec (.hostWindowRead off n) s = .next (sendReply s .windowRead 0 (cellsRead s.mem a n))) ∧
      (windowOpen s off n = true → windowHeld s = true → exec (.hostWindowRead off n) s = .next s ∧
        ∀ (data : Bytes), data.length = n → exec (.hostWindowWrite off data) s = .next s) ∧
      (windowOpen s off n = true → windowHeld s = false → windowAddr s off = none →
        ∃ u, exec (.hostWindowRead off n) s = .next u ∧ SameButReports s u ∧
          u.host.replies.head? = some ⟨.windowRead, 0, zeros n, []⟩ ∧
          ∃ r rs, u.integ.recs = r :: rs ∧ r.cls = .protection ∧ r.unitKind = 9) ∧
      (windowOpen s off n = true → windowHeld s = false → ∀ (a : Nat), windowAddr s off = some a → off % 64 = 0 → n = 64 →
        poisonedAt s (a / 256 * 256) 256 = true →
        ∃ u, exec (.hostWindowRead off n) s = .next u ∧ SameButReports s u ∧
          u.host.replies.head? = some ⟨.windowRead, 0, cellsRead s.mem a 64, [0]⟩ ∧
          ∃ r rs, u.integ.recs = r :: rs ∧ r.cls = .consumed ∧ r.unitKind = 9) ∧
      (∀ (data : Bytes), data.length = n → windowOpen s off n = true → windowHeld s = false → ∀ (x : WinPage), mapFind s.host.window (off / 2097152) = some x →
        x.hostWrite = true → mapWf s.mem = true →
        ∃ u, exec (.hostWindowWrite off data) s = .next u ∧ { u with mem := s.mem, poison := s.poison } = s ∧
          cellsRead u.mem (x.page * 2097152 + off % 2097152) n = data ∧
          (∀ (b : Nat), (b < x.page * 2097152 + off % 2097152 ∨ x.page * 2097152 + off % 2097152 + n ≤ b) →
            cellRead u.mem b = cellRead s.mem b) ∧
          ∀ c, c ∈ u.poison ↔ c ∈ s.poison ∧
            ¬(x.page * 2097152 + off % 2097152 ≤ c.1 * 64 ∧ c.1 * 64 + 64 ≤ x.page * 2097152 + off % 2097152 + n)) ∧
      (∀ (data : Bytes), data.length = n → windowOpen s off n = true → windowHeld s = false →
        (∀ (x : WinPage), mapFind s.host.window (off / 2097152) = some x → x.hostWrite = false) →
        ∃ u, exec (.hostWindowWrite off data) s = .next u ∧ SameButReports s u ∧
          ∃ r rs, u.integ.recs = r :: rs ∧ r.cls = .protection ∧ r.unitKind = 9)) ∧
    -- The host has answered for a line: the oldest write held for it proceeds.
    (∀ (pre : List Snoop) (x : Snoop) (post : List Snoop), s.host.snoops = pre ++ x :: post → (∀ y ∈ pre, y.line ≠ x.line) → x.data.length = 64 → mapWf s.mem = true →
      ∃ u, exec (.backInvalidateResponse x.line) s = .next u ∧ u.host.snoops = pre ++ post ∧
        { u with mem := s.mem, poison := s.poison, host.snoops := s.host.snoops } = s ∧
        cellsRead u.mem (x.line * 64) 64 = x.data ∧
        (∀ (b : Nat), (b < x.line * 64 ∨ x.line * 64 + 64 ≤ b) → cellRead u.mem b = cellRead s.mem b) ∧
        (x.poison = true → mapFind u.poison x.line = some ()) ∧ (x.poison = false → ∀ c ∈ u.poison, c.1 ≠ x.line))

/-- R408, R422: COMPLETION_QUEUE_DOORBELL. Of every completion queue that exists, and of every head among the entries that the host has not
freed, the entries up to the head are free, and the completions that wait are posted in order, as many as there is room for: the rest keeps
waiting. A head outside those entries, or a queue that does not exist, changes nothing, which is the model's choice (log entry 13). -/
def Obligations.DoorbellsFreeEntries : Prop :=
  ∀ (s : State) (cq head : Nat),
    (∀ (q : CQ) (freed room : Nat), cqOf s cq = some q → (∀ c ∈ q.waiting, c.cq = cq) → head < q.size →
      freed = (head + q.size - q.head) % q.size → freed ≤ q.unread → room = q.size - 1 - (q.unread - freed) →
      ∃ u, exec (.completionQueueDoorbell cq head) s = .next u ∧
        cqOf u cq = some { q with head := head, unread := q.unread - freed + min room q.waiting.length,
                                  waiting := q.waiting.drop room } ∧
        u.host.posted = (q.waiting.take room).reverse ++ s.host.posted ∧
        (∀ k, k ≠ cq → cqOf u k = cqOf s k) ∧
        { u with host.cqs := s.host.cqs, host.posted := s.host.posted } = s) ∧
    (∀ (q : CQ), cqOf s cq = some q → q.waiting = [] → head < q.size → (head + q.size - q.head) % q.size ≤ q.unread →
      exec (.completionQueueDoorbell cq head) s = .next { s with
        host.cqs := mapPut s.host.cqs cq { q with head := head, unread := q.unread - (head + q.size - q.head) % q.size } }) ∧
    (cqOf s cq = none → exec (.completionQueueDoorbell cq head) s = .next s) ∧
    (∀ (q : CQ), cqOf s cq = some q → q.size ≤ head ∨ q.unread < (head + q.size - q.head) % max 1 q.size →
      exec (.completionQueueDoorbell cq head) s = .next s)

/-- R183 to R189: MOVE_ISSUE, MOVE_DEADLINE and MOVE_COMPLETE. That a queued move whose page has a copy in DEST by now leaves the queue, and that
the first due move holds back those behind it, are the model's choices (log entry 135). -/
def Obligations.FeederMovesComplete : Prop :=
  ∀ (s : State),
    -- The feeder begins the first move whose time has come, into a staging page; its copy is not VALID yet.
    (∀ (m : Move) (p : Nat) (t : State),
      (sortBy Move.before (s.queued.filter fun m => decide (m.issueAt ≤ s.time) && decide (s.time < m.deadline))).head? = some m →
      s.inflight.length < 64 → (∀ x ∈ s.copies, ¬(x.ctx = m.ctx ∧ x.region = m.region ∧ x.ver = m.ver ∧ x.page = m.page ∧ x.tier = m.dest)) →
      stagingPage s m.ctx m.dest = some (p, t) →
      ∃ u, exec .moveIssue s = .next u ∧ u.queued = s.queued.erase m ∧ u.inflight = s.inflight ++ [m] ∧
        u.copies = t.copies ++ [⟨m.ctx, m.region, m.page, m.ver, m.dest, p, false, [m.batch], s.time⟩] ∧ u.pages = t.pages ∧
        (ctxOf u m.ctx).tier.issued = satAdd (ones 32) (ctxOf s m.ctx).tier.issued 1 ∧ (∀ d, d ≠ m.ctx → ctxOf u d = ctxOf s d) ∧
        u.mem = s.mem ∧ u.poison = s.poison ∧ u.tiles = s.tiles ∧ u.streams = s.streams) ∧
    (∀ (m : Move) (x : Copy),
      (sortBy Move.before (s.queued.filter fun m => decide (m.issueAt ≤ s.time) && decide (s.time < m.deadline))).head? = some m →
      s.inflight.length < 64 → x ∈ s.copies → x.ctx = m.ctx → x.region = m.region → x.ver = m.ver → x.page = m.page →
      x.tier = m.dest → exec .moveIssue s = .next { s with queued := s.queued.erase m }) ∧
    -- Moves that have not begun by their deadline are dropped, and counted for their context.
    (∃ u, exec .moveDeadline s = .next u ∧ { u with queued := s.queued, ctxs := s.ctxs } = s ∧
      (∀ m, m ∈ u.queued ↔ m ∈ s.queued ∧ s.time < m.deadline) ∧
      ∀ c, 0 < (s.queued.filter fun m => decide (m.deadline ≤ s.time) && m.ctx == c).length →
        (ctxOf u c).tier.dropped = satAdd (ones 32) (ctxOf s c).tier.dropped
          (s.queued.filter fun m => decide (m.deadline ≤ s.time) && m.ctx == c).length) ∧
    -- A move that is complete leaves its copy VALID, with the bytes of its source: a VALID copy in a slower tier, or the region's page at
    -- the move's version. One whose access waits for its grant at a memory channel does not complete yet (R144).
    (∀ (k : Nat) (m : Move) (x : Copy) (r : RegionEntry) (src : Nat), s.inflight[k]? = some m →
      tierHeld s (moveStation s m) m.ctx = false →
      (s.copies.find? fun y => y.ctx == m.ctx && y.region == m.region && y.ver == m.ver && y.page == m.page && y.tier == m.dest) = some x →
      regionOf s m.ctx m.region = some r →
      src = ((s.copies.find? fun y => y.ctx == m.ctx && y.region == m.region && y.ver == m.ver && y.page == m.page && y.valid &&
        decide (m.dest < y.tier)).map (·.dst)).getD ((sourcePages s m.ctx r m.ver).getD m.page 0) → src ≠ x.dst → mapWf s.mem = true →
      ∃ u, exec (.moveComplete k) s = .next u ∧ u.inflight = listDrop s.inflight k ∧
        (∀ i, i < 2097152 → cellRead u.mem (x.dst * 2097152 + i) = cellRead s.mem (src * 2097152 + i)) ∧
        (∀ a, a / 2097152 ≠ x.dst → cellRead u.mem a = cellRead s.mem a) ∧
        (∀ y ∈ u.copies, y.ctx = m.ctx → y.region = m.region → y.ver = m.ver → y.page = m.page → y.tier = m.dest → y.valid = true) ∧
        (ctxOf u m.ctx).tier.late = satAdd (ones 32) (ctxOf s m.ctx).tier.late (if m.deadline ≤ s.time then 1 else 0) ∧
        u.tiles = s.tiles ∧ u.streams = s.streams ∧ u.queued = s.queued) ∧
    (∀ (k : Nat) (m : Move), s.inflight[k]? = some m → tierHeld s (moveStation s m) m.ctx = true → exec (.moveComplete k) s = .next s)

/-- R182, R191 to R193, R197, R213, R371, R447: STATION_DEADLINE and TIER_READ_RETURN. -/
def Obligations.ReadsReturnOrAreLate : Prop :=
  ∀ (s : State),
    -- A read without a draft path waits: it is late, and stays under way.
    (∀ (pre post : List TierRead) (r : TierRead) (run : Run) (n e : Nat) (x : Stream), s.reads = pre ++ r :: post → r.row = none →
      r.late = false → r.deadline = some e → e ≤ s.time → mapFind s.runs r.run = some run →
      feedStream s r.ctx run.feed = some (n, x) →
      (∀ y ∈ pre ++ post, y.ctx ≠ r.ctx ∨ y.batch ≠ r.batch ∨ y.late = true) →
      exec (.stationDeadline r.ctx stnFeed r.batch) s = .next { s with reads := pre ++ post ++ [{ r with late := true }] }) ∧
    -- A row whose consumer takes the SKETCH_SCORE path is replaced at once, and counted.
    (∀ (pre post : List TierRead) (r : TierRead) (run : Run) (n e i : Nat) (x : Stream) (d : DraftEntry) (f : FeedEntry) (reg : RegionEntry),
      s.reads = pre ++ r :: post → r.row = some i → r.late = false → r.deadline = some e → e ≤ s.time →
      mapFind s.runs r.run = some run → feedStream s r.ctx run.feed = some (n, x) → feedProg s r.ctx run.feed = some f →
      regionOf s r.ctx f.region = some reg → draftOf s r.ctx x.cons = some d → d.kind = 1 →
      (∀ y ∈ pre ++ post, y.ctx ≠ r.ctx ∨ y.batch ≠ r.batch ∨ y.late = true) →
      ∃ u, exec (.stationDeadline r.ctx x.cons r.batch) s = .next u ∧ u.reads = pre ++ post ∧ u.mem = s.mem ∧ u.tiles = s.tiles ∧
        (ctxOf u r.ctx).tier.draftReads = satAdd (ones 32) (ctxOf s r.ctx).tier.draftReads 1) ∧
    -- A read that returns supplies its part of its run. One whose access waits for its grant at a memory channel does not return yet (R144).
    (∀ (k : Nat) (r : TierRead) (run : Run) (j : Nat), s.reads[k]? = some r → tierHeld s stnFeed r.ctx = false →
      s.scatters = [] → (∀ y ∈ s.tables, y.2.drain = none) → r.deadline = none → r.moveDeadline = none →
      mapFind s.runs r.run = some run → mapWf s.runs = true → j ≠ r.part → run.parts[j]? = some none → run.ctx = r.ctx →
      (r.region = 0xFFFF →
        ∃ u, exec (.tierReadReturn k ⟨[], false⟩) s = .next u ∧ u.reads = listDrop s.reads k ∧ u.mem = s.mem ∧ u.tiles = s.tiles ∧
          mapFind u.runs r.run = some { run with parts := listUpd run.parts r.part fun _ => some (.span
            (slice (((List.range (ceilDiv (r.offset % 4096 + r.bytes) 4096)).map (r.offset / 4096 + ·)).flatMap (readSector s))
              (r.offset % 4096) r.bytes)
            (((List.range (ceilDiv (r.offset % 4096 + r.bytes) 4096)).map (r.offset / 4096 + ·)).any (sectorPoisoned s))) }) ∧
      -- Where FEED's own check has failed twice, what it forms carries POISON and has its record (R447).
      (r.region = 0xFFFF →
        ∃ u b, exec (.tierReadReturn k ⟨[], true⟩) s = .next u ∧ u.reads = listDrop s.reads k ∧ u.mem = s.mem ∧ u.tiles = s.tiles ∧
          mapFind u.runs r.run = some { run with parts := listUpd run.parts r.part fun _ => some (.span b true) } ∧
          ∃ e es, u.integ.recs = e :: es ∧ e.cls = .detected) ∧
      (∀ (n : Nat) (x : Stream) (reg : RegionEntry), r.region ≠ 0xFFFF → feedStream s r.ctx run.feed = some (n, x) →
        regionOf s r.ctx r.region = some reg →
        ∃ u p, exec (.tierReadReturn k ⟨[], false⟩) s = .next u ∧ u.tiles = s.tiles ∧
          mapFind u.runs r.run = some { run with parts := listUpd run.parts r.part fun _ => some p })) ∧
    (∀ (k : Nat) (r : TierRead) (obs : ReadObs), s.reads[k]? = some r → tierHeld s stnFeed r.ctx = true →
      exec (.tierReadReturn k obs) s = .next s) ∧
    (∀ (k : Nat) (r : TierRead), s.reads[k]? = some r → tierHeld s stnFeed r.ctx = false → mapFind s.runs r.run = none → ∀ cf,
      exec (.tierReadReturn k ⟨[], cf⟩) s = .next { s with reads := listDrop s.reads k })

/-- R227 to R229, R231: HOT_ROW_COPY_END flips a row of the hot area to MOVED, with its source's bytes in the slot; HOT_READ_WINDOW
begins the counts of reads anew when a 1 ms window has ended. -/
def Obligations.HotRowsMove : Prop :=
  ∀ (s : State),
    (s.time / 1_000_000 ≠ s.readWin →
      exec .hotReadWindow s = .next { s with readCtrs := [], readWin := s.time / 1_000_000 }) ∧
    (s.time / 1_000_000 = s.readWin → exec .hotReadWindow s = .next s) ∧
    (∀ (id : BitVec 64) (k n row off : Nat) (t : Table) (v : TableVer) (h : HotEntry), tableOf s id = some (k, t) →
      mapWf s.tables = true → t.version n = some v → mapFind v.hot row = some h → h.moved = false →
      v.desc.rowOffset s.folio.number row = some off → s.migLog = [] → s.updates = [] → s.scatters = [] → mapWf s.mem = true →
      (∀ y ∈ s.tables, ∀ d, y.2.drain = some d → 0 < versionBatches s y.2 d) → v.hotPages.Nodup → (h.slot + 1) * v.desc.stride ≤ v.hotPages.length * 2097152 →
      ∃ u t', exec (.hotRowCopyEnd id n row) s = .next u ∧ mapFind u.tables k = some t' ∧
        (t'.version n).bind (fun v => mapFind v.hot row) = some ⟨h.slot, true, s.time⟩ ∧
        pagesRead u v.hotPages (h.slot * v.desc.stride) v.desc.stride = pagesRead s v.pages off v.desc.stride ∧
        (∀ a, a / 2097152 ∉ v.hotPages → cellRead u.mem a = cellRead s.mem a) ∧
        { u with tables := s.tables, mem := s.mem, poison := s.poison } = s) ∧
    (∀ (id : BitVec 64) (k n row : Nat) (t : Table) (v : TableVer) (h : HotEntry), tableOf s id = some (k, t) →
      t.version n = some v → mapFind v.hot row = some h → h.moved = true → exec (.hotRowCopyEnd id n row) s = .next s)

/-- R268 to R273, R280, R447: PROBE_PASS searches for the queries of a pass, and FOLIO_MERGE merges a query's records with those of the other members in
service, at most K of each. That a pass waits for the power of the dies it reads is log entry 130. -/
def Obligations.SearchesComplete : Prop :=
  ∀ (s : State),
    (∀ (c k v : Nat) (p : ProbeSec), c < 16 → probeSec s c = some p → (nextPass s c p).head?.bind (passKey s) = some (k, v) →
      (∀ d, d ∈ [14, 15, 16] → domainOn s d = true) →
      ∃ u, exec (.probePass ⟨c, false⟩) s = .next u ∧
        (ctxOf u c).probeWait = (ctxOf s c).probeWait.filter (fun w => !(nextPass s c p).contains w.1) ∧
        (∀ d, d ≠ c → ctxOf u d = ctxOf s d) ∧
        (∀ x, mapFind s.indexes k = some x → mapFind u.indexes k = some { x with passes := satAdd (ones 32) x.passes 1 }) ∧
        (∀ (rid : Nat) (q : Req), rid ∈ nextPass s c p → reqOf s rid = some q → (queryIndex s q).isSome →
          ∃ z, reqOf u rid = some z ∧ z.localRecs.isSome = true ∧ z.kind = q.kind ∧ z.batch = q.batch) ∧
        (∀ (rid : Nat) (q : Req) (i : Nat) (x : Index) (w : IndexVer), nextPass s c p = [rid] → reqOf s rid = some q →
          queryIndex s q = some (i, x, w) →
          ∃ z, reqOf u rid = some z ∧ z.localRecs = some (search s w q.record (q.sketch.getD 0) q.snapshot q.firstOrigin).recs) ∧
        u.mem = s.mem ∧ u.tiles = s.tiles ∧ u.host = s.host) ∧
    -- Where PROBE's own check has failed twice, what the pass forms is poisoned and the failure recorded (R447).
    (∀ (c k v : Nat) (p : ProbeSec), c < 16 → probeSec s c = some p → (nextPass s c p).head?.bind (passKey s) = some (k, v) →
      (∀ d, d ∈ [14, 15, 16] → domainOn s d = true) →
      ∃ u, exec (.probePass ⟨c, true⟩) s = .next u ∧ u.mem = s.mem ∧ u.tiles = s.tiles ∧
        (∃ e es, u.integ.recs = e :: es ∧ e.cls = .detected ∧ e.station = stnProbe) ∧
        (∀ (rid : Nat) (q : Req), rid ∈ nextPass s c p → reqOf s rid = some q → (queryIndex s q).isSome →
          ∃ z rs, reqOf u rid = some z ∧ z.localRecs = some rs ∧ ∀ x ∈ rs, x.poison = true)) ∧
    (∀ c, c < 16 → (probeSec s c = none ∨ ∃ d ∈ [14, 15, 16], domainOn s d = false) → 
      ∀ cf, exec (.probePass ⟨c, cf⟩) s = .next s) ∧
    (∀ (rid : Nat) (remote : List RemoteFound) (q : Req) (mine : List ResultRec), reqOf s rid = some q → q.rid = rid →
      q.localRecs = some mine → q.recs = none → (queryIndex s q).isSome →
      ∃ u z rs, exec (.folioMerge rid remote) s = .next u ∧ reqOf u rid = some z ∧ z.recs = some rs ∧
        rs.length ≤ u16 q.record 24 ∧ (inFolio s = false → rs = (sortRecs mine).take (u16 q.record 24)) ∧
        (∀ x ∈ rs, x ∈ mine ∨ ∃ f ∈ remote, f.module = x.module ∧ f.module ≠ s.folio.number ∧ inService s f.module = true) ∧
        u.mem = s.mem ∧ u.tiles = s.tiles ∧ (u.integ = s.integ → u.host.posted = s.host.posted))

/-- R320 to R338, R447: DECODE_ENGINE_GRANT, DECODE_UNIT_END, SHUFFLE_ISSUE and DELIVER_WRITE. -/
def Obligations.TrainingPathCompletes : Prop :=
  ∀ (s : State),
    (∀ (k n : Nat) (x : Stream), k < 8 → mapFind s.engines k = none → domainOn s 18 = true → readyStreams s = [(n, x)] →
      mapFind s.arbiters engineArbiter = none →
      ∃ u e, exec (.decodeEngineGrant k) s = .next u ∧ mapFind u.engines k = some e ∧ e.stream = n ∧ e.ctx = x.ctx ∧
        (∀ j, j ≠ k → mapFind u.engines j = mapFind s.engines j) ∧ u.mem = s.mem ∧ u.tiles = s.tiles ∧ u.ctxs = s.ctxs) ∧
    (∀ k, k < 8 → ((mapFind s.engines k).isSome ∨ domainOn s 18 = false) → exec (.decodeEngineGrant k) s = .next s) ∧
    -- A unit that R320 skips whole counts as such and gives no frame; picture errors are counted (R321).
    (∀ (k : Nat) (obs : UnitObs) (e : Engine) (d : DecodeSec), k < 8 → mapFind s.engines k = some e → mapWf s.engines = true →
      decodeSec s e.ctx = some d → e.complete = true → domainOn s 18 = true →
      ∃ u, exec (.decodeUnitEnd k obs) s = .next u ∧ mapFind u.engines k = none ∧ u.mem = s.mem ∧ (obs.checkFailed = false → u.host = s.host) ∧
        (obs.checkFailed = true → ∃ r rs, u.integ.recs = r :: rs ∧ r.cls = .detected ∧ r.station = stnDecode) ∧
        (ctxOf u e.ctx).dec.pictErr = satAdd (ones 32) (ctxOf s e.ctx).dec.pictErr
          (pictureErrors (tsUnit e.bytes) (if unitSkipped (tsUnit e.bytes) obs then [] else obs.frames)).length ∧
        (ctxOf u e.ctx).dec.skipped = satAdd 0xFFFF (ctxOf s e.ctx).dec.skipped (if unitSkipped (tsUnit e.bytes) obs then 1 else 0) ∧
        (ctxOf u e.ctx).dec.resync = satAdd 0xFFFF (ctxOf s e.ctx).dec.resync (tsUnit e.bytes).searches ∧
        (ctxOf u e.ctx).dec.kept = (ctxOf s e.ctx).dec.kept) ∧
    (∀ (k : Nat) (obs : UnitObs) (e : Engine), k < 8 → mapFind s.engines k = some e → (e.complete = false ∨ domainOn s 18 = false) →
      exec (.decodeUnitEnd k obs) s = .next s) ∧
    (∀ (c k q : Nat) (d : Delivery) (h : ShuffleSec) (t : Table) (i : Nat) (v : TableVer), c < 16 →
      (ctxOf s c).delivery = some d → ((ctxOf s c).loaded.bind fun l => l.image.shuffle) = some h →
      tableOf s d.manifest = some (i, t) → t.version d.version = some v → nextPosition s d v.desc = some (k, q) → d.again = [] →
      d.stopped = false → d.open_.length < h.lookahead →
      ∀ cf, ∃ u d', exec (.shuffleIssue ⟨c, cf⟩) s = .next u ∧ (ctxOf u c).delivery = some d' ∧
        d'.open_ = d.open_ ++ [(q * d.shards + k, permute d.seed k (shardCount d.rows d.shards k) q * d.shards + k)] ∧
        d'.nextQ = mapPut d.nextQ k (q + 1) ∧ d'.ended = d.ended ∧ d'.rid = d.rid ∧ u.mem = s.mem ∧ u.tiles = s.tiles ∧
        (cf = false → { u.host with replies := s.host.replies } = s.host) ∧ ∀ j, j ≠ c → ctxOf u j = ctxOf s j) ∧
    -- DELIVER writes only while the ring has room, and once the context's NaN trap has fired a sample no longer reaches the host (R115).
    (∀ (c port : Nat) (d : DecodeSec) (v : DeliverSec) (p : PortEntry) (l : Loaded), c < 16 → decodeSec s c = some d →
      deliverSec s c = some v → v.ports[port]? = some p → p.module = s.folio.number → (ctxOf s c).loaded = some l →
      (∀ y, nextItem (ctxOf s c) d v.ports.length port = some (.sample y) → trapFired s c = true →
        ∃ u, exec (.deliverWrite c port) s = .next u ∧ mapGet (ctxOf u c).produced port 0 = mapGet (ctxOf s c).produced port 0 ∧
          (ctxOf u c).dec.kept = satAdd (ones 32) (ctxOf s c).dec.kept 0 ∧ (∀ z ∈ (ctxOf u c).samples, z.batch ≠ y.batch) ∧
          u.host.snoops = s.host.snoops ∧ u.mem = s.mem ∧ u.tiles = s.tiles) ∧
      (∀ y, nextItem (ctxOf s c) d v.ports.length port = some (.sample y) → trapFired s c = false →
        consumedOf s (mapGet l.regionPages p.region []) ≤ mapGet (ctxOf s c).produced port 0 →
        mapGet (ctxOf s c).produced port 0 < consumedOf s (mapGet l.regionPages p.region []) + p.slots →
        ∃ u, exec (.deliverWrite c port) s = .next u ∧
          mapGet (ctxOf u c).produced port 0 = mapGet (ctxOf s c).produced port 0 + 1 ∧
          (ctxOf u c).dec.kept = satAdd (ones 32) (ctxOf s c).dec.kept 1 ∧ (∀ z ∈ (ctxOf u c).samples, z.batch ≠ y.batch) ∧
          u.host.snoops.getLast? = some ⟨pageAddr (mapGet l.regionPages p.region []) 0 / 64,
            leBytes 8 (mapGet (ctxOf s c).produced port 0 + 1), false, none⟩ ∧ u.mem = s.mem ∧ u.tiles = s.tiles) ∧
      (∀ (e : EndRec) (ts : List Nat), nextItem (ctxOf s c) d v.ports.length port = some (.ending e ts) →
        trapFired s c = false → consumedOf s (mapGet l.regionPages p.region []) ≤ mapGet (ctxOf s c).produced port 0 →
        mapGet (ctxOf s c).produced port 0 < consumedOf s (mapGet l.regionPages p.region []) + p.slots →
        ∃ u, exec (.deliverWrite c port) s = .next u ∧
          mapGet (ctxOf u c).produced port 0 = mapGet (ctxOf s c).produced port 0 + 1 ∧
          (ctxOf u c).dec.ended = satAdd (ones 32) (ctxOf s c).dec.ended 1 ∧
          (∀ z ∈ (ctxOf u c).ends, z.position ≠ e.position) ∧ u.mem = s.mem ∧ u.tiles = s.tiles) ∧
      ((nextItem (ctxOf s c) d v.ports.length port).isSome → trapFired s c = false →
        consumedOf s (mapGet l.regionPages p.region []) + p.slots ≤ mapGet (ctxOf s c).produced port 0 →
        exec (.deliverWrite c port) s = .next s)) ∧
    -- A ring on another member is reached over the hatch.
    (∀ (c port : Nat) (d : DecodeSec) (v : DeliverSec) (p : PortEntry), c < 16 → decodeSec s c = some d → deliverSec s c = some v →
      v.ports[port]? = some p → p.module ≠ s.folio.number → trapFired s c = false →
      (nextItem (ctxOf s c) d v.ports.length port).isSome →
      ∃ u f, exec (.deliverWrite c port) s = .next u ∧ u.host.replies.head? = some f ∧ f.channel = .hatchFrame ∧ f.status = 0 ∧
        mapGet (ctxOf u c).produced port 0 = mapGet (ctxOf s c).produced port 0 + 1 ∧ u.host.snoops = s.host.snoops ∧
        u.mem = s.mem ∧ u.tiles = s.tiles)

/-- R355 to R369, R382: STAGING_PROGRAM, FOLD_START, FOLD_JOURNAL, MAPPING_CHECKPOINT, FOLD_STRIPE_CLOSE and STRIPE_VERIFY. -/
def Obligations.LogAndFoldsComplete : Prop :=
  ∀ (s : State),
    (s.media.staging = [] → ∀ good, exec (.stagingProgram good) s = .next s) ∧
    -- A page takes the four oldest staged sectors, with their logical numbers.
    (∀ (n k : Nat) (x : Stripe), s.media.staging ≠ [] → s.media.openStripe = some n → mapFind s.media.stripes n = some x →
      nextLogBlock s x = some k → s.media.waiting = [] → mapWf s.media.blocks = true →
      (bulkBlock s k).pages < 1021 →
      ∃ u, exec (.stagingProgram true) s = .next u ∧ u.media.staging = s.media.staging.drop 4 ∧
        (bulkBlock u k).pages = (bulkBlock s k).pages + 1 ∧ (bulkBlock u k).st = .logOpen ∧
        (∀ (i : Nat) (y : Staged), (s.media.staging.take 4)[i]? = some y →
          mapFind u.media.sectors (physKey k (bulkBlock s k).pages i) = some ⟨y.lba, y.data⟩) ∧
        -- The last block of the rotation completes the position: its parity page is the XOR of the blocks' pages (R362).
        (∀ (q i : Nat), x.blocks.getLast? = some k → x.parity = [q] → q ∉ x.blocks → i < 4 →
          mapFind u.media.sectors (physKey q (bulkBlock s k).pages i) =
            some ⟨noLba, paritySector u x.blocks (bulkBlock s k).pages i⟩) ∧
        u.media.map = s.media.map ∧ u.mem = s.mem ∧ u.tiles = s.tiles ∧ u.ctxs = s.ctxs) ∧
    -- A program that fails retires its block; no staged sector is lost.
    (∀ (n k : Nat) (x : Stripe), s.media.staging ≠ [] → s.media.openStripe = some n → mapFind s.media.stripes n = some x →
      nextLogBlock s x = some k → s.media.waiting = [] → mapWf s.media.blocks = true →
      ∃ u, exec (.stagingProgram false) s = .next u ∧ (bulkBlock u k).st = .retired ∧ u.media.openStripe = none ∧
        u.media.health.progFail = satAdd (ones 32) s.media.health.progFail 1 ∧ (∀ y ∈ s.media.staging, y ∈ u.media.staging) ∧
        u.mem = s.mem ∧ u.tiles = s.tiles) ∧
    -- A fold begins with a destination on the home die; nothing that is read changes.
    (∀ (k n d : Nat) (rest : List Nat), s.media.fold = none → s.power.flashHold = false → chooseVictim s true = some k →
      victimBlocks s k = n :: rest → leastFree s (homeDie n) [] = some d →
      ∃ u, exec .foldStart s = .next u ∧ { u with media := s.media } = s ∧
        u.media.fold = some ⟨n, s.media.nextSeq - 1, d, rest, some k⟩ ∧ (bulkBlock u d).st = .foldDest ∧
        { u.media with fold := s.media.fold, blocks := s.media.blocks } = s.media ∧ ∀ l, readSector u l = readSector s l) ∧
    ((s.media.fold.isSome = true ∨ s.power.flashHold = true) → exec .foldStart s = .next s) ∧
    -- The journal record switches the mapping to the destination, which holds the merged sectors.
    (∀ (f : Fold) (t : State), s.media.fold = some f → f.rest = [] → s.power.flashHold = false → s.media.waiting = [] →
      joinFoldStripe s f.dest = some t →
      ∃ u, exec (.foldJournal true) s = .next u ∧ u.media.fold = none ∧ u.media.journal = s.media.journal + 1 ∧
        mapFind u.media.map f.n =
          some ⟨true, false, ((mapGet s.media.map f.n ⟨false, false, 0, 0⟩).gen + 1) % 2 ^ 32, f.dest⟩ ∧
        (∀ (l : Nat) (y : FSector) (b : Bool), l ∈ heldSectors s f.n → foldSource s f l = some (y, b) →
          mapFind u.media.sectors (physKey f.dest (l % 16384 / 4) (l % 4)) = some ⟨l, y.data⟩) ∧ u.mem = s.mem ∧ u.tiles = s.tiles) ∧
    (∀ (f : Fold), s.media.fold = some f → s.power.flashHold = false →
      ∃ u, exec (.foldJournal false) s = .next u ∧ u.media.map = s.media.map ∧ u.media.log = s.media.log ∧
        u.media.sectors = s.media.sectors ∧ u.media.health.progFail = satAdd (ones 32) s.media.health.progFail 1) ∧
    (s.media.fold = none → ∀ good, exec (.foldJournal good) s = .next s) ∧
    (65536 ≤ s.media.journal →
      exec .mappingCheckpoint s = .next { s with media.journal := 0, media.checkpoints := s.media.checkpoints + 1 }) ∧
    (s.media.journal < 65536 → exec .mappingCheckpoint s = .next s) ∧
    (∀ (n : Nat) (x : Stripe), (s.media.stripes.find? fun p => p.2.fold && !p.2.closed &&
        (decide (15 ≤ p.2.blocks.length) || decide (p.2.firstClose + 200_000_000 ≤ s.time))) = some (n, x) →
      ∃ u, exec .foldStripeClose s = .next u ∧ mapFind u.media.stripes n = some { x with closed := true } ∧
        { u with media.stripes := s.media.stripes, media.health := s.media.health, media.sectors := s.media.sectors } = s ∧
        ∀ k, (∀ q ∈ x.parity, physBlock k ≠ q) → mapFind u.media.sectors k = mapFind s.media.sectors k) ∧
    ((s.media.stripes.find? fun p => p.2.fold && !p.2.closed &&
        (decide (15 ≤ p.2.blocks.length) || decide (p.2.firstClose + 200_000_000 ≤ s.time))) = none → exec .foldStripeClose s = .next s) ∧
    -- A stripe whose data has been verified releases its parity.
    (∀ (n : Nat) (x : Stripe) (buckets : List Nat), mapFind s.media.stripes n = some x → x.closed = true → mapWf s.media.stripes = true →
      (∀ (i k : Nat), x.blocks[i]? = some k → underParity s n k = true → buckets.getD i 15 < ewThreshold s 0 (!x.fold)) →
      (∀ k ∈ x.parity, (bulkBlock s k).st = .parity ∧ (bulkBlock s k).strikes < 2) →
      ∃ u, exec (.stripeVerify n buckets) s = .next u ∧ mapFind u.media.stripes n = none ∧
        (∀ k ∈ x.parity, (bulkBlock u k).st = .dirty) ∧ (∀ l, readSector u l = readSector s l) ∧ u.mem = s.mem ∧ u.tiles = s.tiles)

/-- R356, R357, R367, R372, R373, R380, R381: WEAR_CHECK, ERASE_INTENT and MEDIA_STAGE_WINDOW. The places of the ledger blocks are the model's
choice (log entry 31). -/
def Obligations.WearErasesAndStagesComplete : Prop :=
  ∀ (s : State),
    (∃ u, exec .wearCheck s = .next u ∧ { u with media.map := s.media.map, media.wearAt := s.media.wearAt } = s) ∧
    (periodOver s s.media.wearAt 60_000_000_000 = false → exec .wearCheck s = .next s) ∧
    (periodOver s s.media.wearAt 60_000_000_000 = true → (∀ p ∈ s.media.blocks, p.2.st ≠ .mapped) →
      exec .wearCheck s = .next { s with media.wearAt := s.time }) ∧
    -- Once every 60 s: a QLC block much less worn than the least worn free block of its die has its data refreshed.
    (∀ (k f n : Nat) (b : Block) (m : MapEntry), periodOver s s.media.wearAt 60_000_000_000 = true →
      (s.media.blocks.filter fun p => p.2.st == .mapped) = [(k, b)] →
      leastFree s (k / 3816) [] = some f → homeOf s k = some n → mapFind s.media.map n = some m →
      (b.wear + 15000 < (bulkBlock s f).wear →
        exec .wearCheck s = .next { s with media.map := mapPut s.media.map n { m with refresh := true }, media.wearAt := s.time }) ∧
      ((bulkBlock s f).wear ≤ b.wear + 15000 → exec .wearCheck s = .next { s with media.wearAt := s.time })) ∧
    -- An erase is preceded by its INTENT in the ledger of its companion, with the next SEQ.
    (∀ (die block : Nat) (slc : Bool), die < 1024 → block < 3816 → (bulkBlock s (bulkKey die block)).st = .dirty →
      ledgerTurns s (die % 64 / 16) = false →
      ∃ u, exec (.eraseIntent die block slc) s = .next u ∧ (bulkBlock u (bulkKey die block)).st = .erasing ∧
        newestLedger u die block = some ⟨.intent, slc, die, block, (bulkBlock s (bulkKey die block)).wear, 0,
          (((mapGet s.media.ledgers (die % 64 / 16) []).head?.map fun r => r.seq + 1)).getD 0, s.time⟩ ∧
        (∀ c, c ≠ die % 64 / 16 → mapGet u.media.ledgers c [] = mapGet s.media.ledgers c []) ∧
        (∀ k, k ≠ bulkKey die block → bulkBlock u k = bulkBlock s k) ∧ u.mem = s.mem ∧ u.tiles = s.tiles) ∧
    -- A record that begins the 32nd ledger block has the oldest one erased, its INTENT written first (R373).
    (∀ (die block : Nat) (slc : Bool), die < 1024 → block < 3813 → (bulkBlock s (bulkKey die block)).st = .dirty →
      ledgerTurns s (die % 64 / 16) = true →
      ∃ u a b c rest, exec (.eraseIntent die block slc) s = .next u ∧ (bulkBlock u (bulkKey die block)).st = .erasing ∧
        mapGet u.media.ledgers (die % 64 / 16) [] = a :: b :: c :: rest ∧ a.kind = .intent ∧ a.die = die ∧ a.block = block ∧
        b.kind = .done ∧ c.kind = .intent ∧ c.die = b.die ∧ c.block = b.block ∧ b.seq = c.seq + 1 ∧ a.seq = b.seq + 1 ∧
        rest.length + 524288 = (mapGet s.media.ledgers (die % 64 / 16) []).length ∧ u.mem = s.mem ∧ u.tiles = s.tiles) ∧
    (∀ (die block : Nat) (slc : Bool), (bulkBlock s (bulkKey die block)).st ≠ .dirty →
      exec (.eraseIntent die block slc) s = .next s) ∧
    -- The counts of the window that ends become its rates, and the stage follows from them.
    (∃ u, exec .mediaStageWindow s = .next u ∧ SameButReports { s with media := u.media } u ∧ u.media.stage = mediaStage u ∧
      u.media.stageWin = s.time / 60_000_000_000 ∧
      (s.time / 60_000_000_000 = s.media.stageWin → { u.media with stage := s.media.stage } = s.media) ∧
      (s.time / 60_000_000_000 = s.media.stageWin + 1 →
        u.media.winReads = 0 ∧ u.media.winEw = 0 ∧ u.media.winRetry = 0 ∧ u.media.dieReads = [] ∧
        u.media.health.ewPpm = ppm s.media.winEw s.media.winReads ∧
        u.media.health.retryPpm = ppm s.media.winRetry s.media.winReads ∧
        u.media.rateEw = (if 10000 ≤ s.media.winReads then ppm s.media.winEw s.media.winReads else s.media.rateEw) ∧
        u.media.rateRetry = (if 10000 ≤ s.media.winReads then ppm s.media.winRetry s.media.winReads else s.media.rateRetry)))

/-- R57, R81, R448, R449, R453 to R457, R462, R465: PATROL_READ, CORRECTABLE_ERROR, CE_LEAK and RECORD_PERSIST. A row that falls behind the end of
a window acts as if the leak of that window had come first (R8). Which page of bulk flash the patrol reads next is the model's choice (log entry
39). -/
def Obligations.IntegrityEventsComplete : Prop :=
  ∀ (s : State),
    -- The patrol of T0 and T1 goes on to the next line; one that it cannot correct is marked and recorded.
    (∀ (m : PatrolMedium) (k i : Nat) (obs : PatrolObs), (m = .t0 ∧ k = 0 ∨ m = .t1 ∧ k = 1) →
      bitsAt s.integ.patrol.toNat (16 * k) 16 ≠ 0 → s.integ.patrolPos[k]? = some i → i + 1 < patrolSpan m →
      (obs = .clean ∨ obs = .corrected ∨ obs = .rewrittenSince →
        exec (.patrolRead m obs) s = .next { s with integ.patrolPos := listUpd s.integ.patrolPos k fun _ => i + 1 }) ∧
      (obs = .uncorrectable none →
        ∃ u, exec (.patrolRead m obs) s = .next u ∧ u.integ.patrolPos = (listUpd s.integ.patrolPos k fun _ => i + 1) ∧
          mapFind u.poison ((if k = 0 then 0 else Config.t0End) / 64 + i) = some () ∧ u.mem = s.mem ∧
          ∃ r rs, u.integ.recs = r :: rs ∧ r.cls = .uncorrected ∧ r.unitKind = k + 1)) ∧
    -- The patrol of a tile's store counts what it corrects, and marks and counts what it cannot.
    (∀ (i p : Nat), bitsAt s.integ.patrol.toNat 32 16 ≠ 0 → s.integ.patrolPos[2]? = some i → i + 1 < patrolSpan .tileStore → p = i / 32768 →
      protectedTile s (tileOf s p) = false →
      (∀ obs, obs = .clean ∨ obs = .rewrittenSince → exec (.patrolRead .tileStore obs) s = .next
        { s with integ.patrolPos := listUpd s.integ.patrolPos 2 fun _ => i + 1 }) ∧
      exec (.patrolRead .tileStore .corrected) s = .next
        (updTile { s with integ.patrolPos := listUpd s.integ.patrolPos 2 fun _ => i + 1 } p fun t =>
          { t with counts.storeCe := satAdd (ones 32) t.counts.storeCe 1 }) ∧
      (∀ hit, ∃ u, exec (.patrolRead .tileStore (.uncorrectable hit)) s = .next u ∧
        u.integ.patrolPos = (listUpd s.integ.patrolPos 2 fun _ => i + 1) ∧
        (tileOf u p).counts.storeUe = satAdd (ones 16) (tileOf s p).counts.storeUe 1 ∧
        (tileOf u p).faults = (tileOf s p).faults ||| BitVec.ofNat 7 (2 ^ faultStoreUe) ∧ (tileOf u p).st = (tileOf s p).st ∧
        (∀ q, q ≠ p → tileOf u q = tileOf s q) ∧ u.mem = s.mem ∧
        ∃ r rs, u.integ.recs = r :: rs ∧ r.cls = .uncorrected ∧ r.unitKind = 0 ∧ r.unit = p)) ∧
    (∀ (i : Nat) (obs : PatrolObs), s.integ.patrolPos[2]? = some i → protectedTile s (tileOf s (i / 32768)) = true →
      exec (.patrolRead .tileStore obs) s = .next s) ∧
    (∀ (m : PatrolMedium) (obs : PatrolObs), bitsAt s.integ.patrol.toNat (16 * patrolPlace m) 16 = 0 →
      exec (.patrolRead m obs) s = .next s) ∧
    (∀ (i : Nat) (obs : PatrolObs), bitsAt s.integ.patrol.toNat 48 16 ≠ 0 → s.integ.patrolPos[3]? = some i → i + 1 < patrolSpan .bulk →
      protectedBulk s = false → s.power.flashHold = false →
      ∃ u, exec (.patrolRead .bulk obs) s = .next u ∧ u.integ.patrolPos = (listUpd s.integ.patrolPos 3 fun _ => i + 1) ∧
        u.mem = s.mem ∧ u.tiles = s.tiles) ∧
    (∀ obs, (protectedBulk s = true ∨ s.power.flashHold = true) → exec (.patrolRead .bulk obs) s = .next s) ∧
    -- A correctable error raises its source's level; one that reaches CAPACITY is a storm.
    (∀ (src a : Nat) (t : State), src < 573 → exec .ceLeak s = .next t →
      exec (.correctableError src a) s = exec (.correctableError src a) t) ∧
    (∀ (src a : Nat), src < 573 → (s.integ.ceLog = false → s.time / (s.integ.ceWindow.toNat * 1_000_000) ≤ s.integ.ceWin) →
      (s.integ.ceLog = false → (ceOf s src).level + 1 < s.integ.ceCapacity.toNat →
        ∃ u, exec (.correctableError src a) s = .next u ∧ { u with integ.ce := s.integ.ce } = s ∧
          ceOf u src = { ceOf s src with count := satAdd (ones 32) (ceOf s src).count 1, level := (ceOf s src).level + 1 } ∧
          ∀ j, j ≠ src → ceOf u j = ceOf s j) ∧
      (s.integ.ceLog = false → s.integ.ceCapacity.toNat ≤ (ceOf s src).level + 1 →
        ∃ u, exec (.correctableError src a) s = .next u ∧ SameButReports s u ∧ (ceOf u src).level = 0 ∧
          (ceOf u src).count = satAdd (ones 32) (ceOf s src).count 1 ∧
          (ceOf u src).overflows = satAdd 0xFF (ceOf s src).overflows 1 ∧
          ∃ r rs, u.integ.recs = r :: rs ∧ r.cls = .storm) ∧
      (s.integ.ceLog = true → (∀ e ∈ (ceOf s src).table, e.1 ≠ a) → (ceOf s src).table.length < 64 →
        ∃ u, exec (.correctableError src a) s = .next u ∧ { u with integ.ce := s.integ.ce } = s ∧
          ceOf u src = { ceOf s src with count := satAdd (ones 32) (ceOf s src).count 1,
                                         table := (ceOf s src).table ++ [(a, s.time / 1000000 % 2 ^ 32, 1)] })) ∧
    (s.integ.ceLog = true → exec .ceLeak s = .next s) ∧
    (s.integ.ceLog = false → s.time / (s.integ.ceWindow.toNat * 1_000_000) ≤ s.integ.ceWin → exec .ceLeak s = .next s) ∧
    (∀ k, s.integ.ceLog = false → mapWf s.integ.ce = true → s.time / (s.integ.ceWindow.toNat * 1_000_000) = s.integ.ceWin + k → 0 < k →
      ∃ u, exec .ceLeak s = .next u ∧ SameButReports s u ∧ u.integ.ceWin = s.integ.ceWin + k ∧
        ∀ (src : Nat) (x : CeSource), mapFind s.integ.ce src = some x → x.level - k * s.integ.ceLeak.toNat < s.integ.ceCapacity.toNat →
          ceOf u src = { x with level := x.level - k * s.integ.ceLeak.toNat }) ∧
    -- The oldest record that has not been copied goes to the log, and carries PERSISTED.
    (∀ (r : ErrRec) (rest : List ErrRec), s.easel.unpersisted = r :: rest →
      ∃ u x, exec .recordPersist s = .next u ∧ u.easel.unpersisted = rest ∧ u.easel.log.head? = some (.errRec x) ∧
        x.persisted = true ∧ u.integ.recs.length = s.integ.recs.length ∧
        (∀ y ∈ u.integ.recs, y.seq = r.seq → y.persisted = true) ∧ u.mem = s.mem ∧ u.host = s.host) ∧
    (s.easel.unpersisted = [] → exec .recordPersist s = .next s)

/-- R463, R472 to R474, R483, R485: RE_STENCIL and SPARE_DAILY_TEST. -/
def Obligations.TilesGiveWayToSpares : Prop :=
  ∀ (s : State),
    -- A tile in FAULT gives way to the first spare of its relocation class that passes its self-test.
    (∀ (p q : Nat) (l : Loaded) (sec : TileSec) (tests : List Bool), p < 544 →
      (ctxOf s (tileOf s p).context).loaded = some l → (tileOf s p).placed = true → (tileOf s p).st = .fault →
      (tileOf s p).role = .service → l.image.tiles[(tileOf s p).logical]? = some sec →
      (sparesFor s p sec.reloc).find? (spareUsable s) = some q → tests.headD true = true →
      ∃ u l', exec (.reStencil p tests) s = .next u ∧ (ctxOf u (tileOf s p).context).loaded = some l' ∧ l'.image = l.image ∧
        l'.tileMap = (listUpd l.tileMap (tileOf s p).logical fun _ => q) ∧ (tileOf u q).role = .service ∧
        (tileOf u q).placed = true ∧ (tileOf u q).context = (tileOf s p).context ∧ (tileOf u p).role = .retired ∧
        u.recov.restencils = satAdd 0xFFFF s.recov.restencils 1 ∧ u.mem = s.mem ∧
        (s.integ.phase = .service → s.recov.mirrorActive = false → u.integ.phase = .service)) ∧
    -- Without a spare or another placement the context is lost.
    (∀ (p : Nat) (l : Loaded) (tests : List Bool), p < 544 → (ctxOf s (tileOf s p).context).loaded = some l →
      (tileOf s p).placed = true → (tileOf s p).st = .fault → (tileOf s p).role = .service →
      (∀ r, sparesFor s p r = []) → l.image.placements = [] →
      ∃ u, exec (.reStencil p tests) s = .next u ∧ (ctxOf u (tileOf s p).context).loaded = none ∧
        u.recov.unabsorbed = satAdd 0xFF s.recov.unabsorbed 1 ∧ KeptButMap s u (tileOf s p).context) ∧
    (∀ (p : Nat) (tests : List Bool), p < 544 → (tileOf s p).st ≠ .fault → exec (.reStencil p tests) s = .next s) ∧
    -- Every idle spare is tested once a day; tiles that fail, and tiles in FAULT that nothing places, are retired.
    (∀ (failed : List Nat), s.easel.spareDay = some (s.time / dayNs) → exec (.spareDailyTest failed) s = .next s) ∧
    (∀ (failed : List Nat), s.easel.spareDay ≠ some (s.time / dayNs) →
      ∃ u, exec (.spareDailyTest failed) s = .next u ∧ u.easel.spareDay = some (s.time / dayNs) ∧ u.mem = s.mem ∧ u.streams = s.streams ∧
      (∀ q, q < 544 → (tileOf s q).st = .spareIdle → (tileOf u q).testRuns = satAdd 0xFFFF (tileOf s q).testRuns 1 ∧
        (tileOf u q).lastPass = !failed.contains q ∧ (q ∈ failed → (tileOf u q).role = .retired) ∧
        (q ∉ failed → (tileOf u q).role = (tileOf s q).role)) ∧
      (∀ (p : Nat) (t : Tile), mapFind s.tiles p = some t → t.st = .fault → t.placed = false → (tileOf u p).role = .retired))

/-- R463, R475 to R482, R485, R486: MEMBERSHIP_FRAME, MEMBER_LOSS, SELF_FENCE, MEMBER_REJOIN and REMIRROR_END. That MEMBER_LOSS is taken from the
sender without a check of the 2,000 ms is the model's reading (log entry 94), the layout of a frame its choice (log entry 20). -/
def Obligations.MembershipCompletes : Prop :=
  ∀ (s : State) (k : Nat) (m : Member), inFolio s = true → mapFind s.folio.members k = some m →
    (k ≠ s.folio.number → ∀ (faulted alive : Bool), exec (.membershipFrame k faulted alive) s = .next
      { s with folio.members := mapPut s.folio.members k
                 { m with lastFrame := s.time, lastAlive := if alive then s.time else m.lastAlive, faulted := faulted }
               folio.lastReach := if k = 0 then s.time else s.folio.lastReach }) ∧
    -- PD0's own frame leaves every 10 ms.
    (∀ (faulted alive : Bool),
      (s.resumed = true → periodOver s s.folio.frameAt 10_000_000 = false →
        exec (.membershipFrame s.folio.number faulted alive) s = .next s) ∧
      (periodOver s s.folio.frameAt 10_000_000 = true →
        ∃ u f, exec (.membershipFrame s.folio.number faulted alive) s = .next u ∧ u.host.replies = f :: s.host.replies ∧
          f.channel = .managementRing ∧ f.status = 1 ∧
          f.data.take 4 = [s.folio.number, b2n (faulted || s.integ.phase == .contained || s.power.phase == .committing),
            b2n !s.easel.restarting, s.folio.master].map (BitVec.ofNat 8) ∧
          { u with host.replies := s.host.replies, folio.frameAt := s.folio.frameAt } = s ∧ u.folio.frameAt = s.time)) ∧
    (k ≠ s.folio.number → (m.inService = true ∨ m.rejoining = true) →
      ∃ u, exec (.memberLoss k) s = .next u ∧ mapFind u.folio.members k = some { m with inService := false, rejoining := false } ∧
        (∀ j, j ≠ k → mapFind u.folio.members j = mapFind s.folio.members j) ∧
        u.recov.takeovers = satAdd 0xFF s.recov.takeovers 1 ∧ u.mem = s.mem ∧
        (k = 0 → u.folio.master = lowestInService u) ∧
        (s.integ.phase = .service → s.recov.mirrorActive = false → u.integ.phase = .service)) ∧
    -- A member without a path to the head for 1,000 ms leaves service and discards what it holds of contexts and objects.
    (k = s.folio.number → k ≠ 0 → m.inService = true → s.folio.lastReach + 1_000_000_000 ≤ s.time →
      ∃ u, exec .selfFence s = .next u ∧ mapFind u.folio.members k = some { m with inService := false } ∧ u.ctxs = [] ∧ u.reqs = [] ∧
        u.tables = [] ∧ u.indexes = [] ∧ u.vocabs = [] ∧ u.fronts = [] ∧ u.streams = [] ∧ u.host.window = [] ∧
        ∃ r rs, u.integ.recs = r :: rs ∧ r.cls = .recovery) ∧
    (s.time < s.folio.lastReach + 1_000_000_000 → exec .selfFence s = .next s) ∧
    (m.inService = false → m.rejoining = false →
      ∃ u m', exec (.memberRejoin k) s = .next u ∧ mapFind u.folio.members k = some m' ∧ m'.rejoining = true ∧ m'.inService = false ∧
        m'.lastFrame = s.time ∧ u.recov.mirrorActive = true ∧ u.recov.mirrorMember = k ∧ u.folio.lastReach = s.time ∧
        u.mem = s.mem ∧ u.tiles = s.tiles ∧ (s.integ.phase = .service → u.integ.phase = .recovery)) ∧
    (m.rejoining = true →
      ∃ u, exec (.remirrorEnd k) s = .next u ∧ mapFind u.folio.members k = some { m with inService := true, rejoining := false, since := s.time } ∧
        u.recov.mirrorActive = false ∧ u.recov.remirrors = satAdd 0xFF s.recov.remirrors 1 ∧ u.folio.remirrorStamp = s.time ∧
        u.mem = s.mem ∧ u.tiles = s.tiles ∧ (s.integ.phase = .recovery → u.integ.phase = .service)) ∧
    (m.rejoining = false → exec (.remirrorEnd k) s = .next s)

/-- R425 to R432: PORT_CHECK, PORT_RETRAIN, HATCH_LINK_FAILURE, HATCH_ACK_TIMEOUT, HATCH_LANE_LOSS, HATCH_REPLAY and DETOUR_END. The lanes of a
port that trains for the first time are the model's reading (log entry 90). -/
def Obligations.HatchPortsComplete : Prop :=
  ∀ (s : State) (p : Nat), p < 8 →
    (∀ (id : BitVec 64) (peer peerPort : Nat), ((portOf s p).st = .training ∨ (portOf s p).st = .checking) →
      (rightlyWired s p id peer peerPort = true →
        ∃ u, exec (.portCheck p id peer peerPort) s = .next u ∧ (portOf u p).peer = peer % 64 ∧
          (portOf u p).peerPort = peerPort % 8 ∧ (portOf u p).lanes = (if (portOf s p).st = .training then 4 else (portOf s p).lanes) ∧
          (portRole s.folio.topology p < 7 → (portOf u p).st = .up) ∧ u.mem = s.mem ∧ u.tiles = s.tiles) ∧
      (rightlyWired s p id peer peerPort = false →
        ∃ u, exec (.portCheck p id peer peerPort) s = .next u ∧ (portOf u p).st = .miswired ∧ u.streams = s.streams ∧
          (∀ q, q ≠ p → portOf u q = portOf s q) ∧ ∃ r rs, u.integ.recs = r :: rs ∧ r.cls = .link ∧ r.unitKind = 8 ∧ r.unit = p)) ∧
    (∀ lanes, (portOf s p).st = .failed → portDue s (portOf s p) 100_000_000 = true → 2 ≤ lanes →
      ∃ u, exec (.portRetrain p lanes) s = .next u ∧ (portOf u p).st = .checking ∧
        (portOf u p).lanes = (if lanes < 4 then 2 else 4) ∧ (∀ q, q ≠ p → portOf u q = portOf s q) ∧ u.streams = s.streams) ∧
    (∀ lanes, (portOf s p).st = .failed → portDue s (portOf s p) 100_000_000 = true → lanes < 2 →
      exec (.portRetrain p lanes) s = .next (updPort s p fun x => { x with since := s.time })) ∧
    (∀ lanes, ((portOf s p).st ≠ .failed ∨ portDue s (portOf s p) 100_000_000 = false) → exec (.portRetrain p lanes) s = .next s) ∧
    -- A port that loses its link, or whose sheets are not acknowledged, is FAILED.
    (((portOf s p).st = .training ∨ (portOf s p).st = .checking ∨ (portOf s p).st = .up ∨ (portOf s p).st = .spare ∨
        (portOf s p).st = .detour) →
      ∃ u, exec (.hatchLinkFailure p) s = .next u ∧ 
        ((portOf s p).replay ≠ [] → portDue s (portOf s p) 10_000 = true → exec (.hatchAckTimeout p) s = .next u) ∧
        (∀ lanes, lanes < 2 → exec (.hatchLaneLoss p lanes) s = .next u) ∧
        (portOf u p).st = .failed ∧ (portOf u p).lanes = 0 ∧ (portOf u p).failures = satAdd 0xFFFF (portOf s p).failures 1 ∧
        u.mem = s.mem ∧ u.tiles = s.tiles) ∧
    (((portOf s p).st = .off ∨ (portOf s p).st = .failed ∨ (portOf s p).st = .miswired) → exec (.hatchLinkFailure p) s = .next s) ∧
    (((portOf s p).replay = [] ∨ portDue s (portOf s p) 10_000 = false) → exec (.hatchAckTimeout p) s = .next s) ∧
    (∀ lanes, 2 ≤ lanes → lanes < 4 → (portOf s p).lanes = 4 →
      exec (.hatchLaneLoss p lanes) s = .next (updPort s p fun x => { x with lanes := 2 })) ∧
    (∀ k, k < (portOf s p).replay.length → ((portOf s p).st = .up ∨ (portOf s p).st = .detour) →
      exec (.hatchReplay p k) s = .next (updPort s p fun x => { x with replays := satAdd (ones 32) x.replays 1 })) ∧
    -- The spare link of a hop whose primary is up again returns to SPARE once its sheets are acknowledged.
    ((p = 6 ∨ p = 7) → detourOver s p = true → detourOver s (13 - p) = false →
      exec (.detourEnd p) s = .next (updPort s p fun x => { x with st := .spare }))

/-- R6, R433 to R437, R482, R553: TIMING_MARK, FOLIO_JOIN, TIME_FLOOR, MANAGEMENT_FRAME and MANAGEMENT_RING_BREAK. How slewing lets the count
gain a nanosecond, and what a frame does at a member that is not the head, are the model's reading (log entries 92, 93); what a
mark holds is its choice (log entry 20). -/
def Obligations.FolioTimeAndManagementComplete : Prop :=
  ∀ (s : State),
    (inFolio s = true → s.resumed = true → periodOver s s.folio.markAt 1_000 = true →
      -- Every 1 µs a mark leaves on each port that is UP.
      ((sendMarks { s with folio.markAt := s.time }).host.replies.length =
          s.host.replies.length + ((List.range 8).filter fun p => (portOf s p).st == .up).length ∧
        (∀ p, p < 8 → (portOf s p).st = .up →
          ⟨.hatchFrame, 1 + p, leBytes 8 s.time, []⟩ ∈ (sendMarks { s with folio.markAt := s.time }).host.replies) ∧
        { sendMarks { s with folio.markAt := s.time } with host.replies := s.host.replies } = { s with folio.markAt := s.time }) ∧
      (∀ t, t = sendMarks { s with folio.markAt := s.time } →
        (s.folio.master = 0 → s.folio.number ≠ 0 →
          exec (.timingMark none) s = .next { t with folio.holdover := true } ∧
          ∀ d : Int, s.folio.joined = true →
            (d < 0 → exec (.timingMark (some d)) s = .next (countNs { t with folio.holdover := false, folio.offset := d }) ∧
              (countNs { t with folio.holdover := false, folio.offset := d }).time = (s.time + 1) % 2 ^ 64) ∧
            (0 < d → exec (.timingMark (some d)) s =
              .next { t with folio.holdover := false, folio.offset := d, folio.slowTick := true })) ∧
        (s.folio.master ≠ 0 → inService s 0 = true → s.folio.number = 0 → ∀ o,
          exec (.timingMark o) s = .next { t with folio.master := 0 }))) ∧
    (s.resumed = true → periodOver s s.folio.markAt 1_000 = false → ∀ o, exec (.timingMark o) s = .next s) ∧
    (∀ count, inFolio s = true → isHead s = false → s.folio.joined = false →
      exec (.folioJoin count) s =
        .next { s with time := count % 2 ^ 64, folio.joined := true, folio.lastReach := count % 2 ^ 64 }) ∧
    (∀ count, (inFolio s = false ∨ isHead s = true ∨ s.folio.joined = true) → exec (.folioJoin count) s = .next s) ∧
    (periodOver s s.floor 60_000_000_000 = false → exec .timeFloor s = .next s) ∧
    (s.resumed = true → periodOver s s.floor 60_000_000_000 = true → ∃ u, exec .timeFloor s = .next u ∧ u.floor = s.time ∧ u.easel.log.head? = some (.timeFloor s.time) ∧
      { u with floor := s.floor, easel := s.easel } = s) ∧
    (∀ (dest : Nat) (payload : Bytes), inFolio s = true → domainOn s 0 = true →
      (dest ≠ s.folio.number → exec (.managementFrame dest payload) s =
        .next (sendReply s .managementRing (if s.folio.number ∈ s.folio.broken then 3 else 2) payload)) ∧
      (dest = s.folio.number → isHead s = true → exec (.managementFrame dest payload) s = .next (sendReply s .sideband 2 payload)) ∧
      (dest = s.folio.number → isHead s = false → exec (.managementFrame dest payload) s = .next s)) ∧
    (∀ m, inFolio s = true → m < folioSize s → m ∉ s.folio.broken →
      exec (.managementRingBreak m) s = .next { s with folio.broken := s.folio.broken ++ [m] })

/-- R487 to R502: PROTECTED_WINDOW_END, TILE_CAL_INTERVAL, LEVEL_TRACK, LEVEL_SWEEP and LEVEL_SWEEP_ADOPT. -/
def Obligations.CalibrationCompletes : Prop :=
  ∀ (s : State),
    (exec .protectedWindowEnd s = .next { s with cal.windows := s.cal.windows.filter fun w => decide (s.time < w.till) }) ∧
    -- A tile that has failed an interval takes one step of VOFS up, else of FREQ down, at its next stroke boundary.
    (∀ (p : Nat) (t : Tile), p < 544 → t = tileOf s p → s.cal.ctrl.getLsbD 1 = true → t.placed = true → t.change = none →
      (t.st = .ready ∨ t.st = .running ∨ t.st = .quiescing) → (t.faults.getLsbD faultCanary = true ∨ t.cal.lastRepeats < t.counts.repeats) →
      (∀ w ∈ s.cal.windows, s.time < w.till → coversTile w t = false) →
      s.time / 1_000_000 ≠ t.cal.interval →
      (t.vofs < calVmax s → ∃ u, exec (.tileCalInterval p) s = .next u ∧ (tileOf u p).change = some (t.freq, t.vofs + 1) ∧
        (tileOf u p).cal.stepsUp = satAdd (ones 24) t.cal.stepsUp 1 ∧ (tileOf u p).faults.getLsbD faultCanary = false ∧
        (tileOf u p).freq = t.freq ∧ (tileOf u p).vofs = t.vofs ∧ (∀ q, q ≠ p → tileOf u q = tileOf s q) ∧ u.mem = s.mem) ∧
      (calVmax s ≤ t.vofs → calFreqMin s < t.freq → ∃ u, exec (.tileCalInterval p) s = .next u ∧
        (tileOf u p).change = some (t.freq - 1, t.vofs) ∧ (∀ q, q ≠ p → tileOf u q = tileOf s q))) ∧
    -- Inside a protected window the change is held, and counted.
    (∀ (p : Nat) (t : Tile), p < 544 → t = tileOf s p → s.cal.ctrl.getLsbD 1 = true → t.placed = true →
      (t.st = .ready ∨ t.st = .running ∨ t.st = .quiescing) → t.faults.getLsbD faultCanary = true →
      s.time / 1_000_000 ≠ t.cal.interval →
      (∃ w ∈ s.cal.windows, s.time < w.till ∧ coversTile w t = true) →
      ∃ u, exec (.tileCalInterval p) s = .next u ∧ (tileOf u p).change = t.change ∧ (tileOf u p).cal.held = true ∧
        u.cal.heldChanges = satAdd (ones 32) s.cal.heldChanges 1 ∧ u.cal.log = s.cal.log) ∧
    -- Each tile is evaluated once in an interval.
    (∀ p, p < 544 → s.time / 1_000_000 = (tileOf s p).cal.interval → exec (.tileCalInterval p) s = .next s) ∧
    (∀ (unit : Nat) (slc : Bool) (x : DieCal), unit < 1024 + Config.fastDies → x = dieAt s (unitKey unit slc) →
      (calFlash s 16 16 ≤ x.reads → s.cal.ctrl.getLsbD 0 = true → protectedDie s unit = false → x.step = 0 →
        0 < x.n0 + x.n1 → calFlash s 8 8 * (x.n0 + x.n1) ≤ 100 * x.n1 →
        ∃ u y, exec (.levelTrack unit slc) s = .next u ∧ dieAt u (unitKey unit slc) = y ∧
          y.shift = max (-40) (min 40 (x.shift - 1)) ∧ y.reads = 0 ∧ y.n1 = 0 ∧ y.n0 = 0 ∧ y.ewReads = 0 ∧
          y.ewPpm = ppm x.ewReads x.reads ∧ y.due = decide (calFlash s 32 20 ≤ ppm x.ewReads x.reads) ∧
          (∀ j, j ≠ unitKey unit slc → dieAt u j = dieAt s j) ∧ u.mem = s.mem ∧ u.tiles = s.tiles) ∧
      (x.reads < calFlash s 16 16 → exec (.levelTrack unit slc) s = .next s) ∧
      -- A sweep reads all 15 offsets.
      (s.cal.ctrl.getLsbD 0 = true → x.due = true → x.sweeping = false → x.lastSweep = none → protectedDie s unit = false →
        ∃ u y, exec (.levelSweep unit slc) s = .next u ∧ dieAt u (unitKey unit slc) = y ∧ y.sweeping = true ∧ y.due = false ∧
          y.lastSweep = some s.time ∧ y.shift = x.shift ∧ u.stylus.nextId = s.stylus.nextId + 15 ∧ u.mem = s.mem ∧
          u.tiles = s.tiles) ∧
      (∀ (buckets : List Nat), x.sweeping = true → buckets.length = 15 →
        (protectedDie s unit = false → ∃ u y, exec (.levelSweepAdopt unit slc buckets) s = .next u ∧
          dieAt u (unitKey unit slc) = y ∧ y.shift = max (-40) (min 40 (x.shift + ((bestEntry buckets : Int) - 8))) ∧
          y.sweeping = false ∧ y.sweeps = satAdd 0xFFFF x.sweeps 1 ∧ u.mem = s.mem ∧ u.tiles = s.tiles) ∧
        (protectedDie s unit = true → x.held = false → ∃ u, exec (.levelSweepAdopt unit slc buckets) s = .next u ∧
          (dieAt u (unitKey unit slc)).shift = x.shift ∧ (dieAt u (unitKey unit slc)).sweeping = true ∧
          u.cal.heldChanges = satAdd (ones 32) s.cal.heldChanges 1)))

/-- R375, R503, R505 to R512, R569 to R571: INPUT_FAILURE, COMMIT_COMPLETE, BANK_EXHAUSTED, INPUT_RETURN, INSERTION, POWER_UP_STEP and
DOMAIN_GOOD_TIMEOUT. What a loss of power leaves, and the class of the record of it, are the model's reading (log entries 5, 99, 100). -/
def Obligations.PowerSequencesComplete : Prop :=
  ∀ (s : State),
    -- A failure of the input sheds the load and begins the commit of what staging holds.
    (∀ cause, s.power.phase = .running →
      ∃ u, exec (.inputFailure cause) s = .next u ∧ u.power.phase = .committing ∧ u.power.inputOk = false ∧ u.power.ready = false ∧
        u.host.ready = false ∧ u.host.rate = 0 ∧ u.media.commitBegun = true ∧ u.media.marker = false ∧
        u.media.manifest = s.media.staging.map (·.lba) ∧ u.media.staging = s.media.staging ∧
        (∀ d ∈ [1, 2, 3, 4, 5, 6, 7, 8, 9, 10, 11, 12, 14, 18], domainOn u d = false) ∧ u.mem = s.mem) ∧
    (∀ cause, (s.power.phase = .committing ∨ s.power.phase = .committed) → cause ≠ .removeReq →
      exec (.inputFailure cause) s = .next { s with power.inputOk := false }) ∧
    -- The commit ends with its marker and a record of the power loss.
    (s.power.phase = .committing → s.media.staging = [] → s.power.thermal = false → s.power.resetAfter = false →
      ∃ u r rest, exec .commitComplete s = .next u ∧ u.power.phase = .committed ∧ u.power.done = true ∧ u.media.marker = true ∧
        u.media.commitBegun = false ∧ u.easel.log = .errRec r :: rest ∧ r.persisted = true ∧
        (∀ d ∈ [13, 15, 16, 17], domainOn u d = false) ∧ u.mem = s.mem) ∧
    (s.power.phase ≠ .committing → exec .commitComplete s = .next s) ∧
    ((s.power.phase = .committing ∨ s.power.phase = .committed) →
      ∃ u, exec .bankExhausted s = .next u ∧ u.power.phase = .unpowered ∧ u.power.domains = 0 ∧ u.power.done = false ∧
        u.media = s.media) ∧
    -- What flash and the code store hold outlives the loss of power; nothing else does.
    ((s.power.phase = .committed ∨ s.power.phase = .waitInput ∨ s.power.phase = .unpowered) →
      ∃ u, exec .inputReturn s = .next u ∧ u.power.phase = .stepping ∧ u.power.upStep = 1 ∧ u.power.domains = 1 ∧
        u.media.sectors = s.media.sectors ∧ u.stylus.cs = s.stylus.cs ∧ u.stylus.counters = s.stylus.counters ∧
        u.stylus.lock = false ∧ u.stylus.bootMode = true ∧ u.easel.log = s.easel.log ∧ u.mem = [] ∧ u.ctxs = [] ∧ u.reqs = [] ∧
        u.streams = [] ∧ u.tables = [] ∧ u.indexes = [] ∧ u.host.sqs = [] ∧ u.host.ready = false ∧ u.integ.phase = .startUp ∧
        u.pending = s.pending ∧ ∀ p, (tileOf u p).role = (tileOf s p).role) ∧
    (s.power.phase = .running → exec .inputReturn s = .next
      { s with power.inputOk := true, power.removeReq := false, power.cycled := s.power.cycled || !s.power.inputOk }) ∧
    (∀ n, (s.power.phase = .unpowered → ∃ u, exec (.insertion n) s = .next u ∧ u.power.phase = .stepping ∧ u.power.upStep = 1 ∧
        u.power.sbAddr = n % 8 ∧ u.power.domains = 1 ∧ u.stylus.cs = s.stylus.cs) ∧
      (s.power.phase ≠ .unpowered → exec (.insertion n) s = .next s)) ∧
    -- Power-up goes on step by step.
    (∀ flow, s.power.phase = .stepping → 1 ≤ s.power.upStep → s.power.upStep ≤ 4 → (s.power.upStep = 2 → 80 ≤ flow) →
      ∃ u, exec (.powerUpStep flow) s = .next u ∧ u.power.phase = .stepping ∧ u.power.upStep = s.power.upStep + 1 ∧
        u.power.flow = flow ∧ (∀ d ∈ stepDomains (s.power.upStep + 1), domainOn u d = true) ∧
        (∀ d, domainOn s d = true → domainOn u d = true) ∧ u.mem = s.mem) ∧
    (∀ flow, s.power.phase = .stepping → s.power.upStep = 5 →
      exec (.powerUpStep flow) s = .next { s with power.flow := flow, power.phase := .running }) ∧
    (∀ flow, s.power.phase = .stepping → s.power.upStep = 2 → flow < 80 →
      ∃ u, exec (.powerUpStep flow) s = .next u ∧ u.power.phase = .thermalHold ∧ ∀ d, d ≠ 0 → domainOn u d = false) ∧
    (∀ d, d < 20 → (s.power.phase = .stepping → d ∈ stepDomains s.power.upStep →
        ∃ u, exec (.domainGoodTimeout d) s = .next u ∧ u.power.phase = .stopped ∧ (∀ e, e ≠ 0 → domainOn u e = false) ∧
          u.media = s.media) ∧
      (s.power.phase ≠ .stepping → exec (.domainGoodTimeout d) s = .next s))

/-- R505 to R507, R513 to R518, R520: BANK_MEASUREMENT, BANK_MEASUREMENT_END, BANK_CHARGED, THROTTLE_WINDOW, SURGE and THERMAL_STOP. The mean
over fewer than ten windows and the derating before a first sample are the model's reading (log entries 14, 101). -/
def Obligations.BankAndThrottlingComplete : Prop :=
  ∀ (s : State),
    (s.power.measuredDay = some (s.time / dayNs) → exec .bankMeasurement s = .next s) ∧
    (s.power.measuredDay ≠ some (s.time / dayNs) → s.power.measuring = false → domainOn s 19 = true → s.power.phase ≠ .committing →
      (s.media.staging.length ≤ 256 * stageLimit (usableFrom50 s.power.emeasMj) →
        exec .bankMeasurement s = .next { s with
          power.stageMib := stageLimit (usableFrom50 s.power.emeasMj), power.measuring := true
          power.measuredDay := some (s.time / dayNs) }) ∧
      (256 * stageLimit (usableFrom50 s.power.emeasMj) < s.media.staging.length →
        exec .bankMeasurement s = .next { s with power.stageMib := stageLimit (usableFrom50 s.power.emeasMj) })) ∧
    (∀ mJ, s.power.measuring = true → s.media.waiting = [] →
      (2395 ≤ mJ → exec (.bankMeasurementEnd mJ) s = .next { s with
        power.measuring := false, power.emeasMj := mJ, power.stageMib := min 1024 (64 * ((mJ - 2020) / 375))
        power.holdupFail := false }) ∧
      (mJ < 2395 → ∃ u, exec (.bankMeasurementEnd mJ) s = .next u ∧ u.power.holdupFail = true ∧ u.power.stageMib = 0 ∧
        writesStopped u = true ∧ u.media = s.media)) ∧
    (s.power.measuring = false → ∀ mJ, exec (.bankMeasurementEnd mJ) s = .next s) ∧
    (∀ mV, 52500 ≤ mV → mV ≤ 53500 → s.power.emeasMj ≠ 0 → s.power.measuring = false → s.power.phase = .running →
      s.media.waiting = [] → exec (.bankCharged mV) s = .next { s with power.bankMv := mV, power.ready := true }) ∧
    (∀ mV, (mV < 52500 ∨ 53500 < mV) → exec (.bankCharged mV) s = .next { s with power.bankMv := mV }) ∧
    -- The cap at the end of a window: 4 less over budget, 4 less at a throttle limit, 1 more well under budget; never below 40.
    (∀ (obs : PowerObs), domainOn s 0 = true → otherWindow s s.power.window 1_000_000 = true → obs.temps.length = 24 → s.power.phase = .running → 80 ≤ obs.flow →
      (∀ n t, obs.temps[n]? = some t → t < 8 * criticalC n) →
      ∃ u, exec (.throttleWindow obs) s = .next u ∧ u.power.phase = .running ∧ u.power.window = s.time / 1_000_000 ∧ u.power.flow = obs.flow ∧
        u.power.inputMv = obs.inputMv ∧ u.power.means = (obs.meanW :: s.power.means).take 10 ∧ u.power.surged = false ∧
        40 ≤ u.power.freqCap ∧
        ((∀ n t, obs.temps[n]? = some t → t < 8 * throttleC n) →
          (overBudget u = true → u.power.freqCap = max 40 (s.power.freqCap - 4)) ∧
          (overBudget u = false → s.power.surged = false → wellUnderBudget u = true →
            u.power.freqCap = min 132 (max 40 s.power.freqCap + 1)) ∧
          (overBudget u = false → wellUnderBudget u = false → u.power.freqCap = max 40 s.power.freqCap)) ∧
        ((∃ n t, obs.temps[n]? = some t ∧ 8 * throttleC n ≤ t) →
          u.power.freqCap = max 40 (s.power.freqCap - (if overBudget u then 4 else 0) - 4)) ∧
        (∀ n t, obs.temps[n]? = some t → (sensorOf u n).reading = t) ∧ u.mem = s.mem ∧ u.tiles = s.tiles) ∧
    (∀ (obs : PowerObs), otherWindow s s.power.window 1_000_000 = false → exec (.throttleWindow obs) s = .next s) ∧
    -- Too little coolant, or a reading at its critical limit, stops the module after a commit.
    (∀ (obs : PowerObs), domainOn s 0 = true → otherWindow s s.power.window 1_000_000 = true → obs.temps.length = 24 → s.power.phase = .running → obs.flow < 80 →
      ∃ u, exec (.throttleWindow obs) s = .next u ∧ u.power.phase = .committing ∧ u.power.thermal = true) ∧
    (∀ (n : Nat) (t : Int), n < 24 →
      (8 * criticalC n ≤ t → s.power.phase = .running →
        ∃ u, exec (.thermalStop n t) s = .next u ∧ u.power.phase = .committing ∧ u.power.thermal = true ∧
          (sensorOf u n).reading = t) ∧
      (t < 8 * criticalC n → ∃ u, exec (.thermalStop n t) s = .next u ∧ { u with power.sensors := s.power.sensors } = s ∧
        (sensorOf u n).reading = t ∧ (sensorOf u n).maximum = max (sensorOf s n).maximum t)) ∧
    (∀ w, 1050 < w → domainOn s 0 = true → exec (.surge w) s = .next { s with
      power.freqCap := min s.power.freqCap 80, power.surges := satAdd 0xFFFF s.power.surges 1, power.surged := true
      power.peakW := min 0xFFFF (max s.power.peakW w), power.windowPeak := min 0xFFFF (max s.power.windowPeak w) }) ∧
    (∀ w, w ≤ 1050 → exec (.surge w) s = .next s)

/-- R521, R524, R531, R533, R540: BOOT_ROM, STAGE_1 and BOOT_STAGE_TIMEOUT. The constants of SHA-256 and HKDF are those of the standards, and the
digests cover whole images (log entries 17, 103). -/
def Obligations.BootStagesComplete : Prop :=
  ∀ (s : State),
    -- The boot ROM starts stage 1 from the slot it chooses, or the boot stops.
    ((s.power.phase = .running ∨ (s.power.phase = .stepping ∧ 4 ≤ s.power.upStep)) → s.boot.romDone = false →
      s.boot.stopped = false →
      (∀ (slot : Nat) (img : Bytes), chooseSlot (romIdentity s) 0 = some (slot, img) →
        ∃ u, exec .bootRom s = .next u ∧ u.boot.romDone = true ∧ u.boot.stage = 1 ∧ u.boot.stopped = false ∧
          u.boot.st1Slot = slot ∧ u.boot.st1Svn = u32 img 8 ∧ u.boot.st1Digest = sha256 img ∧
          u.boot.layerSecret = some (derive (romSecret s ++ sha256 img) labelLayer1) ∧
          mapFind u.stylus.regions 0 = some region0 ∧ (s.boot.dbgLevel = 2 → u.boot.deviceKey = none) ∧
          (s.boot.dbgLevel ≠ 2 → u.boot.deviceKey.isSome) ∧ u.boot.aliasKey = s.boot.aliasKey ∧ u.mem = s.mem ∧ u.tiles = s.tiles) ∧
      (chooseSlot (romIdentity s) 0 = none →
        ∃ u, exec .bootRom s = .next u ∧ u.boot.stopped = true ∧ u.boot.romDone = false ∧ u.integ.phase = s.integ.phase ∧
          u.tiles = s.tiles ∧ u.mem = s.mem)) ∧
    ((s.boot.romDone = true ∨ s.boot.stopped = true ∨ s.power.phase = .unpowered) → exec .bootRom s = .next s) ∧
    -- Stage 1 applies the layout and the records, then starts the firmware and sets LOCK.
    (s.boot.romDone = true → s.boot.stage1Done = false → s.boot.stopped = false →
      (∀ (t : State) (slot : Nat) (img : Bytes),
        applyLayout (resumeTime s) (((tchilava (resumeTime s) (recordsIn (resumeTime s)) 0x01).map fun r => r.2.1).getD []) = some t →
        chooseSlot (applyRecords t (recordsIn (resumeTime s))) 1 = some (slot, img) →
        ∃ u, exec .stage1 s = .next u ∧ u.boot.stage1Done = true ∧ u.stylus.lock = true ∧ u.stylus.bootMode = false ∧
          u.boot.layerSecret = none ∧ u.boot.fwSlot = slot ∧ u.boot.fwSvn = u32 img 8 ∧ u.boot.fwDigest = sha256 img ∧
          u.resumed = true ∧ u.boot.stopped = false ∧
          (s.boot.dbgLevel = 2 → u.boot.aliasKey = none) ∧
          (s.boot.dbgLevel ≠ 2 → s.boot.identityFail = false →
            u.boot.aliasKey = some (derive (beBytes 32 (s.boot.layerSecret.getD 0).toNat ++ sha256 img) labelAlias)) ∧
          u.mem = s.mem ∧ u.host.ready = s.host.ready) ∧
      (∀ (t : State),
        applyLayout (resumeTime s) (((tchilava (resumeTime s) (recordsIn (resumeTime s)) 0x01).map fun r => r.2.1).getD []) = some t →
        chooseSlot (applyRecords t (recordsIn (resumeTime s))) 1 = none →
        ∃ u, exec .stage1 s = .next u ∧ u.boot.stopped = true ∧ u.boot.stage1Done = false) ∧
      (applyLayout (resumeTime s) (((tchilava (resumeTime s) (recordsIn (resumeTime s)) 0x01).map fun r => r.2.1).getD []) = none →
        ∃ u, exec .stage1 s = .next u ∧ u.boot.stopped = true ∧ u.boot.stage1Done = false ∧ u.stylus.lock = s.stylus.lock)) ∧
    ((s.boot.romDone = false ∨ s.boot.stage1Done = true ∨ s.boot.stopped = true) → exec .stage1 s = .next s) ∧
    -- Folio time resumes 60 s after the last floor of the persistent log, and starts from 0 at the first power-up of all. That it never runs
    -- backwards across a reset, and that the start counts as a floor of 0, are the model's reading (log entry 123).
    (∀ (f : Nat) (rest : List LogEntry), s.timeStarted = true → s.easel.log = .timeFloor f :: rest →
      (resumeTime s).time = max ((f + 60_000_000_000) % 2 ^ 64) s.lastTime) ∧
    (s.timeStarted = true → s.easel.log = [] → (resumeTime s).time = max 60_000_000_000 s.lastTime) ∧
    (s.timeStarted = false → (resumeTime s).time = 0) ∧
    -- A stage that exceeds its bound stops the boot.
    (s.boot.stopped = false → s.boot.stage < 2 → (s.power.phase = .running ∨ s.power.phase = .stepping) →
      ∃ u, exec .bootStageTimeout s = .next u ∧ u.boot.stopped = true ∧ u.integ.phase = s.integ.phase ∧
        u.boot.stage = s.boot.stage ∧ u.media = s.media ∧ u.mem = s.mem) ∧
    ((s.boot.stopped = true ∨ 2 ≤ s.boot.stage ∨ s.power.phase = .unpowered) → exec .bootStageTimeout s = .next s)

/-- R374, R376, R454, R463, R521, R524, R530, R532, R555: EASEL_FIRMWARE_START, RESTORE, FIRMWARE_CONFIRM and FIRMWARE_RESTART_END. -/
def Obligations.FirmwareStartsRestoresAndConfirms : Prop :=
  ∀ (s : State),
    (∀ (failed : List Nat), s.boot.stage1Done = true → s.boot.stage = 1 → s.boot.stopped = false → s.power.phase = .running →
      ∃ u, exec (.easelFirmwareStart failed) s = .next u ∧ u.boot.stage = 2 ∧ u.host.ready = true ∧ u.integ.phase = .service ∧
        u.integ.ceLog = decide (16 ≤ folioSize s) ∧ u.easel.lastClear = s.time ∧ u.easel.serviceFrom = s.time ∧
        u.media.manifest = [] ∧ u.media.commitBegun = false ∧
        u.media.health.commitIncomplete = (s.media.commitBegun && !s.media.marker) ∧
        (s.media.commitBegun = true → s.media.marker = false →
          (∀ l, l ∈ s.media.manifest → (mapFind u.media.poisoned l).isSome) ∧
          u.media.health.lostSectors = satAdd (ones 32) s.media.health.lostSectors s.media.manifest.length) ∧
        ((s.media.commitBegun = false ∨ s.media.marker = true) → u.media.poisoned = s.media.poisoned) ∧
        (s.boot.rolesLost = true → ∀ p, p < Config.tiles → failed.contains p = true → (tileOf u p).role = .retired) ∧
        (s.boot.rolesLost = false → s.folio.topology = 0 → u.tiles = s.tiles) ∧ u.mem = s.mem) ∧
    (∀ (failed : List Nat), (s.boot.stage1Done = false ∨ s.boot.stage ≠ 1 ∨ s.boot.stopped = true) →
      exec (.easelFirmwareStart failed) s = .next s) ∧
    (s.boot.stage = 2 → s.integ.phase ≠ .startUp →
      (isHead s = false → exec .restore s = .next { s with boot.stage := 3 }) ∧
      (isHead s = true → s.boot.policy.contexts = [] → s.boot.policy.objects = [] →
        exec .restore s = .next { s with boot.stage := 3 }) ∧
      (∀ (i : Nat) (r : Bytes) (id : BitVec 64) (t : State), isHead s = true → s.boot.policy.contexts = [(i, r, id)] →
        s.boot.policy.objects = [] → configureCtx s r = some t →
        exec .restore s = .next { submitLoad t none (u8 r 0) id with boot.stage := 3 })) ∧
    ((s.boot.stage ≠ 2 ∨ s.integ.phase = .startUp) → exec .restore s = .next s) ∧
    -- After 600 s of service the images that run are confirmed.
    (s.integ.phase = .service → 2 ≤ s.boot.stage → s.boot.identityFail = false → s.boot.deviceKey ≠ none → s.easel.restarting = false →
      (s.easel.serviceFrom + 600_000_000_000 ≤ s.time →
        ∃ u, exec .firmwareConfirm s = .next u ∧ u.boot.fwConfirmed = true ∧
          (counterOf s 1 < s.boot.fwSvn → (1, s.boot.fwSvn, s.boot.fwSlot) ∈ u.boot.confirms) ∧
          (counterOf s 0 < s.boot.st1Svn → (0, s.boot.st1Svn, s.boot.st1Slot) ∈ u.boot.confirms) ∧
          (∀ c, c ∈ s.boot.confirms → c ∈ u.boot.confirms) ∧
          (∀ i e, mapFind u.cache i = some e → e.validated = false) ∧
          { u with boot.confirms := s.boot.confirms, boot.fwConfirmed := s.boot.fwConfirmed, cache := s.cache } = s) ∧
      (s.time < s.easel.serviceFrom + 600_000_000_000 → exec .firmwareConfirm s = .next s)) ∧
    -- Easel firmware runs again after a watchdog reset.
    (s.easel.restarting = true → exec .firmwareRestartEnd s = .next { s with easel.restarting := false, easel.lastClear := s.time }) ∧
    (s.easel.restarting = false → exec .firmwareRestartEnd s = .next s)

/-- R545, R548, R549, R551, R552, R555: EASEL_DISPATCH, OVERLOAD_END, TELEMETRY_FRAME, DECIMATION_TICK, WATCHDOG_EXPIRY and
HEALTH_SNAPSHOT_REFRESH. That class queues hold arrival stamps, the first frame's SEQ and the layout of the health data are the model's reading
(log entries 33, 106, 107). -/
def Obligations.EaselEventsComplete : Prop :=
  ∀ (s : State),
    (easelRuns s = true →
      -- Strict priority by class, each class in order of arrival.
      (∀ (ns : Nat),
        (s.easel.lastClear + 100_000_000 ≤ s.time → exec (.easelDispatch ns) s = .next { s with easel.lastClear := s.time }) ∧
        (s.time < s.easel.lastClear + 100_000_000 →
          (∀ (a : Nat) (r : List Nat), s.easel.q1 = a :: r →
            exec (.easelDispatch ns) s = .next { s with easel.q1 := r, easel.lastClear := s.time }) ∧
          (∀ (a : Nat) (r : List Nat), s.easel.q1 = [] → s.easel.q2 = a :: r →
            exec (.easelDispatch ns) s = .next { s with easel.q2 := r }) ∧
          (∀ (a : Nat) (r : List Nat), s.easel.q1 = [] → s.easel.q2 = [] → s.easel.q3 = a :: r →
            ∃ u, exec (.easelDispatch ns) s = .next u ∧ u.easel.q3 = r ∧ u.easel.services = (ns :: s.easel.services).take 1024 ∧
              u.easel.q4 = s.easel.q4 ∧ (s.easel.overload = true → u.easel.overload = true) ∧ { u with easel := s.easel } = s) ∧
          (∀ (a : Nat) (r : List Nat), s.easel.q1 = [] → s.easel.q2 = [] → s.easel.q3 = [] → s.easel.q4 = a :: r →
            exec (.easelDispatch ns) s = .next { s with easel.q4 := r }) ∧
          (s.easel.q1 = [] → s.easel.q2 = [] → s.easel.q3 = [] → s.easel.q4 = [] → exec (.easelDispatch ns) s = .next s))) ∧
      -- The end of a window fixes what its frame holds, as the machine stands then (R8, R551); the frame is formed if decimation leaves it.
      (s.time ≠ 0 → 0 < s.easel.telemMs.toNat → s.time % (s.easel.telemMs.toNat * 1_000_000) = 0 →
        ∃ f, (endWindow s).easel.ended = s.easel.ended ++ [(s.time / (s.easel.telemMs.toNat * 1_000_000) - 1, f)] ∧
          f.stamp = s.time - s.easel.telemMs.toNat * 1_000_000 ∧ f.decim = s.easel.decim ∧
          f.inputW = s.power.inputW ∧ f.peakW = s.power.windowPeak ∧ f.freqCap = s.power.freqCap ∧ f.flow = s.power.flow ∧
          f.stage = s.media.stage.code ∧ f.temps.length = 24 ∧ (endWindow s).power.windowPeak = 0) ∧
      (s.easel.ended = [] → exec .telemetryFrame s = .next s) ∧
      (∀ (k : Nat) (f : Frame551) (rest : List (Nat × Frame551)), s.easel.ended = (k, f) :: rest →
        (k % 2 ^ f.decim = 0 →
          ∃ u g, exec .telemetryFrame s = .next u ∧ u.easel.frames = (g :: s.easel.frames).take 4096 ∧ g = { f with seq := g.seq } ∧
            (s.easel.frames ≠ [] → g.seq = (s.easel.frameSeq + 1) % 2 ^ 32) ∧ u.easel.frameSeq = g.seq ∧ u.easel.ended = rest ∧
            u.easel.q4 = s.easel.q4 ++ [s.time] ∧ { u with easel := s.easel } = s) ∧
        (k % 2 ^ f.decim ≠ 0 → exec .telemetryFrame s = .next { s with easel.ended := rest })) ∧
      -- The third expiry in one window of 600 s resets the module after a commit.
      (s.easel.lastClear + 500_000_000 ≤ s.time →
        (∃ u, exec .watchdogExpiry s = .next u ∧ u.easel.restarting = true ∧ u.easel.q3 = [] ∧
          u.easel.restarts = satAdd 0xFFFF s.easel.restarts 1 ∧ (∃ rest, u.easel.log = .watchdog s.time :: rest) ∧
          u.easel.serviceFrom = s.time ∧ u.ctxs = s.ctxs ∧ u.mem = s.mem ∧
          ((s.easel.expiries.filter fun t => t / 600_000_000_000 == s.time / 600_000_000_000).length < 2 →
            u.power = s.power ∧ u.tiles = s.tiles) ∧
          (2 ≤ (s.easel.expiries.filter fun t => t / 600_000_000_000 == s.time / 600_000_000_000).length →
            s.power.phase = .running → u.power.phase = .committing ∧ u.power.resetAfter = true))) ∧
      (s.time < s.easel.lastClear + 500_000_000 → exec .watchdogExpiry s = .next s)) ∧
    (easelRuns s = false →
      (∀ (ns : Nat), exec (.easelDispatch ns) s = .next s) ∧ exec .telemetryFrame s = .next s ∧ exec .watchdogExpiry s = .next s) ∧
    (∀ (t : Nat), s.easel.overload = true → easelFull s = false → s.easel.q3.length < 32 → oldestWaited s 2000000 = false →
      s.easel.calmFrom = some t → t + 100_000_000 ≤ s.time →
      exec .overloadEnd s = .next { s with easel.overload := false, easel.lastTick := s.time }) ∧
    (s.easel.overload = true → 32 ≤ s.easel.q3.length → ∃ u, exec .overloadEnd s = .next u ∧ u.easel.overload = true) ∧
    (s.easel.overload = true → max s.easel.lastTick s.easel.overloadFrom + 100_000_000 ≤ s.time →
      exec .decimationTick s = .next { s with easel.decim := min 4 (s.easel.decim + 1), easel.lastTick := s.time }) ∧
    (s.easel.overload = false → s.easel.lastTick + 100_000_000 ≤ s.time →
      exec .decimationTick s = .next { s with easel.decim := s.easel.decim - 1, easel.lastTick := s.time }) ∧
    (s.time < s.easel.lastTick + 100_000_000 → exec .decimationTick s = .next s) ∧
    (domainOn s 0 = true → periodOver s s.easel.healthAt 10_000_000 = true →
      exec .healthSnapshotRefresh s = .next { s with
        freeCtr := s.freeCtr + 1, easel.health := healthNow s s.freeCtr, easel.healthAt := s.time }) ∧
    (s.resumed = true → periodOver s s.easel.healthAt 10_000_000 = false → exec .healthSnapshotRefresh s = .next s)

/-- R517, R545 to R547, R550, R554, R556: POWER_ON, TEST_START, TEST_END and TEST_STATUS. The bytes of the answers, that a test is refused with
the byte 0, and what a restart of Easel answers are the model's choice and reading (log entries 44, 109). -/
def Obligations.SidebandTestsComplete : Prop :=
  ∀ (s : State) (member : Nat),
    (domainOn s 0 = true → Own s member →
      (s.power.phase = .thermalHold → cooled s = true → s.media.fold = none →
        ∃ u, exec (.powerOn member) s = .next u ∧ u.power.phase = .stepping ∧ u.power.upStep = 1 ∧ u.power.domains = 1 ∧
          Replies s u .sideband 0 [1]) ∧
      ((s.power.phase ≠ .thermalHold ∨ cooled s = false) →
        ∃ u, exec (.powerOn member) s = .next u ∧ u.power = s.power ∧ Replies s u .sideband 0 [0] ∧ AnswersOnly s u) ∧
      (∀ kind, 2 < kind → ∃ u, exec (.testStart member kind) s = .next u ∧ Replies s u .sideband 4 [] ∧ AnswersOnly s u)) ∧
    (MiReady s → Own s member →
      (∀ kind, kind ≤ 2 → s.integ.phase = .service → (∀ x, s.easel.test = some x → x.running = false) →
        ∃ u x, exec (.testStart member kind) s = .next u ∧ Replies s u .sideband 0 [1] ∧ u.integ.phase = .test ∧
          u.easel.test = some x ∧ x.kind = kind ∧ x.running = true ∧ x.failed = 0 ∧
          (kind = 0 → ∀ p, p < Config.tiles → (tileOf s p).st = .spareIdle → (tileOf u p).st = .testing) ∧
          (∀ p, (kind ≠ 0 ∨ (tileOf s p).st ≠ .spareIdle) → tileOf u p = tileOf s p) ∧ u.mem = s.mem) ∧
      (∀ kind, kind ≤ 2 → (s.integ.phase ≠ .service ∨ ∃ x, s.easel.test = some x ∧ x.running = true) →
        ∃ u, exec (.testStart member kind) s = .next u ∧ Replies s u .sideband 0 [0] ∧ u.easel.test = s.easel.test ∧ AnswersOnly s u) ∧
      ((noteOverload s).easel.overload = false ∨ (∀ x, s.easel.test = some x → x.running = false) →
        (s.easel.test = none →
          ∃ u, exec (.testStatus member) s = .next u ∧ Replies s u .sideband 0 (zeros 6) ∧ AnswersOnly s u) ∧
        (∀ x, s.easel.test = some x →
          ∃ u, exec (.testStatus member) s = .next u ∧ AnswersOnly s u ∧ Replies s u .sideband 0
            (leBytes 1 (if x.running then 1 else 2) ++ leBytes 1 x.kind ++ leBytes 2 x.tested ++ leBytes 2 x.failed)))) ∧
    -- While Easel restarts, or is overloaded, the answer is More Processing Required with a retry time.
    (domainOn s 0 = true → s.easel.restarting = true → Own s member →
      ∀ kind, kind ≤ 2 → ∃ u, exec (.testStart member kind) s = .next u ∧ Replies s u .sideband 1 (leBytes 4 1_000_000) ∧
        u.easel.refusals = satAdd 0xFFFF s.easel.refusals 1 ∧ AnswersOnly s u) ∧
    (domainOn s 0 = true → s.easel.restarting = false → easelRefuses s = true → Own s member →
      ∀ kind, kind ≤ 2 → ∃ u, exec (.testStart member kind) s = .next u ∧ Replies s u .sideband 1 (leBytes 4 (retryUs s.easel)) ∧
        u.easel.refusals = satAdd 0xFFFF s.easel.refusals 1 ∧ AnswersOnly s u) ∧
    (∀ failed x, s.easel.test = some x → x.running = true → (x.kind = 2 → s.power.measuring = false) →
      ∃ u y, exec (.testEnd failed) s = .next u ∧ u.easel.test = some y ∧ y.running = false ∧ y.kind = x.kind ∧
        (∃ rest, u.easel.log = .testResult x.kind x.tested y.failed s.time :: rest) ∧
        (x.kind = 2 → y.failed = b2n s.power.holdupFail) ∧
        (s.integ.phase = .test → u.integ.phase = .service) ∧ (s.integ.phase ≠ .test → u.integ.phase = s.integ.phase) ∧
        (x.kind = 0 → ∀ p, p < Config.tiles → (tileOf s p).st = .testing →
          (failed.contains p = true → (tileOf u p).role = .retired ∧ (tileOf u p).st = .retired) ∧
          (failed.contains p = false → (tileOf s p).role = .spare → (tileOf u p).st = .spareIdle)) ∧
        (x.kind ≠ 0 → u.tiles = s.tiles)) ∧
    (∀ failed, (s.easel.test = none ∨ ∃ x, s.easel.test = some x ∧ x.running = false) → exec (.testEnd failed) s = .next s)

/-- R455, R462, R545 to R547, R551, R553, R556: TELEMETRY_READ, RECORDS_READ, CE_CLEAR and the way to another member. The layout of the answers
and the bytes of entries that are no error records are the model's choice (log entries 40, 44). -/
def Obligations.SidebandReadsComplete : Prop :=
  ∀ (s : State) (member start : Nat),
    (domainOn s 0 = true → Own s member →
      (∃ u, exec (.telemetryRead member 0 start) s = .next u ∧ AnswersOnly s u ∧
        Replies s u .sideband 0 (((s.easel.frames.drop start).take 32).flatMap frameBytes)) ∧
      (∃ u, exec (.telemetryRead member 1 start) s = .next u ∧ AnswersOnly s u ∧
        Replies s u .sideband 0 (((s.cal.log.drop start).take 32).flatMap fun e => (calEntryWords e).flatMap fun w => leBytes 8 w.toNat)) ∧
      (start < 573 → s.integ.ceLog = true →
        ∃ u, exec (.telemetryRead member 2 start) s = .next u ∧ AnswersOnly s u ∧
          Replies s u .sideband 0 ((List.range 64).flatMap (ceEntryBytes s start))) ∧
      (∀ select, 2 < select → ∃ u, exec (.telemetryRead member select start) s = .next u ∧ Replies s u .sideband 4 [] ∧ AnswersOnly s u) ∧
      (∃ u, exec (.recordsRead member 0 start) s = .next u ∧
        Replies s u .sideband 0 (((s.integ.recs.drop start).take 16).flatMap recBytes) ∧
        u.integ.recs = (s.integ.recs.take start) ++
          ((s.integ.recs.drop start).take 16).map (fun r => { r with readBack := true }) ++ s.integ.recs.drop (start + 16) ∧
        AnswersOnly s { u with integ.recs := s.integ.recs }) ∧
      (∃ u data, exec (.recordsRead member 1 start) s = .next u ∧ Replies s u .sideband 0 data ∧ AnswersOnly s u ∧
        data.length = 64 * min 16 (s.easel.log.length - start)) ∧
      (∀ source, 1 < source → ∃ u, exec (.recordsRead member source start) s = .next u ∧ Replies s u .sideband 4 [] ∧ AnswersOnly s u)) ∧
    (MiReady s → Own s member →
      ∀ source, source < 573 → mapWf s.integ.ce = true → ∃ u, exec (.ceClear member source) s = .next u ∧ Replies s u .sideband 0 [] ∧
        mapFind u.integ.ce source = none ∧ (∀ x, x ≠ source → mapFind u.integ.ce x = mapFind s.integ.ce x) ∧
        AnswersOnly s { u with integ.ce := s.integ.ce }) ∧
    -- A command for another member travels over the management ring, or is answered with Invalid Parameter.
    (domainOn s 0 = true → ¬ Own s member →
      (inFolio s = true → member < folioSize s → inService s member = true → s.folio.broken = [] →
        ∃ u data, exec (.recordsRead member 0 start) s = .next u ∧ Replies s u .managementRing 2 data ∧ AnswersOnly s u ∧
          data.take 2 = [0xC4, BitVec.ofNat 8 member]) ∧
      ((inFolio s = false ∨ folioSize s ≤ member ∨ inService s member = false) →
        ∃ u, exec (.recordsRead member 0 start) s = .next u ∧ Replies s u .sideband 4 [] ∧ AnswersOnly s u)) ∧
    (domainOn s 0 = false → ∀ x, exec (.recordsRead member x start) s = .next s)

/-- R410, R545, R550, R556: the standard sideband commands. The configuration identifiers and the bytes that NVMe-MI gives are taken from that
standard (log entries 33, 45). -/
def Obligations.SidebandStandardCommandsComplete : Prop :=
  ∀ (s : State), (MiReady s →
    (∀ (dtyp port n : Nat), miStructLength dtyp = some n →
      ∃ u data, exec (.readNvmeMiDataStructure dtyp port) s = .next u ∧ Replies s u .sideband 0 data ∧ data.length = n ∧
        (dtyp = 1 → u16 data 2 = 64) ∧ AnswersOnly s u) ∧
    (∀ (dtyp port : Nat), 4 < dtyp →
      ∃ u, exec (.readNvmeMiDataStructure dtyp port) s = .next u ∧ Replies s u .sideband 4 [] ∧ AnswersOnly s u) ∧
    (∀ (id : Nat), 1 ≤ id → id ≤ 3 → ∃ u, exec (.configurationGet id) s = .next u ∧ AnswersOnly s u ∧
      Replies s u .sideband 0 (leBytes 4 (mapGet s.easel.miConfig id (if id = 3 then 64 else 0)))) ∧
    (∀ (id value : Nat), 1 ≤ id → id ≤ 3 → (id = 3 → value = 64) → ∃ u, exec (.configurationSet id value) s = .next u ∧
      Replies s u .sideband 0 [] ∧ mapFind u.easel.miConfig id = some (value % 2 ^ 32) ∧ AnswersOnly s u) ∧
    (∀ (id value : Nat), (id = 0 ∨ 3 < id ∨ (id = 3 ∧ value ≠ 64)) →
      ∃ u, exec (.configurationSet id value) s = .next u ∧ Replies s u .sideband 4 [] ∧ u.easel.miConfig = s.easel.miConfig ∧
        AnswersOnly s u) ∧
    (∀ (off n : Nat), ∃ u data, exec (.vpdRead off n) s = .next u ∧ Replies s u .sideband 0 data ∧ data.length = n ∧ AnswersOnly s u) ∧
    (∀ (dword10 : Nat), dword10 % 256 = 1 →
      ∃ u data, exec (.tunnelledAdmin 0x06 dword10) s = .next u ∧ Replies s u .sideband 0 (zeros 6 ++ data) ∧ data.length = 4096 ∧
        AnswersOnly s u) ∧
    (∀ (dword10 : Nat), dword10 % 256 = 0x0E →
      ∃ u, exec (.tunnelledAdmin 0x0A dword10) s = .next u ∧ AnswersOnly s u ∧
        Replies s u .sideband 0 (zeros 6 ++ leBytes 6 (s.time / 1000000) ++ zeros 2)) ∧
    (∀ (dword10 : Nat), ∃ u data, exec (.tunnelledAdmin 0x02 dword10) s = .next u ∧ Replies s u .sideband 0 data ∧
      u.mem = s.mem ∧ u.tiles = s.tiles) ∧
    (∀ (opcode dword10 : Nat), opcode ≠ 0x06 → opcode ≠ 0x02 → opcode ≠ 0x0A →
      ∃ u, exec (.tunnelledAdmin opcode dword10) s = .next u ∧ Replies s u .sideband 4 [] ∧ AnswersOnly s u)) ∧
    -- Health polls need no Easel: PD0 answers from its snapshot.
    (domainOn s 0 = true →
      exec .subsystemHealthStatusPoll s = .next { s with host.replies := ⟨.sideband, 0, slice s.easel.health 0 8, []⟩ :: s.host.replies } ∧
      exec .controllerHealthStatusPoll s = .next { s with host.replies := ⟨.sideband, 0, slice s.easel.health 8 16, []⟩ :: s.host.replies }) ∧
    (domainOn s 0 = true → s.easel.restarting = true → ∀ (off n : Nat),
      ∃ u, exec (.vpdRead off n) s = .next u ∧ Replies s u .sideband 1 (leBytes 4 1_000_000) ∧ AnswersOnly s u)

/-- R533 to R536, R540, R550: the SPDM requests. Codes and bits of SPDM that the spec leaves to its standard are taken from it, and certificates
and signatures are free (log entries 3, 46). -/
def Obligations.AttestationRequestsComplete : Prop :=
  ∀ (s : State), (SpdmReady s →
    (∃ u, exec .getVersion s = .next u ∧ Replies s u .spdm 0 (leBytes 2 0x1200 ++ leBytes 2 0x1300) ∧ AnswersOnly s u) ∧
    (∃ u, exec .getCapabilities s = .next u ∧ Replies s u .spdm 0 (leBytes 4 0x16) ∧ AnswersOnly s u) ∧
    (∀ (asym hash : Nat), bitSet asym 4 = true → bitSet hash 0 = true →
      ∃ u, exec (.negotiateAlgorithms asym hash) s = .next u ∧ Replies s u .spdm 0 (leBytes 4 0x10 ++ leBytes 4 0x01) ∧ AnswersOnly s u) ∧
    (∃ u, exec .getDigests s = .next u ∧ Replies s u .spdm 0 (sha256 (certChain s)) ∧ AnswersOnly s u) ∧
    (∀ (off n : Nat),
      (off ≤ (certChain s).length → ∃ u, exec (.getCertificate 0 off n) s = .next u ∧ AnswersOnly s u ∧
        Replies s u .spdm 0 (leBytes 2 (slice (certChain s) off (min n ((certChain s).length - off))).length ++
          leBytes 2 ((certChain s).length - off - (slice (certChain s) off (min n ((certChain s).length - off))).length) ++
          slice (certChain s) off (min n ((certChain s).length - off)))) ∧
      (∀ slot, (slot ≠ 0 ∨ (certChain s).length < off) →
        ∃ u, exec (.getCertificate slot off n) s = .next u ∧ Replies s u .spdm 0x01 [] ∧ AnswersOnly s u)) ∧
    -- What the alias key signs fails without it.
    (s.boot.aliasKey = none →
      (∀ (slot : Nat) (nonce : Bytes), ∃ u, exec (.challenge slot nonce) s = .next u ∧ Replies s u .spdm 0x05 [] ∧ AnswersOnly s u) ∧
      (∀ (index : Nat) (nonce : Bytes), index ≤ 5 →
        ∃ u, exec (.getMeasurements index true nonce) s = .next u ∧ Replies s u .spdm 0x05 [] ∧ AnswersOnly s u)) ∧
    (∀ (key : BitVec 256) (nonce : Bytes), s.boot.aliasKey = some key →
      (∃ u fresh, exec (.challenge 0 nonce) s = .next u ∧ AnswersOnly s u ∧ fresh.length = 32 ∧
        Replies s u .spdm 0 (sha256 (certChain s) ++ fresh ++ zeros 2 ++
          aliasSign key (nonce ++ (sha256 (certChain s) ++ fresh ++ zeros 2)) s.freeCtr)) ∧
      (∀ slot, slot ≠ 0 → ∃ u, exec (.challenge slot nonce) s = .next u ∧ Replies s u .spdm 0x01 [] ∧ AnswersOnly s u) ∧
      (∀ (index : Nat), 1 ≤ index → index ≤ 5 →
        ∃ u body, exec (.getMeasurements index true nonce) s = .next u ∧ AnswersOnly s u ∧ body.take 1 = [1] ∧
          Replies s u .spdm 0 (body ++ aliasSign key (nonce ++ body) s.freeCtr))) ∧
    -- Measurements 1 to 5 and 16 to 31: ROM, stage 1, firmware, records, debug level, images.
    (∀ (nonce : Bytes),
      (∃ u data, exec (.getMeasurements 0 false nonce) s = .next u ∧ Replies s u .spdm 0 data ∧ data.take 4 = [21, 0, 0, 0] ∧
        AnswersOnly s u) ∧
      (∀ (index : Nat) (v : Bytes), (measured s index = some v) →
        ∃ u data, exec (.getMeasurements index false nonce) s = .next u ∧ Replies s u .spdm 0 data ∧ AnswersOnly s u ∧
          slice data 11 v.length = v) ∧
      (∀ (index : Nat), 6 ≤ index → index < 16 →
        ∃ u, exec (.getMeasurements index false nonce) s = .next u ∧ Replies s u .spdm 0x01 [] ∧ AnswersOnly s u)) ∧
    measured s 2 = some (padTo s.boot.st1Digest 32) ∧ measured s 3 = some (padTo s.boot.fwDigest 32) ∧
    measured s 4 = some (sha256 s.boot.policy.records) ∧ measured s 5 = some (sha256 [BitVec.ofNat 8 s.boot.dbgLevel]) ∧
    (∀ (code : Nat), ∃ u, exec (.spdmUnsupported code) s = .next u ∧ Replies s u .spdm 0x07 [BitVec.ofNat 8 code] ∧ AnswersOnly s u)) ∧
    -- While Easel restarts the answer is ResponseNotReady.
    (domainOn s 0 = true → 2 ≤ s.boot.stage → s.easel.restarting = true →
      ∃ u, exec .getVersion s = .next u ∧ Replies s u .spdm 0x42 [BitVec.ofNat 8 (rdtExponent 1_000_000)] ∧
        u.easel.refusals = satAdd 0xFFFF s.easel.refusals 1 ∧ AnswersOnly s u)

/-- R529, R537 to R540: NONCE, PASSWORD and RESPONSE of the debug port. The answers without a DEBUG record or above its level, and the form of
the records, are the model's reading (log entries 47, 110). -/
def Obligations.DebugPortCompletes : Prop :=
  ∀ (s : State), domainOn s 0 = true →
    (∃ u fresh, exec .nonce s = .next u ∧ fresh.length = 32 ∧ u.boot.dbgNonce = some ⟨fresh, s.time⟩ ∧ ShiftsOut u 0 fresh ∧
      u.boot.dbgLevel = s.boot.dbgLevel) ∧
    -- A right password opens the port at a level that the DEBUG record allows; opening it at FULL erases the keys.
    (∀ (level top : Nat) (text salt verifier : Bytes), s.boot.pwLocked = false → s.boot.policy.debug = some (salt, verifier, top) →
      passwordForm text = true →
      (sha256 (salt ++ text) = verifier →
        ((level = 1 ∨ level = 2) → level ≤ top →
          ∃ u, exec (.password level text) s = .next u ∧ u.boot.dbgLevel = max s.boot.dbgLevel level ∧ u.boot.dbgMethod = 1 ∧
            ShiftsOut u 1 [] ∧ (max s.boot.dbgLevel level = 2 → u.boot.deviceKey = none ∧ u.boot.aliasKey = none) ∧
            (max s.boot.dbgLevel level ≠ 2 → u.boot.deviceKey = s.boot.deviceKey ∧ u.boot.aliasKey = s.boot.aliasKey) ∧
            u.boot.pwFails = s.boot.pwFails) ∧
        ((level = 0 ∨ 2 < level ∨ top < level) →
          ∃ u, exec (.password level text) s = .next u ∧ u.boot.dbgLevel = s.boot.dbgLevel ∧ ShiftsOut u 2 [] ∧
            u.boot.dbgFails = satAdd 0xFF s.boot.dbgFails 1 ∧ u.boot.deviceKey = s.boot.deviceKey)) ∧
      -- A wrong one is recorded, and the fifth in one boot locks the method.
      (sha256 (salt ++ text) ≠ verifier →
        ∃ u, exec (.password level text) s = .next u ∧ u.boot.dbgLevel = s.boot.dbgLevel ∧ ShiftsOut u 2 [] ∧
          u.boot.pwFails = s.boot.pwFails + 1 ∧ u.boot.pwLocked = decide (5 ≤ s.boot.pwFails + 1) ∧
          (∃ r, u.integ.recs.head? = some r ∧ r.cls = .protection) ∧ u.boot.deviceKey = s.boot.deviceKey)) ∧
    (∀ (level : Nat) (text : Bytes),
      (s.boot.pwLocked = true → ∃ u, exec (.password level text) s = .next u ∧ u.boot.dbgLevel = s.boot.dbgLevel ∧ ShiftsOut u 3 []) ∧
      (s.boot.pwLocked = false → s.boot.policy.debug = none →
        ∃ u, exec (.password level text) s = .next u ∧ u.boot.dbgLevel = s.boot.dbgLevel ∧ ShiftsOut u 2 [] ∧
          u.boot.pwFails = s.boot.pwFails)) ∧
    -- A response signed by a debug key, or the live SVC key, opens the port within 60 s of its nonce; a nonce serves once.
    (∀ (level r1 s1 : Nat) (value : Bytes) (stamp : Nat), s.boot.dbgNonce = some ⟨value, stamp⟩ →
      (s.time < stamp + 60_000_000_000 → (level = 1 ∨ level = 2) →
        (∃ key, ((2, key) ∈ s.boot.policy.keys ∨ (0, key) ∈ liveKeys s [4]) ∧ signedBy key (responseDigest s value level) r1 s1 = true) →
        ∃ u, exec (.response level r1 s1) s = .next u ∧ u.boot.dbgLevel = max s.boot.dbgLevel level ∧ u.boot.dbgMethod = 2 ∧
          u.boot.dbgNonce = none ∧ ShiftsOut u 1 [] ∧
          (max s.boot.dbgLevel level = 2 → u.boot.deviceKey = none ∧ u.boot.aliasKey = none)) ∧
      ((stamp + 60_000_000_000 ≤ s.time ∨ level = 0 ∨ 2 < level ∨
          (∀ key, ((2, key) ∈ s.boot.policy.keys ∨ (0, key) ∈ liveKeys s [4]) →
            signedBy key (responseDigest s value level) r1 s1 = false)) →
        ∃ u, exec (.response level r1 s1) s = .next u ∧ u.boot.dbgLevel = s.boot.dbgLevel ∧ u.boot.dbgNonce = none ∧
          ShiftsOut u 2 [] ∧ u.boot.dbgFails = satAdd 0xFF s.boot.dbgFails 1 ∧
          (∃ r, u.integ.recs.head? = some r ∧ r.cls = .protection))) ∧
    (s.boot.dbgNonce = none → ∀ (level r1 s1 : Nat),
      ∃ u, exec (.response level r1 s1) s = .next u ∧ u.boot.dbgLevel = s.boot.dbgLevel ∧ ShiftsOut u 2 [])
end

