-- ==== Sys2Proof/Laws/Bytes.lean ====
section
/-! SUPPORT. Byte strings: a slice as digits of one number, and what sorting keeps. -/

namespace Sys2Proof.Laws
open Sys2Proof.Machine

theorem leNat_cons (x : Byte) (t : Bytes) : leNat (x :: t) = x.toNat + 256 * leNat t := by
  simp [leNat]

theorem slice_nil (off n : Nat) : slice ([] : Bytes) off n = [] := by simp [slice]

/-- The bytes at `off` are digits of the string's little-endian value. -/
theorem slice_eq (b : Bytes) : ∀ off n, slice b off n = leBytes (min n (b.length - off)) (leNat b / 256 ^ off) := by
  induction b with
  | nil => intro off n; simp [slice, leBytes]
  | cons x t ih =>
    intro off n
    cases off with
    | zero =>
      cases n with
      | zero => simp [slice, leBytes]
      | succ n =>
        have h := ih 0 n
        simp only [slice, List.drop_zero, Nat.sub_zero, Nat.pow_zero, Nat.div_one] at h ⊢
        rw [List.take_succ_cons, h, List.length_cons, show min (n + 1) (t.length + 1) = min n t.length + 1 by omega, leBytes, leNat_cons]
        have hx := x.isLt
        congr 1
        · apply BitVec.eq_of_toNat_eq; simp; omega
        · congr 1; omega
    | succ off =>
      have h := ih off n
      simp only [slice, List.drop_succ_cons, List.length_cons, Nat.add_sub_add_right] at h ⊢
      rw [h, leNat_cons, Nat.pow_succ, Nat.mul_comm (256 ^ off), ← Nat.div_div_eq_div_mul]
      have hx := x.isLt
      congr 2; omega

theorem insertBy_perm {α : Type} (le : α → α → Bool) (a : α) (l : List α) : (insertBy le a l).Perm (a :: l) := by
  induction l with
  | nil => exact .refl _
  | cons b t ih =>
    rw [insertBy]
    split
    · exact .refl _
    · exact (ih.cons b).trans (List.Perm.swap _ _ _)

/-- Sorting keeps what it sorts. -/
theorem sortBy_perm {α : Type} (le : α → α → Bool) (l : List α) : (sortBy le l).Perm l := by
  induction l with
  | nil => exact .refl _
  | cons a t ih => exact (insertBy_perm le a _).trans (ih.cons a)

/-- What is sorted by a total transitive order is in order. -/
theorem sortBy_pairwise {α : Type} (le : α → α → Bool) (tot : ∀ a b, le a b = true ∨ le b a = true)
    (tr : ∀ a b c, le a b = true → le b c = true → le a c = true) (l : List α) :
    (sortBy le l).Pairwise fun a b => le a b = true := by
  have ins : ∀ (a : α) (l : List α), l.Pairwise (fun a b => le a b = true) → (insertBy le a l).Pairwise fun a b => le a b = true := by
    intro a l
    induction l with
    | nil => intro _; simp [insertBy]
    | cons b t ih =>
      intro h
      rw [insertBy]
      split
      · rename_i hab
        refine List.Pairwise.cons ?_ h
        intro c hc
        cases List.mem_cons.1 hc with
        | inl hb => rw [hb]; exact hab
        | inr ht => exact tr _ _ _ hab (List.rel_of_pairwise_cons h ht)
      · rename_i hab
        refine List.Pairwise.cons ?_ (ih h.of_cons)
        intro c hc
        cases List.mem_cons.1 ((insertBy_perm le a t).mem_iff.1 hc) with
        | inl ha => rw [ha]; exact (tot b a).resolve_right (by simpa using hab)
        | inr ht => exact List.rel_of_pairwise_cons h ht
  induction l with
  | nil => exact .nil
  | cons a t ih => exact ins a _ ih

end Sys2Proof.Laws
end

