-- ==== Sys2Proof/Laws/Crypto.lean ====
section
/-! SUPPORT. The cryptography in a form that the kernel evaluates quickly: SHA-256 over numbers that are evaluated as they
arise, and a signature whose check needs no long scalar multiplication but one that is proved once. -/

namespace Sys2Proof.Laws
open Sys2Proof.Machine

/-- `k x` with `x` evaluated first. -/
def force {α : Type} (x : Nat) (k : Nat → α) : α := Nat.rec (k 0) (fun n _ => k (Nat.succ n)) x

theorem force_eq {α : Type} (x : Nat) (k : Nat → α) : force x k = k x := by cases x <;> rfl

/-- A word. -/
def wd (x : Nat) : BitVec 32 := BitVec.ofNat 32 x

/-- A rotation right, in the operations of Nat that the kernel computes. -/
def rotN (x r : Nat) : Nat :=
  Nat.lor (Nat.shiftRight (Nat.mod x (nat_lit 4294967296)) r) (Nat.shiftLeft x (Nat.sub (nat_lit 32) r))

theorem rotN_eq (x r : Nat) : rotN x r = ((x % 2 ^ 32) >>> r ||| x <<< (32 - r)) := rfl

def modN (x : Nat) : Nat := Nat.mod x (nat_lit 4294967296)
theorem modN_eq (x : Nat) : modN x = x % 4294967296 := rfl
def xor3 (x y z : Nat) : Nat := Nat.xor (Nat.xor x y) z
theorem xor3_eq (x y z : Nat) : xor3 x y z = x ^^^ y ^^^ z := rfl
def notN (x : Nat) : Nat := Nat.xor (nat_lit 4294967295) x
def chN (e f g : Nat) : Nat := Nat.xor (Nat.land e f) (Nat.land (notN e) g)
def majN (a b c : Nat) : Nat := xor3 (Nat.land a b) (Nat.land a c) (Nat.land b c)
def shrN (x r : Nat) : Nat := Nat.shiftRight (modN x) r
def sumN (x y : Nat) : Nat := Nat.add x y

theorem wd_add (x y : Nat) : wd (x + y) = wd x + wd y := by simp [wd, BitVec.ofNat_add]
theorem wd_xor (x y : Nat) : wd (x ^^^ y) = wd x ^^^ wd y := by
  apply BitVec.eq_of_getLsbD_eq; intro i hi; simp [wd, hi]
theorem wd_and (x y : Nat) : wd (x &&& y) = wd x &&& wd y := by
  apply BitVec.eq_of_getLsbD_eq; intro i hi; simp [wd, hi]
theorem notN_eq (x : Nat) : notN x = 0xFFFFFFFF ^^^ x := rfl

theorem wd_not (x : Nat) : wd (notN x) = ~~~ wd x := by
  apply BitVec.eq_of_getLsbD_eq; intro i hi
  have h : Nat.testBit 0xFFFFFFFF i = true := by simpa [hi] using Nat.testBit_two_pow_sub_one 32 i
  simp only [notN_eq, wd, BitVec.getLsbD_ofNat, hi, decide_true, Bool.true_and, Nat.testBit_xor, h, BitVec.getLsbD_not, Bool.true_xor]
theorem wd_mod (x : Nat) : wd (x % 4294967296) = wd x := by
  apply BitVec.eq_of_toNat_eq; simp [wd]
theorem wd_shr (x r : Nat) : wd ((x % 2 ^ 32) >>> r) = wd x >>> r := by
  apply BitVec.eq_of_getLsbD_eq; intro i hi
  simp only [wd, BitVec.getLsbD_ofNat, hi, decide_true, Bool.true_and, BitVec.getLsbD_ushiftRight, Nat.testBit_shiftRight,
    Nat.testBit_mod_two_pow]
theorem wd_rot (x r : Nat) (h : r < 32) : wd (rotN x r) = (wd x).rotateRight r := by
  apply BitVec.eq_of_getLsbD_eq; intro i hi
  rw [BitVec.getLsbD_rotateRight]
  simp only [wd, rotN_eq, BitVec.getLsbD_ofNat, hi, decide_true, Bool.true_and, Nat.testBit_or, Nat.testBit_shiftRight,
    Nat.testBit_mod_two_pow, Nat.testBit_shiftLeft, Nat.mod_eq_of_lt h]
  by_cases h1 : i < 32 - r
  · simp [h1, show r + i < 32 by omega, show ¬ 32 - r ≤ i by omega]
  · have h2 : i - (32 - r) < 32 := by omega
    simp [h1, show ¬ r + i < 32 by omega, show 32 - r ≤ i by omega, h2]

theorem chN_eq (e f g : Nat) : chN e f g = ((e &&& f) ^^^ (notN e &&& g)) := rfl
theorem majN_eq (a b c : Nat) : majN a b c = ((a &&& b) ^^^ (a &&& c) ^^^ (b &&& c)) := rfl
theorem shrN_eq (x r : Nat) : shrN x r = (x % 2 ^ 32) >>> r := rfl
theorem sumN_eq (x y : Nat) : sumN x y = x + y := rfl

/-- One round, its results evaluated. -/
def roundF {α : Type} (a b c d e f g h kw : Nat) (k : Nat → Nat → Nat → Nat → Nat → Nat → Nat → Nat → α) : α :=
  force (modN (sumN (sumN (sumN h (xor3 (rotN e (nat_lit 6)) (rotN e (nat_lit 11)) (rotN e (nat_lit 25)))) (chN e f g)) kw)) fun t1 =>
  force (modN (sumN (sumN t1 (xor3 (rotN a (nat_lit 2)) (rotN a (nat_lit 13)) (rotN a (nat_lit 22)))) (majN a b c))) fun a' =>
  force (modN (sumN d t1)) fun e' => k a' a b c e' e f g

def roundsF : List (Nat × Nat) → Nat → Nat → Nat → Nat → Nat → Nat → Nat → Nat → List Nat
  | [], a, b, c, d, e, f, g, h => [a, b, c, d, e, f, g, h]
  | (x, y) :: t, a, b, c, d, e, f, g, h => roundF a b c d e f g h (sumN x y) fun a b c d e f g h => roundsF t a b c d e f g h

theorem shaRound_wd (a b c d e f g h kw : Nat) :
    shaRound ([a, b, c, d, e, f, g, h].map wd) (wd kw) = roundF a b c d e f g h kw fun a b c d e f g h => [a, b, c, d, e, f, g, h].map wd := by
  simp only [shaRound, roundF, force_eq, modN_eq, sumN_eq, xor3_eq, chN_eq, majN_eq, List.map_cons, List.map_nil, List.getD_cons_zero, List.getD_cons_succ, wd_add, wd_xor,
    wd_and, wd_not, wd_mod, wd_rot _ _ (show 6 < 32 by decide), wd_rot _ _ (show 11 < 32 by decide),
    wd_rot _ _ (show 25 < 32 by decide), wd_rot _ _ (show 2 < 32 by decide), wd_rot _ _ (show 13 < 32 by decide),
    wd_rot _ _ (show 22 < 32 by decide)]

theorem rounds_wd (l : List (Nat × Nat)) : ∀ a b c d e f g h : Nat,
    (l.map fun p => (wd p.1, wd p.2)).foldl (fun v p => shaRound v (p.1 + p.2)) ([a, b, c, d, e, f, g, h].map wd) =
      (roundsF l a b c d e f g h).map wd := by
  induction l with
  | nil => intros; rfl
  | cons p t ih =>
    intro a b c d e f g h
    simp only [List.map_cons, List.foldl_cons, roundsF, sumN_eq]
    rw [← wd_add]
    have := shaRound_wd a b c d e f g h (p.1 + p.2)
    simp only [List.map_cons, List.map_nil] at this
    rw [List.map_nil, this]
    simp only [roundF, force_eq]
    exact ih _ _ _ _ _ _ _ _

theorem roundsF_length (l : List (Nat × Nat)) : ∀ a b c d e f g h : Nat, (roundsF l a b c d e f g h).length = 8 := by
  induction l with
  | nil => intros; rfl
  | cons p t ih => intro a b c d e f g h; simp only [roundsF, roundF, force_eq]; exact ih _ _ _ _ _ _ _ _

/-- The message schedule from its first words, newest first. -/
def schedF : Nat → List Nat → List Nat
  | 0, w => w.reverse
  | n + 1, w =>
    force (modN (sumN (sumN (sumN (w.getD (nat_lit 15) (nat_lit 0))
        (xor3 (rotN (w.getD (nat_lit 14) (nat_lit 0)) (nat_lit 7)) (rotN (w.getD (nat_lit 14) (nat_lit 0)) (nat_lit 18))
          (shrN (w.getD (nat_lit 14) (nat_lit 0)) (nat_lit 3)))) (w.getD (nat_lit 6) (nat_lit 0)))
        (xor3 (rotN (w.getD (nat_lit 1) (nat_lit 0)) (nat_lit 17)) (rotN (w.getD (nat_lit 1) (nat_lit 0)) (nat_lit 19))
          (shrN (w.getD (nat_lit 1) (nat_lit 0)) (nat_lit 10))))) fun x => schedF n (x :: w)

theorem schedF_succ (n : Nat) (w : List Nat) : schedF (n + 1) w =
    schedF n (((w.getD 15 0 + (rotN (w.getD 14 0) 7 ^^^ rotN (w.getD 14 0) 18 ^^^ (w.getD 14 0 % 2 ^ 32) >>> 3) + w.getD 6 0 +
      (rotN (w.getD 1 0) 17 ^^^ rotN (w.getD 1 0) 19 ^^^ (w.getD 1 0 % 2 ^ 32) >>> 10)) % 4294967296) :: w) := by
  rw [schedF, force_eq]; rfl

/-- The same with the newest sixteen words at hand. -/
def schedE : Nat → Nat → Nat → Nat → Nat → Nat → Nat → Nat → Nat → Nat → Nat → Nat → Nat → Nat → Nat → Nat → Nat → List Nat → List Nat
  | 0 => fun _ _ _ _ _ _ _ _ _ _ _ _ _ _ _ _ w => w.reverse
  | n + 1 => fun x1 x2 x3 x4 x5 x6 x7 x8 x9 x10 x11 x12 x13 x14 x15 x16 w =>
    force (modN (sumN (sumN (sumN x16 (xor3 (rotN x15 (nat_lit 7)) (rotN x15 (nat_lit 18)) (shrN x15 (nat_lit 3)))) x7)
        (xor3 (rotN x2 (nat_lit 17)) (rotN x2 (nat_lit 19)) (shrN x2 (nat_lit 10))))) fun y =>
      schedE n y x1 x2 x3 x4 x5 x6 x7 x8 x9 x10 x11 x12 x13 x14 x15 (y :: w)

theorem schedE_eq (n : Nat) : ∀ (x1 x2 x3 x4 x5 x6 x7 x8 x9 x10 x11 x12 x13 x14 x15 x16 : Nat) (t : List Nat),
    schedF n (x1 :: x2 :: x3 :: x4 :: x5 :: x6 :: x7 :: x8 :: x9 :: x10 :: x11 :: x12 :: x13 :: x14 :: x15 :: x16 :: t) = schedE n x1 x2 x3 x4 x5 x6 x7 x8 x9 x10 x11 x12 x13 x14 x15 x16 (x1 :: x2 :: x3 :: x4 :: x5 :: x6 :: x7 :: x8 :: x9 :: x10 :: x11 :: x12 :: x13 :: x14 :: x15 :: x16 :: t) := by
  induction n with
  | zero => intros; rfl
  | succ n ih =>
    intro x1 x2 x3 x4 x5 x6 x7 x8 x9 x10 x11 x12 x13 x14 x15 x16 t
    simp only [schedE, schedF, force_eq]
    exact ih _ _ _ _ _ _ _ _ _ _ _ _ _ _ _ _ _

/-- The schedule of a block's sixteen words. -/
def sched16 : List Nat → List Nat
  | [x1, x2, x3, x4, x5, x6, x7, x8, x9, x10, x11, x12, x13, x14, x15, x16] =>
    schedE 48 x16 x15 x14 x13 x12 x11 x10 x9 x8 x7 x6 x5 x4 x3 x2 x1 [x16, x15, x14, x13, x12, x11, x10, x9, x8, x7, x6, x5, x4, x3, x2, x1]
  | w => schedF 48 w.reverse

theorem sched16_eq (w : List Nat) : sched16 w = schedF 48 w.reverse := by
  unfold sched16
  split
  · exact (schedE_eq _ _ _ _ _ _ _ _ _ _ _ _ _ _ _ _ _ _).symm
  · rfl

theorem foldl_range {α : Type} (f : α → α) (n : Nat) : ∀ a : α, (List.range n).foldl (fun x _ => f x) a = f^[n] a := by
  induction n with
  | zero => intro a; rfl
  | succ n ih => intro a; rw [List.range_succ, List.foldl_append, ih, Function.iterate_succ_apply']; rfl

theorem getD_wd (w : List Nat) (i : Nat) : (w.map wd).getD i 0 = wd (w.getD i 0) := by
  have := List.getD_map (l := w) (n := i) (f := wd) (d := 0)
  simpa [wd] using this

/-- One step of the schedule. -/
def nextWord (w : List (BitVec 32)) : List (BitVec 32) :=
  (w.getD 15 0 + ((w.getD 14 0).rotateRight 7 ^^^ (w.getD 14 0).rotateRight 18 ^^^ (w.getD 14 0 >>> 3)) + w.getD 6 0 +
    ((w.getD 1 0).rotateRight 17 ^^^ (w.getD 1 0).rotateRight 19 ^^^ (w.getD 1 0 >>> 10))) :: w

theorem sched_wd (n : Nat) : ∀ w : List Nat, (nextWord^[n] (w.map wd)).reverse = (schedF n w).map wd := by
  induction n with
  | zero => intro w; simp [schedF]
  | succ n ih =>
    intro w
    rw [Function.iterate_succ_apply, schedF_succ, ← ih]
    congr 2
    simp only [nextWord, List.map_cons, getD_wd, wd_mod, wd_add, wd_xor, wd_rot _ _ (show 7 < 32 by decide),
      wd_rot _ _ (show 18 < 32 by decide), wd_rot _ _ (show 17 < 32 by decide), wd_rot _ _ (show 19 < 32 by decide), wd_shr]

def forceL : List Nat → List Nat
  | [] => []
  | x :: t => force x fun y => y :: forceL t

theorem forceL_eq (l : List Nat) : forceL l = l := by
  induction l with
  | nil => rfl
  | cons x t ih => rw [forceL, force_eq, ih]

def addF : List Nat → List Nat → List Nat
  | x :: s, y :: t => force (modN (sumN x y)) fun z => z :: addF s t
  | _, _ => []

theorem addF_wd (s : List Nat) : ∀ t : List Nat, (((s.map wd).zip (t.map wd)).map fun p => p.1 + p.2) = (addF s t).map wd := by
  induction s with
  | nil => intro t; simp [addF]
  | cons x s ih =>
    intro t
    cases t with
    | nil => simp [addF]
    | cons y t => simp only [addF, force_eq, modN_eq, sumN_eq, List.map_cons, List.zip_cons_cons, wd_mod, wd_add, ih]

theorem addF_length (s : List Nat) : ∀ t : List Nat, s.length = t.length → (addF s t).length = s.length := by
  induction s with
  | nil => intro t _; simp [addF]
  | cons x s ih =>
    intro t h
    cases t with
    | nil => simp at h
    | cons y t => simp only [addF, force_eq, List.length_cons]; rw [ih t (by simpa using h)]

def shaKN : List Nat := (List.range 64).map fun i => 0x428a2f9871374491b5c0fbcfe9b5dba53956c25b59f111f1923f82a4ab1c5ed5d807aa9812835b01243185be550c7dc372be5d7480deb1fe9bdc06a7c19bf174e49b69c1efbe47860fc19dc6240ca1cc2de92c6f4a7484aa5cb0a9dc76f988da983e5152a831c66db00327c8bf597fc7c6e00bf3d5a7914706ca63511429296727b70a852e1b21384d2c6dfc53380d13650a7354766a0abb81c2c92e92722c85a2bfe8a1a81a664bc24b8b70c76c51a3d192e819d6990624f40e3585106aa07019a4c1161e376c082748774c34b0bcb5391c0cb34ed8aa4a5b9cca4f682e6ff3748f82ee78a5636f84c878148cc7020890befffaa4506cebbef9a3f7c67178f2 / 2 ^ (32 * (63 - i)) % 2 ^ 32

/-- A block's words, and the rounds on them. -/
def shaBlockF (h : List Nat) (words : List Nat) : List Nat :=
  match h with
  | [a, b, c, d, e, f, g, i] => addF h (roundsF (shaKN.zip (sched16 words)) a b c d e f g i)
  | _ => []

theorem shaBlock_wd (a b c d e f g i : Nat) (block : Bytes) :
    shaBlock ([a, b, c, d, e, f, g, i].map wd) block = (shaBlockF [a, b, c, d, e, f, g, i] ((pieces 4 block).map beNat)).map wd ∧
      (shaBlockF [a, b, c, d, e, f, g, i] ((pieces 4 block).map beNat)).length = 8 := by
  constructor
  · have hs : shaSchedule block = (schedF 48 ((pieces 4 block).map beNat).reverse).map wd := by
      rw [← sched_wd, ← foldl_range]
      simp only [shaSchedule, List.map_reverse, List.map_map]
      rfl
    have hk : shaK = shaKN.map wd := by decide +kernel
    have hz : shaK.zip (shaSchedule block) =
        (shaKN.zip (schedF 48 ((pieces 4 block).map beNat).reverse)).map fun p => (wd p.1, wd p.2) := by
      rw [hs, hk, List.zip_map]; rfl
    simp only [shaBlock, shaBlockF, sched16_eq]
    rw [hz, rounds_wd, addF_wd]
  · simp only [shaBlockF]
    rw [addF_length _ _ (by rw [roundsF_length]; rfl)]; rfl

theorem blocks_wd (l : List Bytes) : ∀ h : List Nat, h.length = 8 →
    l.foldl shaBlock (h.map wd) = (l.foldl (fun h b => shaBlockF h ((pieces 4 b).map beNat)) h).map wd := by
  induction l with
  | nil => intro h _; rfl
  | cons b t ih =>
    intro h hh
    match h, hh with
    | [x0, x1, x2, x3, x4, x5, x6, x7], _ =>
      obtain ⟨h1, h2⟩ := shaBlock_wd x0 x1 x2 x3 x4 x5 x6 x7 b
      rw [List.foldl_cons, List.foldl_cons, h1, ih _ h2]

/-! The message in words. -/

theorem pieces_nil {α : Type} (k : Nat) (hk : 0 < k) : pieces k ([] : List α) = [] := by
  have : (0 + k - 1) / k = 0 := Nat.div_eq_of_lt (by omega)
  simp only [pieces, List.length_nil, this, List.range_zero, List.map_nil]

theorem pieces_cons {α : Type} (k : Nat) (hk : 0 < k) (l : List α) (h : l ≠ []) : pieces k l = l.take k :: pieces k (l.drop k) := by
  have hl : 0 < l.length := List.length_pos_iff.2 h
  have hn : (l.length + k - 1) / k = ((l.drop k).length + k - 1) / k + 1 := by
    rw [List.length_drop]
    by_cases hc : k ≤ l.length
    · rw [← Nat.add_div_right _ hk]; congr 1; omega
    · rw [show l.length - k = 0 by omega, show (0 + k - 1) / k = 0 from Nat.div_eq_of_lt (by omega)]
      exact Nat.div_eq_of_lt_le (by omega) (by omega)
  rw [pieces, hn, List.range_succ_eq_map, List.map_cons, List.map_map]
  congr 1
  · simp
  · simp only [pieces, Function.comp_def, List.drop_drop]
    apply List.map_congr_left; intro i _
    rw [show (i.succ) * k = k + i * k by rw [Nat.succ_mul, Nat.add_comm]]

def byteUp (x : Nat) : Nat := Nat.mul x (nat_lit 256)
theorem byteUp_eq (x : Nat) : byteUp x = x * 256 := rfl

/-- The big-endian words of a byte string. -/
def wordsF : Bytes → List Nat
  | a :: b :: c :: d :: t =>
    force (sumN (byteUp (sumN (byteUp (sumN (byteUp a.toNat) b.toNat)) c.toNat)) d.toNat) fun x => x :: wordsF t
  | _ => []

theorem wordsF_cons (a b c d : Byte) (t : Bytes) : wordsF (a :: b :: c :: d :: t) = beNat [a, b, c, d] :: wordsF t := by
  have h : beNat [a, b, c, d] = sumN (byteUp (sumN (byteUp (sumN (byteUp a.toNat) b.toNat)) c.toNat)) d.toNat := by
    simp only [beNat, List.foldl_cons, List.foldl_nil, Nat.zero_mul, Nat.zero_add, sumN_eq, byteUp_eq]
  rw [wordsF, force_eq, h]

theorem wordsF_eq (n : Nat) : ∀ l : Bytes, l.length = 4 * n → wordsF l = (pieces 4 l).map beNat := by
  induction n with
  | zero =>
    intro l h
    have : l = [] := List.length_eq_zero_iff.1 (by omega)
    rw [this, pieces_nil 4 (by decide)]; rfl
  | succ n ih =>
    intro l h
    match l, h with
    | a :: b :: c :: d :: t, h =>
      rw [pieces_cons 4 (by decide) _ (by simp), List.map_cons, wordsF_cons, ih t (by simpa [Nat.mul_add] using h)]
      rfl

/-- The rounds over a message's words, 16 at a time. -/
def runF : Nat → List Nat → List Nat → List Nat
  | 0, _, h => h
  | n + 1, ws, h => runF n (ws.drop 16) (shaBlockF h (ws.take 16))

theorem wordsF_split (n : Nat) : ∀ l : Bytes, 4 * n ≤ l.length →
    wordsF (l.take (4 * n)) = (wordsF l).take n ∧ wordsF (l.drop (4 * n)) = (wordsF l).drop n := by
  induction n with
  | zero => intro l _; simp [wordsF]
  | succ n ih =>
    intro l h
    match l, h with
    | a :: b :: c :: d :: t, h =>
      obtain ⟨h1, h2⟩ := ih t (by simp at h; omega)
      rw [show 4 * (n + 1) = 4 * n + 4 by omega]
      constructor
      · rw [List.take_succ_cons, List.take_succ_cons, List.take_succ_cons, List.take_succ_cons, wordsF_cons, wordsF_cons, h1,
          List.take_succ_cons]
      · rw [List.drop_succ_cons, List.drop_succ_cons, List.drop_succ_cons, List.drop_succ_cons, wordsF_cons, h2,
          List.drop_succ_cons]
    | [], h => simp at h
    | [_], h => simp at h; omega
    | [_, _], h => simp at h; omega
    | [_, _, _], h => simp at h; omega

theorem runF_eq (n : Nat) : ∀ (l : Bytes) (h : List Nat), l.length = 64 * n →
    (pieces 64 l).foldl (fun h b => shaBlockF h ((pieces 4 b).map beNat)) h = runF n (wordsF l) h := by
  induction n with
  | zero =>
    intro l h hl
    have : l = [] := List.length_eq_zero_iff.1 (by omega)
    rw [this, pieces_nil 64 (by decide)]; rfl
  | succ n ih =>
    intro l h hl
    have hne : l ≠ [] := by intro hc; rw [hc] at hl; simp at hl
    obtain ⟨h1, h2⟩ := wordsF_split 16 l (by omega)
    rw [pieces_cons 64 (by decide) l hne, List.foldl_cons, ih _ _ (by rw [List.length_drop]; omega), runF,
      ← wordsF_eq 16 (l.take 64) (by rw [List.length_take]; omega), h1, h2]

theorem shaPad_length (m : Bytes) : ∃ n, (shaPad m).length = 64 * n := by
  refine ⟨(m.length + 1 + (119 - m.length % 64) % 64 + 8) / 64, ?_⟩
  have : (shaPad m).length = m.length + 1 + (119 - m.length % 64) % 64 + 8 := by
    simp [shaPad, zeros, beBytes, leBytes]; omega
  omega

/-- The digest of a message by evaluated numbers. -/
def shaInitN : List Nat := (List.range 8).map fun i => 0x6a09e667bb67ae853c6ef372a54ff53a510e527f9b05688c1f83d9ab5be0cd19 / 2 ^ (32 * (7 - i)) % 2 ^ 32

def sha256F (m : Bytes) : List Nat := runF ((shaPad m).length / 64) (wordsF (shaPad m)) shaInitN

/-- SHA-256 by evaluated numbers. -/
theorem sha256_eq (m : Bytes) : sha256 m = (sha256F m).flatMap fun w => beBytes 4 (w % 4294967296) := by
  have h : shaInit = shaInitN.map wd := by decide +kernel
  obtain ⟨n, hn⟩ := shaPad_length m
  rw [sha256, h, blocks_wd _ _ (by decide), List.flatMap_map, runF_eq n _ _ hn, sha256F, hn, Nat.mul_div_cancel_left _ (by decide)]
  simp only [wd, BitVec.toNat_ofNat]

/-! Signatures (r, s) with r = s = z, the digest's value: the candidate key is R - G and the check adds G to it. -/

theorem p256mul_zero (f : Nat) : ∀ q, p256mul f 0 q = none := by
  induction f with
  | zero => intro q; rfl
  | succ f ih => intro q; simp [p256mul, ih]

theorem p256mul_one (f : Nat) (q : Option (Nat × Nat)) : p256mul (f + 1) 1 q = q := by
  cases q <;> simp [p256mul, p256mul_zero, p256add]

/-- -G. -/
def negG : Option (Nat × Nat) := some
  (0x6b17d1f2e12c4247f8bce6e563a440f277037d812deb33a0f4a13945d898c296,
   0xb01cbd1c01e58065711814b583f061e9d431cca994cea1313449bf97c840ae0a)

theorem p256mul_neg : p256mul 256 (p256n - 1) p256g = negG := by decide +kernel

/-- The point that the digest's value names and the key that goes with it. -/
def easyR (z : Nat) : Nat := powMod p256p 256 ((z * z * z + (p256p - 3) * z + p256b) % p256p) ((p256p + 1) / 4)
def easyKey (z : Nat) : Option (Nat × Nat) := p256add (some (z, easyR z)) negG

def easyOk (z : Nat) : Bool :=
  decide (0 < z) && decide (z < p256n) && p256on z (easyR z) && z * invMod p256n z % p256n == 1 &&
  (p256n - z) * invMod p256n z % p256n == p256n - 1 && (easyKey z).isSome &&
  ((p256add p256g (easyKey z)).map fun x => x.1 % p256n) == some z

theorem signedBy_easy (dg : Bytes) (z : Nat) (hz : beNat dg = z) (h : easyOk z = true) :
    signedBy (sha256 (pointBytes (easyKey z))) dg z z = true := by
  simp only [easyOk, Bool.and_eq_true, decide_eq_true_eq, beq_iff_eq] at h
  obtain ⟨⟨⟨⟨⟨⟨h0, hn⟩, hon⟩, hi⟩, hneg⟩, hsome⟩, hv⟩ := h
  have hp : z < p256p := lt_trans hn (by decide)
  have hmod : z % p256n = z := Nat.mod_eq_of_lt hn
  have hk : easyKey z ∈ ecdsaKeys dg z z := by
    simp only [ecdsaKeys, List.flatMap_cons, List.mem_append]
    left
    rw [if_neg (by simp only [not_or, not_le]; exact ⟨hp, by simpa [easyR] using hon⟩)]
    simp only [List.map_cons, List.mem_cons]
    left
    rw [hz, hmod, hi, hneg, p256mul_one, p256mul_neg]
    rfl
  have hq : (easyKey z).isNone = false := by
    cases hc : easyKey z with
    | none => simp [hc] at hsome
    | some q => rfl
  refine List.any_eq_true.2 ⟨_, hk, ?_⟩
  simp only [BEq.rfl, Bool.true_and, ecdsaOk, hq, hz]
  rw [if_neg (by simp; omega), hi, p256mul_one, p256mul_one]
  cases hc : p256add p256g (easyKey z) with
  | none => rw [hc] at hv; simp at hv
  | some q => rw [hc] at hv; simpa using hv

end Sys2Proof.Laws
end

