-- ==== Sys2Proof/Laws/Maps.lean ====
section
/-! SUPPORT. Laws of finite maps and of memory: what a read finds after a write, and that every operation keeps the canonical form. -/

namespace Sys2Proof.Machine

variable {α β : Type}

/-! Reading after writing. -/

@[simp] theorem mapFind_mapPut_same (m : SMap α) (k : Nat) (v : α) : mapFind (mapPut m k v) k = some v := by
  induction m with
  | nil => simp [mapPut, mapFind]
  | cons x t ih =>
    obtain ⟨j, a⟩ := x
    simp only [mapPut]
    split
    · simp [mapFind]
    · split
      · simp [mapFind]
      · rw [mapFind, if_neg (by omega), if_neg (by omega), ih]

theorem mapFind_mapPut_other (m : SMap α) {k j : Nat} (v : α) (h : j ≠ k) : mapFind (mapPut m k v) j = mapFind m j := by
  induction m with
  | nil => simp only [mapPut, mapFind]; split_ifs <;> first | rfl | omega
  | cons x t ih =>
    obtain ⟨i, a⟩ := x
    simp only [mapPut]
    split_ifs with h1 h2 <;> simp only [mapFind] <;> split_ifs <;> first | rfl | omega

@[simp] theorem mapGet_mapPut_same (m : SMap α) (k : Nat) (v d : α) : mapGet (mapPut m k v) k d = v := by simp [mapGet]

theorem mapGet_mapPut_other (m : SMap α) {k j : Nat} (v d : α) (h : j ≠ k) : mapGet (mapPut m k v) j d = mapGet m j d := by
  simp [mapGet, mapFind_mapPut_other m v h]

/-! The canonical form. -/

/-- The keys of a canonical map rise. -/
theorem mapWf_iff (m : SMap α) : mapWf m = true ↔ (m.map (·.1)).Pairwise (· < ·) := by
  induction m with
  | nil => simp [mapWf]
  | cons x t ih =>
    obtain ⟨j, a⟩ := x
    cases t with
    | nil => simp [mapWf]
    | cons y u =>
      obtain ⟨k, b⟩ := y
      rw [mapWf, Bool.and_eq_true, ih]
      simp only [decide_eq_true_eq, List.map_cons, List.pairwise_cons, List.mem_cons]
      constructor
      · rintro ⟨hjk, hk, hu⟩
        refine ⟨?_, hk, hu⟩
        rintro c (rfl | hc)
        · exact hjk
        · exact lt_trans hjk (hk c hc)
      · rintro ⟨hj, hk, hu⟩
        exact ⟨hj k (Or.inl rfl), hk, hu⟩

theorem mapPut_keys (m : SMap α) (k : Nat) (v : α) (c : Nat) (h : c ∈ (mapPut m k v).map (·.1)) : c = k ∨ c ∈ m.map (·.1) := by
  induction m with
  | nil => simp [mapPut] at h; exact Or.inl h
  | cons x t ih =>
    obtain ⟨j, a⟩ := x
    simp only [mapPut] at h
    split_ifs at h with h1 h2
    · simpa using h
    · simp only [List.map_cons, List.mem_cons] at h ⊢; tauto
    · simp only [List.map_cons, List.mem_cons] at h ⊢
      rcases h with rfl | h
      · tauto
      · rcases ih h with h | h <;> tauto

theorem mapWf_mapPut {m : SMap α} (k : Nat) (v : α) (h : mapWf m = true) : mapWf (mapPut m k v) = true := by
  rw [mapWf_iff] at h ⊢
  induction m with
  | nil => simp [mapPut]
  | cons x t ih =>
    obtain ⟨j, a⟩ := x
    simp only [List.map_cons, List.pairwise_cons] at h
    simp only [mapPut]
    split_ifs with h1 h2
    · simp only [List.map_cons, List.pairwise_cons, List.mem_cons]
      refine ⟨?_, h.1, h.2⟩
      rintro c (rfl | hc)
      · exact h1
      · exact lt_trans h1 (h.1 c hc)
    · subst h2; simpa using h
    · simp only [List.map_cons, List.pairwise_cons]
      refine ⟨?_, ih h.2⟩
      intro c hc
      rcases mapPut_keys t k v c hc with rfl | hc
      · omega
      · exact h.1 c hc

theorem mapDrop_keys (m : SMap α) (k c : Nat) (h : c ∈ (mapDrop m k).map (·.1)) : c ∈ m.map (·.1) := by
  induction m with
  | nil => simp [mapDrop] at h
  | cons x t ih =>
    obtain ⟨j, a⟩ := x
    simp only [mapDrop] at h
    split_ifs at h with h1 h2
    · simp [h]
    · exact h
    · simp only [List.map_cons, List.mem_cons] at h ⊢
      rcases h with rfl | h
      · exact Or.inl rfl
      · exact Or.inr (ih h)

theorem mapWf_mapDrop {m : SMap α} (k : Nat) (h : mapWf m = true) : mapWf (mapDrop m k) = true := by
  rw [mapWf_iff] at h ⊢
  induction m with
  | nil => simp [mapDrop]
  | cons x t ih =>
    obtain ⟨j, a⟩ := x
    simp only [List.map_cons, List.pairwise_cons] at h
    simp only [mapDrop]
    split_ifs with h1 h2
    · exact h.2
    · simpa using h
    · simp only [List.map_cons, List.pairwise_cons]
      exact ⟨fun c hc => h.1 c (mapDrop_keys t k c hc), ih h.2⟩

theorem mapFind_none {m : SMap α} {k : Nat} (h : k ∉ m.map (·.1)) : mapFind m k = none := by
  induction m with
  | nil => rfl
  | cons x t ih =>
    obtain ⟨j, a⟩ := x
    simp only [List.map_cons, List.mem_cons, not_or] at h
    rw [mapFind, if_neg (Ne.symm h.1)]
    split_ifs
    · rfl
    · exact ih h.2

theorem mapFind_mapDrop {m : SMap α} (k j : Nat) (h : mapWf m = true) :
    mapFind (mapDrop m k) j = if j = k then none else mapFind m j := by
  rw [mapWf_iff] at h
  induction m with
  | nil => simp [mapDrop, mapFind]
  | cons x t ih =>
    obtain ⟨i, a⟩ := x
    simp only [List.map_cons, List.pairwise_cons] at h
    have above : ∀ j, j ≤ i → mapFind t j = none := fun j hj => mapFind_none fun hm => by have := h.1 j hm; omega
    simp only [mapDrop]
    split_ifs with h1 h2 h3 h4
    · subst h1; subst h2; exact above _ le_rfl
    · subst h1
      rw [mapFind, if_neg (Ne.symm h2)]
      split_ifs with h5
      · exact above _ (le_of_lt h5)
      · rfl
    · subst h4; rw [mapFind, if_neg h1, if_pos h3]
    · rfl
    · rename_i h5; subst h5; rw [mapFind, if_neg h1, if_neg h3, ih h.2]; simp
    · rename_i h5; simp only [mapFind]; split_ifs
      · rfl
      · rfl
      · rw [ih h.2, if_neg h5]

theorem mapWf_mapUpd {m : SMap α} (k : Nat) (f : α → α) (h : mapWf m = true) : mapWf (mapUpd m k f) = true := by
  unfold mapUpd
  split
  · exact mapWf_mapPut _ _ h
  · exact h

theorem mapWf_mapAll {m : SMap α} (f : Nat → α → β) (h : mapWf m = true) : mapWf (mapAll m f) = true := by
  rw [mapWf_iff] at h ⊢
  simpa [mapAll, Function.comp_def] using h

theorem mapWf_filter {m : SMap α} (q : Nat × α → Bool) (h : mapWf m = true) : mapWf (m.filter q) = true := by
  rw [mapWf_iff] at h ⊢
  exact h.sublist (List.filter_sublist.map _)

theorem mapWf_mapFilter {m : SMap α} (q : Nat → α → Bool) (h : mapWf m = true) : mapWf (mapFilter m q) = true :=
  mapWf_filter _ h

/-! Memory. -/

theorem mapPut_all {m : SMap α} {k : Nat} {v : α} {q : α → Bool} (h : m.all fun c => q c.2) (hv : q v = true) :
    (mapPut m k v).all (fun c => q c.2) = true := by
  induction m with
  | nil => simpa [mapPut] using hv
  | cons x t ih =>
    obtain ⟨j, a⟩ := x
    simp only [List.all_cons, Bool.and_eq_true] at h
    simp only [mapPut]
    split_ifs
    · simp [hv, h.1, h.2]
    · simp [hv, h.2]
    · simp [h.1, ih h.2]

theorem mapDrop_all {m : SMap α} {k : Nat} {q : α → Bool} (h : m.all fun c => q c.2) : (mapDrop m k).all (fun c => q c.2) = true := by
  induction m with
  | nil => rfl
  | cons x t ih =>
    obtain ⟨j, a⟩ := x
    simp only [List.all_cons, Bool.and_eq_true] at h
    simp only [mapDrop]
    split_ifs
    · exact h.2
    · simp [h.1, h.2]
    · simp [h.1, ih h.2]

/-- A byte write keeps memory canonical. -/
theorem cellsWf_cellWrite {m : Cells} (a : Nat) (b : Byte) (h : cellsWf m = true) : cellsWf (cellWrite m a b) = true := by
  simp only [cellsWf, Bool.and_eq_true] at h ⊢
  unfold cellWrite
  split_ifs with hb
  · exact ⟨mapWf_mapDrop _ h.1, mapDrop_all (q := fun b => b != blankByte) h.2⟩
  · exact ⟨mapWf_mapPut _ _ h.1, mapPut_all (q := fun b => b != blankByte) h.2 (by simpa using hb)⟩

/-- A write of bytes keeps memory canonical. -/
theorem cellsWf_cellsWrite {m : Cells} (a : Nat) (bs : Bytes) (h : cellsWf m = true) : cellsWf (cellsWrite m a bs) = true := by
  induction bs generalizing m a with
  | nil => exact h
  | cons b bs ih => exact ih _ (cellsWf_cellWrite a b h)

theorem cellRead_cellWrite_same {m : Cells} (a : Nat) (b : Byte) (h : cellsWf m = true) : cellRead (cellWrite m a b) a = b := by
  simp only [cellsWf, Bool.and_eq_true] at h
  unfold cellRead cellWrite
  split_ifs with hb
  · simp [mapGet, mapFind_mapDrop _ _ h.1, hb]
  · simp

theorem cellRead_cellWrite_other {m : Cells} {a c : Nat} (b : Byte) (h : cellsWf m = true) (hc : c ≠ a) :
    cellRead (cellWrite m a b) c = cellRead m c := by
  simp only [cellsWf, Bool.and_eq_true] at h
  unfold cellRead cellWrite
  split_ifs
  · simp [mapGet, mapFind_mapDrop _ _ h.1, hc]
  · exact mapGet_mapPut_other _ _ _ hc

/-- A write of bytes leaves every other address alone. -/
theorem cellRead_cellsWrite_other {m : Cells} {a c : Nat} (bs : Bytes) (h : cellsWf m = true) (hc : c < a ∨ a + bs.length ≤ c) :
    cellRead (cellsWrite m a bs) c = cellRead m c := by
  induction bs generalizing m a with
  | nil => rfl
  | cons b bs ih =>
    simp only [List.length_cons] at hc
    rw [cellsWrite, ih (cellsWf_cellWrite a b h) (by omega), cellRead_cellWrite_other b h (by omega)]

/-- What has been written is read. -/
theorem cellsRead_cellsWrite {m : Cells} (a : Nat) (bs : Bytes) (h : cellsWf m = true) :
    cellsRead (cellsWrite m a bs) a bs.length = bs := by
  induction bs generalizing m a with
  | nil => rfl
  | cons b bs ih =>
    rw [List.length_cons, cellsRead, cellsWrite, ih _ (cellsWf_cellWrite a b h),
      cellRead_cellsWrite_other bs (cellsWf_cellWrite a b h) (by omega), cellRead_cellWrite_same a b h]

/-- A shorter read is the beginning of a longer one. -/
theorem cellsRead_take (m : Cells) : ∀ (k n a : Nat), k ≤ n → cellsRead m a k = (cellsRead m a n).take k
  | 0, _, _, _ => by simp [cellsRead]
  | k + 1, 0, _, h => absurd h (by omega)
  | k + 1, n + 1, a, h => by simp only [cellsRead, List.take_succ_cons]; rw [cellsRead_take m k n (a + 1) (by omega)]

end Sys2Proof.Machine
end

