-- ==== Sys2Proof/Laws/Memory.lean ====
section
/-! SUPPORT. Every operation on memory keeps its canonical form, and what it leaves unchanged. -/

namespace Sys2Proof.Machine

theorem cellsWf_filter {m : Cells} (q : Nat × Byte → Bool) (h : cellsWf m = true) : cellsWf (m.filter q) = true := by
  simp only [cellsWf, Bool.and_eq_true] at h ⊢
  refine ⟨mapWf_filter q h.1, ?_⟩
  rw [List.all_eq_true] at *
  exact fun x hx => h.2 x (List.mem_filter.1 hx).1

theorem zeroPage_wf {s : State} (p : Nat) (h : cellsWf s.mem = true) : cellsWf (zeroPage s p).mem = true := cellsWf_filter _ h

theorem zeroPage_frame (s : State) (p : Nat) : { zeroPage s p with mem := s.mem, poison := s.poison } = s := rfl

theorem zeroPage_poison {s : State} (p : Nat) (h : mapWf s.poison = true) : mapWf (zeroPage s p).poison = true := mapWf_filter _ h

/-- A byte read through a filter of the listed cells. -/
theorem cellRead_filter {m : Cells} (q : Nat → Bool) (a : Nat) (h : mapWf m = true) :
    cellRead (m.filter fun c => q c.1) a = if q a then cellRead m a else blankByte := by
  rw [mapWf_iff] at h
  unfold cellRead mapGet
  induction m with
  | nil => simp [mapFind]
  | cons x t ih =>
    obtain ⟨k, v⟩ := x
    simp only [List.map_cons, List.pairwise_cons] at h
    have ht := ih h.2
    have hn : ∀ {j : Nat}, j ≤ k → mapFind t j = none := fun {j} hj => mapFind_none fun hm => absurd (h.1 j hm) (by omega)
    have hf : ∀ {j : Nat}, j ≤ k → mapFind (t.filter fun c => q c.1) j = none := fun {j} hj =>
      mapFind_none fun hm => absurd (h.1 j (by
        obtain ⟨y, hy, rfl⟩ := List.mem_map.1 hm
        exact List.mem_map.2 ⟨y, (List.mem_filter.1 hy).1, rfl⟩)) (by omega)
    rw [List.filter_cons]
    by_cases hk : q k = true
    · simp only [hk, if_true, mapFind]
      by_cases hak : k = a
      · subst hak; simp [hk]
      · rcases Nat.lt_or_ge k a with hlt | hge
        · have h1 : ¬ a < k := by omega
          simp only [if_neg hak, if_neg h1]; exact ht
        · have h1 : a < k := by omega
          simp [hak, h1]
    · simp only [hk, Bool.false_eq_true, if_false, mapFind]
      by_cases hak : k = a
      · subst hak; simp [hk, hf (Nat.le_refl k)]
      · rcases Nat.lt_or_ge k a with hlt | hge
        · have h1 : ¬ a < k := by omega
          simp only [if_neg hak, if_neg h1]; exact ht
        · have h1 : a < k := by omega
          simp [hak, h1, hf (Nat.le_of_lt h1)]

/-- After a page is cleared its bytes read as nothing written, and all other bytes as before. -/
theorem zeroPage_read (s : State) (p a : Nat) (h : mapWf s.mem = true) :
    cellRead (zeroPage s p).mem a =
      if a < p * Config.pageBytes ∨ p * Config.pageBytes + Config.pageBytes ≤ a then cellRead s.mem a else blankByte := by
  have := cellRead_filter (m := s.mem)
    (fun k => decide (k < p * Config.pageBytes) || decide (p * Config.pageBytes + Config.pageBytes ≤ k)) a h
  simpa [zeroPage] using this

theorem memWrite_wf {s : State} (a : Nat) (bs : Bytes) (mark : Bool) (h : cellsWf s.mem = true) :
    cellsWf (memWrite s a bs mark).mem = true := by
  unfold memWrite; dsimp only
  split_ifs
  · exact h
  · exact cellsWf_cellsWrite a bs h
  · exact cellsWf_cellsWrite a bs h

theorem memWrite_frame (s : State) (a : Nat) (bs : Bytes) (mark : Bool) :
    { memWrite s a bs mark with mem := s.mem, poison := s.poison } = s := by
  unfold memWrite; dsimp only; split_ifs <;> rfl

theorem memWrite_mem (s : State) (a : Nat) (bs : Bytes) (mark : Bool) : (memWrite s a bs mark).mem = cellsWrite s.mem a bs := by
  unfold memWrite; dsimp only
  split_ifs with h
  · rw [List.length_eq_zero_iff.1 h]; rfl
  · rfl
  · rfl

/-- What is written is read, and no other byte changes. -/
theorem memWrite_read {s : State} (a : Nat) (bs : Bytes) (mark : Bool) (h : cellsWf s.mem = true) :
    cellsRead (memWrite s a bs mark).mem a bs.length = bs ∧
    ∀ c, (c < a ∨ a + bs.length ≤ c) → cellRead (memWrite s a bs mark).mem c = cellRead s.mem c := by
  rw [memWrite_mem]
  exact ⟨cellsRead_cellsWrite a bs h, fun c hc => cellRead_cellsWrite_other bs h hc⟩

theorem mapWf_foldl_mapPut {α : Type} (l : List Nat) (v : α) (m : SMap α) (h : mapWf m = true) :
    mapWf (l.foldl (fun m k => mapPut m k v) m) = true := by
  induction l generalizing m with
  | nil => exact h
  | cons a l ih => exact ih _ (mapWf_mapPut a v h)

theorem memWrite_poison {s : State} (a : Nat) (bs : Bytes) (mark : Bool) (h : mapWf s.poison = true) :
    mapWf (memWrite s a bs mark).poison = true := by
  unfold memWrite; dsimp only
  split_ifs
  · exact h
  · exact mapWf_foldl_mapPut _ () _ h
  · exact mapWf_filter _ h

theorem pagesWrite_wf {s : State} (pages : List Nat) (off : Nat) (bs : Bytes) (mark : Bool) (h : cellsWf s.mem = true) :
    cellsWf (pagesWrite s pages off bs mark).mem = true := by
  unfold pagesWrite
  generalize (pieces 64 bs).zipIdx = l
  induction l generalizing s with
  | nil => exact h
  | cons a l ih => exact ih (memWrite_wf _ _ _ h)

theorem pagesWrite_poison {s : State} (pages : List Nat) (off : Nat) (bs : Bytes) (mark : Bool) (h : mapWf s.poison = true) :
    mapWf (pagesWrite s pages off bs mark).poison = true := by
  unfold pagesWrite
  generalize (pieces 64 bs).zipIdx = l
  induction l generalizing s with
  | nil => exact h
  | cons a l ih => exact ih (memWrite_poison _ _ _ h)

theorem pagesWrite_frame (s : State) (pages : List Nat) (off : Nat) (bs : Bytes) (mark : Bool) :
    { pagesWrite s pages off bs mark with mem := s.mem, poison := s.poison } = s := by
  unfold pagesWrite
  generalize (pieces 64 bs).zipIdx = l
  induction l generalizing s with
  | nil => rfl
  | cons a l ih =>
    have h := ih (memWrite s (pageAddr pages (off + 64 * a.2)) a.1 mark)
    have h2 := memWrite_frame s (pageAddr pages (off + 64 * a.2)) a.1 mark
    simp only [List.foldl_cons]
    generalize memWrite s _ _ _ = s1 at *
    generalize List.foldl _ s1 l = s2 at *
    rw [← h2, ← h]

/-- Bytes copied one by one keep the canonical form (MOVE_COMPLETE). -/
theorem cellsWf_foldl {α : Type} (l : List α) (at_ : α → Nat) (b : α → Byte) (m : Cells) (h : cellsWf m = true) :
    cellsWf (l.foldl (fun m x => cellWrite m (at_ x) (b x)) m) = true := by
  induction l generalizing m with
  | nil => exact h
  | cons x l ih => exact ih _ (cellsWf_cellWrite _ _ h)

theorem reset_mem_wf : cellsWf State.reset.mem = true := rfl

end Sys2Proof.Machine
end

