-- ==== Sys2Proof/Laws/State.lean ====
section
/-! SUPPORT. What each named update of the state leaves in each field of State; one equation a field, true by unfolding. -/

namespace Sys2Proof.Machine

/-! setTile. -/

@[simp] theorem setTile_pending (s : State) (p : Nat) (t : Tile) : (setTile s p t).pending = s.pending := rfl
@[simp] theorem setTile_freeCtr (s : State) (p : Nat) (t : Tile) : (setTile s p t).freeCtr = s.freeCtr := rfl
@[simp] theorem setTile_time (s : State) (p : Nat) (t : Tile) : (setTile s p t).time = s.time := rfl
@[simp] theorem setTile_resumed (s : State) (p : Nat) (t : Tile) : (setTile s p t).resumed = s.resumed := rfl
@[simp] theorem setTile_timeStarted (s : State) (p : Nat) (t : Tile) : (setTile s p t).timeStarted = s.timeStarted := rfl
@[simp] theorem setTile_lastTime (s : State) (p : Nat) (t : Tile) : (setTile s p t).lastTime = s.lastTime := rfl
@[simp] theorem setTile_floor (s : State) (p : Nat) (t : Tile) : (setTile s p t).floor = s.floor := rfl
@[simp] theorem setTile_tiles (s : State) (p : Nat) (t : Tile) : (setTile s p t).tiles = mapPut s.tiles p t := rfl
@[simp] theorem setTile_streams (s : State) (p : Nat) (t : Tile) : (setTile s p t).streams = s.streams := rfl
@[simp] theorem setTile_arbiters (s : State) (p : Nat) (t : Tile) : (setTile s p t).arbiters = s.arbiters := rfl
@[simp] theorem setTile_boundaries (s : State) (p : Nat) (t : Tile) : (setTile s p t).boundaries = s.boundaries := rfl
@[simp] theorem setTile_hard (s : State) (p : Nat) (t : Tile) : (setTile s p t).hard = s.hard := rfl
@[simp] theorem setTile_ctxs (s : State) (p : Nat) (t : Tile) : (setTile s p t).ctxs = s.ctxs := rfl
@[simp] theorem setTile_reqs (s : State) (p : Nat) (t : Tile) : (setTile s p t).reqs = s.reqs := rfl
@[simp] theorem setTile_nextRid (s : State) (p : Nat) (t : Tile) : (setTile s p t).nextRid = s.nextRid := rfl
@[simp] theorem setTile_admitPtr (s : State) (p : Nat) (t : Tile) : (setTile s p t).admitPtr = s.admitPtr := rfl
@[simp] theorem setTile_cache (s : State) (p : Nat) (t : Tile) : (setTile s p t).cache = s.cache := rfl
@[simp] theorem setTile_cacheOrder (s : State) (p : Nat) (t : Tile) : (setTile s p t).cacheOrder = s.cacheOrder := rfl
@[simp] theorem setTile_allocOrder (s : State) (p : Nat) (t : Tile) : (setTile s p t).allocOrder = s.allocOrder := rfl
@[simp] theorem setTile_mem (s : State) (p : Nat) (t : Tile) : (setTile s p t).mem = s.mem := rfl
@[simp] theorem setTile_poison (s : State) (p : Nat) (t : Tile) : (setTile s p t).poison = s.poison := rfl
@[simp] theorem setTile_pages (s : State) (p : Nat) (t : Tile) : (setTile s p t).pages = s.pages := rfl
@[simp] theorem setTile_copies (s : State) (p : Nat) (t : Tile) : (setTile s p t).copies = s.copies := rfl
@[simp] theorem setTile_queued (s : State) (p : Nat) (t : Tile) : (setTile s p t).queued = s.queued := rfl
@[simp] theorem setTile_inflight (s : State) (p : Nat) (t : Tile) : (setTile s p t).inflight = s.inflight := rfl
@[simp] theorem setTile_reads (s : State) (p : Nat) (t : Tile) : (setTile s p t).reads = s.reads := rfl
@[simp] theorem setTile_tables (s : State) (p : Nat) (t : Tile) : (setTile s p t).tables = s.tables := rfl
@[simp] theorem setTile_migLog (s : State) (p : Nat) (t : Tile) : (setTile s p t).migLog = s.migLog := rfl
@[simp] theorem setTile_readCtrs (s : State) (p : Nat) (t : Tile) : (setTile s p t).readCtrs = s.readCtrs := rfl
@[simp] theorem setTile_readWin (s : State) (p : Nat) (t : Tile) : (setTile s p t).readWin = s.readWin := rfl
@[simp] theorem setTile_updates (s : State) (p : Nat) (t : Tile) : (setTile s p t).updates = s.updates := rfl
@[simp] theorem setTile_scatters (s : State) (p : Nat) (t : Tile) : (setTile s p t).scatters = s.scatters := rfl
@[simp] theorem setTile_runs (s : State) (p : Nat) (t : Tile) : (setTile s p t).runs = s.runs := rfl
@[simp] theorem setTile_nextRun (s : State) (p : Nat) (t : Tile) : (setTile s p t).nextRun = s.nextRun := rfl
@[simp] theorem setTile_indexes (s : State) (p : Nat) (t : Tile) : (setTile s p t).indexes = s.indexes := rfl
@[simp] theorem setTile_vocabs (s : State) (p : Nat) (t : Tile) : (setTile s p t).vocabs = s.vocabs := rfl
@[simp] theorem setTile_norms (s : State) (p : Nat) (t : Tile) : (setTile s p t).norms = s.norms := rfl
@[simp] theorem setTile_grammars (s : State) (p : Nat) (t : Tile) : (setTile s p t).grammars = s.grammars := rfl
@[simp] theorem setTile_encodes (s : State) (p : Nat) (t : Tile) : (setTile s p t).encodes = s.encodes := rfl
@[simp] theorem setTile_fronts (s : State) (p : Nat) (t : Tile) : (setTile s p t).fronts = s.fronts := rfl
@[simp] theorem setTile_gens (s : State) (p : Nat) (t : Tile) : (setTile s p t).gens = s.gens := rfl
@[simp] theorem setTile_engines (s : State) (p : Nat) (t : Tile) : (setTile s p t).engines = s.engines := rfl
@[simp] theorem setTile_media (s : State) (p : Nat) (t : Tile) : (setTile s p t).media = s.media := rfl
@[simp] theorem setTile_stylus (s : State) (p : Nat) (t : Tile) : (setTile s p t).stylus = s.stylus := rfl
@[simp] theorem setTile_host (s : State) (p : Nat) (t : Tile) : (setTile s p t).host = s.host := rfl
@[simp] theorem setTile_folio (s : State) (p : Nat) (t : Tile) : (setTile s p t).folio = s.folio := rfl
@[simp] theorem setTile_integ (s : State) (p : Nat) (t : Tile) : (setTile s p t).integ = s.integ := rfl
@[simp] theorem setTile_recov (s : State) (p : Nat) (t : Tile) : (setTile s p t).recov = s.recov := rfl
@[simp] theorem setTile_cal (s : State) (p : Nat) (t : Tile) : (setTile s p t).cal = s.cal := rfl
@[simp] theorem setTile_power (s : State) (p : Nat) (t : Tile) : (setTile s p t).power = s.power := rfl
@[simp] theorem setTile_boot (s : State) (p : Nat) (t : Tile) : (setTile s p t).boot = s.boot := rfl
@[simp] theorem setTile_easel (s : State) (p : Nat) (t : Tile) : (setTile s p t).easel = s.easel := rfl
@[simp] theorem setTile_mon (s : State) (p : Nat) (t : Tile) : (setTile s p t).mon = s.mon := rfl

/-! updTile. -/

@[simp] theorem updTile_pending (s : State) (p : Nat) (f : Tile → Tile) : (updTile s p f).pending = s.pending := rfl
@[simp] theorem updTile_freeCtr (s : State) (p : Nat) (f : Tile → Tile) : (updTile s p f).freeCtr = s.freeCtr := rfl
@[simp] theorem updTile_time (s : State) (p : Nat) (f : Tile → Tile) : (updTile s p f).time = s.time := rfl
@[simp] theorem updTile_resumed (s : State) (p : Nat) (f : Tile → Tile) : (updTile s p f).resumed = s.resumed := rfl
@[simp] theorem updTile_timeStarted (s : State) (p : Nat) (f : Tile → Tile) : (updTile s p f).timeStarted = s.timeStarted := rfl
@[simp] theorem updTile_lastTime (s : State) (p : Nat) (f : Tile → Tile) : (updTile s p f).lastTime = s.lastTime := rfl
@[simp] theorem updTile_floor (s : State) (p : Nat) (f : Tile → Tile) : (updTile s p f).floor = s.floor := rfl
@[simp] theorem updTile_tiles (s : State) (p : Nat) (f : Tile → Tile) : (updTile s p f).tiles = mapPut s.tiles p (f (tileOf s p)) := rfl
@[simp] theorem updTile_streams (s : State) (p : Nat) (f : Tile → Tile) : (updTile s p f).streams = s.streams := rfl
@[simp] theorem updTile_arbiters (s : State) (p : Nat) (f : Tile → Tile) : (updTile s p f).arbiters = s.arbiters := rfl
@[simp] theorem updTile_boundaries (s : State) (p : Nat) (f : Tile → Tile) : (updTile s p f).boundaries = s.boundaries := rfl
@[simp] theorem updTile_hard (s : State) (p : Nat) (f : Tile → Tile) : (updTile s p f).hard = s.hard := rfl
@[simp] theorem updTile_ctxs (s : State) (p : Nat) (f : Tile → Tile) : (updTile s p f).ctxs = s.ctxs := rfl
@[simp] theorem updTile_reqs (s : State) (p : Nat) (f : Tile → Tile) : (updTile s p f).reqs = s.reqs := rfl
@[simp] theorem updTile_nextRid (s : State) (p : Nat) (f : Tile → Tile) : (updTile s p f).nextRid = s.nextRid := rfl
@[simp] theorem updTile_admitPtr (s : State) (p : Nat) (f : Tile → Tile) : (updTile s p f).admitPtr = s.admitPtr := rfl
@[simp] theorem updTile_cache (s : State) (p : Nat) (f : Tile → Tile) : (updTile s p f).cache = s.cache := rfl
@[simp] theorem updTile_cacheOrder (s : State) (p : Nat) (f : Tile → Tile) : (updTile s p f).cacheOrder = s.cacheOrder := rfl
@[simp] theorem updTile_allocOrder (s : State) (p : Nat) (f : Tile → Tile) : (updTile s p f).allocOrder = s.allocOrder := rfl
@[simp] theorem updTile_mem (s : State) (p : Nat) (f : Tile → Tile) : (updTile s p f).mem = s.mem := rfl
@[simp] theorem updTile_poison (s : State) (p : Nat) (f : Tile → Tile) : (updTile s p f).poison = s.poison := rfl
@[simp] theorem updTile_pages (s : State) (p : Nat) (f : Tile → Tile) : (updTile s p f).pages = s.pages := rfl
@[simp] theorem updTile_copies (s : State) (p : Nat) (f : Tile → Tile) : (updTile s p f).copies = s.copies := rfl
@[simp] theorem updTile_queued (s : State) (p : Nat) (f : Tile → Tile) : (updTile s p f).queued = s.queued := rfl
@[simp] theorem updTile_inflight (s : State) (p : Nat) (f : Tile → Tile) : (updTile s p f).inflight = s.inflight := rfl
@[simp] theorem updTile_reads (s : State) (p : Nat) (f : Tile → Tile) : (updTile s p f).reads = s.reads := rfl
@[simp] theorem updTile_tables (s : State) (p : Nat) (f : Tile → Tile) : (updTile s p f).tables = s.tables := rfl
@[simp] theorem updTile_migLog (s : State) (p : Nat) (f : Tile → Tile) : (updTile s p f).migLog = s.migLog := rfl
@[simp] theorem updTile_readCtrs (s : State) (p : Nat) (f : Tile → Tile) : (updTile s p f).readCtrs = s.readCtrs := rfl
@[simp] theorem updTile_readWin (s : State) (p : Nat) (f : Tile → Tile) : (updTile s p f).readWin = s.readWin := rfl
@[simp] theorem updTile_updates (s : State) (p : Nat) (f : Tile → Tile) : (updTile s p f).updates = s.updates := rfl
@[simp] theorem updTile_scatters (s : State) (p : Nat) (f : Tile → Tile) : (updTile s p f).scatters = s.scatters := rfl
@[simp] theorem updTile_runs (s : State) (p : Nat) (f : Tile → Tile) : (updTile s p f).runs = s.runs := rfl
@[simp] theorem updTile_nextRun (s : State) (p : Nat) (f : Tile → Tile) : (updTile s p f).nextRun = s.nextRun := rfl
@[simp] theorem updTile_indexes (s : State) (p : Nat) (f : Tile → Tile) : (updTile s p f).indexes = s.indexes := rfl
@[simp] theorem updTile_vocabs (s : State) (p : Nat) (f : Tile → Tile) : (updTile s p f).vocabs = s.vocabs := rfl
@[simp] theorem updTile_norms (s : State) (p : Nat) (f : Tile → Tile) : (updTile s p f).norms = s.norms := rfl
@[simp] theorem updTile_grammars (s : State) (p : Nat) (f : Tile → Tile) : (updTile s p f).grammars = s.grammars := rfl
@[simp] theorem updTile_encodes (s : State) (p : Nat) (f : Tile → Tile) : (updTile s p f).encodes = s.encodes := rfl
@[simp] theorem updTile_fronts (s : State) (p : Nat) (f : Tile → Tile) : (updTile s p f).fronts = s.fronts := rfl
@[simp] theorem updTile_gens (s : State) (p : Nat) (f : Tile → Tile) : (updTile s p f).gens = s.gens := rfl
@[simp] theorem updTile_engines (s : State) (p : Nat) (f : Tile → Tile) : (updTile s p f).engines = s.engines := rfl
@[simp] theorem updTile_media (s : State) (p : Nat) (f : Tile → Tile) : (updTile s p f).media = s.media := rfl
@[simp] theorem updTile_stylus (s : State) (p : Nat) (f : Tile → Tile) : (updTile s p f).stylus = s.stylus := rfl
@[simp] theorem updTile_host (s : State) (p : Nat) (f : Tile → Tile) : (updTile s p f).host = s.host := rfl
@[simp] theorem updTile_folio (s : State) (p : Nat) (f : Tile → Tile) : (updTile s p f).folio = s.folio := rfl
@[simp] theorem updTile_integ (s : State) (p : Nat) (f : Tile → Tile) : (updTile s p f).integ = s.integ := rfl
@[simp] theorem updTile_recov (s : State) (p : Nat) (f : Tile → Tile) : (updTile s p f).recov = s.recov := rfl
@[simp] theorem updTile_cal (s : State) (p : Nat) (f : Tile → Tile) : (updTile s p f).cal = s.cal := rfl
@[simp] theorem updTile_power (s : State) (p : Nat) (f : Tile → Tile) : (updTile s p f).power = s.power := rfl
@[simp] theorem updTile_boot (s : State) (p : Nat) (f : Tile → Tile) : (updTile s p f).boot = s.boot := rfl
@[simp] theorem updTile_easel (s : State) (p : Nat) (f : Tile → Tile) : (updTile s p f).easel = s.easel := rfl
@[simp] theorem updTile_mon (s : State) (p : Nat) (f : Tile → Tile) : (updTile s p f).mon = s.mon := rfl

/-! setCtx. -/

@[simp] theorem setCtx_pending (s : State) (c : Nat) (x : Ctx) : (setCtx s c x).pending = s.pending := rfl
@[simp] theorem setCtx_freeCtr (s : State) (c : Nat) (x : Ctx) : (setCtx s c x).freeCtr = s.freeCtr := rfl
@[simp] theorem setCtx_time (s : State) (c : Nat) (x : Ctx) : (setCtx s c x).time = s.time := rfl
@[simp] theorem setCtx_resumed (s : State) (c : Nat) (x : Ctx) : (setCtx s c x).resumed = s.resumed := rfl
@[simp] theorem setCtx_timeStarted (s : State) (c : Nat) (x : Ctx) : (setCtx s c x).timeStarted = s.timeStarted := rfl
@[simp] theorem setCtx_lastTime (s : State) (c : Nat) (x : Ctx) : (setCtx s c x).lastTime = s.lastTime := rfl
@[simp] theorem setCtx_floor (s : State) (c : Nat) (x : Ctx) : (setCtx s c x).floor = s.floor := rfl
@[simp] theorem setCtx_tiles (s : State) (c : Nat) (x : Ctx) : (setCtx s c x).tiles = s.tiles := rfl
@[simp] theorem setCtx_streams (s : State) (c : Nat) (x : Ctx) : (setCtx s c x).streams = s.streams := rfl
@[simp] theorem setCtx_arbiters (s : State) (c : Nat) (x : Ctx) : (setCtx s c x).arbiters = s.arbiters := rfl
@[simp] theorem setCtx_boundaries (s : State) (c : Nat) (x : Ctx) : (setCtx s c x).boundaries = s.boundaries := rfl
@[simp] theorem setCtx_hard (s : State) (c : Nat) (x : Ctx) : (setCtx s c x).hard = s.hard := rfl
@[simp] theorem setCtx_ctxs (s : State) (c : Nat) (x : Ctx) : (setCtx s c x).ctxs = mapPut s.ctxs c x := rfl
@[simp] theorem setCtx_reqs (s : State) (c : Nat) (x : Ctx) : (setCtx s c x).reqs = s.reqs := rfl
@[simp] theorem setCtx_nextRid (s : State) (c : Nat) (x : Ctx) : (setCtx s c x).nextRid = s.nextRid := rfl
@[simp] theorem setCtx_admitPtr (s : State) (c : Nat) (x : Ctx) : (setCtx s c x).admitPtr = s.admitPtr := rfl
@[simp] theorem setCtx_cache (s : State) (c : Nat) (x : Ctx) : (setCtx s c x).cache = s.cache := rfl
@[simp] theorem setCtx_cacheOrder (s : State) (c : Nat) (x : Ctx) : (setCtx s c x).cacheOrder = s.cacheOrder := rfl
@[simp] theorem setCtx_allocOrder (s : State) (c : Nat) (x : Ctx) : (setCtx s c x).allocOrder = s.allocOrder := rfl
@[simp] theorem setCtx_mem (s : State) (c : Nat) (x : Ctx) : (setCtx s c x).mem = s.mem := rfl
@[simp] theorem setCtx_poison (s : State) (c : Nat) (x : Ctx) : (setCtx s c x).poison = s.poison := rfl
@[simp] theorem setCtx_pages (s : State) (c : Nat) (x : Ctx) : (setCtx s c x).pages = s.pages := rfl
@[simp] theorem setCtx_copies (s : State) (c : Nat) (x : Ctx) : (setCtx s c x).copies = s.copies := rfl
@[simp] theorem setCtx_queued (s : State) (c : Nat) (x : Ctx) : (setCtx s c x).queued = s.queued := rfl
@[simp] theorem setCtx_inflight (s : State) (c : Nat) (x : Ctx) : (setCtx s c x).inflight = s.inflight := rfl
@[simp] theorem setCtx_reads (s : State) (c : Nat) (x : Ctx) : (setCtx s c x).reads = s.reads := rfl
@[simp] theorem setCtx_tables (s : State) (c : Nat) (x : Ctx) : (setCtx s c x).tables = s.tables := rfl
@[simp] theorem setCtx_migLog (s : State) (c : Nat) (x : Ctx) : (setCtx s c x).migLog = s.migLog := rfl
@[simp] theorem setCtx_readCtrs (s : State) (c : Nat) (x : Ctx) : (setCtx s c x).readCtrs = s.readCtrs := rfl
@[simp] theorem setCtx_readWin (s : State) (c : Nat) (x : Ctx) : (setCtx s c x).readWin = s.readWin := rfl
@[simp] theorem setCtx_updates (s : State) (c : Nat) (x : Ctx) : (setCtx s c x).updates = s.updates := rfl
@[simp] theorem setCtx_scatters (s : State) (c : Nat) (x : Ctx) : (setCtx s c x).scatters = s.scatters := rfl
@[simp] theorem setCtx_runs (s : State) (c : Nat) (x : Ctx) : (setCtx s c x).runs = s.runs := rfl
@[simp] theorem setCtx_nextRun (s : State) (c : Nat) (x : Ctx) : (setCtx s c x).nextRun = s.nextRun := rfl
@[simp] theorem setCtx_indexes (s : State) (c : Nat) (x : Ctx) : (setCtx s c x).indexes = s.indexes := rfl
@[simp] theorem setCtx_vocabs (s : State) (c : Nat) (x : Ctx) : (setCtx s c x).vocabs = s.vocabs := rfl
@[simp] theorem setCtx_norms (s : State) (c : Nat) (x : Ctx) : (setCtx s c x).norms = s.norms := rfl
@[simp] theorem setCtx_grammars (s : State) (c : Nat) (x : Ctx) : (setCtx s c x).grammars = s.grammars := rfl
@[simp] theorem setCtx_encodes (s : State) (c : Nat) (x : Ctx) : (setCtx s c x).encodes = s.encodes := rfl
@[simp] theorem setCtx_fronts (s : State) (c : Nat) (x : Ctx) : (setCtx s c x).fronts = s.fronts := rfl
@[simp] theorem setCtx_gens (s : State) (c : Nat) (x : Ctx) : (setCtx s c x).gens = s.gens := rfl
@[simp] theorem setCtx_engines (s : State) (c : Nat) (x : Ctx) : (setCtx s c x).engines = s.engines := rfl
@[simp] theorem setCtx_media (s : State) (c : Nat) (x : Ctx) : (setCtx s c x).media = s.media := rfl
@[simp] theorem setCtx_stylus (s : State) (c : Nat) (x : Ctx) : (setCtx s c x).stylus = s.stylus := rfl
@[simp] theorem setCtx_host (s : State) (c : Nat) (x : Ctx) : (setCtx s c x).host = s.host := rfl
@[simp] theorem setCtx_folio (s : State) (c : Nat) (x : Ctx) : (setCtx s c x).folio = s.folio := rfl
@[simp] theorem setCtx_integ (s : State) (c : Nat) (x : Ctx) : (setCtx s c x).integ = s.integ := rfl
@[simp] theorem setCtx_recov (s : State) (c : Nat) (x : Ctx) : (setCtx s c x).recov = s.recov := rfl
@[simp] theorem setCtx_cal (s : State) (c : Nat) (x : Ctx) : (setCtx s c x).cal = s.cal := rfl
@[simp] theorem setCtx_power (s : State) (c : Nat) (x : Ctx) : (setCtx s c x).power = s.power := rfl
@[simp] theorem setCtx_boot (s : State) (c : Nat) (x : Ctx) : (setCtx s c x).boot = s.boot := rfl
@[simp] theorem setCtx_easel (s : State) (c : Nat) (x : Ctx) : (setCtx s c x).easel = s.easel := rfl
@[simp] theorem setCtx_mon (s : State) (c : Nat) (x : Ctx) : (setCtx s c x).mon = s.mon := rfl

/-! updCtx. -/

@[simp] theorem updCtx_pending (s : State) (c : Nat) (f : Ctx → Ctx) : (updCtx s c f).pending = s.pending := rfl
@[simp] theorem updCtx_freeCtr (s : State) (c : Nat) (f : Ctx → Ctx) : (updCtx s c f).freeCtr = s.freeCtr := rfl
@[simp] theorem updCtx_time (s : State) (c : Nat) (f : Ctx → Ctx) : (updCtx s c f).time = s.time := rfl
@[simp] theorem updCtx_resumed (s : State) (c : Nat) (f : Ctx → Ctx) : (updCtx s c f).resumed = s.resumed := rfl
@[simp] theorem updCtx_timeStarted (s : State) (c : Nat) (f : Ctx → Ctx) : (updCtx s c f).timeStarted = s.timeStarted := rfl
@[simp] theorem updCtx_lastTime (s : State) (c : Nat) (f : Ctx → Ctx) : (updCtx s c f).lastTime = s.lastTime := rfl
@[simp] theorem updCtx_floor (s : State) (c : Nat) (f : Ctx → Ctx) : (updCtx s c f).floor = s.floor := rfl
@[simp] theorem updCtx_tiles (s : State) (c : Nat) (f : Ctx → Ctx) : (updCtx s c f).tiles = s.tiles := rfl
@[simp] theorem updCtx_streams (s : State) (c : Nat) (f : Ctx → Ctx) : (updCtx s c f).streams = s.streams := rfl
@[simp] theorem updCtx_arbiters (s : State) (c : Nat) (f : Ctx → Ctx) : (updCtx s c f).arbiters = s.arbiters := rfl
@[simp] theorem updCtx_boundaries (s : State) (c : Nat) (f : Ctx → Ctx) : (updCtx s c f).boundaries = s.boundaries := rfl
@[simp] theorem updCtx_hard (s : State) (c : Nat) (f : Ctx → Ctx) : (updCtx s c f).hard = s.hard := rfl
@[simp] theorem updCtx_ctxs (s : State) (c : Nat) (f : Ctx → Ctx) : (updCtx s c f).ctxs = mapPut s.ctxs c (f (ctxOf s c)) := rfl
@[simp] theorem updCtx_reqs (s : State) (c : Nat) (f : Ctx → Ctx) : (updCtx s c f).reqs = s.reqs := rfl
@[simp] theorem updCtx_nextRid (s : State) (c : Nat) (f : Ctx → Ctx) : (updCtx s c f).nextRid = s.nextRid := rfl
@[simp] theorem updCtx_admitPtr (s : State) (c : Nat) (f : Ctx → Ctx) : (updCtx s c f).admitPtr = s.admitPtr := rfl
@[simp] theorem updCtx_cache (s : State) (c : Nat) (f : Ctx → Ctx) : (updCtx s c f).cache = s.cache := rfl
@[simp] theorem updCtx_cacheOrder (s : State) (c : Nat) (f : Ctx → Ctx) : (updCtx s c f).cacheOrder = s.cacheOrder := rfl
@[simp] theorem updCtx_allocOrder (s : State) (c : Nat) (f : Ctx → Ctx) : (updCtx s c f).allocOrder = s.allocOrder := rfl
@[simp] theorem updCtx_mem (s : State) (c : Nat) (f : Ctx → Ctx) : (updCtx s c f).mem = s.mem := rfl
@[simp] theorem updCtx_poison (s : State) (c : Nat) (f : Ctx → Ctx) : (updCtx s c f).poison = s.poison := rfl
@[simp] theorem updCtx_pages (s : State) (c : Nat) (f : Ctx → Ctx) : (updCtx s c f).pages = s.pages := rfl
@[simp] theorem updCtx_copies (s : State) (c : Nat) (f : Ctx → Ctx) : (updCtx s c f).copies = s.copies := rfl
@[simp] theorem updCtx_queued (s : State) (c : Nat) (f : Ctx → Ctx) : (updCtx s c f).queued = s.queued := rfl
@[simp] theorem updCtx_inflight (s : State) (c : Nat) (f : Ctx → Ctx) : (updCtx s c f).inflight = s.inflight := rfl
@[simp] theorem updCtx_reads (s : State) (c : Nat) (f : Ctx → Ctx) : (updCtx s c f).reads = s.reads := rfl
@[simp] theorem updCtx_tables (s : State) (c : Nat) (f : Ctx → Ctx) : (updCtx s c f).tables = s.tables := rfl
@[simp] theorem updCtx_migLog (s : State) (c : Nat) (f : Ctx → Ctx) : (updCtx s c f).migLog = s.migLog := rfl
@[simp] theorem updCtx_readCtrs (s : State) (c : Nat) (f : Ctx → Ctx) : (updCtx s c f).readCtrs = s.readCtrs := rfl
@[simp] theorem updCtx_readWin (s : State) (c : Nat) (f : Ctx → Ctx) : (updCtx s c f).readWin = s.readWin := rfl
@[simp] theorem updCtx_updates (s : State) (c : Nat) (f : Ctx → Ctx) : (updCtx s c f).updates = s.updates := rfl
@[simp] theorem updCtx_scatters (s : State) (c : Nat) (f : Ctx → Ctx) : (updCtx s c f).scatters = s.scatters := rfl
@[simp] theorem updCtx_runs (s : State) (c : Nat) (f : Ctx → Ctx) : (updCtx s c f).runs = s.runs := rfl
@[simp] theorem updCtx_nextRun (s : State) (c : Nat) (f : Ctx → Ctx) : (updCtx s c f).nextRun = s.nextRun := rfl
@[simp] theorem updCtx_indexes (s : State) (c : Nat) (f : Ctx → Ctx) : (updCtx s c f).indexes = s.indexes := rfl
@[simp] theorem updCtx_vocabs (s : State) (c : Nat) (f : Ctx → Ctx) : (updCtx s c f).vocabs = s.vocabs := rfl
@[simp] theorem updCtx_norms (s : State) (c : Nat) (f : Ctx → Ctx) : (updCtx s c f).norms = s.norms := rfl
@[simp] theorem updCtx_grammars (s : State) (c : Nat) (f : Ctx → Ctx) : (updCtx s c f).grammars = s.grammars := rfl
@[simp] theorem updCtx_encodes (s : State) (c : Nat) (f : Ctx → Ctx) : (updCtx s c f).encodes = s.encodes := rfl
@[simp] theorem updCtx_fronts (s : State) (c : Nat) (f : Ctx → Ctx) : (updCtx s c f).fronts = s.fronts := rfl
@[simp] theorem updCtx_gens (s : State) (c : Nat) (f : Ctx → Ctx) : (updCtx s c f).gens = s.gens := rfl
@[simp] theorem updCtx_engines (s : State) (c : Nat) (f : Ctx → Ctx) : (updCtx s c f).engines = s.engines := rfl
@[simp] theorem updCtx_media (s : State) (c : Nat) (f : Ctx → Ctx) : (updCtx s c f).media = s.media := rfl
@[simp] theorem updCtx_stylus (s : State) (c : Nat) (f : Ctx → Ctx) : (updCtx s c f).stylus = s.stylus := rfl
@[simp] theorem updCtx_host (s : State) (c : Nat) (f : Ctx → Ctx) : (updCtx s c f).host = s.host := rfl
@[simp] theorem updCtx_folio (s : State) (c : Nat) (f : Ctx → Ctx) : (updCtx s c f).folio = s.folio := rfl
@[simp] theorem updCtx_integ (s : State) (c : Nat) (f : Ctx → Ctx) : (updCtx s c f).integ = s.integ := rfl
@[simp] theorem updCtx_recov (s : State) (c : Nat) (f : Ctx → Ctx) : (updCtx s c f).recov = s.recov := rfl
@[simp] theorem updCtx_cal (s : State) (c : Nat) (f : Ctx → Ctx) : (updCtx s c f).cal = s.cal := rfl
@[simp] theorem updCtx_power (s : State) (c : Nat) (f : Ctx → Ctx) : (updCtx s c f).power = s.power := rfl
@[simp] theorem updCtx_boot (s : State) (c : Nat) (f : Ctx → Ctx) : (updCtx s c f).boot = s.boot := rfl
@[simp] theorem updCtx_easel (s : State) (c : Nat) (f : Ctx → Ctx) : (updCtx s c f).easel = s.easel := rfl
@[simp] theorem updCtx_mon (s : State) (c : Nat) (f : Ctx → Ctx) : (updCtx s c f).mon = s.mon := rfl

/-! setStream. -/

@[simp] theorem setStream_pending (s : State) (n : Nat) (x : Stream) : (setStream s n x).pending = s.pending := rfl
@[simp] theorem setStream_freeCtr (s : State) (n : Nat) (x : Stream) : (setStream s n x).freeCtr = s.freeCtr := rfl
@[simp] theorem setStream_time (s : State) (n : Nat) (x : Stream) : (setStream s n x).time = s.time := rfl
@[simp] theorem setStream_resumed (s : State) (n : Nat) (x : Stream) : (setStream s n x).resumed = s.resumed := rfl
@[simp] theorem setStream_timeStarted (s : State) (n : Nat) (x : Stream) : (setStream s n x).timeStarted = s.timeStarted := rfl
@[simp] theorem setStream_lastTime (s : State) (n : Nat) (x : Stream) : (setStream s n x).lastTime = s.lastTime := rfl
@[simp] theorem setStream_floor (s : State) (n : Nat) (x : Stream) : (setStream s n x).floor = s.floor := rfl
@[simp] theorem setStream_tiles (s : State) (n : Nat) (x : Stream) : (setStream s n x).tiles = s.tiles := rfl
@[simp] theorem setStream_streams (s : State) (n : Nat) (x : Stream) : (setStream s n x).streams = mapPut s.streams n x := rfl
@[simp] theorem setStream_arbiters (s : State) (n : Nat) (x : Stream) : (setStream s n x).arbiters = s.arbiters := rfl
@[simp] theorem setStream_boundaries (s : State) (n : Nat) (x : Stream) : (setStream s n x).boundaries = s.boundaries := rfl
@[simp] theorem setStream_hard (s : State) (n : Nat) (x : Stream) : (setStream s n x).hard = s.hard := rfl
@[simp] theorem setStream_ctxs (s : State) (n : Nat) (x : Stream) : (setStream s n x).ctxs = s.ctxs := rfl
@[simp] theorem setStream_reqs (s : State) (n : Nat) (x : Stream) : (setStream s n x).reqs = s.reqs := rfl
@[simp] theorem setStream_nextRid (s : State) (n : Nat) (x : Stream) : (setStream s n x).nextRid = s.nextRid := rfl
@[simp] theorem setStream_admitPtr (s : State) (n : Nat) (x : Stream) : (setStream s n x).admitPtr = s.admitPtr := rfl
@[simp] theorem setStream_cache (s : State) (n : Nat) (x : Stream) : (setStream s n x).cache = s.cache := rfl
@[simp] theorem setStream_cacheOrder (s : State) (n : Nat) (x : Stream) : (setStream s n x).cacheOrder = s.cacheOrder := rfl
@[simp] theorem setStream_allocOrder (s : State) (n : Nat) (x : Stream) : (setStream s n x).allocOrder = s.allocOrder := rfl
@[simp] theorem setStream_mem (s : State) (n : Nat) (x : Stream) : (setStream s n x).mem = s.mem := rfl
@[simp] theorem setStream_poison (s : State) (n : Nat) (x : Stream) : (setStream s n x).poison = s.poison := rfl
@[simp] theorem setStream_pages (s : State) (n : Nat) (x : Stream) : (setStream s n x).pages = s.pages := rfl
@[simp] theorem setStream_copies (s : State) (n : Nat) (x : Stream) : (setStream s n x).copies = s.copies := rfl
@[simp] theorem setStream_queued (s : State) (n : Nat) (x : Stream) : (setStream s n x).queued = s.queued := rfl
@[simp] theorem setStream_inflight (s : State) (n : Nat) (x : Stream) : (setStream s n x).inflight = s.inflight := rfl
@[simp] theorem setStream_reads (s : State) (n : Nat) (x : Stream) : (setStream s n x).reads = s.reads := rfl
@[simp] theorem setStream_tables (s : State) (n : Nat) (x : Stream) : (setStream s n x).tables = s.tables := rfl
@[simp] theorem setStream_migLog (s : State) (n : Nat) (x : Stream) : (setStream s n x).migLog = s.migLog := rfl
@[simp] theorem setStream_readCtrs (s : State) (n : Nat) (x : Stream) : (setStream s n x).readCtrs = s.readCtrs := rfl
@[simp] theorem setStream_readWin (s : State) (n : Nat) (x : Stream) : (setStream s n x).readWin = s.readWin := rfl
@[simp] theorem setStream_updates (s : State) (n : Nat) (x : Stream) : (setStream s n x).updates = s.updates := rfl
@[simp] theorem setStream_scatters (s : State) (n : Nat) (x : Stream) : (setStream s n x).scatters = s.scatters := rfl
@[simp] theorem setStream_runs (s : State) (n : Nat) (x : Stream) : (setStream s n x).runs = s.runs := rfl
@[simp] theorem setStream_nextRun (s : State) (n : Nat) (x : Stream) : (setStream s n x).nextRun = s.nextRun := rfl
@[simp] theorem setStream_indexes (s : State) (n : Nat) (x : Stream) : (setStream s n x).indexes = s.indexes := rfl
@[simp] theorem setStream_vocabs (s : State) (n : Nat) (x : Stream) : (setStream s n x).vocabs = s.vocabs := rfl
@[simp] theorem setStream_norms (s : State) (n : Nat) (x : Stream) : (setStream s n x).norms = s.norms := rfl
@[simp] theorem setStream_grammars (s : State) (n : Nat) (x : Stream) : (setStream s n x).grammars = s.grammars := rfl
@[simp] theorem setStream_encodes (s : State) (n : Nat) (x : Stream) : (setStream s n x).encodes = s.encodes := rfl
@[simp] theorem setStream_fronts (s : State) (n : Nat) (x : Stream) : (setStream s n x).fronts = s.fronts := rfl
@[simp] theorem setStream_gens (s : State) (n : Nat) (x : Stream) : (setStream s n x).gens = s.gens := rfl
@[simp] theorem setStream_engines (s : State) (n : Nat) (x : Stream) : (setStream s n x).engines = s.engines := rfl
@[simp] theorem setStream_media (s : State) (n : Nat) (x : Stream) : (setStream s n x).media = s.media := rfl
@[simp] theorem setStream_stylus (s : State) (n : Nat) (x : Stream) : (setStream s n x).stylus = s.stylus := rfl
@[simp] theorem setStream_host (s : State) (n : Nat) (x : Stream) : (setStream s n x).host = s.host := rfl
@[simp] theorem setStream_folio (s : State) (n : Nat) (x : Stream) : (setStream s n x).folio = s.folio := rfl
@[simp] theorem setStream_integ (s : State) (n : Nat) (x : Stream) : (setStream s n x).integ = s.integ := rfl
@[simp] theorem setStream_recov (s : State) (n : Nat) (x : Stream) : (setStream s n x).recov = s.recov := rfl
@[simp] theorem setStream_cal (s : State) (n : Nat) (x : Stream) : (setStream s n x).cal = s.cal := rfl
@[simp] theorem setStream_power (s : State) (n : Nat) (x : Stream) : (setStream s n x).power = s.power := rfl
@[simp] theorem setStream_boot (s : State) (n : Nat) (x : Stream) : (setStream s n x).boot = s.boot := rfl
@[simp] theorem setStream_easel (s : State) (n : Nat) (x : Stream) : (setStream s n x).easel = s.easel := rfl
@[simp] theorem setStream_mon (s : State) (n : Nat) (x : Stream) : (setStream s n x).mon = s.mon := rfl

/-! updStream. -/

@[simp] theorem updStream_pending (s : State) (n : Nat) (f : Stream → Stream) : (updStream s n f).pending = s.pending := rfl
@[simp] theorem updStream_freeCtr (s : State) (n : Nat) (f : Stream → Stream) : (updStream s n f).freeCtr = s.freeCtr := rfl
@[simp] theorem updStream_time (s : State) (n : Nat) (f : Stream → Stream) : (updStream s n f).time = s.time := rfl
@[simp] theorem updStream_resumed (s : State) (n : Nat) (f : Stream → Stream) : (updStream s n f).resumed = s.resumed := rfl
@[simp] theorem updStream_timeStarted (s : State) (n : Nat) (f : Stream → Stream) : (updStream s n f).timeStarted = s.timeStarted := rfl
@[simp] theorem updStream_lastTime (s : State) (n : Nat) (f : Stream → Stream) : (updStream s n f).lastTime = s.lastTime := rfl
@[simp] theorem updStream_floor (s : State) (n : Nat) (f : Stream → Stream) : (updStream s n f).floor = s.floor := rfl
@[simp] theorem updStream_tiles (s : State) (n : Nat) (f : Stream → Stream) : (updStream s n f).tiles = s.tiles := rfl
@[simp] theorem updStream_streams (s : State) (n : Nat) (f : Stream → Stream) : (updStream s n f).streams = mapUpd s.streams n f := rfl
@[simp] theorem updStream_arbiters (s : State) (n : Nat) (f : Stream → Stream) : (updStream s n f).arbiters = s.arbiters := rfl
@[simp] theorem updStream_boundaries (s : State) (n : Nat) (f : Stream → Stream) : (updStream s n f).boundaries = s.boundaries := rfl
@[simp] theorem updStream_hard (s : State) (n : Nat) (f : Stream → Stream) : (updStream s n f).hard = s.hard := rfl
@[simp] theorem updStream_ctxs (s : State) (n : Nat) (f : Stream → Stream) : (updStream s n f).ctxs = s.ctxs := rfl
@[simp] theorem updStream_reqs (s : State) (n : Nat) (f : Stream → Stream) : (updStream s n f).reqs = s.reqs := rfl
@[simp] theorem updStream_nextRid (s : State) (n : Nat) (f : Stream → Stream) : (updStream s n f).nextRid = s.nextRid := rfl
@[simp] theorem updStream_admitPtr (s : State) (n : Nat) (f : Stream → Stream) : (updStream s n f).admitPtr = s.admitPtr := rfl
@[simp] theorem updStream_cache (s : State) (n : Nat) (f : Stream → Stream) : (updStream s n f).cache = s.cache := rfl
@[simp] theorem updStream_cacheOrder (s : State) (n : Nat) (f : Stream → Stream) : (updStream s n f).cacheOrder = s.cacheOrder := rfl
@[simp] theorem updStream_allocOrder (s : State) (n : Nat) (f : Stream → Stream) : (updStream s n f).allocOrder = s.allocOrder := rfl
@[simp] theorem updStream_mem (s : State) (n : Nat) (f : Stream → Stream) : (updStream s n f).mem = s.mem := rfl
@[simp] theorem updStream_poison (s : State) (n : Nat) (f : Stream → Stream) : (updStream s n f).poison = s.poison := rfl
@[simp] theorem updStream_pages (s : State) (n : Nat) (f : Stream → Stream) : (updStream s n f).pages = s.pages := rfl
@[simp] theorem updStream_copies (s : State) (n : Nat) (f : Stream → Stream) : (updStream s n f).copies = s.copies := rfl
@[simp] theorem updStream_queued (s : State) (n : Nat) (f : Stream → Stream) : (updStream s n f).queued = s.queued := rfl
@[simp] theorem updStream_inflight (s : State) (n : Nat) (f : Stream → Stream) : (updStream s n f).inflight = s.inflight := rfl
@[simp] theorem updStream_reads (s : State) (n : Nat) (f : Stream → Stream) : (updStream s n f).reads = s.reads := rfl
@[simp] theorem updStream_tables (s : State) (n : Nat) (f : Stream → Stream) : (updStream s n f).tables = s.tables := rfl
@[simp] theorem updStream_migLog (s : State) (n : Nat) (f : Stream → Stream) : (updStream s n f).migLog = s.migLog := rfl
@[simp] theorem updStream_readCtrs (s : State) (n : Nat) (f : Stream → Stream) : (updStream s n f).readCtrs = s.readCtrs := rfl
@[simp] theorem updStream_readWin (s : State) (n : Nat) (f : Stream → Stream) : (updStream s n f).readWin = s.readWin := rfl
@[simp] theorem updStream_updates (s : State) (n : Nat) (f : Stream → Stream) : (updStream s n f).updates = s.updates := rfl
@[simp] theorem updStream_scatters (s : State) (n : Nat) (f : Stream → Stream) : (updStream s n f).scatters = s.scatters := rfl
@[simp] theorem updStream_runs (s : State) (n : Nat) (f : Stream → Stream) : (updStream s n f).runs = s.runs := rfl
@[simp] theorem updStream_nextRun (s : State) (n : Nat) (f : Stream → Stream) : (updStream s n f).nextRun = s.nextRun := rfl
@[simp] theorem updStream_indexes (s : State) (n : Nat) (f : Stream → Stream) : (updStream s n f).indexes = s.indexes := rfl
@[simp] theorem updStream_vocabs (s : State) (n : Nat) (f : Stream → Stream) : (updStream s n f).vocabs = s.vocabs := rfl
@[simp] theorem updStream_norms (s : State) (n : Nat) (f : Stream → Stream) : (updStream s n f).norms = s.norms := rfl
@[simp] theorem updStream_grammars (s : State) (n : Nat) (f : Stream → Stream) : (updStream s n f).grammars = s.grammars := rfl
@[simp] theorem updStream_encodes (s : State) (n : Nat) (f : Stream → Stream) : (updStream s n f).encodes = s.encodes := rfl
@[simp] theorem updStream_fronts (s : State) (n : Nat) (f : Stream → Stream) : (updStream s n f).fronts = s.fronts := rfl
@[simp] theorem updStream_gens (s : State) (n : Nat) (f : Stream → Stream) : (updStream s n f).gens = s.gens := rfl
@[simp] theorem updStream_engines (s : State) (n : Nat) (f : Stream → Stream) : (updStream s n f).engines = s.engines := rfl
@[simp] theorem updStream_media (s : State) (n : Nat) (f : Stream → Stream) : (updStream s n f).media = s.media := rfl
@[simp] theorem updStream_stylus (s : State) (n : Nat) (f : Stream → Stream) : (updStream s n f).stylus = s.stylus := rfl
@[simp] theorem updStream_host (s : State) (n : Nat) (f : Stream → Stream) : (updStream s n f).host = s.host := rfl
@[simp] theorem updStream_folio (s : State) (n : Nat) (f : Stream → Stream) : (updStream s n f).folio = s.folio := rfl
@[simp] theorem updStream_integ (s : State) (n : Nat) (f : Stream → Stream) : (updStream s n f).integ = s.integ := rfl
@[simp] theorem updStream_recov (s : State) (n : Nat) (f : Stream → Stream) : (updStream s n f).recov = s.recov := rfl
@[simp] theorem updStream_cal (s : State) (n : Nat) (f : Stream → Stream) : (updStream s n f).cal = s.cal := rfl
@[simp] theorem updStream_power (s : State) (n : Nat) (f : Stream → Stream) : (updStream s n f).power = s.power := rfl
@[simp] theorem updStream_boot (s : State) (n : Nat) (f : Stream → Stream) : (updStream s n f).boot = s.boot := rfl
@[simp] theorem updStream_easel (s : State) (n : Nat) (f : Stream → Stream) : (updStream s n f).easel = s.easel := rfl
@[simp] theorem updStream_mon (s : State) (n : Nat) (f : Stream → Stream) : (updStream s n f).mon = s.mon := rfl

/-! updReq. -/

@[simp] theorem updReq_pending (s : State) (r : Nat) (f : Req → Req) : (updReq s r f).pending = s.pending := rfl
@[simp] theorem updReq_freeCtr (s : State) (r : Nat) (f : Req → Req) : (updReq s r f).freeCtr = s.freeCtr := rfl
@[simp] theorem updReq_time (s : State) (r : Nat) (f : Req → Req) : (updReq s r f).time = s.time := rfl
@[simp] theorem updReq_resumed (s : State) (r : Nat) (f : Req → Req) : (updReq s r f).resumed = s.resumed := rfl
@[simp] theorem updReq_timeStarted (s : State) (r : Nat) (f : Req → Req) : (updReq s r f).timeStarted = s.timeStarted := rfl
@[simp] theorem updReq_lastTime (s : State) (r : Nat) (f : Req → Req) : (updReq s r f).lastTime = s.lastTime := rfl
@[simp] theorem updReq_floor (s : State) (r : Nat) (f : Req → Req) : (updReq s r f).floor = s.floor := rfl
@[simp] theorem updReq_tiles (s : State) (r : Nat) (f : Req → Req) : (updReq s r f).tiles = s.tiles := rfl
@[simp] theorem updReq_streams (s : State) (r : Nat) (f : Req → Req) : (updReq s r f).streams = s.streams := rfl
@[simp] theorem updReq_arbiters (s : State) (r : Nat) (f : Req → Req) : (updReq s r f).arbiters = s.arbiters := rfl
@[simp] theorem updReq_boundaries (s : State) (r : Nat) (f : Req → Req) : (updReq s r f).boundaries = s.boundaries := rfl
@[simp] theorem updReq_hard (s : State) (r : Nat) (f : Req → Req) : (updReq s r f).hard = s.hard := rfl
@[simp] theorem updReq_ctxs (s : State) (r : Nat) (f : Req → Req) : (updReq s r f).ctxs = s.ctxs := rfl
@[simp] theorem updReq_reqs (s : State) (r : Nat) (f : Req → Req) : (updReq s r f).reqs = mapUpd s.reqs r f := rfl
@[simp] theorem updReq_nextRid (s : State) (r : Nat) (f : Req → Req) : (updReq s r f).nextRid = s.nextRid := rfl
@[simp] theorem updReq_admitPtr (s : State) (r : Nat) (f : Req → Req) : (updReq s r f).admitPtr = s.admitPtr := rfl
@[simp] theorem updReq_cache (s : State) (r : Nat) (f : Req → Req) : (updReq s r f).cache = s.cache := rfl
@[simp] theorem updReq_cacheOrder (s : State) (r : Nat) (f : Req → Req) : (updReq s r f).cacheOrder = s.cacheOrder := rfl
@[simp] theorem updReq_allocOrder (s : State) (r : Nat) (f : Req → Req) : (updReq s r f).allocOrder = s.allocOrder := rfl
@[simp] theorem updReq_mem (s : State) (r : Nat) (f : Req → Req) : (updReq s r f).mem = s.mem := rfl
@[simp] theorem updReq_poison (s : State) (r : Nat) (f : Req → Req) : (updReq s r f).poison = s.poison := rfl
@[simp] theorem updReq_pages (s : State) (r : Nat) (f : Req → Req) : (updReq s r f).pages = s.pages := rfl
@[simp] theorem updReq_copies (s : State) (r : Nat) (f : Req → Req) : (updReq s r f).copies = s.copies := rfl
@[simp] theorem updReq_queued (s : State) (r : Nat) (f : Req → Req) : (updReq s r f).queued = s.queued := rfl
@[simp] theorem updReq_inflight (s : State) (r : Nat) (f : Req → Req) : (updReq s r f).inflight = s.inflight := rfl
@[simp] theorem updReq_reads (s : State) (r : Nat) (f : Req → Req) : (updReq s r f).reads = s.reads := rfl
@[simp] theorem updReq_tables (s : State) (r : Nat) (f : Req → Req) : (updReq s r f).tables = s.tables := rfl
@[simp] theorem updReq_migLog (s : State) (r : Nat) (f : Req → Req) : (updReq s r f).migLog = s.migLog := rfl
@[simp] theorem updReq_readCtrs (s : State) (r : Nat) (f : Req → Req) : (updReq s r f).readCtrs = s.readCtrs := rfl
@[simp] theorem updReq_readWin (s : State) (r : Nat) (f : Req → Req) : (updReq s r f).readWin = s.readWin := rfl
@[simp] theorem updReq_updates (s : State) (r : Nat) (f : Req → Req) : (updReq s r f).updates = s.updates := rfl
@[simp] theorem updReq_scatters (s : State) (r : Nat) (f : Req → Req) : (updReq s r f).scatters = s.scatters := rfl
@[simp] theorem updReq_runs (s : State) (r : Nat) (f : Req → Req) : (updReq s r f).runs = s.runs := rfl
@[simp] theorem updReq_nextRun (s : State) (r : Nat) (f : Req → Req) : (updReq s r f).nextRun = s.nextRun := rfl
@[simp] theorem updReq_indexes (s : State) (r : Nat) (f : Req → Req) : (updReq s r f).indexes = s.indexes := rfl
@[simp] theorem updReq_vocabs (s : State) (r : Nat) (f : Req → Req) : (updReq s r f).vocabs = s.vocabs := rfl
@[simp] theorem updReq_norms (s : State) (r : Nat) (f : Req → Req) : (updReq s r f).norms = s.norms := rfl
@[simp] theorem updReq_grammars (s : State) (r : Nat) (f : Req → Req) : (updReq s r f).grammars = s.grammars := rfl
@[simp] theorem updReq_encodes (s : State) (r : Nat) (f : Req → Req) : (updReq s r f).encodes = s.encodes := rfl
@[simp] theorem updReq_fronts (s : State) (r : Nat) (f : Req → Req) : (updReq s r f).fronts = s.fronts := rfl
@[simp] theorem updReq_gens (s : State) (r : Nat) (f : Req → Req) : (updReq s r f).gens = s.gens := rfl
@[simp] theorem updReq_engines (s : State) (r : Nat) (f : Req → Req) : (updReq s r f).engines = s.engines := rfl
@[simp] theorem updReq_media (s : State) (r : Nat) (f : Req → Req) : (updReq s r f).media = s.media := rfl
@[simp] theorem updReq_stylus (s : State) (r : Nat) (f : Req → Req) : (updReq s r f).stylus = s.stylus := rfl
@[simp] theorem updReq_host (s : State) (r : Nat) (f : Req → Req) : (updReq s r f).host = s.host := rfl
@[simp] theorem updReq_folio (s : State) (r : Nat) (f : Req → Req) : (updReq s r f).folio = s.folio := rfl
@[simp] theorem updReq_integ (s : State) (r : Nat) (f : Req → Req) : (updReq s r f).integ = s.integ := rfl
@[simp] theorem updReq_recov (s : State) (r : Nat) (f : Req → Req) : (updReq s r f).recov = s.recov := rfl
@[simp] theorem updReq_cal (s : State) (r : Nat) (f : Req → Req) : (updReq s r f).cal = s.cal := rfl
@[simp] theorem updReq_power (s : State) (r : Nat) (f : Req → Req) : (updReq s r f).power = s.power := rfl
@[simp] theorem updReq_boot (s : State) (r : Nat) (f : Req → Req) : (updReq s r f).boot = s.boot := rfl
@[simp] theorem updReq_easel (s : State) (r : Nat) (f : Req → Req) : (updReq s r f).easel = s.easel := rfl
@[simp] theorem updReq_mon (s : State) (r : Nat) (f : Req → Req) : (updReq s r f).mon = s.mon := rfl

/-! dropReq. -/

@[simp] theorem dropReq_pending (s : State) (r : Nat) : (dropReq s r).pending = s.pending := rfl
@[simp] theorem dropReq_freeCtr (s : State) (r : Nat) : (dropReq s r).freeCtr = s.freeCtr := rfl
@[simp] theorem dropReq_time (s : State) (r : Nat) : (dropReq s r).time = s.time := rfl
@[simp] theorem dropReq_resumed (s : State) (r : Nat) : (dropReq s r).resumed = s.resumed := rfl
@[simp] theorem dropReq_timeStarted (s : State) (r : Nat) : (dropReq s r).timeStarted = s.timeStarted := rfl
@[simp] theorem dropReq_lastTime (s : State) (r : Nat) : (dropReq s r).lastTime = s.lastTime := rfl
@[simp] theorem dropReq_floor (s : State) (r : Nat) : (dropReq s r).floor = s.floor := rfl
@[simp] theorem dropReq_tiles (s : State) (r : Nat) : (dropReq s r).tiles = s.tiles := rfl
@[simp] theorem dropReq_streams (s : State) (r : Nat) : (dropReq s r).streams = s.streams := rfl
@[simp] theorem dropReq_arbiters (s : State) (r : Nat) : (dropReq s r).arbiters = s.arbiters := rfl
@[simp] theorem dropReq_boundaries (s : State) (r : Nat) : (dropReq s r).boundaries = s.boundaries := rfl
@[simp] theorem dropReq_hard (s : State) (r : Nat) : (dropReq s r).hard = s.hard := rfl
@[simp] theorem dropReq_ctxs (s : State) (r : Nat) : (dropReq s r).ctxs = s.ctxs := rfl
@[simp] theorem dropReq_reqs (s : State) (r : Nat) : (dropReq s r).reqs = mapDrop s.reqs r := rfl
@[simp] theorem dropReq_nextRid (s : State) (r : Nat) : (dropReq s r).nextRid = s.nextRid := rfl
@[simp] theorem dropReq_admitPtr (s : State) (r : Nat) : (dropReq s r).admitPtr = s.admitPtr := rfl
@[simp] theorem dropReq_cache (s : State) (r : Nat) : (dropReq s r).cache = s.cache := rfl
@[simp] theorem dropReq_cacheOrder (s : State) (r : Nat) : (dropReq s r).cacheOrder = s.cacheOrder := rfl
@[simp] theorem dropReq_allocOrder (s : State) (r : Nat) : (dropReq s r).allocOrder = s.allocOrder := rfl
@[simp] theorem dropReq_mem (s : State) (r : Nat) : (dropReq s r).mem = s.mem := rfl
@[simp] theorem dropReq_poison (s : State) (r : Nat) : (dropReq s r).poison = s.poison := rfl
@[simp] theorem dropReq_pages (s : State) (r : Nat) : (dropReq s r).pages = s.pages := rfl
@[simp] theorem dropReq_copies (s : State) (r : Nat) : (dropReq s r).copies = s.copies := rfl
@[simp] theorem dropReq_queued (s : State) (r : Nat) : (dropReq s r).queued = s.queued := rfl
@[simp] theorem dropReq_inflight (s : State) (r : Nat) : (dropReq s r).inflight = s.inflight := rfl
@[simp] theorem dropReq_reads (s : State) (r : Nat) : (dropReq s r).reads = s.reads := rfl
@[simp] theorem dropReq_tables (s : State) (r : Nat) : (dropReq s r).tables = s.tables := rfl
@[simp] theorem dropReq_migLog (s : State) (r : Nat) : (dropReq s r).migLog = s.migLog := rfl
@[simp] theorem dropReq_readCtrs (s : State) (r : Nat) : (dropReq s r).readCtrs = s.readCtrs := rfl
@[simp] theorem dropReq_readWin (s : State) (r : Nat) : (dropReq s r).readWin = s.readWin := rfl
@[simp] theorem dropReq_updates (s : State) (r : Nat) : (dropReq s r).updates = s.updates := rfl
@[simp] theorem dropReq_scatters (s : State) (r : Nat) : (dropReq s r).scatters = s.scatters := rfl
@[simp] theorem dropReq_runs (s : State) (r : Nat) : (dropReq s r).runs = s.runs := rfl
@[simp] theorem dropReq_nextRun (s : State) (r : Nat) : (dropReq s r).nextRun = s.nextRun := rfl
@[simp] theorem dropReq_indexes (s : State) (r : Nat) : (dropReq s r).indexes = s.indexes := rfl
@[simp] theorem dropReq_vocabs (s : State) (r : Nat) : (dropReq s r).vocabs = s.vocabs := rfl
@[simp] theorem dropReq_norms (s : State) (r : Nat) : (dropReq s r).norms = s.norms := rfl
@[simp] theorem dropReq_grammars (s : State) (r : Nat) : (dropReq s r).grammars = s.grammars := rfl
@[simp] theorem dropReq_encodes (s : State) (r : Nat) : (dropReq s r).encodes = s.encodes := rfl
@[simp] theorem dropReq_fronts (s : State) (r : Nat) : (dropReq s r).fronts = s.fronts := rfl
@[simp] theorem dropReq_gens (s : State) (r : Nat) : (dropReq s r).gens = s.gens := rfl
@[simp] theorem dropReq_engines (s : State) (r : Nat) : (dropReq s r).engines = s.engines := rfl
@[simp] theorem dropReq_media (s : State) (r : Nat) : (dropReq s r).media = s.media := rfl
@[simp] theorem dropReq_stylus (s : State) (r : Nat) : (dropReq s r).stylus = s.stylus := rfl
@[simp] theorem dropReq_host (s : State) (r : Nat) : (dropReq s r).host = s.host := rfl
@[simp] theorem dropReq_folio (s : State) (r : Nat) : (dropReq s r).folio = s.folio := rfl
@[simp] theorem dropReq_integ (s : State) (r : Nat) : (dropReq s r).integ = s.integ := rfl
@[simp] theorem dropReq_recov (s : State) (r : Nat) : (dropReq s r).recov = s.recov := rfl
@[simp] theorem dropReq_cal (s : State) (r : Nat) : (dropReq s r).cal = s.cal := rfl
@[simp] theorem dropReq_power (s : State) (r : Nat) : (dropReq s r).power = s.power := rfl
@[simp] theorem dropReq_boot (s : State) (r : Nat) : (dropReq s r).boot = s.boot := rfl
@[simp] theorem dropReq_easel (s : State) (r : Nat) : (dropReq s r).easel = s.easel := rfl
@[simp] theorem dropReq_mon (s : State) (r : Nat) : (dropReq s r).mon = s.mon := rfl

/-! updTable. -/

@[simp] theorem updTable_pending (s : State) (k : Nat) (f : Table → Table) : (updTable s k f).pending = s.pending := rfl
@[simp] theorem updTable_freeCtr (s : State) (k : Nat) (f : Table → Table) : (updTable s k f).freeCtr = s.freeCtr := rfl
@[simp] theorem updTable_time (s : State) (k : Nat) (f : Table → Table) : (updTable s k f).time = s.time := rfl
@[simp] theorem updTable_resumed (s : State) (k : Nat) (f : Table → Table) : (updTable s k f).resumed = s.resumed := rfl
@[simp] theorem updTable_timeStarted (s : State) (k : Nat) (f : Table → Table) : (updTable s k f).timeStarted = s.timeStarted := rfl
@[simp] theorem updTable_lastTime (s : State) (k : Nat) (f : Table → Table) : (updTable s k f).lastTime = s.lastTime := rfl
@[simp] theorem updTable_floor (s : State) (k : Nat) (f : Table → Table) : (updTable s k f).floor = s.floor := rfl
@[simp] theorem updTable_tiles (s : State) (k : Nat) (f : Table → Table) : (updTable s k f).tiles = s.tiles := rfl
@[simp] theorem updTable_streams (s : State) (k : Nat) (f : Table → Table) : (updTable s k f).streams = s.streams := rfl
@[simp] theorem updTable_arbiters (s : State) (k : Nat) (f : Table → Table) : (updTable s k f).arbiters = s.arbiters := rfl
@[simp] theorem updTable_boundaries (s : State) (k : Nat) (f : Table → Table) : (updTable s k f).boundaries = s.boundaries := rfl
@[simp] theorem updTable_hard (s : State) (k : Nat) (f : Table → Table) : (updTable s k f).hard = s.hard := rfl
@[simp] theorem updTable_ctxs (s : State) (k : Nat) (f : Table → Table) : (updTable s k f).ctxs = s.ctxs := rfl
@[simp] theorem updTable_reqs (s : State) (k : Nat) (f : Table → Table) : (updTable s k f).reqs = s.reqs := rfl
@[simp] theorem updTable_nextRid (s : State) (k : Nat) (f : Table → Table) : (updTable s k f).nextRid = s.nextRid := rfl
@[simp] theorem updTable_admitPtr (s : State) (k : Nat) (f : Table → Table) : (updTable s k f).admitPtr = s.admitPtr := rfl
@[simp] theorem updTable_cache (s : State) (k : Nat) (f : Table → Table) : (updTable s k f).cache = s.cache := rfl
@[simp] theorem updTable_cacheOrder (s : State) (k : Nat) (f : Table → Table) : (updTable s k f).cacheOrder = s.cacheOrder := rfl
@[simp] theorem updTable_allocOrder (s : State) (k : Nat) (f : Table → Table) : (updTable s k f).allocOrder = s.allocOrder := rfl
@[simp] theorem updTable_mem (s : State) (k : Nat) (f : Table → Table) : (updTable s k f).mem = s.mem := rfl
@[simp] theorem updTable_poison (s : State) (k : Nat) (f : Table → Table) : (updTable s k f).poison = s.poison := rfl
@[simp] theorem updTable_pages (s : State) (k : Nat) (f : Table → Table) : (updTable s k f).pages = s.pages := rfl
@[simp] theorem updTable_copies (s : State) (k : Nat) (f : Table → Table) : (updTable s k f).copies = s.copies := rfl
@[simp] theorem updTable_queued (s : State) (k : Nat) (f : Table → Table) : (updTable s k f).queued = s.queued := rfl
@[simp] theorem updTable_inflight (s : State) (k : Nat) (f : Table → Table) : (updTable s k f).inflight = s.inflight := rfl
@[simp] theorem updTable_reads (s : State) (k : Nat) (f : Table → Table) : (updTable s k f).reads = s.reads := rfl
@[simp] theorem updTable_tables (s : State) (k : Nat) (f : Table → Table) : (updTable s k f).tables = mapUpd s.tables k f := rfl
@[simp] theorem updTable_migLog (s : State) (k : Nat) (f : Table → Table) : (updTable s k f).migLog = s.migLog := rfl
@[simp] theorem updTable_readCtrs (s : State) (k : Nat) (f : Table → Table) : (updTable s k f).readCtrs = s.readCtrs := rfl
@[simp] theorem updTable_readWin (s : State) (k : Nat) (f : Table → Table) : (updTable s k f).readWin = s.readWin := rfl
@[simp] theorem updTable_updates (s : State) (k : Nat) (f : Table → Table) : (updTable s k f).updates = s.updates := rfl
@[simp] theorem updTable_scatters (s : State) (k : Nat) (f : Table → Table) : (updTable s k f).scatters = s.scatters := rfl
@[simp] theorem updTable_runs (s : State) (k : Nat) (f : Table → Table) : (updTable s k f).runs = s.runs := rfl
@[simp] theorem updTable_nextRun (s : State) (k : Nat) (f : Table → Table) : (updTable s k f).nextRun = s.nextRun := rfl
@[simp] theorem updTable_indexes (s : State) (k : Nat) (f : Table → Table) : (updTable s k f).indexes = s.indexes := rfl
@[simp] theorem updTable_vocabs (s : State) (k : Nat) (f : Table → Table) : (updTable s k f).vocabs = s.vocabs := rfl
@[simp] theorem updTable_norms (s : State) (k : Nat) (f : Table → Table) : (updTable s k f).norms = s.norms := rfl
@[simp] theorem updTable_grammars (s : State) (k : Nat) (f : Table → Table) : (updTable s k f).grammars = s.grammars := rfl
@[simp] theorem updTable_encodes (s : State) (k : Nat) (f : Table → Table) : (updTable s k f).encodes = s.encodes := rfl
@[simp] theorem updTable_fronts (s : State) (k : Nat) (f : Table → Table) : (updTable s k f).fronts = s.fronts := rfl
@[simp] theorem updTable_gens (s : State) (k : Nat) (f : Table → Table) : (updTable s k f).gens = s.gens := rfl
@[simp] theorem updTable_engines (s : State) (k : Nat) (f : Table → Table) : (updTable s k f).engines = s.engines := rfl
@[simp] theorem updTable_media (s : State) (k : Nat) (f : Table → Table) : (updTable s k f).media = s.media := rfl
@[simp] theorem updTable_stylus (s : State) (k : Nat) (f : Table → Table) : (updTable s k f).stylus = s.stylus := rfl
@[simp] theorem updTable_host (s : State) (k : Nat) (f : Table → Table) : (updTable s k f).host = s.host := rfl
@[simp] theorem updTable_folio (s : State) (k : Nat) (f : Table → Table) : (updTable s k f).folio = s.folio := rfl
@[simp] theorem updTable_integ (s : State) (k : Nat) (f : Table → Table) : (updTable s k f).integ = s.integ := rfl
@[simp] theorem updTable_recov (s : State) (k : Nat) (f : Table → Table) : (updTable s k f).recov = s.recov := rfl
@[simp] theorem updTable_cal (s : State) (k : Nat) (f : Table → Table) : (updTable s k f).cal = s.cal := rfl
@[simp] theorem updTable_power (s : State) (k : Nat) (f : Table → Table) : (updTable s k f).power = s.power := rfl
@[simp] theorem updTable_boot (s : State) (k : Nat) (f : Table → Table) : (updTable s k f).boot = s.boot := rfl
@[simp] theorem updTable_easel (s : State) (k : Nat) (f : Table → Table) : (updTable s k f).easel = s.easel := rfl
@[simp] theorem updTable_mon (s : State) (k : Nat) (f : Table → Table) : (updTable s k f).mon = s.mon := rfl

/-! updIndex. -/

@[simp] theorem updIndex_pending (s : State) (k : Nat) (f : Index → Index) : (updIndex s k f).pending = s.pending := rfl
@[simp] theorem updIndex_freeCtr (s : State) (k : Nat) (f : Index → Index) : (updIndex s k f).freeCtr = s.freeCtr := rfl
@[simp] theorem updIndex_time (s : State) (k : Nat) (f : Index → Index) : (updIndex s k f).time = s.time := rfl
@[simp] theorem updIndex_resumed (s : State) (k : Nat) (f : Index → Index) : (updIndex s k f).resumed = s.resumed := rfl
@[simp] theorem updIndex_timeStarted (s : State) (k : Nat) (f : Index → Index) : (updIndex s k f).timeStarted = s.timeStarted := rfl
@[simp] theorem updIndex_lastTime (s : State) (k : Nat) (f : Index → Index) : (updIndex s k f).lastTime = s.lastTime := rfl
@[simp] theorem updIndex_floor (s : State) (k : Nat) (f : Index → Index) : (updIndex s k f).floor = s.floor := rfl
@[simp] theorem updIndex_tiles (s : State) (k : Nat) (f : Index → Index) : (updIndex s k f).tiles = s.tiles := rfl
@[simp] theorem updIndex_streams (s : State) (k : Nat) (f : Index → Index) : (updIndex s k f).streams = s.streams := rfl
@[simp] theorem updIndex_arbiters (s : State) (k : Nat) (f : Index → Index) : (updIndex s k f).arbiters = s.arbiters := rfl
@[simp] theorem updIndex_boundaries (s : State) (k : Nat) (f : Index → Index) : (updIndex s k f).boundaries = s.boundaries := rfl
@[simp] theorem updIndex_hard (s : State) (k : Nat) (f : Index → Index) : (updIndex s k f).hard = s.hard := rfl
@[simp] theorem updIndex_ctxs (s : State) (k : Nat) (f : Index → Index) : (updIndex s k f).ctxs = s.ctxs := rfl
@[simp] theorem updIndex_reqs (s : State) (k : Nat) (f : Index → Index) : (updIndex s k f).reqs = s.reqs := rfl
@[simp] theorem updIndex_nextRid (s : State) (k : Nat) (f : Index → Index) : (updIndex s k f).nextRid = s.nextRid := rfl
@[simp] theorem updIndex_admitPtr (s : State) (k : Nat) (f : Index → Index) : (updIndex s k f).admitPtr = s.admitPtr := rfl
@[simp] theorem updIndex_cache (s : State) (k : Nat) (f : Index → Index) : (updIndex s k f).cache = s.cache := rfl
@[simp] theorem updIndex_cacheOrder (s : State) (k : Nat) (f : Index → Index) : (updIndex s k f).cacheOrder = s.cacheOrder := rfl
@[simp] theorem updIndex_allocOrder (s : State) (k : Nat) (f : Index → Index) : (updIndex s k f).allocOrder = s.allocOrder := rfl
@[simp] theorem updIndex_mem (s : State) (k : Nat) (f : Index → Index) : (updIndex s k f).mem = s.mem := rfl
@[simp] theorem updIndex_poison (s : State) (k : Nat) (f : Index → Index) : (updIndex s k f).poison = s.poison := rfl
@[simp] theorem updIndex_pages (s : State) (k : Nat) (f : Index → Index) : (updIndex s k f).pages = s.pages := rfl
@[simp] theorem updIndex_copies (s : State) (k : Nat) (f : Index → Index) : (updIndex s k f).copies = s.copies := rfl
@[simp] theorem updIndex_queued (s : State) (k : Nat) (f : Index → Index) : (updIndex s k f).queued = s.queued := rfl
@[simp] theorem updIndex_inflight (s : State) (k : Nat) (f : Index → Index) : (updIndex s k f).inflight = s.inflight := rfl
@[simp] theorem updIndex_reads (s : State) (k : Nat) (f : Index → Index) : (updIndex s k f).reads = s.reads := rfl
@[simp] theorem updIndex_tables (s : State) (k : Nat) (f : Index → Index) : (updIndex s k f).tables = s.tables := rfl
@[simp] theorem updIndex_migLog (s : State) (k : Nat) (f : Index → Index) : (updIndex s k f).migLog = s.migLog := rfl
@[simp] theorem updIndex_readCtrs (s : State) (k : Nat) (f : Index → Index) : (updIndex s k f).readCtrs = s.readCtrs := rfl
@[simp] theorem updIndex_readWin (s : State) (k : Nat) (f : Index → Index) : (updIndex s k f).readWin = s.readWin := rfl
@[simp] theorem updIndex_updates (s : State) (k : Nat) (f : Index → Index) : (updIndex s k f).updates = s.updates := rfl
@[simp] theorem updIndex_scatters (s : State) (k : Nat) (f : Index → Index) : (updIndex s k f).scatters = s.scatters := rfl
@[simp] theorem updIndex_runs (s : State) (k : Nat) (f : Index → Index) : (updIndex s k f).runs = s.runs := rfl
@[simp] theorem updIndex_nextRun (s : State) (k : Nat) (f : Index → Index) : (updIndex s k f).nextRun = s.nextRun := rfl
@[simp] theorem updIndex_indexes (s : State) (k : Nat) (f : Index → Index) : (updIndex s k f).indexes = mapUpd s.indexes k f := rfl
@[simp] theorem updIndex_vocabs (s : State) (k : Nat) (f : Index → Index) : (updIndex s k f).vocabs = s.vocabs := rfl
@[simp] theorem updIndex_norms (s : State) (k : Nat) (f : Index → Index) : (updIndex s k f).norms = s.norms := rfl
@[simp] theorem updIndex_grammars (s : State) (k : Nat) (f : Index → Index) : (updIndex s k f).grammars = s.grammars := rfl
@[simp] theorem updIndex_encodes (s : State) (k : Nat) (f : Index → Index) : (updIndex s k f).encodes = s.encodes := rfl
@[simp] theorem updIndex_fronts (s : State) (k : Nat) (f : Index → Index) : (updIndex s k f).fronts = s.fronts := rfl
@[simp] theorem updIndex_gens (s : State) (k : Nat) (f : Index → Index) : (updIndex s k f).gens = s.gens := rfl
@[simp] theorem updIndex_engines (s : State) (k : Nat) (f : Index → Index) : (updIndex s k f).engines = s.engines := rfl
@[simp] theorem updIndex_media (s : State) (k : Nat) (f : Index → Index) : (updIndex s k f).media = s.media := rfl
@[simp] theorem updIndex_stylus (s : State) (k : Nat) (f : Index → Index) : (updIndex s k f).stylus = s.stylus := rfl
@[simp] theorem updIndex_host (s : State) (k : Nat) (f : Index → Index) : (updIndex s k f).host = s.host := rfl
@[simp] theorem updIndex_folio (s : State) (k : Nat) (f : Index → Index) : (updIndex s k f).folio = s.folio := rfl
@[simp] theorem updIndex_integ (s : State) (k : Nat) (f : Index → Index) : (updIndex s k f).integ = s.integ := rfl
@[simp] theorem updIndex_recov (s : State) (k : Nat) (f : Index → Index) : (updIndex s k f).recov = s.recov := rfl
@[simp] theorem updIndex_cal (s : State) (k : Nat) (f : Index → Index) : (updIndex s k f).cal = s.cal := rfl
@[simp] theorem updIndex_power (s : State) (k : Nat) (f : Index → Index) : (updIndex s k f).power = s.power := rfl
@[simp] theorem updIndex_boot (s : State) (k : Nat) (f : Index → Index) : (updIndex s k f).boot = s.boot := rfl
@[simp] theorem updIndex_easel (s : State) (k : Nat) (f : Index → Index) : (updIndex s k f).easel = s.easel := rfl
@[simp] theorem updIndex_mon (s : State) (k : Nat) (f : Index → Index) : (updIndex s k f).mon = s.mon := rfl

/-! freePages. -/

@[simp] theorem freePages_pending (s : State) (ps : List Nat) : (freePages s ps).pending = s.pending := rfl
@[simp] theorem freePages_freeCtr (s : State) (ps : List Nat) : (freePages s ps).freeCtr = s.freeCtr := rfl
@[simp] theorem freePages_time (s : State) (ps : List Nat) : (freePages s ps).time = s.time := rfl
@[simp] theorem freePages_resumed (s : State) (ps : List Nat) : (freePages s ps).resumed = s.resumed := rfl
@[simp] theorem freePages_timeStarted (s : State) (ps : List Nat) : (freePages s ps).timeStarted = s.timeStarted := rfl
@[simp] theorem freePages_lastTime (s : State) (ps : List Nat) : (freePages s ps).lastTime = s.lastTime := rfl
@[simp] theorem freePages_floor (s : State) (ps : List Nat) : (freePages s ps).floor = s.floor := rfl
@[simp] theorem freePages_tiles (s : State) (ps : List Nat) : (freePages s ps).tiles = s.tiles := rfl
@[simp] theorem freePages_streams (s : State) (ps : List Nat) : (freePages s ps).streams = s.streams := rfl
@[simp] theorem freePages_arbiters (s : State) (ps : List Nat) : (freePages s ps).arbiters = s.arbiters := rfl
@[simp] theorem freePages_boundaries (s : State) (ps : List Nat) : (freePages s ps).boundaries = s.boundaries := rfl
@[simp] theorem freePages_hard (s : State) (ps : List Nat) : (freePages s ps).hard = s.hard := rfl
@[simp] theorem freePages_ctxs (s : State) (ps : List Nat) : (freePages s ps).ctxs = s.ctxs := rfl
@[simp] theorem freePages_reqs (s : State) (ps : List Nat) : (freePages s ps).reqs = s.reqs := rfl
@[simp] theorem freePages_nextRid (s : State) (ps : List Nat) : (freePages s ps).nextRid = s.nextRid := rfl
@[simp] theorem freePages_admitPtr (s : State) (ps : List Nat) : (freePages s ps).admitPtr = s.admitPtr := rfl
@[simp] theorem freePages_cache (s : State) (ps : List Nat) : (freePages s ps).cache = s.cache := rfl
@[simp] theorem freePages_cacheOrder (s : State) (ps : List Nat) : (freePages s ps).cacheOrder = s.cacheOrder := rfl
@[simp] theorem freePages_allocOrder (s : State) (ps : List Nat) : (freePages s ps).allocOrder = s.allocOrder := rfl
@[simp] theorem freePages_mem (s : State) (ps : List Nat) : (freePages s ps).mem = s.mem := rfl
@[simp] theorem freePages_poison (s : State) (ps : List Nat) : (freePages s ps).poison = s.poison := rfl
@[simp] theorem freePages_pages (s : State) (ps : List Nat) : (freePages s ps).pages = ps.foldl mapDrop s.pages := rfl
@[simp] theorem freePages_copies (s : State) (ps : List Nat) : (freePages s ps).copies = s.copies := rfl
@[simp] theorem freePages_queued (s : State) (ps : List Nat) : (freePages s ps).queued = s.queued := rfl
@[simp] theorem freePages_inflight (s : State) (ps : List Nat) : (freePages s ps).inflight = s.inflight := rfl
@[simp] theorem freePages_reads (s : State) (ps : List Nat) : (freePages s ps).reads = s.reads := rfl
@[simp] theorem freePages_tables (s : State) (ps : List Nat) : (freePages s ps).tables = s.tables := rfl
@[simp] theorem freePages_migLog (s : State) (ps : List Nat) : (freePages s ps).migLog = s.migLog := rfl
@[simp] theorem freePages_readCtrs (s : State) (ps : List Nat) : (freePages s ps).readCtrs = s.readCtrs := rfl
@[simp] theorem freePages_readWin (s : State) (ps : List Nat) : (freePages s ps).readWin = s.readWin := rfl
@[simp] theorem freePages_updates (s : State) (ps : List Nat) : (freePages s ps).updates = s.updates := rfl
@[simp] theorem freePages_scatters (s : State) (ps : List Nat) : (freePages s ps).scatters = s.scatters := rfl
@[simp] theorem freePages_runs (s : State) (ps : List Nat) : (freePages s ps).runs = s.runs := rfl
@[simp] theorem freePages_nextRun (s : State) (ps : List Nat) : (freePages s ps).nextRun = s.nextRun := rfl
@[simp] theorem freePages_indexes (s : State) (ps : List Nat) : (freePages s ps).indexes = s.indexes := rfl
@[simp] theorem freePages_vocabs (s : State) (ps : List Nat) : (freePages s ps).vocabs = s.vocabs := rfl
@[simp] theorem freePages_norms (s : State) (ps : List Nat) : (freePages s ps).norms = s.norms := rfl
@[simp] theorem freePages_grammars (s : State) (ps : List Nat) : (freePages s ps).grammars = s.grammars := rfl
@[simp] theorem freePages_encodes (s : State) (ps : List Nat) : (freePages s ps).encodes = s.encodes := rfl
@[simp] theorem freePages_fronts (s : State) (ps : List Nat) : (freePages s ps).fronts = s.fronts := rfl
@[simp] theorem freePages_gens (s : State) (ps : List Nat) : (freePages s ps).gens = s.gens := rfl
@[simp] theorem freePages_engines (s : State) (ps : List Nat) : (freePages s ps).engines = s.engines := rfl
@[simp] theorem freePages_media (s : State) (ps : List Nat) : (freePages s ps).media = s.media := rfl
@[simp] theorem freePages_stylus (s : State) (ps : List Nat) : (freePages s ps).stylus = s.stylus := rfl
@[simp] theorem freePages_host (s : State) (ps : List Nat) : (freePages s ps).host = s.host := rfl
@[simp] theorem freePages_folio (s : State) (ps : List Nat) : (freePages s ps).folio = s.folio := rfl
@[simp] theorem freePages_integ (s : State) (ps : List Nat) : (freePages s ps).integ = s.integ := rfl
@[simp] theorem freePages_recov (s : State) (ps : List Nat) : (freePages s ps).recov = s.recov := rfl
@[simp] theorem freePages_cal (s : State) (ps : List Nat) : (freePages s ps).cal = s.cal := rfl
@[simp] theorem freePages_power (s : State) (ps : List Nat) : (freePages s ps).power = s.power := rfl
@[simp] theorem freePages_boot (s : State) (ps : List Nat) : (freePages s ps).boot = s.boot := rfl
@[simp] theorem freePages_easel (s : State) (ps : List Nat) : (freePages s ps).easel = s.easel := rfl
@[simp] theorem freePages_mon (s : State) (ps : List Nat) : (freePages s ps).mon = s.mon := rfl

/-! setPort. -/

@[simp] theorem setPort_pending (s : State) (p : Nat) (x : Port) : (setPort s p x).pending = s.pending := rfl
@[simp] theorem setPort_freeCtr (s : State) (p : Nat) (x : Port) : (setPort s p x).freeCtr = s.freeCtr := rfl
@[simp] theorem setPort_time (s : State) (p : Nat) (x : Port) : (setPort s p x).time = s.time := rfl
@[simp] theorem setPort_resumed (s : State) (p : Nat) (x : Port) : (setPort s p x).resumed = s.resumed := rfl
@[simp] theorem setPort_timeStarted (s : State) (p : Nat) (x : Port) : (setPort s p x).timeStarted = s.timeStarted := rfl
@[simp] theorem setPort_lastTime (s : State) (p : Nat) (x : Port) : (setPort s p x).lastTime = s.lastTime := rfl
@[simp] theorem setPort_floor (s : State) (p : Nat) (x : Port) : (setPort s p x).floor = s.floor := rfl
@[simp] theorem setPort_tiles (s : State) (p : Nat) (x : Port) : (setPort s p x).tiles = s.tiles := rfl
@[simp] theorem setPort_streams (s : State) (p : Nat) (x : Port) : (setPort s p x).streams = s.streams := rfl
@[simp] theorem setPort_arbiters (s : State) (p : Nat) (x : Port) : (setPort s p x).arbiters = s.arbiters := rfl
@[simp] theorem setPort_boundaries (s : State) (p : Nat) (x : Port) : (setPort s p x).boundaries = s.boundaries := rfl
@[simp] theorem setPort_hard (s : State) (p : Nat) (x : Port) : (setPort s p x).hard = s.hard := rfl
@[simp] theorem setPort_ctxs (s : State) (p : Nat) (x : Port) : (setPort s p x).ctxs = s.ctxs := rfl
@[simp] theorem setPort_reqs (s : State) (p : Nat) (x : Port) : (setPort s p x).reqs = s.reqs := rfl
@[simp] theorem setPort_nextRid (s : State) (p : Nat) (x : Port) : (setPort s p x).nextRid = s.nextRid := rfl
@[simp] theorem setPort_admitPtr (s : State) (p : Nat) (x : Port) : (setPort s p x).admitPtr = s.admitPtr := rfl
@[simp] theorem setPort_cache (s : State) (p : Nat) (x : Port) : (setPort s p x).cache = s.cache := rfl
@[simp] theorem setPort_cacheOrder (s : State) (p : Nat) (x : Port) : (setPort s p x).cacheOrder = s.cacheOrder := rfl
@[simp] theorem setPort_allocOrder (s : State) (p : Nat) (x : Port) : (setPort s p x).allocOrder = s.allocOrder := rfl
@[simp] theorem setPort_mem (s : State) (p : Nat) (x : Port) : (setPort s p x).mem = s.mem := rfl
@[simp] theorem setPort_poison (s : State) (p : Nat) (x : Port) : (setPort s p x).poison = s.poison := rfl
@[simp] theorem setPort_pages (s : State) (p : Nat) (x : Port) : (setPort s p x).pages = s.pages := rfl
@[simp] theorem setPort_copies (s : State) (p : Nat) (x : Port) : (setPort s p x).copies = s.copies := rfl
@[simp] theorem setPort_queued (s : State) (p : Nat) (x : Port) : (setPort s p x).queued = s.queued := rfl
@[simp] theorem setPort_inflight (s : State) (p : Nat) (x : Port) : (setPort s p x).inflight = s.inflight := rfl
@[simp] theorem setPort_reads (s : State) (p : Nat) (x : Port) : (setPort s p x).reads = s.reads := rfl
@[simp] theorem setPort_tables (s : State) (p : Nat) (x : Port) : (setPort s p x).tables = s.tables := rfl
@[simp] theorem setPort_migLog (s : State) (p : Nat) (x : Port) : (setPort s p x).migLog = s.migLog := rfl
@[simp] theorem setPort_readCtrs (s : State) (p : Nat) (x : Port) : (setPort s p x).readCtrs = s.readCtrs := rfl
@[simp] theorem setPort_readWin (s : State) (p : Nat) (x : Port) : (setPort s p x).readWin = s.readWin := rfl
@[simp] theorem setPort_updates (s : State) (p : Nat) (x : Port) : (setPort s p x).updates = s.updates := rfl
@[simp] theorem setPort_scatters (s : State) (p : Nat) (x : Port) : (setPort s p x).scatters = s.scatters := rfl
@[simp] theorem setPort_runs (s : State) (p : Nat) (x : Port) : (setPort s p x).runs = s.runs := rfl
@[simp] theorem setPort_nextRun (s : State) (p : Nat) (x : Port) : (setPort s p x).nextRun = s.nextRun := rfl
@[simp] theorem setPort_indexes (s : State) (p : Nat) (x : Port) : (setPort s p x).indexes = s.indexes := rfl
@[simp] theorem setPort_vocabs (s : State) (p : Nat) (x : Port) : (setPort s p x).vocabs = s.vocabs := rfl
@[simp] theorem setPort_norms (s : State) (p : Nat) (x : Port) : (setPort s p x).norms = s.norms := rfl
@[simp] theorem setPort_grammars (s : State) (p : Nat) (x : Port) : (setPort s p x).grammars = s.grammars := rfl
@[simp] theorem setPort_encodes (s : State) (p : Nat) (x : Port) : (setPort s p x).encodes = s.encodes := rfl
@[simp] theorem setPort_fronts (s : State) (p : Nat) (x : Port) : (setPort s p x).fronts = s.fronts := rfl
@[simp] theorem setPort_gens (s : State) (p : Nat) (x : Port) : (setPort s p x).gens = s.gens := rfl
@[simp] theorem setPort_engines (s : State) (p : Nat) (x : Port) : (setPort s p x).engines = s.engines := rfl
@[simp] theorem setPort_media (s : State) (p : Nat) (x : Port) : (setPort s p x).media = s.media := rfl
@[simp] theorem setPort_stylus (s : State) (p : Nat) (x : Port) : (setPort s p x).stylus = s.stylus := rfl
@[simp] theorem setPort_host (s : State) (p : Nat) (x : Port) : (setPort s p x).host = s.host := rfl
@[simp] theorem setPort_folio (s : State) (p : Nat) (x : Port) : (setPort s p x).folio = { s.folio with ports := mapPut s.folio.ports p x } := rfl
@[simp] theorem setPort_integ (s : State) (p : Nat) (x : Port) : (setPort s p x).integ = s.integ := rfl
@[simp] theorem setPort_recov (s : State) (p : Nat) (x : Port) : (setPort s p x).recov = s.recov := rfl
@[simp] theorem setPort_cal (s : State) (p : Nat) (x : Port) : (setPort s p x).cal = s.cal := rfl
@[simp] theorem setPort_power (s : State) (p : Nat) (x : Port) : (setPort s p x).power = s.power := rfl
@[simp] theorem setPort_boot (s : State) (p : Nat) (x : Port) : (setPort s p x).boot = s.boot := rfl
@[simp] theorem setPort_easel (s : State) (p : Nat) (x : Port) : (setPort s p x).easel = s.easel := rfl
@[simp] theorem setPort_mon (s : State) (p : Nat) (x : Port) : (setPort s p x).mon = s.mon := rfl

/-! setBlock. -/

@[simp] theorem setBlock_pending (s : State) (k : Nat) (b : Block) : (setBlock s k b).pending = s.pending := rfl
@[simp] theorem setBlock_freeCtr (s : State) (k : Nat) (b : Block) : (setBlock s k b).freeCtr = s.freeCtr := rfl
@[simp] theorem setBlock_time (s : State) (k : Nat) (b : Block) : (setBlock s k b).time = s.time := rfl
@[simp] theorem setBlock_resumed (s : State) (k : Nat) (b : Block) : (setBlock s k b).resumed = s.resumed := rfl
@[simp] theorem setBlock_timeStarted (s : State) (k : Nat) (b : Block) : (setBlock s k b).timeStarted = s.timeStarted := rfl
@[simp] theorem setBlock_lastTime (s : State) (k : Nat) (b : Block) : (setBlock s k b).lastTime = s.lastTime := rfl
@[simp] theorem setBlock_floor (s : State) (k : Nat) (b : Block) : (setBlock s k b).floor = s.floor := rfl
@[simp] theorem setBlock_tiles (s : State) (k : Nat) (b : Block) : (setBlock s k b).tiles = s.tiles := rfl
@[simp] theorem setBlock_streams (s : State) (k : Nat) (b : Block) : (setBlock s k b).streams = s.streams := rfl
@[simp] theorem setBlock_arbiters (s : State) (k : Nat) (b : Block) : (setBlock s k b).arbiters = s.arbiters := rfl
@[simp] theorem setBlock_boundaries (s : State) (k : Nat) (b : Block) : (setBlock s k b).boundaries = s.boundaries := rfl
@[simp] theorem setBlock_hard (s : State) (k : Nat) (b : Block) : (setBlock s k b).hard = s.hard := rfl
@[simp] theorem setBlock_ctxs (s : State) (k : Nat) (b : Block) : (setBlock s k b).ctxs = s.ctxs := rfl
@[simp] theorem setBlock_reqs (s : State) (k : Nat) (b : Block) : (setBlock s k b).reqs = s.reqs := rfl
@[simp] theorem setBlock_nextRid (s : State) (k : Nat) (b : Block) : (setBlock s k b).nextRid = s.nextRid := rfl
@[simp] theorem setBlock_admitPtr (s : State) (k : Nat) (b : Block) : (setBlock s k b).admitPtr = s.admitPtr := rfl
@[simp] theorem setBlock_cache (s : State) (k : Nat) (b : Block) : (setBlock s k b).cache = s.cache := rfl
@[simp] theorem setBlock_cacheOrder (s : State) (k : Nat) (b : Block) : (setBlock s k b).cacheOrder = s.cacheOrder := rfl
@[simp] theorem setBlock_allocOrder (s : State) (k : Nat) (b : Block) : (setBlock s k b).allocOrder = s.allocOrder := rfl
@[simp] theorem setBlock_mem (s : State) (k : Nat) (b : Block) : (setBlock s k b).mem = s.mem := rfl
@[simp] theorem setBlock_poison (s : State) (k : Nat) (b : Block) : (setBlock s k b).poison = s.poison := rfl
@[simp] theorem setBlock_pages (s : State) (k : Nat) (b : Block) : (setBlock s k b).pages = s.pages := rfl
@[simp] theorem setBlock_copies (s : State) (k : Nat) (b : Block) : (setBlock s k b).copies = s.copies := rfl
@[simp] theorem setBlock_queued (s : State) (k : Nat) (b : Block) : (setBlock s k b).queued = s.queued := rfl
@[simp] theorem setBlock_inflight (s : State) (k : Nat) (b : Block) : (setBlock s k b).inflight = s.inflight := rfl
@[simp] theorem setBlock_reads (s : State) (k : Nat) (b : Block) : (setBlock s k b).reads = s.reads := rfl
@[simp] theorem setBlock_tables (s : State) (k : Nat) (b : Block) : (setBlock s k b).tables = s.tables := rfl
@[simp] theorem setBlock_migLog (s : State) (k : Nat) (b : Block) : (setBlock s k b).migLog = s.migLog := rfl
@[simp] theorem setBlock_readCtrs (s : State) (k : Nat) (b : Block) : (setBlock s k b).readCtrs = s.readCtrs := rfl
@[simp] theorem setBlock_readWin (s : State) (k : Nat) (b : Block) : (setBlock s k b).readWin = s.readWin := rfl
@[simp] theorem setBlock_updates (s : State) (k : Nat) (b : Block) : (setBlock s k b).updates = s.updates := rfl
@[simp] theorem setBlock_scatters (s : State) (k : Nat) (b : Block) : (setBlock s k b).scatters = s.scatters := rfl
@[simp] theorem setBlock_runs (s : State) (k : Nat) (b : Block) : (setBlock s k b).runs = s.runs := rfl
@[simp] theorem setBlock_nextRun (s : State) (k : Nat) (b : Block) : (setBlock s k b).nextRun = s.nextRun := rfl
@[simp] theorem setBlock_indexes (s : State) (k : Nat) (b : Block) : (setBlock s k b).indexes = s.indexes := rfl
@[simp] theorem setBlock_vocabs (s : State) (k : Nat) (b : Block) : (setBlock s k b).vocabs = s.vocabs := rfl
@[simp] theorem setBlock_norms (s : State) (k : Nat) (b : Block) : (setBlock s k b).norms = s.norms := rfl
@[simp] theorem setBlock_grammars (s : State) (k : Nat) (b : Block) : (setBlock s k b).grammars = s.grammars := rfl
@[simp] theorem setBlock_encodes (s : State) (k : Nat) (b : Block) : (setBlock s k b).encodes = s.encodes := rfl
@[simp] theorem setBlock_fronts (s : State) (k : Nat) (b : Block) : (setBlock s k b).fronts = s.fronts := rfl
@[simp] theorem setBlock_gens (s : State) (k : Nat) (b : Block) : (setBlock s k b).gens = s.gens := rfl
@[simp] theorem setBlock_engines (s : State) (k : Nat) (b : Block) : (setBlock s k b).engines = s.engines := rfl
@[simp] theorem setBlock_media (s : State) (k : Nat) (b : Block) : (setBlock s k b).media = { s.media with blocks := mapPut s.media.blocks k b } := rfl
@[simp] theorem setBlock_stylus (s : State) (k : Nat) (b : Block) : (setBlock s k b).stylus = s.stylus := rfl
@[simp] theorem setBlock_host (s : State) (k : Nat) (b : Block) : (setBlock s k b).host = s.host := rfl
@[simp] theorem setBlock_folio (s : State) (k : Nat) (b : Block) : (setBlock s k b).folio = s.folio := rfl
@[simp] theorem setBlock_integ (s : State) (k : Nat) (b : Block) : (setBlock s k b).integ = s.integ := rfl
@[simp] theorem setBlock_recov (s : State) (k : Nat) (b : Block) : (setBlock s k b).recov = s.recov := rfl
@[simp] theorem setBlock_cal (s : State) (k : Nat) (b : Block) : (setBlock s k b).cal = s.cal := rfl
@[simp] theorem setBlock_power (s : State) (k : Nat) (b : Block) : (setBlock s k b).power = s.power := rfl
@[simp] theorem setBlock_boot (s : State) (k : Nat) (b : Block) : (setBlock s k b).boot = s.boot := rfl
@[simp] theorem setBlock_easel (s : State) (k : Nat) (b : Block) : (setBlock s k b).easel = s.easel := rfl
@[simp] theorem setBlock_mon (s : State) (k : Nat) (b : Block) : (setBlock s k b).mon = s.mon := rfl

/-! sendReply. -/

@[simp] theorem sendReply_pending (s : State) (c : Channel) (st : Nat) (d : Bytes) (ps : List Nat) : (sendReply s c st d ps).pending = s.pending := rfl
@[simp] theorem sendReply_freeCtr (s : State) (c : Channel) (st : Nat) (d : Bytes) (ps : List Nat) : (sendReply s c st d ps).freeCtr = s.freeCtr := rfl
@[simp] theorem sendReply_time (s : State) (c : Channel) (st : Nat) (d : Bytes) (ps : List Nat) : (sendReply s c st d ps).time = s.time := rfl
@[simp] theorem sendReply_resumed (s : State) (c : Channel) (st : Nat) (d : Bytes) (ps : List Nat) : (sendReply s c st d ps).resumed = s.resumed := rfl
@[simp] theorem sendReply_timeStarted (s : State) (c : Channel) (st : Nat) (d : Bytes) (ps : List Nat) : (sendReply s c st d ps).timeStarted = s.timeStarted := rfl
@[simp] theorem sendReply_lastTime (s : State) (c : Channel) (st : Nat) (d : Bytes) (ps : List Nat) : (sendReply s c st d ps).lastTime = s.lastTime := rfl
@[simp] theorem sendReply_floor (s : State) (c : Channel) (st : Nat) (d : Bytes) (ps : List Nat) : (sendReply s c st d ps).floor = s.floor := rfl
@[simp] theorem sendReply_tiles (s : State) (c : Channel) (st : Nat) (d : Bytes) (ps : List Nat) : (sendReply s c st d ps).tiles = s.tiles := rfl
@[simp] theorem sendReply_streams (s : State) (c : Channel) (st : Nat) (d : Bytes) (ps : List Nat) : (sendReply s c st d ps).streams = s.streams := rfl
@[simp] theorem sendReply_arbiters (s : State) (c : Channel) (st : Nat) (d : Bytes) (ps : List Nat) : (sendReply s c st d ps).arbiters = s.arbiters := rfl
@[simp] theorem sendReply_boundaries (s : State) (c : Channel) (st : Nat) (d : Bytes) (ps : List Nat) : (sendReply s c st d ps).boundaries = s.boundaries := rfl
@[simp] theorem sendReply_hard (s : State) (c : Channel) (st : Nat) (d : Bytes) (ps : List Nat) : (sendReply s c st d ps).hard = s.hard := rfl
@[simp] theorem sendReply_ctxs (s : State) (c : Channel) (st : Nat) (d : Bytes) (ps : List Nat) : (sendReply s c st d ps).ctxs = s.ctxs := rfl
@[simp] theorem sendReply_reqs (s : State) (c : Channel) (st : Nat) (d : Bytes) (ps : List Nat) : (sendReply s c st d ps).reqs = s.reqs := rfl
@[simp] theorem sendReply_nextRid (s : State) (c : Channel) (st : Nat) (d : Bytes) (ps : List Nat) : (sendReply s c st d ps).nextRid = s.nextRid := rfl
@[simp] theorem sendReply_admitPtr (s : State) (c : Channel) (st : Nat) (d : Bytes) (ps : List Nat) : (sendReply s c st d ps).admitPtr = s.admitPtr := rfl
@[simp] theorem sendReply_cache (s : State) (c : Channel) (st : Nat) (d : Bytes) (ps : List Nat) : (sendReply s c st d ps).cache = s.cache := rfl
@[simp] theorem sendReply_cacheOrder (s : State) (c : Channel) (st : Nat) (d : Bytes) (ps : List Nat) : (sendReply s c st d ps).cacheOrder = s.cacheOrder := rfl
@[simp] theorem sendReply_allocOrder (s : State) (c : Channel) (st : Nat) (d : Bytes) (ps : List Nat) : (sendReply s c st d ps).allocOrder = s.allocOrder := rfl
@[simp] theorem sendReply_mem (s : State) (c : Channel) (st : Nat) (d : Bytes) (ps : List Nat) : (sendReply s c st d ps).mem = s.mem := rfl
@[simp] theorem sendReply_poison (s : State) (c : Channel) (st : Nat) (d : Bytes) (ps : List Nat) : (sendReply s c st d ps).poison = s.poison := rfl
@[simp] theorem sendReply_pages (s : State) (c : Channel) (st : Nat) (d : Bytes) (ps : List Nat) : (sendReply s c st d ps).pages = s.pages := rfl
@[simp] theorem sendReply_copies (s : State) (c : Channel) (st : Nat) (d : Bytes) (ps : List Nat) : (sendReply s c st d ps).copies = s.copies := rfl
@[simp] theorem sendReply_queued (s : State) (c : Channel) (st : Nat) (d : Bytes) (ps : List Nat) : (sendReply s c st d ps).queued = s.queued := rfl
@[simp] theorem sendReply_inflight (s : State) (c : Channel) (st : Nat) (d : Bytes) (ps : List Nat) : (sendReply s c st d ps).inflight = s.inflight := rfl
@[simp] theorem sendReply_reads (s : State) (c : Channel) (st : Nat) (d : Bytes) (ps : List Nat) : (sendReply s c st d ps).reads = s.reads := rfl
@[simp] theorem sendReply_tables (s : State) (c : Channel) (st : Nat) (d : Bytes) (ps : List Nat) : (sendReply s c st d ps).tables = s.tables := rfl
@[simp] theorem sendReply_migLog (s : State) (c : Channel) (st : Nat) (d : Bytes) (ps : List Nat) : (sendReply s c st d ps).migLog = s.migLog := rfl
@[simp] theorem sendReply_readCtrs (s : State) (c : Channel) (st : Nat) (d : Bytes) (ps : List Nat) : (sendReply s c st d ps).readCtrs = s.readCtrs := rfl
@[simp] theorem sendReply_readWin (s : State) (c : Channel) (st : Nat) (d : Bytes) (ps : List Nat) : (sendReply s c st d ps).readWin = s.readWin := rfl
@[simp] theorem sendReply_updates (s : State) (c : Channel) (st : Nat) (d : Bytes) (ps : List Nat) : (sendReply s c st d ps).updates = s.updates := rfl
@[simp] theorem sendReply_scatters (s : State) (c : Channel) (st : Nat) (d : Bytes) (ps : List Nat) : (sendReply s c st d ps).scatters = s.scatters := rfl
@[simp] theorem sendReply_runs (s : State) (c : Channel) (st : Nat) (d : Bytes) (ps : List Nat) : (sendReply s c st d ps).runs = s.runs := rfl
@[simp] theorem sendReply_nextRun (s : State) (c : Channel) (st : Nat) (d : Bytes) (ps : List Nat) : (sendReply s c st d ps).nextRun = s.nextRun := rfl
@[simp] theorem sendReply_indexes (s : State) (c : Channel) (st : Nat) (d : Bytes) (ps : List Nat) : (sendReply s c st d ps).indexes = s.indexes := rfl
@[simp] theorem sendReply_vocabs (s : State) (c : Channel) (st : Nat) (d : Bytes) (ps : List Nat) : (sendReply s c st d ps).vocabs = s.vocabs := rfl
@[simp] theorem sendReply_norms (s : State) (c : Channel) (st : Nat) (d : Bytes) (ps : List Nat) : (sendReply s c st d ps).norms = s.norms := rfl
@[simp] theorem sendReply_grammars (s : State) (c : Channel) (st : Nat) (d : Bytes) (ps : List Nat) : (sendReply s c st d ps).grammars = s.grammars := rfl
@[simp] theorem sendReply_encodes (s : State) (c : Channel) (st : Nat) (d : Bytes) (ps : List Nat) : (sendReply s c st d ps).encodes = s.encodes := rfl
@[simp] theorem sendReply_fronts (s : State) (c : Channel) (st : Nat) (d : Bytes) (ps : List Nat) : (sendReply s c st d ps).fronts = s.fronts := rfl
@[simp] theorem sendReply_gens (s : State) (c : Channel) (st : Nat) (d : Bytes) (ps : List Nat) : (sendReply s c st d ps).gens = s.gens := rfl
@[simp] theorem sendReply_engines (s : State) (c : Channel) (st : Nat) (d : Bytes) (ps : List Nat) : (sendReply s c st d ps).engines = s.engines := rfl
@[simp] theorem sendReply_media (s : State) (c : Channel) (st : Nat) (d : Bytes) (ps : List Nat) : (sendReply s c st d ps).media = s.media := rfl
@[simp] theorem sendReply_stylus (s : State) (c : Channel) (st : Nat) (d : Bytes) (ps : List Nat) : (sendReply s c st d ps).stylus = s.stylus := rfl
@[simp] theorem sendReply_host (s : State) (c : Channel) (st : Nat) (d : Bytes) (ps : List Nat) : (sendReply s c st d ps).host = { s.host with replies := ⟨c, st, d, ps⟩ :: s.host.replies } := rfl
@[simp] theorem sendReply_folio (s : State) (c : Channel) (st : Nat) (d : Bytes) (ps : List Nat) : (sendReply s c st d ps).folio = s.folio := rfl
@[simp] theorem sendReply_integ (s : State) (c : Channel) (st : Nat) (d : Bytes) (ps : List Nat) : (sendReply s c st d ps).integ = s.integ := rfl
@[simp] theorem sendReply_recov (s : State) (c : Channel) (st : Nat) (d : Bytes) (ps : List Nat) : (sendReply s c st d ps).recov = s.recov := rfl
@[simp] theorem sendReply_cal (s : State) (c : Channel) (st : Nat) (d : Bytes) (ps : List Nat) : (sendReply s c st d ps).cal = s.cal := rfl
@[simp] theorem sendReply_power (s : State) (c : Channel) (st : Nat) (d : Bytes) (ps : List Nat) : (sendReply s c st d ps).power = s.power := rfl
@[simp] theorem sendReply_boot (s : State) (c : Channel) (st : Nat) (d : Bytes) (ps : List Nat) : (sendReply s c st d ps).boot = s.boot := rfl
@[simp] theorem sendReply_easel (s : State) (c : Channel) (st : Nat) (d : Bytes) (ps : List Nat) : (sendReply s c st d ps).easel = s.easel := rfl
@[simp] theorem sendReply_mon (s : State) (c : Channel) (st : Nat) (d : Bytes) (ps : List Nat) : (sendReply s c st d ps).mon = s.mon := rfl

end Sys2Proof.Machine
end

