-- ==== Sys2Proof/Laws/Ops.lean ====
section
/-! SUPPORT. What the shared operations do and what they leave: access to tiles, contexts, streams and requests, the queues of
Easel, completions, events and error records. -/

namespace Sys2Proof.Machine

open Sys2Proof.Safety

/-! Access. -/

@[simp] theorem tileOf_setTile (s : State) (p : Nat) (t : Tile) : tileOf (setTile s p t) p = t := by simp [tileOf]
theorem tileOf_setTile_ne (s : State) {p q : Nat} (t : Tile) (h : q ≠ p) : tileOf (setTile s p t) q = tileOf s q := by
  simp [tileOf, mapGet_mapPut_other _ _ _ h]
@[simp] theorem tileOf_updTile (s : State) (p : Nat) (f : Tile → Tile) : tileOf (updTile s p f) p = f (tileOf s p) := by
  simp [tileOf]
theorem tileOf_updTile_ne (s : State) {p q : Nat} (f : Tile → Tile) (h : q ≠ p) : tileOf (updTile s p f) q = tileOf s q := by
  simp [tileOf, mapGet_mapPut_other _ _ _ h]

@[simp] theorem ctxOf_setCtx (s : State) (c : Nat) (x : Ctx) : ctxOf (setCtx s c x) c = x := by simp [ctxOf]
theorem ctxOf_setCtx_ne (s : State) {c d : Nat} (x : Ctx) (h : d ≠ c) : ctxOf (setCtx s c x) d = ctxOf s d := by
  simp [ctxOf, mapGet_mapPut_other _ _ _ h]
@[simp] theorem ctxOf_updCtx (s : State) (c : Nat) (f : Ctx → Ctx) : ctxOf (updCtx s c f) c = f (ctxOf s c) := by simp [ctxOf]
theorem ctxOf_updCtx_ne (s : State) {c d : Nat} (f : Ctx → Ctx) (h : d ≠ c) : ctxOf (updCtx s c f) d = ctxOf s d := by
  simp [ctxOf, mapGet_mapPut_other _ _ _ h]

theorem mapFind_mapUpd {α : Type} (m : SMap α) (k : Nat) (f : α → α) : mapFind (mapUpd m k f) k = (mapFind m k).map f := by
  unfold mapUpd; cases h : mapFind m k <;> simp [h]
theorem mapFind_mapUpd_ne {α : Type} (m : SMap α) {k j : Nat} (f : α → α) (h : j ≠ k) : mapFind (mapUpd m k f) j = mapFind m j := by
  unfold mapUpd; cases mapFind m k <;> simp [mapFind_mapPut_other _ _ h]

@[simp] theorem streamOf_setStream (s : State) (n : Nat) (x : Stream) : streamOf (setStream s n x) n = some x := by simp [streamOf]
@[simp] theorem streamOf_updStream (s : State) (n : Nat) (f : Stream → Stream) :
    streamOf (updStream s n f) n = (streamOf s n).map f := by simp [streamOf, mapFind_mapUpd]
theorem streamOf_updStream_ne (s : State) {n m : Nat} (f : Stream → Stream) (h : m ≠ n) :
    streamOf (updStream s n f) m = streamOf s m := by simp [streamOf, mapFind_mapUpd_ne _ _ h]
@[simp] theorem reqOf_updReq (s : State) (r : Nat) (f : Req → Req) : reqOf (updReq s r f) r = (reqOf s r).map f := by
  simp [reqOf, mapFind_mapUpd]
theorem reqOf_updReq_ne (s : State) {r q : Nat} (f : Req → Req) (h : q ≠ r) : reqOf (updReq s r f) q = reqOf s q := by
  simp [reqOf, mapFind_mapUpd_ne _ _ h]
theorem reqOf_dropReq (s : State) (r q : Nat) (h : mapWf s.reqs = true) :
    reqOf (dropReq s r) q = if q = r then none else reqOf s q := by simp [reqOf, mapFind_mapDrop _ _ h]

/-! A step on a unit of the module. -/

theorem onUnit_next {b : Bool} (h : b = true) (t : State) : onUnit b t = .next t := by simp [onUnit, h]
theorem onUnit_fault {b : Bool} (h : b = false) (t : State) : onUnit b t = .fault .noSuchUnit := by simp [onUnit, h]
theorem onUnit_cases {b : Bool} {t u : State} (h : onUnit b t = .next u) : b = true ∧ u = t := by
  unfold onUnit at h; split at h
  · exact ⟨‹_›, by cases h; rfl⟩
  · cases h

/-! Easel's queues (R548 to R550). -/

theorem noteOverload_frame (s : State) : { noteOverload s with easel := s.easel } = s := rfl
theorem enqueue3_frame (s : State) : { enqueue3 s with easel := s.easel } = s := rfl
theorem enqueue3_q3 (s : State) : (enqueue3 s).easel.q3 = s.easel.q3 ++ [s.time] := rfl
theorem countRefusal_frame (s : State) : { countRefusal s with easel := s.easel } = s := rfl
theorem countRefusal_count (s : State) : (countRefusal s).easel.refusals = satAdd 0xFFFF s.easel.refusals 1 := rfl

theorem takeSq_frame (s : State) (q : Nat) : { takeSq s q with host.sqs := s.host.sqs } = s := by
  unfold takeSq; dsimp only; split_ifs <;> rfl

/-! Completions (R408, R416, R422). -/

theorem postCpl_frame (s : State) (c : Completion) : { postCpl s c with host.cqs := s.host.cqs, host.posted := s.host.posted } = s := by
  unfold postCpl; split
  · rfl
  · split_ifs <;> rfl

/-- A completion of a queue that exists is posted, or waits last in it. -/
theorem postCpl_newest {s : State} {c : Completion} (h : (cqOf s c.cq).isSome) :
    (postCpl s c).host.posted.head? = some c ∨ ∃ q, cqOf (postCpl s c) c.cq = some q ∧ q.waiting.getLast? = some c := by
  obtain ⟨q, hq⟩ := Option.isSome_iff_exists.1 h
  unfold postCpl; simp only [hq]
  split_ifs
  · exact .inl rfl
  · exact .inr ⟨_, by simp [cqOf]; rfl, by simp⟩

theorem complete_frame (s : State) (o : Origin) (sct sc : Nat) (dnr : Bool) (a b : Nat) (d : Bytes) (m : Bool) :
    { complete s o sct sc dnr a b d m with host.cqs := s.host.cqs, host.posted := s.host.posted } = s := by
  unfold complete; split_ifs
  · rfl
  · split
    · rfl
    · exact postCpl_frame _ _

theorem vendorCpl_frame (s : State) (o : Origin) (m : BitVec 10) (hi dw1 : Nat) :
    { vendorCpl s o m hi dw1 with host.cqs := s.host.cqs, host.posted := s.host.posted } = s := complete_frame ..
theorem stdCpl_frame (s : State) (o : Origin) (sct sc : Nat) (dnr : Bool) (dw0 : Nat) (d : Bytes) :
    { stdCpl s o sct sc dnr dw0 d with host.cqs := s.host.cqs, host.posted := s.host.posted } = s := complete_frame ..
theorem adminDone_frame (s : State) (cid hi dw1 : Nat) :
    { adminDone s cid hi dw1 with host.cqs := s.host.cqs, host.posted := s.host.posted } = s := vendorCpl_frame ..
theorem adminRefuse_frame (s : State) (cid : Nat) (st : Status) (r : Nat) :
    { adminRefuse s cid st r with host.cqs := s.host.cqs, host.posted := s.host.posted } = s := vendorCpl_frame ..

theorem cqOf_zero (s : State) : (cqOf s 0).isSome := by unfold cqOf; split <;> simp

/-- A vendor admin command's completion is the newest of queue 0. -/
theorem vendorCpl_answers (s : State) (cid : Nat) (m : BitVec 10) (hi dw1 : Nat) (h : cid < orphanCid) (hm : m ≠ 0) :
    Posts (vendorCpl s (adminOrigin cid) m hi dw1) cid (statusField (statusOfMask m)).1 (statusField (statusOfMask m)).2.1 := by
  unfold vendorCpl complete
  simp only [hm, if_false, adminOrigin, Nat.not_le.2 h, originQueue, if_true]
  exact ⟨_, postCpl_newest (cqOf_zero s), rfl, rfl, rfl, rfl, rfl⟩

/-- A vendor admin command that is done answers SUCCESS. -/
theorem adminDone_posts (s : State) (cid hi dw1 : Nat) (h : cid < orphanCid) : Posts (adminDone s cid hi dw1) cid 0 0 := by
  unfold adminDone vendorCpl complete
  simp only [if_true, adminOrigin, Nat.not_le.2 h, if_false, originQueue]
  exact ⟨_, postCpl_newest (cqOf_zero s), rfl, rfl, rfl, rfl, rfl⟩

/-! Events and error records (R419, R459 to R464). -/

theorem eventCpl_frame (s : State) (cid key lid : Nat) :
    { eventCpl s cid key lid with host.cqs := s.host.cqs, host.posted := s.host.posted } = s := postCpl_frame _ _

theorem raiseEvent_frame (s : State) (key lid : Nat) : { raiseEvent s key lid with host := s.host } = s := by
  unfold raiseEvent; dsimp only
  split_ifs
  · rfl
  · split
    · rfl
    · rename_i cid rest _
      have h := eventCpl_frame { s with host.masked := key :: s.host.masked, host.aers := rest } cid key lid
      exact congrArg (fun u : State => { u with host := s.host }) h

theorem forwardRecs_frame (s : State) : { forwardRecs s with host := s.host, integ := s.integ } = s := by
  unfold forwardRecs; split_ifs <;> rfl

theorem reportRec_frame (s : State) (r : ErrRec) : { reportRec s r with host := s.host, integ := s.integ } = s := by
  have raise (u : State) (k l : Nat) (h : { u with host := s.host, integ := s.integ } = s) :
      { raiseEvent u k l with host := s.host, integ := s.integ } = s :=
    (congrArg (fun v : State => { v with host := s.host, integ := s.integ }) (raiseEvent_frame u k l)).trans h
  unfold reportRec; split
  · dsimp only; split_ifs
    · exact raise _ _ _ (congrArg (fun v : State => { v with host := s.host, integ := s.integ })
        (forwardRecs_frame { s with integ.unsent := s.integ.unsent ++ [r] }))
    · exact raise _ _ _ rfl
  · rfl

/-- A record changes nothing of the machine proper. -/
theorem recordErr_frame (s : State) (a : RecArgs) : SameButReports s (recordErr s a) := by
  unfold SameButReports recordErr; dsimp only
  split
  · rfl
  · exact congrArg (fun u : State => { u with integ := s.integ, host := s.host, easel := s.easel, freeCtr := s.freeCtr })
      (reportRec_frame _ _)

theorem SameButReports.refl (s : State) : SameButReports s s := rfl
theorem SameButReports.trans {s t u : State} (h : SameButReports s t) (h' : SameButReports t u) : SameButReports s u := by
  unfold SameButReports at *; rw [← h, ← h']

theorem enterPhase_frame (s : State) (ph : Phase) : { enterPhase s ph with integ := s.integ, host := s.host } = s := by
  unfold enterPhase; dsimp only; split_ifs
  · exact congrArg (fun u : State => { u with integ := s.integ })
      (raiseEvent_frame { s with integ.phase := ph, integ.deferred := false } (evVendor 0) 0xC4)
  · rfl

theorem draw_frame (s : State) (n : Nat) : { (draw s n).2 with freeCtr := s.freeCtr } = s := rfl

end Sys2Proof.Machine
end

