-- ==== Sys2Proof/Laws/Tiles.lean ====
section
/-! SUPPORT. What an issue, a release of buffer slots and the start of an executing stroke do to a tile: one statement
each, so that no later proof unfolds them. -/

namespace Sys2Proof.Machine
open Sys2Proof Sys2Proof.Machine Sys2Proof.Safety

@[simp] theorem tileOf_freeCtr (s : State) (n p) : tileOf { s with freeCtr := n } p = tileOf s p := rfl

/-- Issuing counts one stroke and no other count. -/
theorem issued_counts (t n i) : (issued t n i).counts = { t.counts with issued := satAdd (ones 64) t.counts.issued 1 } := by
  unfold issued advance; split <;> rfl
/-- Issuing touches the slots of the sequence and the counts only. -/
theorem issued_rest (t n i) : { issued t n i with islots := t.islots, counts := t.counts } = t := by
  unfold issued advance; split <;> rfl
/-- The tile in the cycle of an issue, its pointer past the slot and its stall counted, is as before in what an issue reads. -/
theorem countStall_rest (s p t ns) : { countStall s p t ns with counts := t.counts } = t := by
  unfold countStall; split_ifs <;> rfl
/-- A stall leaves the count of strokes. -/
theorem countStall_issued (s p t ns) : (countStall s p t ns).counts.issued = t.counts.issued := by
  unfold countStall; split_ifs <;> rfl
/-- Issuing is what `Issued` says. -/
theorem issued_Issued {t v : Tile} {n : Nat} (i : IssueSlot) (hl : v.lists = t.lists) (hi : v.islots = t.islots)
    (hc : v.counts.issued = t.counts.issued) (ht : v.turn = (n + 1) % 4) : Issued t (issued v n i) n i := by
  have hn : ∀ e, nextList v n e = nextList t n e := fun e => by simp only [nextList, hl]
  refine ⟨by rw [issued_counts]; simp only [hc], ?_, ?_, ?_, ?_⟩
  · unfold issued advance; split <;> exact ht
  · intro l h hne; simp [issued, advance, hl, h, hne]
  · intro l h he; simp [issued, advance, hl, h, he, hn]
  · intro m hm; unfold issued advance; split
    · simp [mapFind_mapPut_other _ _ hm, hi]
    · simp [hi]
/-- `Issued` reads the issue count, the pointer and the slots only. -/
theorem Issued.of {t v v' n i} (h : Issued t v n i) (h1 : v'.counts.issued = v.counts.issued) (h2 : v'.islots = v.islots)
    (h3 : v'.turn = v.turn) : Issued t v' n i := by
  obtain ⟨a, b, c, d⟩ := h
  exact ⟨by rw [h1, a], by rw [h3, b], by rw [h2]; exact c, by rw [h2]; exact d⟩

/-- The slots after an issue. -/
theorem issued_islots (t n i) : (issued t n i).islots = (advance t n i).islots := rfl

/-- Releasing a slot touches tiles and streams only. -/
theorem releaseSlot_frame (s p x) : { releaseSlot s p x with tiles := s.tiles, streams := s.streams } = s := by
  unfold releaseSlot freeSlots updStream
  dsimp only
  repeat' split
  all_goals rfl


/-- The tile in the cycle in which slot `n` issues. -/
def issueTile (s : State) (p n : Nat) : Tile :=
  { countStall s p (tileOf s p) ((List.range 4).filter (· != n)) with turn := (n + 1) % 4 }

/-- The first ready head runs. -/
theorem onIssue_ready {s p n op run i k w} (h : Goes s p n op i k w) : onIssue s p n op run = run s (issueTile s p n) i k w := by
  simp [onIssue, issueTile, h.1, h.2]

/-- A release that an open chain may put off touches tiles and streams only. -/
theorem releaseUse_frame (s p x) : { releaseUse s p x with tiles := s.tiles, streams := s.streams } = s := by
  unfold releaseUse
  dsimp only
  split_ifs
  · rfl
  · exact releaseSlot_frame s p x

/-- Releasing slots touches tiles and streams only. -/
theorem releaseAll_frame (s p xs) : { releaseAll s p xs with tiles := s.tiles, streams := s.streams } = s := by
  unfold releaseAll
  induction xs generalizing s with
  | nil => rfl
  | cons x xs ih =>
    have h := ih (releaseUse s p x)
    have h2 := releaseUse_frame s p x
    simp only [List.foldl_cons]
    generalize (releaseUse s p x) = s1 at *
    generalize (List.foldl _ s1 xs) = s2 at *
    rw [← h2, ← h]

/-- Only the buffers of tile `p` change when slots are released. -/
theorem releaseSlot_tile (s p x) : { tileOf (releaseSlot s p x) p with buffers := (tileOf s p).buffers } = tileOf s p := by
  unfold releaseSlot freeSlots updStream
  dsimp only
  repeat' split
  all_goals first | rfl | simp [tileOf, setTile]
/-- Releasing a slot leaves the other tiles. -/
theorem releaseSlot_other (s) {p q} (x) (hq : q ≠ p) : tileOf (releaseSlot s p x) q = tileOf s q := by
  unfold releaseSlot freeSlots updStream
  dsimp only
  repeat' split
  all_goals first | rfl | simp [tileOf, setTile, mapGet_mapPut_other _ _ _ hq]
/-- A release changes the buffers of its tile, or adds it to what the open chains release. -/
theorem releaseUse_tile (s p x) :
    { tileOf (releaseUse s p x) p with buffers := (tileOf s p).buffers, banks := (tileOf s p).banks } = tileOf s p := by
  unfold releaseUse
  dsimp only
  split_ifs
  · simp [tileOf, setTile]
  · have h := releaseSlot_tile s p x
    generalize tileOf (releaseSlot s p x) p = t1 at *
    rw [← h]
/-- A release leaves the other tiles. -/
theorem releaseUse_other (s) {p q} (x) (hq : q ≠ p) : tileOf (releaseUse s p x) q = tileOf s q := by
  unfold releaseUse
  dsimp only
  split_ifs
  · simp [tileOf, setTile, mapGet_mapPut_other _ _ _ hq]
  · exact releaseSlot_other s x hq
/-- Only the buffers and the open chains of the tile change when several slots are released. -/
theorem releaseAll_tile (s p xs) :
    { tileOf (releaseAll s p xs) p with buffers := (tileOf s p).buffers, banks := (tileOf s p).banks } = tileOf s p := by
  unfold releaseAll
  induction xs generalizing s with
  | nil => rfl
  | cons x xs ih =>
    have h := ih (releaseUse s p x)
    have h2 := releaseUse_tile s p x
    simp only [List.foldl_cons]
    generalize (releaseUse s p x) = s1 at *
    generalize (List.foldl _ s1 xs) = s2 at *
    rw [← h2, ← h]
/-- Releasing slots leaves the other tiles. -/
theorem releaseAll_other (s) {p q} (xs) (hq : q ≠ p) : tileOf (releaseAll s p xs) q = tileOf s q := by
  unfold releaseAll
  induction xs generalizing s with
  | nil => rfl
  | cons x xs ih => simp only [List.foldl_cons]; rw [ih, releaseUse_other _ _ hq]

/-- What is found after putting one entry for every key of a list. -/
theorem foldl_mapPut_find {α} (l : List Nat) (f : Nat → α) (m : SMap α) (j : Nat) :
    mapFind (l.foldl (fun m a => mapPut m a (f a)) m) j = if j ∈ l then some (f j) else mapFind m j := by
  induction l generalizing m with
  | nil => simp
  | cons a l ih =>
    simp only [List.foldl_cons, ih, List.mem_cons]
    by_cases h : j ∈ l
    · simp [h]
    · by_cases ha : j = a
      · subst ha; simp [h]
      · simp [h, ha, mapFind_mapPut_other _ _ ha]

/-- The same where the keys are images of the list. -/
theorem foldl_mapPut_key {α} (l : List Nat) (g : Nat → Nat) (hg : ∀ a b, g a = g b → a = b) (f : Nat → α) (m : SMap α) (j : Nat) (hj : j ∈ l) :
    mapFind (l.foldl (fun m a => mapPut m (g a) (f a)) m) (g j) = some (f j) := by
  suffices h : ∀ m, mapFind (l.foldl (fun m a => mapPut m (g a) (f a)) m) (g j) = if j ∈ l then some (f j) else mapFind m (g j) by
    rw [h, if_pos hj]
  clear hj
  induction l with
  | nil => simp
  | cons a l ih =>
    intro m
    simp only [List.foldl_cons, ih, List.mem_cons]
    by_cases h : j ∈ l
    · simp [h]
    · by_cases ha : j = a
      · subst ha; simp [h]
      · simp [h, ha, mapFind_mapPut_other _ _ (fun e => ha (hg _ _ e))]

/-- Everything that holds of a tile whose stroke is ready to issue. -/
theorem issueState_ready {t op n i k w} (h : issueState t op n = .ready i k w) :
    headStroke t n = some (i, k, w) ∧ t.st = .running ∧ k.op = op ∧ strokeBad t k = false ∧ mmaMismatch t k = false ∧
    operandsPresent t k = true ∧ destsFree t k = true := by
  unfold issueState at h
  split at h
  · cases h
  · rename_i i' k' w' hh
    split_ifs at h with h1 h2 h3 h4
    · cases h
      simp at h1 h4
      exact ⟨hh, by simpa using h1.1, h1.2, by simpa using h2, by simpa using h3, h4.1, h4.2⟩

/-- Putting a sheet touches the buffers only. -/
theorem putSlot_rest (t x v) : { putSlot t x v with buffers := t.buffers } = t := rfl
/-- A fold of steps that touch the buffers only touches the buffers only. -/
theorem foldl_tile_rest {α} (f : Tile → α → Tile) (hf : ∀ t a, { f t a with buffers := t.buffers } = t) (l : List α) (t : Tile) :
    { l.foldl f t with buffers := t.buffers } = t := by
  induction l generalizing t with
  | nil => rfl
  | cons a l ih =>
    simp only [List.foldl_cons]
    have h := ih (f t a); have h2 := hf t a
    generalize f t a = t1 at *
    generalize l.foldl f t1 = t2 at *
    rw [← h2, ← h]

/-- An executing stroke changes the buffers and the list of executing strokes. -/
theorem startExec_rest (t e outs) : { startExec t e outs with buffers := t.buffers, exec := t.exec } = t := by
  have h := foldl_tile_rest (fun t (o : Nat × Nat × Sheet) => putSlot t (o.1, o.2.1) ⟨.reserved, false, o.2.2⟩) (fun _ _ => rfl) outs t
  unfold startExec
  generalize List.foldl _ t outs = t1 at *
  rw [← h]
/-- The executing stroke is added last. -/
theorem startExec_exec (t e outs) : (startExec t e outs).exec = t.exec ++ [e] := by
  have h := foldl_tile_rest (fun t (o : Nat × Nat × Sheet) => putSlot t (o.1, o.2.1) ⟨.reserved, false, o.2.2⟩) (fun _ _ => rfl) outs t
  have := congrArg Tile.exec h
  simp only at this
  unfold startExec; simp only; rw [this]
end Sys2Proof.Machine
end

