-- ==== Sys2Proof/WellFormed.lean ====
section
/-! DEFINITION. Which commands can come about: their operands name units that the module has and records of the length that
the spec gives. A command that is not well formed either stops by name (`Fault.noSuchUnit`) or is refused as the spec
refuses it. -/

namespace Sys2Proof

/-- Operand checks, command by command: physical tiles are [0, 544) (R20), issue slots [0, 4) (R40), contexts [0, 16)
(R234), hatch ports [0, 8) (R425), members [0, 64) (R423), rings [0, 64) (R407), engines [0, 8) (R328), priorities [0, 8)
(R387), stations [0, 256) (R138), sources of R453, and record lengths of R236, R265, R306, R380, R405 and R413. -/
def Instr.wf (i : Instr) : Bool :=
  match i with
  | .nop p n => decide (p < Config.tiles) && decide (n < 4)
  | .mma p n => decide (p < Config.tiles) && decide (n < 4)
  | .preload p n => decide (p < Config.tiles) && decide (n < 4)
  | .drain p n => decide (p < Config.tiles) && decide (n < 4)
  | .ctbl p n => decide (p < Config.tiles) && decide (n < 4)
  | .vop p n => decide (p < Config.tiles) && decide (n < 4)
  | .func p n => decide (p < Config.tiles) && decide (n < 4)
  | .reduce p n => decide (p < Config.tiles) && decide (n < 4)
  | .cvt p n => decide (p < Config.tiles) && decide (n < 4)
  | .signpack p n => decide (p < Config.tiles) && decide (n < 4)
  | .emit p o => decide (p < Config.tiles) && decide (o.slot < 4)
  | .release p n => decide (p < Config.tiles) && decide (n < 4)
  | .copy p n => decide (p < Config.tiles) && decide (n < 4)
  | .invalidStroke p o => decide (p < Config.tiles) && decide (o.slot < 4)
  | .strokeComplete p _ _ => decide (p < Config.tiles)
  | .firstNanTrap p => decide (p < Config.tiles)
  | .handshakeTimeout p => decide (p < Config.tiles)
  | .clockChange p => decide (p < Config.tiles)
  | .quiesceTimeout p => decide (p < Config.tiles)
  | .cntClr p => decide (p < Config.tiles)
  | .test p => decide (p < Config.tiles)
  | .selfTestEnd p _ => decide (p < Config.tiles)
  | .islandTransferAck _ => true
  | .arbiterGrant _ ports reqs => reqs.all (fun r => decide (r.port < ports) && decide (r.station < 256) && decide (r.context < 16))
  | .escalation _ _ => true
  | .sheetIngress _ _ _ _ => true
  | .resend _ => true
  | .creditReturn _ => true
  | .glbSmonSel _ => true
  | .glbHmonSel _ => true
  | .tierMonSel _ => true
  | .tblSel _ => true
  | .glbCtxSel _ => true
  | .glbMcSel _ => true
  | .rtvIdxSel _ => true
  | .ltrVocSel _ => true
  | .ltrMonSel _ => true
  | .decMonSel _ => true
  | .hlkMonSel _ => true
  | .intCeSel _ => true
  | .calMonSel _ => true
  | .calLogSel _ => true
  | .pwrTempSel _ => true
  | .clear => true
  | .go _ => true
  | .abort => true
  | .scrubPassEnd _ => true
  | .lock _ => true
  | .csRegionWrite _ _ => true
  | .mailboxGo _ => true
  | .registerWrite _ offset size _ => decide (offset + size ≤ 0x400_0000)
  | .read _ _ prio => decide (prio < 8)
  | .program _ _ prio => decide (prio < 8)
  | .erase _ _ prio => decide (prio < 8)
  | .probe _ _ prio => decide (prio < 8)
  | .calRead _ _ prio => decide (prio < 8)
  | .csRead _ _ prio => decide (prio < 8)
  | .csProgram _ _ prio => decide (prio < 8)
  | .csErase _ _ prio => decide (prio < 8)
  | .csFetch _ _ prio => decide (prio < 8)
  | .rbRead _ _ prio => decide (prio < 8)
  | .rbAdvance _ _ prio => decide (prio < 8)
  | .badDescriptor _ raw => decide (raw.length = 32)
  | .descriptorComplete _ _ => true
  | .imageLoad _ ctx _ => decide (ctx < 16)
  | .loadAllocation ctx => decide (ctx < 16)
  | .loadComplete ctx _ _ => decide (ctx < 16)
  | .replacementDrained ctx => decide (ctx < 16)
  | .imageStore _ record => decide (record.length = 384)
  | .cachePin _ _ => true
  | .cacheUnpin _ _ => true
  | .ctxConfigure _ record => decide (record.length = 32)
  | .ctxRelease _ ctx => decide (ctx < 16)
  | .ctxStart _ ctx => decide (ctx < 16)
  | .ctxStop _ ctx => decide (ctx < 16)
  | .ctxUnload _ ctx => decide (ctx < 16)
  | .tableLoad _ record => decide (record.length = 384)
  | .indexLoad _ record => decide (record.length = 384)
  | .vocabularyLoad _ record => decide (record.length = 384)
  | .normalisationLoad _ record => decide (record.length = 384)
  | .grammarLoad _ record => decide (record.length = 384)
  | .objectUnload _ kind _ => decide (kind < 256)
  | .windowMap _ entries => decide (entries.length % 16 = 0)
  | .windowUnmap _ entries => decide (entries.length % 16 = 0)
  | .deferredUnmap _ => true
  | .versionStepTable _ _ => true
  | .versionStepIndex _ _ => true
  | .versionSwitch _ _ => true
  | .hotGrow _ _ _ => true
  | .nanClear _ ctx => decide (ctx < 16)
  | .fairCopy _ _ => true
  | .fairCopyEnd _ _ => true
  | .mediaThresholds _ record => decide (record.length = 16)
  | .ringCreate _ _ ring slots _ ctx => decide (ctx < 16) && decide (ring < 64) && decide (slots ≤ 65536)
  | .ringDelete _ ring => decide (ring < 64)
  | .ringDeleteDone ring => decide (ring < 64)
  | .ringTailSnoop ring _ entries => decide (ring < 64) && entries.all (fun e => decide (e.length = 576))
  | .indexCommit _ _ ctx _ _ _ => decide (ctx < 16)
  | .commitEpoch _ => true
  | .query _ ctx record => decide (ctx < 16) && decide (record.length = 512)
  | .frontOpen _ _ ctx record => decide (ctx < 16) && decide (record.length = 1216)
  | .frontStep _ ctx handle _ => decide (ctx < 16) && decide (handle < 65536)
  | .frontClose _ _ ctx handle => decide (ctx < 16) && decide (handle < 65536)
  | .deliveryJob _ _ ctx _ => decide (ctx < 16)
  | .batchJob _ _ ctx _ => decide (ctx < 16)
  | .admissionGrant => true
  | .completionPost _ => true
  | .nvmRead _ _ _ _ _ => true
  | .nvmWrite _ _ _ _ data => decide (data.length % 4096 = 0)
  | .writeZeroes _ _ _ _ _ => true
  | .flush _ _ _ => true
  | .datasetManagement _ _ _ _ => true
  | .identify _ _ _ => true
  | .createIoSubmissionQueue _ qid _ _ => decide (qid < 65536)
  | .createIoCompletionQueue _ qid _ vector => decide (qid < 65536) && decide (vector < 65536)
  | .deleteIoSubmissionQueue _ _ => true
  | .deleteIoCompletionQueue _ _ => true
  | .getLogPage _ lid _ _ _ _ _ => decide (lid < 256)
  | .setFeatures _ _ _ => true
  | .getFeatures _ _ _ => true
  | .asynchronousEventRequest _ => true
  | .abortCommand _ _ _ => true
  | .firmwareImageDownload _ _ _ => true
  | .firmwareCommit _ _ _ => true
  | .formatNvm _ _ _ => true
  | .sanitize _ _ => true
  | .invalidCommandOpcode _ _ => true
  | .shutdownNotification => true
  | .controllerReset => true
  | .functionLevelReset => true
  | .decoderCommit _ _ => true
  | .decoderDecommit => true
  | .hostWindowRead _ _ => true
  | .hostWindowWrite _ _ => true
  | .cxlLinkTrain _ _ _ => true
  | .perst _ => true
  | .moveIssue => true
  | .moveDeadline => true
  | .moveComplete _ => true
  | .stationDeadline ctx _ _ => decide (ctx < 16)
  | .tierReadReturn _ _ => true
  | .hotRowCopyEnd _ _ _ => true
  | .hotReadWindow => true
  | .probePass on => decide (on.ctx < 16)
  | .folioMerge _ _ => true
  | .decodeEngineGrant engine => decide (engine < 8)
  | .decodeUnitEnd engine _ => decide (engine < 8)
  | .shuffleIssue on => decide (on.ctx < 16)
  | .deliverWrite ctx port => decide (ctx < 16) && decide (port < 8)
  | .stagingProgram _ => true
  | .foldStart => true
  | .foldJournal _ => true
  | .mappingCheckpoint => true
  | .wearCheck => true
  | .foldStripeClose => true
  | .stripeVerify _ _ => true
  | .eraseIntent die block _ => decide (die < Config.bulkDies) && decide (block < Config.bulkBlocks)
  | .mediaStageWindow => true
  | .patrolRead _ _ => true
  | .correctableError source _ => decide (source < 573)
  | .ceLeak => true
  | .recordPersist => true
  | .reStencil p _ => decide (p < Config.tiles)
  | .spareDailyTest failed => failed.all (fun q => decide (q < Config.tiles))
  | .membershipFrame member _ _ => decide (member < 64)
  | .memberLoss member => decide (member < 64)
  | .selfFence => true
  | .memberRejoin member => decide (member < 64)
  | .remirrorEnd member => decide (member < 64)
  | .timingMark _ => true
  | .folioJoin count => decide (count < 2 ^ 64)
  | .timeFloor => true
  | .portCheck port _ peer peerPort => decide (port < 8) && decide (peer < 64) && decide (peerPort < 8)
  | .portRetrain port lanes => decide (port < 8) && decide (lanes ≤ 4)
  | .hatchLinkFailure port => decide (port < 8)
  | .hatchAckTimeout port => decide (port < 8)
  | .hatchReplay port _ => decide (port < 8)
  | .detourEnd port => decide (port < 8)
  | .managementFrame _ _ => true
  | .protectedWindowEnd => true
  | .tileCalInterval p => decide (p < Config.tiles)
  | .levelTrack unit _ => decide (unit < 1024 + Config.fastDies)
  | .levelSweep unit _ => decide (unit < 1024 + Config.fastDies)
  | .levelSweepAdopt unit _ _ => decide (unit < 1024 + Config.fastDies)
  | .inputFailure _ => true
  | .commitComplete => true
  | .bankExhausted => true
  | .inputReturn => true
  | .insertion sbAddr => decide (sbAddr < 8)
  | .powerUpStep _ => true
  | .domainGoodTimeout domain => decide (domain < 20)
  | .bootRom => true
  | .stage1 => true
  | .easelFirmwareStart failed => failed.all (fun q => decide (q < Config.tiles))
  | .restore => true
  | .bootStageTimeout => true
  | .bankMeasurement => true
  | .bankMeasurementEnd _ => true
  | .throttleWindow obs => decide (obs.temps.length = 24)
  | .surge _ => true
  | .thermalStop sensor _ => decide (sensor < 24)
  | .firmwareConfirm => true
  | .easelDispatch _ => true
  | .overloadEnd => true
  | .telemetryFrame => true
  | .decimationTick => true
  | .watchdogExpiry => true
  | .powerOn member => decide (member < 256)
  | .testStart member _ => decide (member < 256)
  | .testEnd _ => true
  | .testStatus member => decide (member < 256)
  | .telemetryRead member _ _ => decide (member < 256)
  | .recordsRead member _ _ => decide (member < 256)
  | .ceClear member _ => decide (member < 256)
  | .readNvmeMiDataStructure _ _ => true
  | .subsystemHealthStatusPoll => true
  | .controllerHealthStatusPoll => true
  | .configurationGet _ => true
  | .configurationSet _ _ => true
  | .vpdRead _ _ => true
  | .tunnelledAdmin _ _ => true
  | .getVersion => true
  | .getCapabilities => true
  | .negotiateAlgorithms _ _ => true
  | .getDigests => true
  | .getCertificate _ _ _ => true
  | .challenge _ rnd => decide (rnd.length = 32)
  | .getMeasurements _ _ rnd => decide (rnd.length = 32)
  | .spdmUnsupported _ => true
  | .nonce => true
  | .password _ _ => true
  | .response _ _ _ => true
  | .canaryFail p => decide (p < Config.tiles)
  | .hatchLaneLoss port lanes => decide (port < 8) && decide (lanes ≤ 4)
  | .bankCharged _ => true
  | .managementRingBreak member => decide (member < 64)
  | .backInvalidateResponse _ => true
  | .completionQueueDoorbell _ _ => true
  | .hotReset => true
  | .healthSnapshotRefresh => true
  | .firmwareRestartEnd => true

end Sys2Proof
end

