-- ==== Sys2Proof/Tests/Slice0.lean ====
section
/-! SUPPORT. Tests: the ill-formed commands that WellFormed refuses, concrete states that meet the hypotheses of each statement (their
names begin wit_), and single steps whose results the spec states. -/

namespace Sys2Proof.Tests
set_option Elab.async false
open Sys2Proof Sys2Proof.Machine Sys2Proof.Safety Sys2Proof.Laws

/-- The state a command leaves. -/
def after (c : Instr) (s : State) : State := match exec c s with | .next u => u | .fault _ => s | .refused _ => s

/-- The command answers a next state. -/
def runs (c : Instr) (s : State) : Bool := match exec c s with | .next _ => true | .fault _ => false | .refused _ => false

/-- A module in service, its domains on, its host interface ready. -/
def up : State :=
  { State.reset with
    resumed := true, power.phase := .running, power.upStep := 5, power.domains := 0xFFFFF, power.ready := true
    power.emeasMj := 3000, power.stageMib := 64, host.ready := true, integ.phase := .service
    boot.stage := 3, boot.romDone := true, boot.stage1Done := true, stylus.lock := true, stylus.bootMode := false }

/-- A stroke word by its fields (R66). -/
def word (op amask modf a b d imm cnt fmt aux : Nat) : BitVec 128 :=
  BitVec.ofNat 128 (op * 2 ^ 120 + amask * 2 ^ 116 + modf * 2 ^ 112 + a * 2 ^ 96 + b * 2 ^ 80 + d * 2 ^ 64 + imm * 2 ^ 48 +
    cnt * 2 ^ 32 + fmt * 2 ^ 24 + aux * 2 ^ 16)

/-- An operand field that is not used. -/
def unused : Nat := 0xF800

/-- Operand field of buffer `b`, slot 0. -/
def opnd (b : Nat) : Nat := b * 2048

def sheetOf (fmt : Nat) (data : Bytes) : Sheet := ⟨5, BitVec.ofNat 8 fmt, 0, 0, 0, 32, 7, 9, 0, List.replicate 32 127, data, 0⟩

/-- A streaming buffer with these sheets present from slot 0. -/
def bufWith (lines slots : Nat) (shs : List Sheet) : Buffer :=
  ⟨false, 0, 0, lines, slots, 0, shs.zipIdx.map fun p => (p.2, ⟨.present, true, p.1⟩)⟩

/-- A running tile whose issue slot 0 stands at stroke `w`. -/
def tileAt (w : BitVec 128) (bufs : SMap Buffer) : Tile :=
  { Tile.shipped 0 with
    st := .running, station := 1, placed := true, nlists := 1, lists := [(0, ⟨0, 0, 0⟩)], islots := [(0, ⟨0, 0⟩)], strokes := [w]
    buffers := bufs }

def onTile (t : Tile) : State := { up with tiles := [(0, t)] }

/-- Tile 0 of a state. -/
def t0 (s : State) : Tile := tileOf s 0

/-- Its issue slot 0 is ready with stroke `w` of opcode `op`. -/
def Ready (s : State) (op : Nat) (w : BitVec 128) : Prop := Goes s 0 0 op ⟨0, 0⟩ (strokeOf w) w

/-- A stream with one credit. -/
def stream0 : Stream :=
  ⟨0, 3, 0x11, 0, 0, none, 1, 2, some 0, none, 0, 4, 0, 0, 0, 4, 0, [], [], false, false, 0, 0, 0, 0, 0, 0, 0, 0, 0, [], 0, [], []⟩

/-! Signed objects: each signature has r = s = the digest's value, and the key that such a signature names. -/

/-- SHA-256 as the kernel evaluates it quickly. -/
def digestOf (m : Bytes) : Bytes := (sha256F m).flatMap fun w => beBytes 4 (w % 4294967296)

/-- The record of R413 for an object of a kind at sector 0 of namespace 1, with its descriptor, signed under the key of hash `kh`. -/
def recordFor (kind : Nat) (desc b : Bytes) (z kh : Nat) : Bytes :=
  List.flatten [
    [BitVec.ofNat 8 kind, 1],
    zeros 14,
    leBytes 8 b.length,
    leBytes 4 desc.length,
    zeros 4,
    beBytes 32 kh,
    beBytes 32 z,
    beBytes 32 z,
    desc,
    zeros (256 - desc.length)]
/-- A module that trusts object key `kh` and holds `b` from sector 0 of its namespace on. -/
def shelf (kh : Nat) (b : Bytes) : State :=
  { up with
    boot.policy.keys := [(1, beBytes 32 kh)]
    media.staging := ((pieces 4096 b).zipIdx).map fun p => ⟨p.2, padTo p.1 4096⟩ }

theorem contents_of_signs {s : State} {r : Bytes} {kind desc : Nat} {b : Bytes} (z : Nat) (h1 : recordOk r kind desc = true)
    (h2 : u8 r 1 = 1) (h3 : 1 ≤ folioSize s) (h4 : userRead s (u64 r 8) (u64 r 16) = some (b, false))
    (h5 : s.boot.policy.keys.contains (1, slice r 32 32) = true) (h6 : slice r 32 32 = digestOf (pointBytes (easyKey z)))
    (h7 : beNat (slice r 64 32) = z) (h8 : beNat (slice r 96 32) = z) (h9 : beNat (digestOf (slice r 128 desc ++ b)) = z)
    (h10 : easyOk z = true) : objectContents s r kind desc = .ok b := by
  simp only [digestOf, ← sha256_eq] at h6 h9
  have hs := signedBy_easy _ z h9 h10
  rw [← h6] at hs
  simp only [objectContents, h1, h2, h4, h7, h8, h5, hs]
  simp; omega

theorem loadTable_of {s : State} {r b : Bytes} (h : objectContents s r 0 192 = .ok b) : loadTable s r = takeTable s (slice r 128 192) b := by
  simp only [loadTable, h]
theorem loadIndex_of {s : State} {r b : Bytes} (h : objectContents s r 1 256 = .ok b) : loadIndex s r = takeIndex s (slice r 128 256) b := by
  simp only [loadIndex, h]
theorem loadVocab_of {s : State} {r b : Bytes} (h : objectContents s r 2 0 = .ok b) : loadLexical s r 2 = takeVocab s b := by
  simp only [loadLexical, h]
theorem loadNorm_of {s : State} {r b : Bytes} (h : objectContents s r 3 0 = .ok b) : loadLexical s r 3 = takeNorm s b := by
  simp only [loadLexical, h]
theorem loadGrammar_of {s : State} {r b : Bytes} (h : objectContents s r 4 0 = .ok b) : loadLexical s r 4 = takeGrammar s b := by
  simp only [loadLexical, h]

def isOk {ε α : Type} (e : Except ε α) : Bool := match e with | .ok _ => true | .error _ => false
theorem of_isOk {ε α : Type} {e : Except ε α} (h : isOk e = true) : ∃ t, e = .ok t := by cases e with | ok t => exact ⟨t, rfl⟩ | error _ => cases h

theorem takeVocab_of {s : State} {b : Bytes}
    (h1 : ¬ (8 ≤ s.vocabs.length ∨ (s.vocabs.any fun p => p.2.id == BitVec.ofNat 64 (u64 b 0)) = true ∨ (!vocabOk b) = true))
    (h3 : (takeObjectPages s 2 (BitVec.ofNat 64 (u64 b 0)) b).isSome = true) : ∃ t, takeVocab s b = .ok t := by
  obtain ⟨p, hp⟩ := Option.isSome_iff_exists.1 h3
  unfold takeVocab
  rw [if_neg h1, hp]
  exact ⟨_, rfl⟩
theorem takeNorm_of {s : State} {b : Bytes}
    (h1 : ¬ (32 ≤ s.norms.length ∨ (s.norms.any fun p => p.2.id == BitVec.ofNat 64 (u64 b 0)) = true ∨ (!normOk b) = true))
    (h3 : (takeObjectPages s 3 (BitVec.ofNat 64 (u64 b 0)) b).isSome = true) : ∃ t, takeNorm s b = .ok t := by
  obtain ⟨p, hp⟩ := Option.isSome_iff_exists.1 h3
  unfold takeNorm
  rw [if_neg h1, hp]
  exact ⟨_, rfl⟩
theorem takeGrammar_of {s : State} {b : Bytes}
    (h1 : ¬ (64 ≤ s.grammars.length ∨ (s.grammars.any fun p => p.2.id == BitVec.ofNat 64 (u64 b 0)) = true ∨ (!grammarOk s b) = true))
    (h3 : (takeObjectPages s 4 (BitVec.ofNat 64 (u64 b 0)) b).isSome = true) : ∃ t, takeGrammar s b = .ok t := by
  obtain ⟨p, hp⟩ := Option.isSome_iff_exists.1 h3
  unfold takeGrammar
  rw [if_neg h1, hp]
  exact ⟨_, rfl⟩
/-- A dense table of one row of 32 I8 elements in T0. -/
def tblDesc (id : Nat) : Bytes :=
  List.flatten [
    leBytes 8 id,
    leBytes 4 1,
    [0, 1, 0, 0],
    leBytes 2 32,
    [0, 0],
    leBytes 4 0,
    leBytes 8 1,
    zeros 64,
    List.replicate 64 0xFF,
    zeros 32]
def tblData : Bytes := zeros 64
/-- An index of one empty list. -/
def idxDesc (id : Nat) : Bytes :=
  List.flatten [
    leBytes 8 id,
    leBytes 4 1,
    leBytes 4 1,
    leBytes 2 256,
    [1, 0, 0, 1],
    zeros 2,
    leBytes 8 0,
    leBytes 8 1,
    leBytes 4 0,
    zeros 4,
    leBytes 8 1,
    zeros 8,
    [0],
    List.replicate 63 0xFF,
    zeros 128]
def idxData : Bytes := zeros 64
/-- The 256 byte tokens and one special token. -/
def vocData (id : Nat) : Bytes :=
  List.flatten [
    leBytes 8 id,
    leBytes 4 257,
    leBytes 4 0,
    leBytes 4 1,
    [1, 0, 0, 0],
    List.replicate 32 0xFF,
    leBytes 8 256,
    zeros 64,
    zeros 36,
    [0xFF, 0xFF, 0xFF, 0xFF],
    zeros 24,
    (List.range 256).flatMap (fun k => leBytes 8 (k + 2 ^ 32)),
    leBytes 8 (2 ^ 40),
    (List.range 256).map (BitVec.ofNat 8)]
def normData (id : Nat) : Bytes :=
  List.flatten [
    leBytes 8 id,
    [0, 0, 0, 0x10, 1, 0, 0, 0],
    zeros 10800]
def gramData (id : Nat) : Bytes :=
  List.flatten [
    leBytes 8 id,
    leBytes 8 5,
    leBytes 4 1,
    leBytes 4 1,
    leBytes 4 0,
    zeros 36,
    ([0, 0, 0xFF, 0xFF, 0xFF, 0xFF, 1, 0] ++ zeros 24),
    zeros 64]
def vocab0 : Vocab := ⟨5, 257, 0, 1, [], [], [], []⟩

/-- An index and a table, each with a version to switch to. -/
def emptyIdx : IndexDesc := indexDescOf (idxDesc 9)
def idxAt : Index :=
  { id := 9, first := emptyIdx, cur := ⟨emptyIdx, [⟨0, []⟩], [], [], [], [], 0, []⟩, pend := some ⟨emptyIdx, [⟨0, []⟩], [], [], [], [], 0, []⟩
    drain := none, stepN := 4, steps := [(0, false, 2)], since := 0, eCommit := 0, cStamp := 0, ePrev := 0, commit := none, marginFull := false
    copying := none, copyBuilt := false, passes := 0, queries := 0, short := 0, space := 0, stale := 0, reranked := 0, drafted := 0 }
def wrDesc : TableDesc := { tableDescOf (tblDesc 8) with format := 0x10, writable := true, shards := 1, member := [0], home := 1, hotRows := 1 }
def verOf : TableVer := ⟨wrDesc, [262144], 0, [], [], 0, []⟩
def tblAt : Table :=
  { id := 8, first := wrDesc, cur := verOf, pend := some { verOf with pages := [] }, drain := none, stepN := 4, steps := [(0, false, 2)], hotFull := true
    updates := 0, reduced := 0, logWaits := 0, hotWaits := 0, since := 0, stamps := [] }

/-! Ill-formed commands: each check of WellFormed refuses one. -/

def noDesc : Desc := ⟨0, 0, 0, 0, 0, 0, 0, 0, 0, 0, 0⟩
def refusesAll (cs : List Instr) : Bool := cs.all fun c => !c.wf

theorem test_wfTiles : refusesAll
    (([.nop, .mma, .preload, .drain, .ctbl, .vop, .func, .reduce, .cvt, .signpack, .release, .copy] :
      List (Nat → Nat → Instr)).flatMap (fun f => [f 544 0, f 0 4]) ++
     [.emit 544 ⟨0, 0, 0⟩, .emit 0 ⟨4, 0, 0⟩, .invalidStroke 544 ⟨0, false⟩, .invalidStroke 0 ⟨4, false⟩] ++
     ([.firstNanTrap, .handshakeTimeout, .clockChange, .quiesceTimeout, .cntClr, .test, .tileCalInterval, .canaryFail] : List (Nat → Instr)).map (· 544) ++
     [.strokeComplete 544 0 ⟨[], false, 0, 0, 0, false⟩, .selfTestEnd 544 true, .reStencil 544 [], .spareDailyTest [0, 544], .easelFirmwareStart [544]]) = true := by
  decide +kernel

theorem test_wfContexts : refusesAll
    (([.loadAllocation, .replacementDrained, fun c => .probePass ⟨c, false⟩, fun c => .shuffleIssue ⟨c, true⟩] : List (Nat → Instr)).map (· 16) ++
     ([.ctxRelease, .ctxStart, .ctxStop, .ctxUnload, .nanClear] : List (Nat → Nat → Instr)).map (· 0 16) ++
     [.imageLoad 0 16 0, .loadComplete 16 [] false, .ringCreate 0 0 0 64 1 16, .indexCommit 1 0 16 0 0 [], .query (.queue 1 0) 16 (zeros 512),
      .frontOpen 1 0 16 (zeros 1216), .frontStep (.queue 1 0) 16 0 0, .frontClose 1 0 16 0, .deliveryJob 1 0 16 [], .batchJob 1 0 16 [],
      .stationDeadline 16 0 0, .deliverWrite 16 0]) = true := by
  decide +kernel

theorem test_wfRecords : refusesAll
    (([.imageStore, .tableLoad, .indexLoad, .vocabularyLoad, .normalisationLoad, .grammarLoad] : List (Nat → Bytes → Instr)).map (· 0 (zeros 383)) ++
     [.ctxConfigure 0 (zeros 31), .windowMap 0 (zeros 15), .windowUnmap 0 (zeros 17), .mediaThresholds 0 (zeros 15), .query (.queue 1 0) 0 (zeros 511),
      .frontOpen 1 0 0 (zeros 1217), .frontStep (.queue 1 0) 0 65536 0, .frontClose 1 0 0 65536, .ringTailSnoop 0 1 [zeros 575],
      .nvmWrite 1 0 1 0 (zeros 4095), .badDescriptor .bootCode (zeros 31), .challenge 0 (zeros 31), .getMeasurements 0 false (zeros 33)]) = true := by
  decide +kernel

theorem test_wfNumbers : refusesAll
    (([.read, .program, .erase, .probe, .calRead, .csRead, .csProgram, .csErase, .csFetch, .rbRead, .rbAdvance] :
      List (Caller → Desc → Nat → Instr)).map (· .bootCode noDesc 8) ++
     ([.powerOn, .testStatus] : List (Nat → Instr)).map (· 256) ++
     [.arbiterGrant 0 1 [⟨1, 0, 0, 0, false⟩], .arbiterGrant 0 1 [⟨0, 0, 16, 0, false⟩], .registerWrite .host 0x3FFFFFC 8 0, .objectUnload 0 256 0,
      .ringCreate 0 0 64 64 1 0, .ringCreate 0 0 0 65537 1 0, .ringDelete 0 64, .ringDeleteDone 64, .ringTailSnoop 64 0 [],
      .createIoSubmissionQueue 0 65536 2 1, .createIoCompletionQueue 0 65536 2 0, .createIoCompletionQueue 0 1 2 65536, .getLogPage 0 256 0 0 0 0 false,
      .decodeEngineGrant 8, .decodeUnitEnd 8 ⟨false, 0, [], false⟩, .deliverWrite 0 8, .eraseIntent 1024 0 true, .eraseIntent 0 3816 true,
      .correctableError 573 0, .insertion 8, .domainGoodTimeout 20, .throttleWindow ⟨0, 0, 0, [], 0⟩, .thermalStop 24 0, .testStart 256 0,
      .telemetryRead 256 0 0, .recordsRead 256 0 0, .ceClear 256 0, .levelTrack (1024 + Config.fastDies) true, .levelSweep (1024 + Config.fastDies) true,
      .levelSweepAdopt (1024 + Config.fastDies) true []]) = true := by
  decide +kernel

theorem test_wfFolio : refusesAll
    (([.memberLoss, .memberRejoin, .remirrorEnd, .managementRingBreak] : List (Nat → Instr)).map (· 64) ++
     ([.hatchLinkFailure, .hatchAckTimeout, .detourEnd] : List (Nat → Instr)).map (· 8) ++
     [.membershipFrame 64 false false, .folioJoin (2 ^ 64), .portCheck 8 0 0 0, .portCheck 0 0 64 0, .portCheck 0 0 0 8, .portRetrain 8 0, .portRetrain 0 5,
      .hatchReplay 8 0, .hatchLaneLoss 8 0, .hatchLaneLoss 0 5]) = true := by
  decide +kernel

/-! Strokes: witnesses of ArrayStrokesIssue, VectorStrokesIssue and SlotStrokesAndEndsOfStrokes. -/

def i8 : Sheet := sheetOf 0x01 (List.replicate 1024 1)
def f32 : Sheet := sheetOf 0x11 ((List.replicate 1024 ([0, 0, 0x80, 0x3F] : Bytes)).flatten)
def bf16 : Sheet := sheetOf 0x10 ((List.replicate 1024 ([0x80, 0x3F] : Bytes)).flatten)
def i32 : Sheet := sheetOf 0x20 ((List.replicate 1024 ([5, 0, 0, 0] : Bytes)).flatten)
def openBank : Bank := { Bank.cleared with chain := some ⟨false, [], [], [], false, false⟩ }

def wNop : BitVec 128 := word 0 0 0 unused unused unused 0 0 0 0
def wMma (init : Nat) : BitVec 128 := word opMma 1 init (opnd 0) (opnd 1) unused 0 1 1 0
def wPre : BitVec 128 := word opPreload 1 0 (opnd 0) unused unused 0 0 0 0
def wDrain : BitVec 128 := word opDrain 1 0 unused unused (opnd 2) 0 0 0x20 0
def wCtbl : BitVec 128 := word opCtbl 1 0 (opnd 0) unused unused 0 0 0 0
def wVop : BitVec 128 := word opVop 0 0 (opnd 0) (opnd 1) (opnd 2) 0 0 0x11 0
def wUn (op fmt : Nat) : BitVec 128 := word op 0 0 (opnd 0) unused (opnd 2) 0 0 fmt 0
def wRel (rel : Nat) : BitVec 128 := word opRelease 0 0 (opnd 0 + rel) unused unused 0 0 0 0
def wEmit : BitVec 128 := word opEmit 0 0 (opnd 0) unused unused 0 0 0 0

def sNop : State := onTile (tileAt wNop [])
def sMma : State := onTile (tileAt (wMma 0) [(0, bufWith 17 2 [i8]), (1, bufWith 17 2 [i8])])
def sCont : State := onTile { tileAt (wMma 1) [(0, bufWith 17 2 [i8]), (1, bufWith 17 2 [i8])] with banks := [(0, openBank)] }
def sPre : State := onTile (tileAt wPre [(0, bufWith 65 2 [i32])])
def sDrain : State := onTile { tileAt wDrain [(2, bufWith 65 2 [])] with banks := [(0, openBank)] }
def sCtbl : State := onTile (tileAt wCtbl [(0, bufWith 33 2 [bf16])])
def sVop : State := onTile (tileAt wVop [(0, bufWith 65 2 [f32]), (1, bufWith 65 2 [f32]), (2, bufWith 65 2 [])])
def ftab0 : FTab := ⟨0, 0, 0, 0, 0x40800000, List.replicate 1024 (0, 0)⟩
def sUn (op fmt lines : Nat) : State :=
  onTile { tileAt (wUn op fmt) [(0, bufWith 65 2 [f32]), (2, bufWith lines 2 [])] with ftabs := [(0, ftab0)] }
def sRel (rel : Nat) : State := onTile (tileAt (wRel rel) [(0, bufWith 65 2 [f32])])
def sEmit : State :=
  { onTile { tileAt wEmit [(0, bufWith 65 2 [f32])] with routes := [(0, ⟨.single, 0, [3], 0, 0⟩)] } with streams := [(3, stream0)] }

theorem wit_nop : Ready sNop opNop wNop ∧ (t0 (after (.nop 0 0) sNop)).counts.issued = 1 := by unfold Ready Goes; decide +kernel

theorem wit_mma : (Ready sMma opMma (wMma 0) ∧
    (strokeOf (wMma 0)).bankKeys = [0] ∧ ∀ x ∈ operandSlots (t0 sMma) (strokeOf (wMma 0)), (sheetAt (t0 sMma) x).format.toNat = 1) ∧
    Ready sCont opMma (wMma 1) ∧ (bankOf (t0 sCont) 0).chain.isSome = true := by unfold Ready Goes; decide +kernel

/-- R41: 32 products of 1 × 1 in every cell; R80: 32 busy cycles. -/
theorem test_mma_sums : ((bankOf (t0 (after (.mma 0 0) sMma)) 0).cells.take 2) = [32, 32] ∧
    (t0 (after (.mma 0 0) sMma)).counts.arrayBusy = 32 := by decide +kernel

theorem wit_preload : Ready sPre opPreload wPre ∧
    preloadKind (sheetAt (t0 sPre) (reach (t0 sPre) (strokeOf wPre).srcA 0)).format.toNat = some false ∧
    ((bankOf (t0 (after (.preload 0 0) sPre)) 0).cells.take 2) = [5, 5] := by unfold Ready Goes; decide +kernel

theorem wit_drain : Ready sDrain opDrain wDrain ∧
    ((slotOf (t0 (after (.drain 0 0) sDrain)) (2, 0)).map (·.st)) = some .reserved := by unfold Ready Goes; decide +kernel

theorem wit_ctbl : Ready sCtbl opCtbl wCtbl ∧
    ((mapGet (t0 (after (.ctbl 0 0) sCtbl)).arrays 0 ⟨none⟩).tables.map (fun g => g.1.take 1)) = some [0x3F80] := by
  unfold Ready Goes; decide +kernel

theorem wit_vop : Ready sVop opVop wVop ∧ operandsMatch (t0 sVop) (strokeOf wVop) = true := by
  unfold Ready Goes; decide +kernel

theorem wit_func : Ready (sUn opFunc 0x11 65) opFunc (wUn opFunc 0x11) ∧ operandsMatch (t0 (sUn opFunc 0x11 65)) (strokeOf (wUn opFunc 0x11)) = true ∧
    mapFind (t0 (sUn opFunc 0x11 65)).ftabs 0 = some ftab0 := by unfold Ready Goes; decide +kernel

theorem wit_reduce : Ready (sUn opReduce 0x11 65) opReduce (wUn opReduce 0x11) ∧
    operandsMatch (t0 (sUn opReduce 0x11 65)) (strokeOf (wUn opReduce 0x11)) = true := by unfold Ready Goes; decide +kernel

theorem wit_cvt : Ready (sUn opCvt 0x10 33) opCvt (wUn opCvt 0x10) ∧
    (srcOf (sUn opCvt 0x10 33) 0 (strokeOf (wUn opCvt 0x10)).srcA).format ≠ 0x08 := by unfold Ready Goes; decide +kernel

theorem wit_signpack : Ready (sUn opSignpack 0x11 3) opSignpack (wUn opSignpack 0x11) ∧
    operandsMatch (t0 (sUn opSignpack 0x11 3)) (strokeOf (wUn opSignpack 0x11)) = true := by unfold Ready Goes; decide +kernel

theorem wit_copy : Ready (sUn opCopy 0 65) opCopy (wUn opCopy 0) := by unfold Ready Goes; decide +kernel

/-- R68: DST of a SIGNPACK of 32 live rows counts 1,024 bits. -/
theorem test_signpack_valid :
    ((slotOf (t0 (after (.signpack 0 0) (sUn opSignpack 0x11 3))) (2, 0)).map (·.sheet.valid)) = some 1024 := by decide +kernel

theorem wit_emit : Ready sEmit opEmit wEmit ∧ mapFind (t0 sEmit).routes 0 = some ⟨.single, 0, [3], 0, 0⟩ ∧
    streamOf sEmit 3 = some stream0 ∧ (routeTargets ⟨.single, 0, [3], 0, 0⟩ 0).1 = [3] ∧
    (t0 (after (.emit 0 ⟨0, 0, 1⟩) sEmit)).faults = 16 := by unfold Ready Goes; decide +kernel

/-- R127, R131: the sheet goes out under SEQ 0 and takes one credit. -/
theorem test_emit_credit : ((streamOf (after (.emit 0 ⟨0, 0, 0⟩) sEmit) 3).map fun x => (x.credits, x.nextSend, x.inflight.map (·.seq))) =
    some (3, 1, [0]) := by decide +kernel

theorem wit_release : Ready (sRel 0) opRelease (wRel 0) ∧ Ready (sRel 1024) opRelease (wRel 1024) ∧
    (strokeOf (wRel 1024)).srcA.rel = true ∧ (mapFind (t0 (sRel 1024)).buffers 0).isSome = true ∧
    presentSheet (t0 (after (.release 0 0) (sRel 1024))) (0, 0) = none := by unfold Ready Goes; decide +kernel

/-- R62: a slot that an open chain has used stays present after its RELEASE. -/
def sRelChain : State :=
  onTile { tileAt (wRel 1024) [(0, bufWith 65 2 [f32])] with banks := [(0, { Bank.cleared with chain := some ⟨true, [], [], [(0, 0)], false, false⟩ })] }
theorem wit_releaseInChain : Ready sRelChain opRelease (wRel 1024) ∧ (t0 sRelChain).banks.map (fun b => (b.2.chain.map (·.used)).getD []) = [[(0, 0)]] ∧
    (presentSheet (t0 (after (.release 0 0) sRelChain)) (0, 0)).isSome = true := by unfold Ready Goes; decide +kernel

def sBad : State := onTile (tileAt (word 0xFF 0 0 unused unused unused 0 0 0 0) [])
theorem wit_invalidStroke : (headStroke (t0 sBad) 0).isSome = true ∧ (t0 sBad).st = .running ∧
    ((headStroke (t0 sBad) 0).map fun z => strokeBad (t0 sBad) z.2.1) = some true ∧
    (t0 (after (.invalidStroke 0 ⟨0, false⟩) sBad)).st = .fault ∧ (t0 (after (.invalidStroke 0 ⟨0, true⟩) sNop)).faults = 2 := by decide +kernel

def ok0 : StrokeObs := ⟨[], false, 0, 0, 0, false⟩
def sDone : State := after (.copy 0 0) (sUn opCopy 0 65)
theorem wit_strokeComplete : ((t0 sDone).exec[0]?).isSome = true ∧ (t0 sDone).st = .running ∧ ok0.mismatch = false ∧ ok0.upsets = [] ∧
    ok0.storeUe = 0 ∧ ok0.strokeUe = false ∧
    ((slotOf (t0 (after (.strokeComplete 0 0 ok0) sDone)) (2, 0)).map (·.st)) = some .present := by decide +kernel

/-- R63: a first mismatch repeats the chain with its drain, a second one is RESIDUE_REPEAT. -/
def sDraining (again : Bool) : State :=
  onTile { tileAt wDrain [(2, bufWith 65 2 [])] with
    banks := [(0, { Bank.cleared with chain := some ⟨true, [], [], [], false, false⟩ })], exec := [⟨0, 0, wDrain, [], [0], true, [(2, 0)], [], again, none, 0⟩] }
theorem wit_drainMismatch : ((t0 (sDraining false)).exec.map fun e => ((strokeOf e.stroke).op, e.repeated)) = [(opDrain, false)] ∧
    (t0 (after (.strokeComplete 0 0 { ok0 with mismatch := true }) (sDraining false))).exec.map (·.repeated) = [true] := by decide +kernel
theorem wit_drainMismatchAgain : (t0 (sDraining true)).exec.map (·.repeated) = [true] ∧
    (t0 (after (.strokeComplete 0 0 { ok0 with mismatch := true }) (sDraining true))).faults = 1 := by decide +kernel

/-! Tile events, the fabric and sheet ingress: witnesses of TileEventsComplete, FabricCompletes and SheetIngressCompletes. -/

/-- The module's last tile as `t`. -/
def lastTile (t : Tile) : State := { up with tiles := [(543, t)] }
def idle : Tile := { Tile.shipped 543 with st := .running, change := some (30, -2) }
def nanRec : TileNan := ⟨9, 3, 1, 0, 4, false⟩
def sNan : State := lastTile { Tile.shipped 543 with placed := true, nan := some nanRec }
/-- Tile `p` has met a NaN at time 0 in a context whose record of that stamp names tile 543. -/
def tieNan (p : Nat) : State :=
  { up with tiles := [(p, { Tile.shipped p with placed := true, nan := some nanRec })]
            ctxs := [(0, { Ctx.empty with nan := some ⟨0, 0, 0, 0, false, 543, 0, 0⟩ })] }
/-- A running tile with a stroke in flight and a change pending. -/
def busy : Tile := { tileAt 0 [] with change := some (30, -2), exec := [⟨0, 0, 0, [], [], true, [], [], false, none, 0⟩] }

theorem wit_tileEvents : 543 < Config.tiles ∧ (tileOf (lastTile idle) 543).st ≠ .off ∧ (tileOf (lastTile idle) 543).st ≠ .retired ∧
    (tileOf (lastTile idle) 543).placed = false ∧ (tileOf (lastTile { idle with placed := true }) 543).placed = true ∧
    atBoundary (tileOf (lastTile idle) 543) = true ∧ (tileOf (lastTile idle) 543).change = some (30, -2) ∧
    (tileOf (after (.clockChange 543) (lastTile idle)) 543).runFreq = 30 := by decide +kernel

theorem wit_tileWaits : atBoundary (t0 (onTile busy)) = false ∧ clockPending (onTile busy) (t0 (onTile busy)) = true ∧
    (t0 (onTile busy)).st = .running := by decide +kernel

theorem wit_tileTests : (tileOf (lastTile { Tile.shipped 543 with st := .spareIdle }) 543).st = .spareIdle ∧
    (tileOf (lastTile idle) 543).st ≠ .spareIdle ∧ (tileOf (lastTile { Tile.shipped 543 with st := .testing }) 543).st = .testing := by
  decide +kernel

theorem wit_firstNan : (tileOf sNan 543).nan = some nanRec ∧ nanRec.sent = false ∧ (tileOf sNan 543).placed = true ∧
    (ctxOf sNan (tileOf sNan 543).context).nan = none ∧ (tieNan 3).time = 0 ∧ (ctxOf (after (.firstNanTrap 3) (tieNan 3)) 0).nan.map (·.tile) = some 3 ∧
    (ctxOf { sNan with ctxs := [(0, { Ctx.empty with nan := some ⟨0, 0, 0, 0, false, 0, 0, 0⟩ })] } 0).nan.isSome = true := by
  decide +kernel

/-- R29, R65, R71: the handshake fault halts the tile and sets its sticky bit; a tile that no image places is retired. -/
theorem test_handshake : (tileOf (after (.handshakeTimeout 543) (lastTile { idle with placed := true })) 543).st = .fault ∧
    (tileOf (after (.handshakeTimeout 543) (lastTile { idle with placed := true })) 543).faults = 64 ∧
    (tileOf (after (.handshakeTimeout 543) (lastTile idle)) 543).role = .retired := by decide +kernel

def sFab : State :=
  { up with boundaries := [(7, ⟨true, 4⟩)], arbiters := [(2, ⟨[(1, ⟨1, 0, 0, 3, 64, false⟩)], 1, none⟩)]
            streams := [(5, { stream0 with resendAsked := true, returning := 1, prod := 0xDF, cons := 1 })] }

theorem wit_fabric : (mapGet sFab.boundaries 7 ⟨false, 0⟩).outstanding = true ∧
    (mapFind (mapGet sFab.arbiters 2 ⟨[], 0, none⟩).waiting 1).map (·.passes) = some 64 ∧
    (streamOf sFab 5).map (fun x => (x.resendAsked, x.returning, x.prod, x.cons, x.queue.isEmpty)) = some (true, 1, 0xDF, 1, true) ∧
    stnHatch ≠ 1 := by decide +kernel

/-- A grant at the memory channels, and one at LETTER's ingress, where a sheet is present. -/
def sWait : State :=
  { up with streams := [(5, { stream0 with cons := stnLetter, consTile := none, arrived := [sheetOf 0x30 []] })] }
theorem wit_grants : (arbChoice (isBank 0x10310) (registered up 0x10310 [⟨1, 3, 0, 0, false⟩]) 0).map (·.port) = some 1 ∧
    ingressOf 0x10310 = none ∧ portOfArbiter 0x10310 = none ∧ ingressOf (ingressArbiter stnLetter) = some stnLetter ∧
    (arbChoice false (registered sWait (ingressArbiter stnLetter) [⟨5, stnLetter, 0, 0, false⟩]) 0).map (·.port) = some 5 ∧
    (arbChoice (isBank 17) (registered up 17 [⟨3, 1, 0, 33, false⟩]) 0).map (·.port) = some 3 := by decide +kernel

/-- R52: line 33 lies in bank 1 alone. -/
theorem test_bank_line : (registered up 16 [⟨3, 1, 0, 33, false⟩]).isEmpty = true := by decide +kernel

/-- R142: the highest priority wins; among equals the first at or after the pointer. -/
theorem test_grant : (arbChoice false [(0, (⟨0, 1, 0, 2, 0, false⟩ : Requester)), (1, ⟨1, 3, 0, 5, 0, false⟩), (3, ⟨3, 2, 0, 5, 0, false⟩)] 2).map (·.port) =
    some 3 := by decide +kernel

/-- A sheet of 1,024 sign bits with its CHECK. -/
def aSheet : Sheet := sealSheet { sheetOf 0x30 (zeros 128) with stream := 5, shape := 0, seq := 1, scales := zeros 32 }
/-- A stream with one sheet in flight to buffer 0 of tile 0. -/
def flying (resent : Bool) : Stream :=
  { stream0 with consTile := some 0, inflight := [aSheet], holds := [none], resent := resent, format := 0x30, srcFmt := 0x30, credits := 3
                 nextSend := 2, nextAccept := 1 }
def sIn (resent : Bool) : State := { onTile (tileAt 0 [(0, bufWith 3 4 [])]) with streams := [(5, flying resent)] }

theorem wit_ingress : streamOf (sIn false) 5 = some (flying false) ∧ (flying false).prod ≠ stnHatch ∧
    (flying false).inflight = [aSheet] ∧ (flying false).resendAsked = false ∧ (flying true).resent = true ∧
    (flying false).consTile = some 0 ∧ mapFind (tileOf (sIn false) 0).buffers 0 = some (bufWith 3 4 []) :=
  ⟨rfl, by decide, rfl, rfl, rfl, rfl, rfl⟩


set_option maxRecDepth 100000 in
theorem wit_ingressPasses : (arrivalOf (wireBytes [] (sheetSlot aSheet))).ok = true ∧
    ingressOk (sIn false) 5 (flying false) (arrivalOf (wireBytes [] (sheetSlot aSheet))).sheet = true := by decide +kernel

set_option maxRecDepth 100000 in
theorem wit_ingressFails : (arrivalOf (wireBytes [(0, 1)] (sheetSlot aSheet))).ok = false := by decide +kernel

/-! Selectors, sources, the scrub, protection, register writes and flash descriptors. -/

/-- The last source that exists and the first that does not (R467); the last sensor and the first that does not exist (R520). -/
theorem wit_selectors : bitsAt (572 : BitVec 64).toNat 0 10 < 573 ∧ 573 ≤ bitsAt (573 : BitVec 64).toNat 0 10 ∧
    bitsAt (23 : BitVec 64).toNat 0 5 < 24 ∧ 24 ≤ bitsAt (24 : BitVec 64).toNat 0 5 := by decide +kernel

theorem wit_selectorsLatch : streamOf { up with streams := [(65535, stream0)] } ((0x1FFFF : BitVec 64) &&& 0xFFFF).toNat = some stream0 ∧
    (4 : Nat) ≤ 5 ∧ stream0.credits < 65536 ∧ stream0.present < 65536 ∧ stream0.slots < 65536 ∧ stream0.accepted < 2 ^ 64 := by
  decide +kernel

/-- R147: the field's bits are taken, and the instruments read as they stood. -/
theorem test_smon : readReg (after (.glbSmonSel 0x50005) { up with streams := [(5, stream0)] }) 0x100 = 5 ∧
    readReg (after (.glbSmonSel 5) { up with streams := [(5, stream0)] }) 0x110 = 0x0000_0004_0004_0000 := by decide +kernel

def scrubAt (space : Bool) (first count : Nat) (busy : Bool) : State :=
  { up with integ.scrub := ⟨space, busy, false, BitVec.ofNat 32 count, BitVec.ofNat 32 first, 0, 0, space, first, count⟩ }

theorem wit_scrub : mapWf up.integ.ce = true ∧ bitsAt up.mon.ceSel.toNat 0 10 < 573 ∧ (scrubAt true 8 1016 false).integ.scrub.busy = false ∧
    scrubRangeOk true (scrubAt true 8 1016 false).integ.scrub.first.toNat (scrubAt true 8 1016 false).integ.scrub.count.toNat = true ∧
    scrubRangeOk false (scrubAt false 2097151 1 false).integ.scrub.first.toNat 1 = true ∧
    scrubRangeOk true (scrubAt true 8 1017 false).integ.scrub.first.toNat 1017 = false ∧
    scrubRangeOk false 524287 1 = false ∧ (scrubAt true 8 1016 true).integ.scrub.busy = true ∧
    (scrubAt true 8 1016 true).integ.scrub.runSpace = true ∧ (∀ c ∈ [((14 : Nat), false)], c.1 < 15) := by decide +kernel

/-- R458: bits 63:32 of SUM0 count codewords read, bits 31:0 those at or above the threshold. -/
theorem test_scrub_sums : (after (.scrubPassEnd [(14, false), (0, false)]) (scrubAt true 8 1016 true)).integ.scrub.sum0 = 0x0000_0002_0000_0001 := by
  decide +kernel

def inBoot (s : State) : State := { s with stylus.lock := false, stylus.bootMode := true }
/-- A value of PRT_CS_REGION: VALID, COUNT, FIRST. -/
def region (count first : Nat) : BitVec 64 := BitVec.ofNat 64 (2 ^ 63 + count * 2 ^ 10 + first)

theorem wit_protection : (inBoot up).stylus.lock = false ∧ (inBoot up).stylus.bootMode = true ∧ up.stylus.lock = true ∧
    regionClash (inBoot up) (region 1 8 &&& 0xFE00_0000_001F_FFFF) = false ∧
    regionClash (inBoot up) (region 1 7 &&& 0xFE00_0000_001F_FFFF) = true ∧
    regionClash (inBoot up) (region 1 895 &&& 0xFE00_0000_001F_FFFF) = false ∧
    regionClash (inBoot up) (region 1 896 &&& 0xFE00_0000_001F_FFFF) = true ∧ Writer.easel ≠ Writer.bootCode ∧
    { up with stylus.mbxBusy := some 3 }.stylus.mbxBusy.isSome = true ∧ up.stylus.mbxBusy = none := by decide +kernel

theorem wit_registers : (4 ≠ 8 ∨ 0 % 8 ≠ 0 ∨ 0x188_0000 ≤ 0) ∧ (8 ≠ 8 ∨ 4 % 8 ≠ 0 ∨ 0x188_0000 ≤ 4) ∧
    (8 ≠ 8 ∨ 0x188_0000 % 8 ≠ 0 ∨ 0x188_0000 ≤ 0x188_0000) ∧ 543 < Config.tiles ∧
    10 ≤ bitsAt (10 : BitVec 64).toNat 0 16 ∧ bitsAt (60000 : BitVec 64).toNat 0 16 ≤ 60000 ∧
    bitsAt (9 : BitVec 64).toNat 0 16 < 10 ∧ 60000 < bitsAt (60001 : BitVec 64).toNat 0 16 ∧
    300 ≤ bitsAt (300 : BitVec 64).toNat 0 16 ∧ bitsAt (900 : BitVec 64).toNat 0 16 ≤ 900 ∧
    up.stylus.lock = true ∧ up.stylus.wpSel.toNat < 14306 ∧ 14305 < 14306 := by decide +kernel

/-- R12: FAULT bits clear by writing 1. -/
theorem test_fault_w1c : (tileOf (after (.registerWrite .host (tileReg 543 0x28) 8 0x20)
    { up with tiles := [(543, { Tile.shipped 543 with faults := 0x61 })] }) 543).faults = 0x41 := by decide +kernel

/-- A READ of one sector of the last block of the last bulk die (R383). -/
def rdDesc (block : Nat) : Desc := ⟨0, 1023, block, 0, 0, 0, 0, 0, 77, 0x8000_0000, 0⟩

theorem wit_descriptors : callerNow up .hardware = .hardware ∧ isMailbox .hardware = false ∧ up.stylus.mbxBusy ≠ some up.stylus.nextId ∧
    descFieldsOk .read (rdDesc 446) = true ∧ callerOk .read .hardware = true ∧ accessRefusal up .read .hardware (rdDesc 446) = none ∧
    mapWf up.stylus.dies = true ∧ dieOf up (dieKey .read (rdDesc 446)) = ⟨none, none, []⟩ ∧
    descFieldsOk .read (rdDesc 100000) = false ∧ callerOk .read .fetchEasel = false ∧ callerNow up .fetchEasel = .fetchEasel ∧
    Routine.ofCode (descOf (zeros 32)).1 = none := by decide +kernel

def opOf (r : Routine) (d : Desc) : Op := ⟨9, r, .bootCode, d, 0, 0, false⟩
def rbDesc (v : Nat) : Desc := ⟨0, 15, 0, 0, 0, 0, 0, 0, 78, 0x8000_0000, v⟩
def opSt (o : Op) : State := { up with stylus.dies := [(dieKey o.routine o.desc, ⟨some o, none, []⟩)], stylus.counters := [(15, (5, 5))] }
def csDesc : Desc := ⟨2, 8, 0, 1023, 0, 0, 0, 0, 79, 0x8000_0000, 0⟩
def flashOk : FlashObs := ⟨true, [some 3], some 0, 0, 0, []⟩
def opKeys (s : State) : Option (Nat × Option Op) :=
  (s.stylus.dies.find? fun p => (p.2.running.map (·.id)) == some 9).map fun p => (p.1, p.2.running)

theorem wit_descriptorEnds : mapWf (opSt (opOf .rbRead (rbDesc 0))).stylus.dies = true ∧ cellsWf up.mem = true ∧ cellsWf up.stylus.cs = true ∧
    opKeys (opSt (opOf .rbRead (rbDesc 0))) = some (4111, some (opOf .rbRead (rbDesc 0))) ∧
    opKeys (opSt (opOf .rbAdvance (rbDesc 6))) = some (4111, some (opOf .rbAdvance (rbDesc 6))) ∧
    counterOf (opSt (opOf .rbAdvance (rbDesc 6))) 15 < 6 ∧ 5 ≤ counterOf (opSt (opOf .rbAdvance (rbDesc 5))) 15 ∧
    opKeys (opSt (opOf .csProgram csDesc)) = some (2056, some (opOf .csProgram csDesc)) ∧ flashOk.good = true ∧
    up.stylus.csUnwritable.contains 8 = false ∧
    ((mapFind [(2, region 1 8)] 2).map fun r => regionHas r 8) = some true ∧ opKeys (opSt (opOf .calRead csDesc)) = some (2056, some (opOf .calRead csDesc)) := by
  decide +kernel

/-- R393: a counter advances to a higher value alone. -/
theorem test_rb_advance : counterOf (opDone up (opOf .rbAdvance (rbDesc 6)) flashOk) 15 = 6 ∧
    counterOf (opDone { up with stylus.counters := [(15, (6, 6))] } (opOf .rbAdvance (rbDesc 5)) flashOk) 15 = 6 ∧
    ((opDone { up with stylus.counters := [(15, (6, 6))] } (opOf .rbAdvance (rbDesc 5)) flashOk).stylus.cpls.map (·.status)) = [4] := by
  decide +kernel

/-- A unit of the code store is powered with its channel's domain, whichever that is. -/
theorem wit_diePowered : diePowered (opSt (opOf .rbRead (rbDesc 0))) 4111 = true ∧ diePowered { up with power.domains := 0 } 7 = false := by
  refine ⟨?_, by decide +kernel⟩
  have h : ∀ c : BitVec 6, domainOn (opSt (opOf .rbRead (rbDesc 0))) (channelDomain c.toNat) = true := by
    intro c; unfold channelDomain; split <;> decide
  exact h _

set_option maxRecDepth 100000


def zTbl : Nat := 73257235462932113525838256477627979689197765862094508368599086324394027781912
def kTbl : Nat := 54835865567251634182134892846725699036060267189689963851284100800491714861487
def zIdx : Nat := 10740659605023134087135908209083495947282750488430412688611813173437989490861
def kIdx : Nat := 33698880432261546354539605334749142973264652230805072725091174880229175608526
def zVoc : Nat := 30498185804721129606880499300520376083439297412117550555602423850203492505398
def kVoc : Nat := 94449313553467826187066172575766873220909785122160832129891172291533342670779
def zNorm : Nat := 53289613613116510359055809011349104665321501706778730716394258980261017708130
def kNorm : Nat := 28156607091486609972063500102233329219606026389418464130596497673564628074572
def zGram : Nat := 59451126123200688997258733008036760877597552809629918740030237823931837551684
def kGram : Nat := 36637282038086946111859263392267358482066664036502469835689664486953556809094

def rTbl : Bytes := recordFor 0 (tblDesc 1) tblData zTbl kTbl
def sTbl : State := shelf kTbl tblData
theorem wit_tableLoad : AdminReady sTbl 1 ∧ ∃ t, loadTable (taken sTbl) rTbl = .ok t := by
  have h : objectContents (taken sTbl) rTbl 0 192 = .ok tblData := contents_of_signs zTbl (by decide +kernel) (by decide +kernel) (by decide +kernel) (by decide +kernel) (by decide +kernel)
      (by decide +kernel) (by decide +kernel) (by decide +kernel) (by decide +kernel) (by decide +kernel)
  rw [loadTable_of h]; exact ⟨by unfold AdminReady; decide +kernel, of_isOk (by decide +kernel)⟩

def rIdx : Bytes := recordFor 1 (idxDesc 2) idxData zIdx kIdx
def sIdx : State := shelf kIdx idxData
theorem wit_indexLoad : AdminReady sIdx 1 ∧ ∃ t, loadIndex (taken sIdx) rIdx = .ok t := by
  have h : objectContents (taken sIdx) rIdx 1 256 = .ok idxData := contents_of_signs zIdx (by decide +kernel) (by decide +kernel) (by decide +kernel) (by decide +kernel) (by decide +kernel)
      (by decide +kernel) (by decide +kernel) (by decide +kernel) (by decide +kernel) (by decide +kernel)
  rw [loadIndex_of h]; exact ⟨by unfold AdminReady; decide +kernel, of_isOk (by decide +kernel)⟩

def rVoc : Bytes := recordFor 2 [] (vocData 2) zVoc kVoc
def sVoc : State := shelf kVoc (vocData 2)
theorem vocData_ok : vocabOk (vocData 2) = true := by
  simp -zeta only [vocabOk, vocabOf, trieNode, u8, u32, u64, fieldAt, zeroAt, slice_eq]; decide +kernel
theorem wit_vocabularyLoad : objectContents (taken sVoc) rVoc 2 0 = .ok (vocData 2) ∧ ∃ t, loadLexical (taken sVoc) rVoc 2 = .ok t := by
  have h : objectContents (taken sVoc) rVoc 2 0 = .ok (vocData 2) := contents_of_signs zVoc (by decide +kernel) (by decide +kernel) (by decide +kernel) (by decide +kernel) (by decide +kernel)
      (by decide +kernel) (by decide +kernel) (by decide +kernel) (by decide +kernel) (by decide +kernel)
  rw [loadVocab_of h]; exact ⟨h, takeVocab_of (by rw [vocData_ok]; decide +kernel) (by decide +kernel)⟩

def rNorm : Bytes := recordFor 3 [] (normData 4) zNorm kNorm
def sNorm : State := shelf kNorm (normData 4)
theorem normData_ok : normOk (normData 4) = true := by
  simp -zeta only [normOk, normOf, normPairs, normPool, normStage2, u8, u16, u32, u64, fieldAt, zeroAt, slice_eq]; decide +kernel
theorem wit_normalisationLoad : objectContents (taken sNorm) rNorm 3 0 = .ok (normData 4) ∧ ∃ t, loadLexical (taken sNorm) rNorm 3 = .ok t := by
  have h : objectContents (taken sNorm) rNorm 3 0 = .ok (normData 4) := contents_of_signs zNorm (by decide +kernel) (by decide +kernel) (by decide +kernel) (by decide +kernel) (by decide +kernel)
      (by decide +kernel) (by decide +kernel) (by decide +kernel) (by decide +kernel) (by decide +kernel)
  rw [loadNorm_of h]; exact ⟨h, takeNorm_of (by rw [normData_ok]; decide +kernel) (by decide +kernel)⟩

def rGram : Bytes := recordFor 4 [] (gramData 1) zGram kGram
def sGram : State := { shelf kGram (gramData 1) with vocabs := [(0, vocab0)] }
theorem gramData_ok : grammarOk (taken sGram) (gramData 1) = true := by
  simp -zeta only [grammarOk, u8, u16, u32, u64, fieldAt, zeroAt, slice_eq]; decide +kernel
theorem wit_grammarLoad : objectContents (taken sGram) rGram 4 0 = .ok (gramData 1) ∧ ∃ t, loadLexical (taken sGram) rGram 4 = .ok t := by
  have h : objectContents (taken sGram) rGram 4 0 = .ok (gramData 1) := contents_of_signs zGram (by decide +kernel) (by decide +kernel) (by decide +kernel) (by decide +kernel) (by decide +kernel)
      (by decide +kernel) (by decide +kernel) (by decide +kernel) (by decide +kernel) (by decide +kernel)
  rw [loadGrammar_of h]; exact ⟨h, takeGrammar_of (by rw [gramData_ok]; decide +kernel) (by decide +kernel)⟩

/-! Images, contexts, objects and versions. -/

/-- An image of one tile at physical tile 0. -/
def img : Image := { imageOf [] with placements := [[0]] }
def loadIn (phase : LoadPhase) : Load := ⟨some 1, 0, img, phase, 0, 0, [0], [0], [], [], false⟩
def ranOf (im : Image) : Loaded := ⟨im, 0, [0], [0], [], []⟩
/-- Context 15 as `x`. -/
def onCtx (x : Ctx) : State := { up with ctxs := [(15, x)] }
def ctxLoaded (st : CtxState) : Ctx := { Ctx.empty with st := st, loaded := some (ranOf img), tileLimit := 1, halves := 1, seqLimit := 4 }
def cached (valid : Bool) : SMap CacheEntry := [(3, ⟨0, zeros 128, false, valid, 0⟩)]

theorem wit_imageStore : AdminReady up 1 ∧ recordOk (recordFor 7 [] (zeros 64) 0 0) 7 0 = true ∧
    zeroAt (recordFor 7 [] (zeros 64) 0 0) 32 96 = true ∧ u8 (recordFor 7 [] (zeros 64) 0 0) 1 = ownNsid up ∧
    userRead up 0 64 = some (zeros 64, false) ∧ u64 (recordFor 7 [] (zeros 64) 0 0) 8 = 0 ∧ u64 (recordFor 7 [] (zeros 64) 0 0) 16 = 64 ∧
    (storeImage (taken up) (zeros 64)).isRight = true := by unfold AdminReady; decide +kernel

theorem wit_imageInUse : AdminReady { onCtx { ctxLoaded .loaded with mcEntry := 3 } with cache := cached true } 1 ∧
    cacheFind { onCtx { ctxLoaded .loaded with mcEntry := 3 } with cache := cached true } 0 = some (3, ⟨0, zeros 128, false, true, 0⟩) ∧
    cacheInUse { onCtx { ctxLoaded .loaded with mcEntry := 3 } with cache := cached true } 3 ⟨0, zeros 128, false, true, 0⟩ = true ∧
    cacheFind up 0 = none := by unfold AdminReady; decide +kernel

def sLoad : State := { onCtx { ctxLoaded .configured with loaded := none } with cache := cached true }
theorem wit_imageLoad : AdminReady sLoad 1 ∧ cacheFind sLoad 0 = some (3, ⟨0, zeros 128, false, true, 0⟩) ∧
    validate (taken sLoad) 15 (zeros 128) true = none ∧ (ctxOf sLoad 15).load = none ∧ (ctxOf sLoad 15).st = .configured := by
  unfold AdminReady; decide +kernel

def sAlloc : State :=
  { onCtx { ctxLoaded .configured with loaded := none, load := some (loadIn .allocating) } with tiles := [(0, { Tile.shipped 0 with st := .ready })] }
theorem wit_loadAllocation : (ctxOf sAlloc 15).load = some (loadIn .allocating) ∧ lockTurn sAlloc 15 (loadIn .allocating) = true ∧ [0].Nodup ∧
    ((((loadIn .allocating).image.placements.zipIdx).filter fun p => placementFits sAlloc (ctxOf sAlloc 15) (loadIn .allocating) p.1).find? fun p =>
      canWakeAll sAlloc (placementDomains (loadIn .allocating).image p.1)) = some ([0], 0) ∧
    overShare sAlloc 15 (loadIn .allocating).image = false ∧ (allotRegions sAlloc 15 (loadIn .allocating).image).isSome = true := by decide +kernel

def sWrite : State := onCtx { ctxLoaded .configured with loaded := none, load := some (loadIn .writing) }
theorem wit_loadComplete : (ctxOf sWrite 15).load = some (loadIn .writing) ∧
    ((loadIn .writing).tileMap.all fun p => (tileOf sWrite p).st != .fault) = true ∧ (ctxOf sWrite 15).loadQueue = [] ∧
    (ctxOf sWrite 15).pendingStart = [] ∧ (loadIn .writing).image.autostart = false := by decide +kernel

def sDrained : State := onCtx { ctxLoaded .replacing with load := some (loadIn .draining) }
/-- The old image's tile still executes a stroke. -/
def sStill : State :=
  { sDrained with tiles := [(0, { tileAt 0 [] with context := 15, exec := [⟨0, 0, 0, [], [], true, [], [], false, none, 0⟩] })] }
theorem wit_replacementDrained : (ctxOf sDrained 15).load = some (loadIn .draining) ∧ stillDrains sDrained 15 = false ∧
    (∀ p ∈ placedTiles sDrained 15, (tileOf sDrained p).exec = []) ∧ (ctxOf sStill 15).load = some (loadIn .draining) ∧
    stillDrains sStill 15 = false ∧ placedTiles sStill 15 = [0] ∧ (tileOf sStill 0).st = .running ∧ (tileOf sStill 0).exec ≠ [] := by decide +kernel

/-- CTX_CONFIGURE of context 15: one half, one tile, one sequence, one page of T0. -/
def cfgRec (c : Nat) : Bytes := List.flatten [[BitVec.ofNat 8 c, 1], leBytes 2 1, leBytes 2 1, zeros 2, leBytes 4 1, zeros 20]

theorem wit_ctxConfigure : AdminReady up 1 ∧ (configureCtx (taken up) (cfgRec 15)).isSome = true ∧
    configureCtx (taken up) (cfgRec 16) = none := by unfold AdminReady; decide +kernel

/-- A context in STOPPING of which a scatter batch waits for a hot slot. -/
def sUnload : State := { onCtx (ctxLoaded .stopping) with updates := [⟨8, 1, 0, [], [], 0, false, 15, 0, false, true⟩] }
theorem wit_ctxCommands : AdminReady sUnload 1 ∧ unloadWaits sUnload 15 = true ∧
    ((ctxOf sLoad 15).st = .configured ∧ (ctxOf sLoad 15).load = none ∧ (sLoad.host.rings.any fun p => p.2.ctx == 15) = false ∧
      mapWf sLoad.ctxs = true) ∧
    ((ctxOf (onCtx (ctxLoaded .loaded)) 15).st = .loaded ∧ (ctxOf (onCtx (ctxLoaded .loaded)) 15).load = none) ∧
    (ctxOf sWrite 15).load = some (loadIn .writing) ∧
    ((ctxOf (onCtx (ctxLoaded .running)) 15).st = .running ∧ (ctxOf (onCtx (ctxLoaded .loaded)) 15).st ≠ .running) := by unfold AdminReady; decide +kernel

/-- The head of a folio of four, all in service. -/
def heads (s : State) : State :=
  { s with
    folio.topology := 1, folio.dimX := 4
    folio.members := [(0, ⟨true, false, 0, 0, false, 0⟩), (1, ⟨true, false, 0, 0, false, 0⟩), (2, ⟨true, false, 0, 0, false, 0⟩), (3, ⟨true, false, 0, 0, false, 0⟩)] }
/-- A store record for the namespace of member 3. -/
def farRec : Bytes := overlay (recordFor 7 [] (zeros 64) 0 0) 1 [4]
theorem wit_folioCommands : othersServing (heads up) = true ∧ othersServing up = false ∧ AdminReady (heads sLoad) 1 ∧
    cacheFind (heads sLoad) 0 = some (3, ⟨0, zeros 128, false, true, 0⟩) ∧ validate (taken (heads sLoad)) 15 (zeros 128) true = none ∧
    (ctxOf (heads sLoad) 15).load = none ∧ (ctxOf (heads sLoad) 15).st = .configured ∧ (configureCtx (taken (heads up)) (cfgRec 15)).isSome = true ∧
    (ctxOf (heads (onCtx (ctxLoaded .loaded))) 15).st = .loaded ∧ (ctxOf (heads (onCtx (ctxLoaded .running))) 15).st = .running ∧
    recordOk farRec 7 0 = true ∧ zeroAt farRec 32 96 = true ∧ u8 farRec 1 ≠ ownNsid (heads up) ∧ inFolio (heads up) = true ∧ 1 ≤ u8 farRec 1 ∧
    u8 farRec 1 ≤ folioSize (heads up) ∧ inService (heads up) (u8 farRec 1 - 1) = true := by unfold AdminReady; decide +kernel

/-- R240: a stop with nothing in flight leaves the context LOADED. -/
theorem test_ctxStop : (ctxOf (after (.ctxStop 1 15) (onCtx (ctxLoaded .running))) 15).st = .loaded := by decide +kernel

def sObj : State := { up with indexes := [(0, idxAt)], tables := [(0, tblAt)] }

theorem unsigned_of {e : Except Status Bytes} (h : (match e with | .error .protection => true | _ => false) = true) : e = .error .protection := by
  split at h
  · rfl
  · cases h

theorem wit_objectRefused : objectContents (taken up) (recordFor 7 [] (zeros 64) 0 0) 0 192 = .error .protection ∧
    objectContents (taken up) (recordFor 7 [] (zeros 64) 0 0) 1 256 = .error .protection ∧
    objectContents (taken up) (recordFor 7 [] (zeros 64) 0 0) 2 0 = .error .protection ∧
    objectContents (taken up) (recordFor 7 [] (zeros 64) 0 0) 3 0 = .error .protection ∧
    objectContents (taken up) (recordFor 7 [] (zeros 64) 0 0) 4 0 = .error .protection :=
  ⟨unsigned_of (by decide +kernel), unsigned_of (by decide +kernel), unsigned_of (by decide +kernel), unsigned_of (by decide +kernel),
    unsigned_of (by decide +kernel)⟩

theorem wit_objectUnload : (unloadObject (taken sObj) 1 9).isSome = true ∧ (unloadObject (taken sObj) 0 8).isSome = true ∧
    mapWf sObj.indexes = true ∧ mapWf sObj.tables = true ∧
    imageNames (onCtx { ctxLoaded .loaded with loaded := some (ranOf { img with bindings := [⟨0, 0, 5⟩] }) }) 2 5 = true := by decide +kernel

def sWin : State :=
  { onCtx { ctxLoaded .loaded with fastPages := 4 } with pages := [(70, .window 15)], host.winSize := 1, host.mapSize := 1, host.window := [(3, ⟨true, 70, 15⟩)],
                                                          host.heldUnmaps := [⟨9, [3], 15, []⟩] }
def winRec (first : Nat) (map : Bool) : Bytes :=
  List.flatten [leBytes 4 first, leBytes 4 1, [15, if map then 3 else 0], zeros 6]

/-- Window page 127 is the last that a decoder of 256 MiB covers. -/
theorem wit_window : AdminReady sWin 1 ∧ mapWf sWin.host.window = true ∧ mapWf sWin.tables = true ∧ mapWf sWin.indexes = true ∧
    (winRec 127 true).length = 16 ∧ winEntryOk (winRec 127 true) = true ∧ (winEntry (winRec 127 true)).map = true ∧
    (sWin.host.heldUnmaps.any fun h => h.cid == 1) = false ∧ (mapEntry 1 (taken sWin) (winEntry (winRec 127 true))).isSome = true ∧
    (winEntry (winRec 3 false)).map = false ∧
    ((mapEntry 1 (taken sWin) (winEntry (winRec 3 false))).map fun t => t.host.heldUnmaps.length) = some 1 ∧
    mapEntry 1 (taken sWin) (winEntry (winRec 128 true)) = none ∧
    sWin.host.heldUnmaps[0]? = some ⟨9, [3], 15, []⟩ := by unfold AdminReady; decide +kernel

theorem wit_versions : AdminReady sObj 1 ∧ tableOf sObj 8 = some (0, tblAt) ∧ indexOf sObj 9 = some (0, idxAt) ∧
    tblAt.steps = [(0, false, 2)] ∧ tblAt.drain = none ∧ tblAt.pend.isSome = true ∧ 0 ≤ sObj.time ∧ tblAt.cur.batches = 0 ∧
    idxAt.pend.isSome = true ∧ idxAt.drain = none ∧ (growHot (taken sObj) 0 tblAt 1).isSome = true ∧ sObj.updates = [] ∧ sObj.scatters = [] ∧
    idxAt.copying = none ∧ idxAt.commit = none ∧ idxAt.copyBuilt = false ∧ 2 < orphanCid := by unfold AdminReady; decide +kernel

/-- A member that is not the head; a version that batches use, one whose hot row still moves. -/
def sAway : State := { sObj with folio.number := 1, tables := [(0, { tblAt with steps := [] })] }
def sUsed : State := { sObj with tables := [(0, { tblAt with cur := { verOf with batches := 3, hot := [(0, ⟨0, false, 0⟩)] } })] }
theorem wit_versionOthers : tableOf sAway 8 = some (0, { tblAt with steps := [] }) ∧ isHead sAway = false ∧ tblAt.pend.isSome = true ∧
    sObj.runs = [] ∧ tblAt.cur.hot.all (·.2.moved) = true ∧
    ((tableOf sUsed 8).map fun t => (t.2.cur.batches, t.2.cur.hot.map fun h => h.2.moved)) = some (3, [false]) := by decide +kernel

/-- A fair copy under way, with room for it, without, and with a poisoned item. -/
def idxCopy : Index := { idxAt with copying := some (0, 2) }
def wideCopy : Index := { idxCopy with cur := { idxAt.cur with desc := indexDescOf (overlay (overlay (idxDesc 9) 40 (leBytes 4 0xFFFF_FFFF)) 16 (leBytes 2 1024)) } }
def sCopy (x : Index) : State := { up with indexes := [(0, x)] }
set_option maxRecDepth 100000 in
theorem wit_fairCopyEnd : indexOf (sCopy idxCopy) 9 = some (0, idxCopy) ∧ indexOf (sCopy wideCopy) 9 = some (0, wideCopy) ∧ copyPoison idxCopy.cur = false ∧
    idxCopy.commit = none ∧ idxCopy.copyBuilt = false ∧
    (newIndexVer (copyRoom (sCopy idxCopy) idxCopy) (copyDesc idxCopy 0 (copyLists (sCopy idxCopy) idxCopy.cur 0))
      (copyLists (sCopy idxCopy) idxCopy.cur 0)).isSome = true ∧
    newIndexVer (copyRoom (sCopy wideCopy) wideCopy) (copyDesc wideCopy 0 (copyLists (sCopy wideCopy) wideCopy.cur 0))
      (copyLists (sCopy wideCopy) wideCopy.cur 0) = none := by decide +kernel

/-- R217: the version switched to is the one that was PENDING. -/
theorem test_versionSwitch : ((mapFind (after (.versionSwitch false 8) sObj).tables 0).map fun t => (t.cur.pages, t.stepN, t.pend.isSome)) =
    some ([], 5, false) := by decide +kernel

theorem wit_thresholds : (leBytes 4 1 ++ leBytes 4 1_000_000 ++ leBytes 4 168675 ++ zeros 4).length = 16 ∧
    u32 (leBytes 4 1 ++ leBytes 4 1_000_000 ++ leBytes 4 168675 ++ zeros 4) 4 ≤ 1_000_000 ∧
    u32 (leBytes 4 1 ++ leBytes 4 1_000_000 ++ leBytes 4 168675 ++ zeros 4) 8 ≤ up.media.spareShip := by decide +kernel

/-! Rings, requests, admission, completions and front-end steps. -/

/-- A module with queue pair 1, a trained link and context 15 as `x`. -/
def withQueues (x : Ctx) : State :=
  { up with
    ctxs := [(15, x)], host.cqs := [(0, ⟨8, 0, 0, 0, []⟩), (1, ⟨8, 1, 0, 0, []⟩)], host.sqs := [(0, ⟨8, 0, 0⟩), (1, ⟨8, 1, 0⟩)], host.rate := 32
    host.width := 4 }
def im0 : Image := imageOf []
def imDeliver : Image :=
  { im0 with decode := some (decodeSecOf []), deliver := some (deliverSecOf []), shuffle := some ⟨8, 0, []⟩, probe := some ⟨1, 0, 16384, 0, 0, 0⟩ }
def running (st : CtxState) : Ctx :=
  { Ctx.empty with st := st, loaded := some ⟨imDeliver, 0, [], [], [], []⟩, seqLimit := 4, tileLimit := 1, halves := 1 }
def sRun : State := withQueues (running .running)
def ring0 : Ring := ⟨64, 16, 1, 15, 3, 5, [], none⟩
def sRing (r : Ring) : State := { sRun with host.rings := [(63, r)] }

theorem wit_ringCreate : AdminReady sRun 1 ∧ linkUsable sRun = true ∧ (ctxOf sRun 15).st ≠ .empty ∧ 63 < 64 ∧ 128 % 64 = 0 ∧
    mapFind sRun.host.rings 63 = none ∧ (mapFind sRun.host.cqs 1).isSome = true ∧ linkUsable up = false ∧ (ctxOf up 0).st = .empty ∧
    (mapFind (sRing ring0).host.rings 63).isSome = true := by unfold AdminReady; decide +kernel

theorem wit_ringDelete : AdminReady (sRing ring0) 1 ∧ mapFind (sRing ring0).host.rings 63 = some ring0 ∧ ring0.deleting = none ∧
    mapFind (sRing { ring0 with deleting := some 7 }).host.rings 63 = some { ring0 with deleting := some 7 } ∧
    mapWf (sRing ring0).host.rings = true ∧
    ((sRing ring0).reqs.any fun p => p.2.src.ring == some 63 || p.2.posts.any fun o => o.src.ring == some 63) = false := by
  unfold AdminReady; decide +kernel

/-- TAIL at HEAD, at HEAD + slots, and below HEAD. -/
theorem wit_ringTail : linkUsable (sRing ring0) = true ∧ ring0.head ≤ 3 ∧ 3 ≤ ring0.head + ring0.slots ∧ 19 ≤ ring0.head + ring0.slots ∧
    ring0.entries.length ≤ 3 - ring0.head ∧ 2 < ring0.head := by decide +kernel

theorem wit_offers : IoReady sRun 1 7 ∧ (ctxOf sRun 15).st = .running ∧ (ctxOf (withQueues (running .loaded)) 15).st = .loaded ∧
    IoReady (withQueues (running .loaded)) 1 7 ∧ mapFind (withQueues (running .loaded)).host.sqs 1 = some ⟨8, 1, 0⟩ ∧
    (cqOf (withQueues (running .loaded)) 1).isSome = true := by unfold IoReady; decide +kernel

def entry : Bytes := zeros 576
theorem wit_ringFront : frontEntry (sRing { ring0 with entries := [entry] }) 63 = some ({ ring0 with entries := [entry] }, entry) ∧ u8 entry 2 = 0 ∧
    ringEntryOk entry = true ∧ inFlight (sRing { ring0 with entries := [entry] }) 15 < (ctxOf sRun 15).seqLimit := by decide +kernel

def front : FrontSeq := ⟨2, 5, 15, 5, none, [], 4, 0, 65536, 0, 1, 0, [], [], [], 0, [2], .open_⟩
def rqOf (k : ReqKind) : Req := newReq 5 15 k ⟨none, 1, 7⟩ [] [] 0
/-- Sequence 255 of generation 2 is open on context 15; token 1 alone is allowed. -/
def sSeq : State :=
  { sRun with fronts := [(255, front)], reqs := [(5, { rqOf .front with admitted := true })], vocabs := [(0, vocab0)], host.window := [(0, ⟨true, 70, 15⟩)] }
theorem wit_frontStep : IoReady sSeq 1 7 ∧ ctxTakesSteps (ctxOf sSeq 15) = true ∧ seqByHandle sSeq 15 (512 + 255) = some (255, front) ∧
    vocabById sSeq front.vocab = some vocab0 ∧ windowOwned sSeq 15 front.bufOffset front.bufSize = true ∧ 1 < vocab0.tokens ∧
    (maskNat front.mask).testBit 1 = true ∧ (maskNat front.mask).testBit 0 = false ∧ reqOf sSeq front.rid = some { rqOf .front with admitted := true } ∧
    mapFind sSeq.host.sqs 1 = some ⟨8, 1, 0⟩ ∧ (cqOf sSeq 1).isSome = true ∧ mapWf sSeq.fronts = true := by
  unfold IoReady; decide +kernel

/-- A query of one list, one result, 64 KiB at window byte 0. -/
def qRec : Bytes :=
  List.flatten [leBytes 8 9, zeros 12, leBytes 4 1, leBytes 2 1, zeros 14, leBytes 8 0, leBytes 4 65536, zeros 460]
def qAt (k : ReqKind) (record payload : Bytes) : State :=
  { sSeq with
    fronts := [], reqs := [(5, { rqOf k with record := record, payload := payload, objectId := 9 })], indexes := [(0, idxAt)]
    tables := [(0, tblAt)], streams := [(15 * 4096 + 1, { stream0 with ctx := 15, localNo := 1, prod := stnAdmit, shape := 1 })] }
def granted (s : State) : Option Req := ((List.range 16).map fun i => (s.admitPtr + i) % 16).findSome? (nextGrant s)
def moved (s : State) : State := { s with admitPtr := 0 }
def batchRec (n : Nat) : Bytes := List.flatten [[1, 0], leBytes 2 1, zeros 4, leBytes 4 n, zeros 52]
/-- DELETE of key 5. -/
def delOp : Bytes := List.flatten [[1], zeros 7, leBytes 8 5, zeros 32]

theorem wit_grantQuery : (qAt .query qRec []).host.viral = false ∧ (qAt .query qRec []).integ.phase ≠ .contained ∧
    ((granted (qAt .query qRec [])).map fun q => (q.rid, q.kind, queryRefusal (moved (qAt .query qRec [])) q)) = some (5, .query, none) := by decide +kernel

/-- A query at the front of ring 63: HEAD has not moved yet. -/
def sGrantRing : State :=
  { qAt .query qRec [] with
    host.rings := [(63, { ring0 with entries := [zeros 64 ++ qRec] })], reqs := [(5, { rqOf .query with src := ⟨some 63, 0, 7⟩, record := qRec, objectId := 9 })] }
theorem wit_grantRing : ((granted sGrantRing).map fun q => (q.rid, q.src.ring, queryRefusal (takeEntry (moved sGrantRing) 63) q)) = some (5, some 63, none) ∧
    mapFind sGrantRing.host.rings 63 = some { ring0 with entries := [zeros 64 ++ qRec] } := by decide +kernel

theorem wit_grantBatch :
    ((granted (qAt .batch (batchRec 4) (zeros 4))).map fun q => (q.rid, q.kind, batchOk (moved (qAt .batch (batchRec 4) (zeros 4))) q)) = some (5, .batch, true) ∧
    ((granted (qAt .batch (batchRec 5) (zeros 4))).map fun q => (q.rid, q.kind, batchOk (moved (qAt .batch (batchRec 5) (zeros 4))) q)) = some (5, .batch, false) := by
  decide +kernel

theorem wit_grantCommit : ((granted (qAt .commit (leBytes 4 1) delOp)).map fun q =>
    (q.rid, q.kind, (commitRefusal (moved (qAt .commit (leBytes 4 1) delOp)) q.objectId (u32 q.record 0) q.payload).isNone)) = some (5, .commit, true) := by
  decide +kernel

def imFront : Image := { im0 with letter := [⟨1, 0, [], 0, 0, 0, none, none, 0⟩], bindings := [⟨0, 0, 5⟩] }
def openRec : Bytes := List.flatten [[0, 0xFF, 0, 0], leBytes 4 1, leBytes 8 0, leBytes 4 65536, zeros 1196]
def sOpen : State := { qAt .front openRec [] with ctxs := [(15, { running .running with loaded := some ⟨imFront, 0, [], [], [], []⟩ })] }
def jobRec : Bytes := zeros 64
def sJob : State :=
  { qAt .delivery jobRec [] with tables := [(0, { tblAt with cur := { verOf with desc := { tableDescOf (tblDesc 8) with shards := 1 } } })] }
theorem wit_grantFront : ((granted sOpen).map fun q => (q.rid, q.kind, openRefusal (moved sOpen) q)) = some (5, .front, none) ∧
    ((granted sJob).map fun q => (q.rid, q.kind, deliveryOk (moved sJob) q)) = some (5, .delivery, true) := by decide +kernel

theorem wit_contained : { up with integ.phase := .contained }.integ.phase = .contained ∧ { up with host.viral := true }.host.viral = true := by
  decide +kernel

def sCommit : State := { sRun with indexes := [(0, { idxAt with commit := some ⟨5, 3, 0⟩ })], reqs := [(5, { rqOf .commit with admitted := true })] }
theorem wit_commitEpoch : indexOf sCommit 9 = some (0, { idxAt with commit := some ⟨5, 3, 0⟩ }) ∧ mapWf sCommit.indexes = true ∧
    reqOf sCommit 5 = some { rqOf .commit with admitted := true } := by decide +kernel

def post0 (final : Bool) : Post := ⟨⟨none, 1, 7⟩, 0, 0, 0, final⟩
def sPost (ps : List Post) : State := { sRun with reqs := [(5, { rqOf .front with admitted := true, posts := ps })] }
theorem wit_completionPost : reqOf (sPost [post0 true]) 5 = some { rqOf .front with admitted := true, posts := [post0 true] } ∧
    recordsVisible (sPost [post0 true]) 5 = true ∧ (sPost [post0 true]).integ.phase ≠ .contained ∧ mapWf (sPost [post0 true]).reqs = true ∧
    mapFind (sPost [post0 true]).host.sqs 1 = some ⟨8, 1, 0⟩ ∧ (cqOf (sPost [post0 true]) 1).isSome = true ∧
    (ctxOf (sPost [post0 true]) 15).st = .running ∧ recordsVisible (sPost [post0 false, post0 true]) 5 = true := by decide +kernel

/-- R417: the completion that ends a request reports SUCCESS. -/
theorem test_completionPost : ((after (.completionPost 5) (sPost [post0 true])).host.posted.map fun c => (c.cq, c.sqId, c.cid, c.sct, c.sc)) =
    [(1, 1, 7, 0, 0)] := by decide +kernel

/-! NVM and admin commands, resets, the link and the window. -/

def sIo : State :=
  { up with
    host.cqs := [(0, ⟨8, 0, 0, 0, []⟩), (1, ⟨8, 1, 0, 0, []⟩), (9, ⟨8, 1, 0, 0, []⟩)], host.sqs := [(0, ⟨8, 0, 0⟩), (1, ⟨8, 1, 0⟩), (2, ⟨8, 1, 0⟩)]
    host.rate := 32, host.width := 4 }
def lastLba : Nat := 59_999_993_855
def sPoisoned : State := { sIo with media.poisoned := [(lastLba, ())] }
def sProt : State := { sIo with stylus.wp := [(0, 1)] }

theorem wit_nvm : NvmReady sIo 1 7 1 := by unfold NvmReady IoReady; exact ⟨by decide +kernel, by decide +kernel, ⟨_, rfl, rfl⟩⟩

theorem wit_nvmBounds : lastLba + 1 ≤ userSectors ∧ 0 + 512 ≤ userSectors ∧ sectorPoisoned sIo lastLba = false ∧ sectorPoisoned sPoisoned lastLba = true ∧
    writeRefusal sIo lastLba 1 = none ∧ sIo.media.waiting = [] ∧ mapWf sIo.media.poisoned = true ∧ sIo.power.ready = true ∧ sIo.host.shutdown = 0 ∧
    1 ≤ stageRoom sIo ∧ logUsed sIo < 61440 ∧ zeros 4096 ≠ [] ∧ (zeros 4096).length = 4096 * 1 ∧
    stageRoom { sIo with power.stageMib := 0 } = 0 ∧ writeRefusal { sIo with power.stageMib := 0 } lastLba 1 = none ∧
    protectedAt sProt 65535 1 = true ∧ protectedAt sProt 65536 1 = false ∧ 2 ≠ ownNsid sIo ∧ folioSize sIo < 2 ∧ (2 : Nat) ≠ 0xFFFFFFFF ∧
    (∀ r ∈ [(0, 16384)], r.1 + r.2 ≤ userSectors ∧ protectedAt sIo r.1 r.2 = false) ∧ writesStopped sIo = false := by decide +kernel

/-- R409, R412: sector 65,535 lies in protect region 0. -/
theorem test_protect : ((after (.writeZeroes 1 7 1 65535 1) sProt).host.posted.map fun c => (c.sct, c.sc)) = [(2, 0x86)] := by decide +kernel

theorem wit_admin : AdminReady sIo 1 ∧ 1 ≤ folioSize sIo ∧ (0 = 0 ∨ folioSize sIo < 0) ∧ folioSize sIo < 2 ∧ (512 : Nat) ≤ 2097152 ∧
    (2 = 2 ∧ (32 : BitVec 32).toNat % 32 = 0) := by unfold AdminReady; decide +kernel

theorem wit_queues : sIo.host.ready = true ∧ 1 < orphanCid ∧ mapFind sIo.host.cqs 4096 = none ∧ mapFind sIo.host.sqs 4096 = none ∧
    (mapFind sIo.host.cqs 1).isSome = true ∧ (mapFind sIo.host.sqs 1).isSome = true ∧ mapWf sIo.host.sqs = true ∧ mapWf sIo.reqs = true ∧
    mapWf sIo.host.cqs = true ∧ (mapFind sIo.host.cqs 9).isSome = true ∧ (∀ p ∈ sIo.host.rings, p.2.cq ≠ 9) ∧
    (∀ p ∈ sIo.host.sqs, p.2.cq ≠ 9) ∧ (∃ p ∈ [(0, (⟨64, 16, 9, 15, 3, 5, [], none⟩ : Ring))], p.2.cq = 9) := by decide +kernel

def aborted : Req := newReq 5 15 .batch ⟨none, 1, 7⟩ [] [] 0
theorem wit_events : sIo.host.events = [] ∧ sIo.host.aers.length < 16 ∧ (List.replicate 16 (0 : Nat)).length = 16 ∧
    { sIo with host.events := [(515, 4)] }.host.events = (515, 4) :: [] ∧
    (({ sIo with reqs := [(5, aborted)] } : State).reqs.find? fun p => p.2.src.ring.isNone && p.2.src.sq == 1 && p.2.src.cid == 7 && !p.2.admitted) =
      some (5, aborted) ∧ mapWf ({ sIo with reqs := [(5, aborted)] } : State).reqs = true ∧
    (∀ p ∈ sIo.reqs, p.2.src.ring = none → p.2.src.sq = 1 → p.2.src.cid = 7 → p.2.admitted = true) := by decide +kernel

theorem wit_erasure : anyProtected sIo = false ∧ anyProtected sProt = true ∧ sIo.media.waiting = [] ∧ ownNsid sIo ≤ folioSize sIo := by
  decide +kernel

/-- A firmware image whose 128 bytes of header name kind `kind`, with its signature block. -/
def fwBody (kind svn : Nat) : Bytes :=
  List.flatten [leBytes 4 0x57464B4E, [BitVec.ofNat 8 kind, 0, 0, 0], leBytes 4 svn, zeros 4, leBytes 8 384, leBytes 2 0x4E09, zeros 102]
def signedImage (body : Bytes) (z kh : Nat) : Bytes :=
  List.flatten [body, leBytes 4 0x47534B4E, leBytes 2 1, zeros 2, beBytes 32 kh, beBytes 32 z, beBytes 32 z, beBytes 32 z, zeros 120]

theorem wit_resets : sIo.host.ready = true ∧ sIo.media.fold = none ∧ sIo.media.staging = [] ∧ sIo.host.perst = false ∧ 64 ∈ [2, 5, 8, 16, 32, 64] ∧
    16 ∈ [1, 2, 4, 8, 16] ∧ up.host.rate = 0 ∧ sIo.host.rate ≠ 0 ∧ mapWf up.fronts = true ∧
    (∀ p ∈ up.fronts, p.1 < 256 ∧ p.2.gen < 256 ∧ p.2.fin = .open_ ∧ (vocabById up p.2.vocab).isSome = true) := by decide +kernel

def sView : State :=
  { sIo with host.winSize := 1, host.mapSize := 1, host.window := [(0, ⟨true, 70, 15⟩), (1, ⟨false, 71, 15⟩)], poison := [(70 * 32768, ())] }
theorem wit_decoder : sIo.host.mapSize = 0 ∧ sView.host.mapSize = 1 ∧ 1 * 2 ^ 28 ≠ 0 ∧ windowUsed { sView with pages := [(70, .window 15), (71, .window 15)] } = false ∧
    1024 < 1025 * 2 ^ 28 / 2 ^ 28 ∧ windowUsed { sView with reqs := [(5, { newReq 5 15 .query ⟨none, 1, 7⟩ [] [] 0 with admitted := true })] } = true := by
  decide +kernel

/-- A window access waits for its grant at a T0 stack. -/
def sHeld : State := { sView with arbiters := [(0x10300, ⟨[(1, ⟨1, stnWindow, 0, 7, 0, false⟩)], 0, none⟩)] }
theorem wit_windowAccess : 0 / 2097152 = (0 + 64 - 1) / 2097152 ∧ windowOpen up 0 64 = false ∧ windowOpen sView 256 64 = true ∧
    windowAddr sView 256 = some (70 * 2097152 + 256) ∧
    (∀ c ∈ sView.poison, c.1 < (70 * 2097152 + 256) / 256 * 4 ∨ (70 * 2097152 + 256 + 64 - 1) / 256 * 4 + 3 < c.1) ∧
    windowOpen sView (2 * 2097152) 64 = true ∧ windowAddr sView (2 * 2097152) = none ∧
    windowOpen sView 64 64 = true ∧ windowAddr sView 64 = some (70 * 2097152 + 64) ∧
    poisonedAt sView ((70 * 2097152 + 64) / 256 * 256) 256 = true ∧ mapFind sView.host.window 0 = some ⟨true, 70, 15⟩ ∧
    mapFind sView.host.window 1 = some ⟨false, 71, 15⟩ ∧ mapWf sView.mem = true ∧ windowOpen sView (2 ^ 28 - 64) 64 = true ∧
    windowOpen sView (2 ^ 28 - 63) 64 = false ∧ windowHeld sView = false ∧ windowHeld sHeld = true ∧
    windowOpen sHeld 0 64 = true := by decide +kernel

theorem wit_snoops : { sIo with host.snoops := [⟨3, zeros 64, true, none⟩, ⟨4, zeros 64, false, none⟩] }.host.snoops =
    [⟨3, zeros 64, true, none⟩] ++ ⟨4, zeros 64, false, none⟩ :: [] ∧ (zeros 64).length = 64 := by decide +kernel

def waitCpl : Completion := ⟨1, 1, 0, 7, 0, 0, false, 0, 0, false, []⟩
def fullCq : CQ := ⟨8, 1, 0, 7, [waitCpl]⟩
def emptyCq : CQ := ⟨8, 1, 0, 3, []⟩
def sBell (q : CQ) : State := { sIo with host.cqs := [(1, q)] }
theorem wit_doorbell : cqOf (sBell fullCq) 1 = some fullCq ∧ (∀ c ∈ fullCq.waiting, c.cq = 1) ∧ 1 < fullCq.size ∧
    (1 + fullCq.size - fullCq.head) % fullCq.size ≤ fullCq.unread ∧ (7 + fullCq.size - fullCq.head) % fullCq.size ≤ fullCq.unread ∧
    cqOf (sBell emptyCq) 1 = some emptyCq ∧ emptyCq.waiting = [] ∧ (3 + emptyCq.size - emptyCq.head) % emptyCq.size ≤ emptyCq.unread ∧
    cqOf (sBell emptyCq) 2 = none ∧ emptyCq.size ≤ 8 ∧ emptyCq.unread < (4 + emptyCq.size - emptyCq.head) % max 1 emptyCq.size := by decide +kernel

/-- R422: a head that moves past one entry of a full queue makes room for the one completion that waits. -/
theorem test_doorbell : (cqOf (after (.completionQueueDoorbell 1 1) (sBell fullCq)) 1).map (fun q => (q.head, q.unread, q.waiting.length)) = some (1, 7, 0) ∧
    ((after (.completionQueueDoorbell 1 1) (sBell fullCq)).host.posted.map (·.cid)) = [7] := by decide +kernel

/-! A firmware image that passes its checks, and one that does not. -/

def zFw : Nat := 88306667058911039461388181690933508160812458113256600262694403516398353631383
def kFw : Nat := 92685473540870492571273071530590793293393911661310091546341691638060682963451
def imgFw : Bytes := signedImage (fwBody 1 0) zFw kFw
/-- Region 1 of the code store holds firmware slots; a download waits. -/
def sFw (img : Bytes) : State :=
  { sIo with boot.romKeys := [beBytes 32 kFw], stylus.regions := [(1, BitVec.ofNat 64 (2 ^ 63 + 2 * 1024 + 16))]
             host.download := cellsWrite [] 0 img, host.downloadLen := img.length }

theorem sigOk_of {keys : List (Nat × Bytes)} {b : Bytes} (z : Nat) (h0 : 256 ≤ b.length)
    (h1 : (u32 (slice b (b.length - 256) 256) 0 == 0x4753_4B4E && u16 (slice b (b.length - 256) 256) 4 == 1 &&
      zeroAt (slice b (b.length - 256) 256) 6 2 && zeroAt (slice b (b.length - 256) 256) 136 120) = true)
    (h2 : keys.contains (0, slice (slice b (b.length - 256) 256) 8 32) = true)
    (h3 : slice (slice b (b.length - 256) 256) 40 32 = digestOf (b.take (b.length - 256)))
    (h4 : slice (slice b (b.length - 256) 256) 8 32 = digestOf (pointBytes (easyKey z)))
    (h5 : beNat (digestOf (b.take (b.length - 256))) = z) (h6 : beNat (slice (slice b (b.length - 256) 256) 72 32) = z)
    (h7 : beNat (slice (slice b (b.length - 256) 256) 104 32) = z) (h8 : easyOk z = true) : sigOk keys 0 b = true := by
  simp only [digestOf, ← sha256_eq] at h3 h4 h5
  have hs := signedBy_easy _ z h5 h8
  rw [← h4] at hs
  simp only [sigOk, h2, h6, h7, hs, h3, BEq.rfl, Bool.and_true, Bool.and_eq_true, decide_eq_true_eq] at h1 ⊢
  exact ⟨⟨⟨⟨h0, h1.1.1.1⟩, h1.1.1.2⟩, h1.1.2⟩, h1.2⟩

set_option maxRecDepth 100000 in
theorem imgFw_signed : sigOk (liveKeys (taken (sFw imgFw)) [0, 1]) 0 imgFw = true :=
  sigOk_of zFw (by decide +kernel) (by decide +kernel) (by decide +kernel) (by decide +kernel) (by decide +kernel) (by decide +kernel)
    (by decide +kernel) (by decide +kernel) (by decide +kernel)

theorem firmwareOk_of {s : State} {kind max : Nat} {b : Bytes} (h0 : u8 b 26 = 0) (h : sigOk (liveKeys s [0, 1]) 0 b = true)
    (h1 : (u32 b 0 == 0x5746_4B4E && u8 b 4 == kind && zeroAt b 5 3 && decide (u32 b 8 ≤ 65535) && zeroAt b 12 4 &&
      u64 b 16 == b.length && decide (b.length ≤ max) && decide (384 ≤ b.length) && u16 b 24 == 0x4E09 && zeroAt b 27 101 &&
      decide (counterOf s kind ≤ u32 b 8)) = true) : firmwareOk s kind max b = true := by
  simp only [firmwareOk, h, h0, Nat.zero_le, decide_true, Bool.and_true, Bool.and_eq_true] at h1 ⊢
  exact h1

theorem wit_goodImage : firmwareOk (taken (sFw imgFw)) 1 (slotBytes (sFw imgFw) 1) imgFw = true :=
  firmwareOk_of (by decide +kernel) imgFw_signed (by decide +kernel)

theorem wit_commit (img : Bytes) (h : img = imgFw ∨ img = [0, 0, 0, 0, 1]) : AdminReady (sFw img) 1 ∧
    img = cellsRead (sFw img).host.download 0 (sFw img).host.downloadLen ∧ 0 < (sFw img).host.downloadLen ∧ u8 img 4 = 1 ∧
    2 - 1 ≠ (sFw img).boot.fwSlot ∧ 1 - 1 = (sFw img).boot.fwSlot ∧ mapWf (sFw img).stylus.cs = true ∧ mapWf (sFw img).host.download = true := by
  rcases h with rfl | rfl <;> (unfold AdminReady; decide +kernel)

theorem wit_badImage : firmwareOk (taken (sFw [0, 0, 0, 0, 1])) 1 (slotBytes (sFw [0, 0, 0, 0, 1]) 1) [0, 0, 0, 0, 1] = false := by
  have h : (u32 ([0, 0, 0, 0, 1] : Bytes) 0 == 0x5746_4B4E) = false := by decide +kernel
  simp only [firmwareOk, h, Bool.false_and]

/-! The feeder, tier reads and hot rows. -/

/-- An image whose program 0 feeds stream 1 from region 0 of tier 2; station 0 may take a draft path. -/
def imFeed : Image :=
  { imageOf [] with
    regions := [⟨0, 2, 0, 2097152, 0, 0⟩], feed := [⟨1, 1, 0, 0, 0, 1024⟩], stations := [⟨0, 0, 0⟩], drafts := [⟨1, 0, 100, 0⟩] }
def cFeed : Ctx := { Ctx.empty with st := .running, fastPages := 4, loaded := some ⟨imFeed, 0, [0], [2], [(0, [300])], []⟩ }
def sFeed : State :=
  { up with ctxs := [(15, cFeed)], time := 50, streams := [(15 * 4096 + 1, { stream0 with ctx := 15, localNo := 1, prod := stnFeed, cons := 2, shape := 1 })] }

def mv : Move := ⟨15, 0, 0, 0, 0, 0, 40, 60, 0, 1, 9⟩
def sMoving : State := { sFeed with inflight := [mv], copies := [⟨15, 0, 0, 0, 0, 20, false, [9], 40⟩] }
theorem wit_moveIssue : (sortBy Move.before (({ sFeed with queued := [mv, { mv with deadline := 50 }] } : State).queued.filter fun m =>
      decide (m.issueAt ≤ 50) && decide ((50 : Nat) < m.deadline))).head? = some mv ∧ sFeed.inflight.length < 64 ∧ sFeed.copies = [] ∧
    (stagingPage { sFeed with queued := [mv] } mv.ctx mv.dest).isSome = true ∧
    (sMoving.copies.any fun x => x.ctx == mv.ctx && x.region == mv.region && x.ver == mv.ver && x.page == mv.page && x.tier == mv.dest) = true ∧
    0 < ([mv, { mv with deadline := 50 }].filter fun m => decide (m.deadline ≤ sFeed.time) && m.ctx == 15).length := by decide +kernel

/-- An access of a station of context 15 waits at a T1 channel. -/
def sQueueing (stn : Nat) : State := { sMoving with arbiters := [(0x10310, ⟨[(1, ⟨1, stn, 15, 0, 0, false⟩)], 0, none⟩)] }
theorem wit_moveComplete : sMoving.inflight[0]? = some mv ∧
    (sMoving.copies.find? fun y => y.ctx == mv.ctx && y.region == mv.region && y.ver == mv.ver && y.page == mv.page && y.tier == mv.dest) =
      some ⟨15, 0, 0, 0, 0, 20, false, [9], 40⟩ ∧ regionOf sMoving 15 0 = some ⟨0, 2, 0, 2097152, 0, 0⟩ ∧
    (sMoving.copies.find? fun y => y.ctx == mv.ctx && y.region == mv.region && y.ver == mv.ver && y.page == mv.page && y.valid && decide (mv.dest < y.tier)) = none ∧
    (sourcePages sMoving 15 ⟨0, 2, 0, 2097152, 0, 0⟩ mv.ver).getD mv.page 0 = 300 ∧ (300 : Nat) ≠ 20 ∧ mapWf sMoving.mem = true ∧
    tierHeld sMoving (moveStation sMoving mv) 15 = false ∧ tierHeld (sQueueing (moveStation sMoving mv)) (moveStation sMoving mv) 15 = true ∧
    (sQueueing stnFeed).inflight[0]? = some mv := by decide +kernel

def run0 : Run := ⟨15, 0, 9, 0, 0, 0, [none, none]⟩
def read0 (row : Option Nat) (e : Option Nat) : TierRead := ⟨7, 0, 15, 9, 0, 0, 1024, row, e, false, false, none⟩
def sReads (r : TierRead) : State := { sFeed with reads := [r], runs := [(7, run0)] }
theorem wit_lateReads : (sReads (read0 none (some 50))).reads = [] ++ read0 none (some 50) :: [] ∧
    mapFind (sReads (read0 none (some 50))).runs 7 = some run0 ∧ (feedStream (sReads (read0 none (some 50))) 15 0).isSome = true ∧
    (sReads (read0 (some 3) (some 50))).reads = [] ++ read0 (some 3) (some 50) :: [] ∧
    feedProg (sReads (read0 (some 3) (some 50))) 15 0 = some ⟨1, 1, 0, 0, 0, 1024⟩ ∧
    (regionOf (sReads (read0 (some 3) (some 50))) 15 0).isSome = true ∧
    draftOf (sReads (read0 (some 3) (some 50))) 15 2 = some ⟨1, 0, 100, 0⟩ := by decide +kernel

/-- R191, R193: a row that is late at its deadline leaves, and is counted. -/
theorem test_stationDeadline : (after (.stationDeadline 15 2 9) (sReads (read0 (some 3) (some 50)))).reads = [] ∧
    (ctxOf (after (.stationDeadline 15 2 9) (sReads (read0 (some 3) (some 50)))) 15).tier.draftReads = 1 := by decide +kernel

theorem wit_readReturns : (sReads (read0 none none)).reads[0]? = some (read0 none none) ∧
    (read0 none none).deadline = none ∧ (read0 none none).moveDeadline = none ∧ mapWf (sReads (read0 none none)).runs = true ∧
    run0.parts[1]? = some none ∧ run0.ctx = 15 ∧ (sReads (read0 none none)).scatters = [] ∧ (sReads (read0 none none)).tables = [] ∧
    tierHeld (sReads (read0 none none)) stnFeed 15 = false ∧ tierHeld { sQueueing stnFeed with reads := [read0 none none] } stnFeed 15 = true ∧ (feedStream (sReads (read0 none none)) 15 0).isSome = true ∧
    (regionOf (sReads (read0 none none)) 15 0).isSome = true ∧ mapFind ({ sReads (read0 none none) with runs := [] } : State).runs 7 = none ∧
    (sReads { read0 none none with region := 0xFFFF }).reads[0]? = some { read0 none none with region := 0xFFFF } := by decide +kernel

/-- Row 0 of a table stands in slot 0 of the hot area. -/
def hotVer : TableVer := { verOf with hot := [(0, ⟨0, false, 3⟩)], hotPages := [20] }
def sHot (moved : Bool) : State :=
  { up with tables := [(0, { tblAt with cur := { hotVer with hot := [(0, ⟨0, moved, 3⟩)] }, pend := none })] }
theorem wit_hotRows (moved : Bool) : (tableOf (sHot moved) 8).isSome = true ∧ mapWf (sHot moved).tables = true ∧
    ((tableOf (sHot moved) 8).bind fun p => p.2.version 1) = some { hotVer with hot := [(0, ⟨0, moved, 3⟩)] } ∧
    mapFind [(0, (⟨0, moved, 3⟩ : HotEntry))] 0 = some ⟨0, moved, 3⟩ ∧
    (∀ y ∈ (sHot moved).tables, y.2.drain = none) ∧ hotVer.desc.rowOffset (sHot moved).folio.number 0 = some 0 ∧ hotVer.hotPages.Nodup ∧ (0 + 1) * hotVer.desc.stride ≤ 1 * 2097152 := by
  revert moved; decide +kernel

/-! Searches, engines and deliveries. -/

def imData : Image :=
  { imageOf [] with
    probe := some ⟨1, 0, 16384, 0, 0, 0⟩, decode := some { decodeSecOf [] with k := 0 }
    deliver := some ⟨0, [⟨0, 1, 4, 1024⟩]⟩, shuffle := some ⟨8, 1, [1]⟩ }
def job : Delivery := ⟨5, 0, 7, 8, 1, 1, 1, [], [], [], [], 0, false, false⟩
def whole : Sample := ⟨9, 0, some (zeros 64), [], some 0⟩
def ending : EndRec := ⟨0, some (zeros 64), none, 0, 0, false⟩
def cData : Ctx :=
  { Ctx.empty with st := .running, loaded := some ⟨imData, 0, [], [], [(1, [300])], []⟩, probeWait := [(5, 0)], delivery := some job }
def qSearch : Req := { newReq 5 15 .query ⟨none, 1, 7⟩ (zeros 512) [] 9 with admitted := true, recordIn := true, sketch := some 0 }
def sData (x : Ctx) : State :=
  { up with
    ctxs := [(15, x)], indexes := [(0, idxAt)], reqs := [(5, qSearch)]
    tables := [(0, { tblAt with cur := { verOf with desc := { tableDescOf (tblDesc 8) with shards := 1, member := [0] } }, pend := none })] }

/-- The same state with every domain off. -/
def dark (s : State) : State := { s with power.domains := 0 }
theorem wit_probePass : (probeSec (sData cData) 15).isSome = true ∧
    ((probeSec (sData cData) 15).map fun p => (nextPass (sData cData) 15 p, (nextPass (sData cData) 15 p).head?.bind (passKey (sData cData)))) =
      some ([5], some (0, 1)) ∧ reqOf (sData cData) 5 = some qSearch ∧ (queryIndex (sData cData) qSearch).isSome = true ∧ probeSec up 15 = none ∧
    (∀ d ∈ [14, 15, 16], domainOn (sData cData) d = true) ∧ domainOn (dark (sData cData)) 15 = false := by
  decide +kernel

theorem wit_folioMerge : reqOf { sData cData with reqs := [(5, { qSearch with localRecs := some [] })] } 5 = some { qSearch with localRecs := some [] } ∧
    qSearch.rid = 5 ∧ qSearch.recs = none ∧ (queryIndex (sData cData) { qSearch with localRecs := some [] }).isSome = true := by decide +kernel

def unitSheet : Sheet := { sheetOf 0x20 (zeros 1024) with tag := 9 }
def vStream : Stream := { stream0 with ctx := 15, localNo := 1, cons := stnDecode, inbox := [unitSheet], present := 1 }
def sEngine : State := { sData cData with streams := [(15 * 4096 + 1, vStream)] }
def engine0 : Engine := ⟨15, 15 * 4096 + 1, 9, zeros 64, []⟩
theorem wit_engines : mapFind sEngine.engines 7 = none ∧ readyStreams sEngine = [(15 * 4096 + 1, vStream)] ∧
    mapFind sEngine.arbiters engineArbiter = none ∧ mapFind { sEngine with engines := [(7, engine0)] }.engines 7 = some engine0 ∧
    mapWf [(7, engine0)] = true ∧ decodeSec { sEngine with engines := [(7, engine0)] } engine0.ctx = some { decodeSecOf [] with k := 0 } ∧
    engine0.complete = true ∧ { engine0 with bytes := (zeros 63) }.complete = false ∧ domainOn sEngine 18 = true ∧ domainOn (dark sEngine) 18 = false := by
  decide +kernel

def pic (intra : Bool) (spans : List (Nat × Nat)) (refs : List Nat) : Frame := ⟨0, none, intra, false, spans, refs, true, 0, 16, 16, []⟩
/-- R321: damage of a PES packet spreads to the pictures that reference its own, up to the next one coded wholly intra; so does poison. -/
theorem test_pictureErrors :
    pictureErrors ⟨true, [⟨[], [64, 252], true⟩, ⟨[], [440], false⟩], [], 0⟩ [pic true [(70, 300)] [], pic false [(450, 500)] [0], pic true [(500, 600)] [0]] =
      [0, 1] ∧
    poisonedPictures [(450, 451)] [pic true [(70, 300)] [], pic false [(440, 500)] [0], pic false [(500, 600)] [1]] = [1, 2] := by decide +kernel

def packet (starts : Bool) (counter : Nat) : TsPacket := ⟨64 + 188 * counter, 256, starts, [0], false, some counter, false⟩
/-- R321: a gap in the continuity counters damages the PES packet under way; a packet sent twice does not. -/
theorem test_pesDamage : ((pesPackets [packet true 0, packet false 1, packet false 1, packet true 2, packet false 4, packet true 5] 256).map fun p =>
    (p.damaged, p.bytes.length)) = [(false, 2), (true, 2), (false, 1)] := by decide +kernel

theorem wit_shuffle : (ctxOf (sData cData) 15).delivery = some job ∧
    ((ctxOf (sData cData) 15).loaded.bind fun l => l.image.shuffle) = some ⟨8, 1, [1]⟩ ∧
    ((tableOf (sData cData) job.manifest).bind fun p => p.2.version job.version).isSome = true ∧
    ((tableOf (sData cData) job.manifest).bind fun p => (p.2.version job.version).bind fun v => nextPosition (sData cData) job v.desc) = some (0, 0) ∧
    job.again = [] ∧ job.stopped = false ∧ job.open_.length < 1 := by decide +kernel

/-- The context's NaN trap has fired with a sample ready. -/
def cTrap : Ctx := { cData with samples := [whole], nan := some ⟨0, 0, 0, 0, true, 0, 0, 0⟩ }
theorem wit_deliver : decodeSec (sData cData) 15 = some { decodeSecOf [] with k := 0 } ∧
    deliverSec (sData cData) 15 = some ⟨0, [⟨0, 1, 4, 1024⟩]⟩ ∧ (sData cData).folio.number = 0 ∧
    consumedOf (sData cData) [300] = 0 ∧ mapGet cData.produced 0 0 = 0 ∧
    (match nextItem { cData with samples := [whole] } { decodeSecOf [] with k := 0 } 1 0 with | some (.sample y) => y == whole | _ => false) = true ∧
    (match nextItem { cData with ends := [ending] } { decodeSecOf [] with k := 0 } 1 0 with | some (.ending e _) => e == ending | _ => false) = true ∧
    consumedOf (sData cData) [300] + 4 ≤ mapGet { cData with produced := [(0, 4)] }.produced 0 0 ∧ trapFired (sData cData) 15 = false ∧
    trapFired (sData cTrap) 15 = true ∧
    (match nextItem cTrap { decodeSecOf [] with k := 0 } 1 0 with | some (.sample y) => y == whole | _ => false) = true := by decide +kernel

/-- The port's ring lies on member 3. -/
def cFar : Ctx :=
  { cData with samples := [whole], loaded := some ⟨{ imData with deliver := some ⟨0, [⟨3, 1, 4, 1024⟩]⟩ }, 0, [], [], [(1, [300])], []⟩ }
theorem wit_deliverFar : (deliverSec (sData cFar) 15).map (fun v => v.ports) = some [⟨3, 1, 4, 1024⟩] ∧ (3 : Nat) ≠ (sData cFar).folio.number ∧
    trapFired (sData cFar) 15 = false ∧ (nextItem cFar { decodeSecOf [] with k := 0 } 1 0).isSome = true := by decide +kernel

/-! Flash management. -/

def blk (st : BlockState) (wear pages : Nat) : Block := ⟨st, wear, true, 3, pages, 2, 0, false⟩
/-- Log stripe 1 is open over block 0 of die 0; sector 7 waits in staging. -/
def sLog : State :=
  { sIo with
    media.staging := [⟨7, zeros 4096⟩], media.openStripe := some 1, media.stripes := [(1, ⟨false, 0, [0], [3816], false, 0, []⟩)]
    media.blocks := [(0, blk .logOpen 5 1020), (3816, blk .parity 5 0)] }
theorem wit_stagingProgram : sLog.media.staging ≠ [] ∧ sLog.media.openStripe = some 1 ∧
    mapFind sLog.media.stripes 1 = some ⟨false, 0, [0], [3816], false, 0, []⟩ ∧ nextLogBlock sLog ⟨false, 0, [0], [3816], false, 0, []⟩ = some 0 ∧
    sLog.media.waiting = [] ∧ mapWf sLog.media.blocks = true ∧ (bulkBlock sLog 0).pages < 1021 ∧ [0].getLast? = some 0 ∧
    3816 ∉ [0] := by decide +kernel

/-- R362: with one data block left to the stripe, the parity page holds that block's page. -/
theorem test_parityPage : ((after (.stagingProgram true) { sLog with media.staging := [⟨7, List.replicate 4096 9⟩] }).media.sectors.map fun p =>
    (p.1 == physKey 0 1020 0, p.2.data.head?)) = [(true, some 9), (false, some 9), (false, some 0), (false, some 0), (false, some 0)] := by decide +kernel

/-- A closed log block that holds sector 7. -/
def sFold : State :=
  { sIo with
    media.blocks := [(0, { blk .logClosed 5 1022 with foldNext := true })], media.log := [(7, [⟨3, 0, physKey 0 0 0⟩])]
    media.sectors := [(physKey 0 0 0, ⟨7, List.replicate 4096 9⟩)], media.nextSeq := 4 }
theorem wit_foldStart : sFold.media.fold = none ∧ sFold.power.flashHold = false ∧ chooseVictim sFold true = some 0 ∧ victimBlocks sFold 0 = 0 :: [] ∧
    (leastFree sFold (homeDie 0) []).isSome = true := by decide +kernel

def fold0 : Fold := ⟨0, 3, 1, [], some 0⟩
def sJournal : State := { sFold with media.fold := some fold0 }
theorem wit_foldJournal : sJournal.media.fold = some fold0 ∧ fold0.rest = [] ∧ sJournal.power.flashHold = false ∧ sJournal.media.waiting = [] ∧
    (joinFoldStripe sJournal fold0.dest).isSome = true ∧ 7 ∈ heldSectors sJournal fold0.n ∧ (foldSource sJournal fold0 7).isSome = true ∧
    65536 ≤ ({ sIo with media.journal := 65536 } : State).media.journal ∧ sIo.media.journal < 65536 := by decide +kernel

/-- R366: after the journal record, sector 7 reads from the destination of the fold. -/
theorem test_foldJournal : ((after (.foldJournal true) sJournal).media.map.map fun p => (p.1, p.2.mapped, p.2.block)) = [(0, true, 1)] ∧
    (readSector (after (.foldJournal true) sJournal) 7).head? = some 9 := by decide +kernel

def sStripe (closed : Bool) : State :=
  { sIo with
    time := 200_000_000, media.stripes := [(1, ⟨true, 0, [0], [3816], closed, 0, []⟩)]
    media.blocks := [(0, { blk .mapped 5 1022 with slc := false }), (3816, blk .parity 5 0)], media.map := [(0, ⟨true, false, 0, 0⟩)] }
theorem wit_stripes : ((sStripe false).media.stripes.find? fun p => p.2.fold && !p.2.closed &&
      (decide (15 ≤ p.2.blocks.length) || decide (p.2.firstClose + 200_000_000 ≤ (sStripe false).time))) =
        some (1, ⟨true, 0, [0], [3816], false, 0, []⟩) ∧
    mapFind (sStripe true).media.stripes 1 = some ⟨true, 0, [0], [3816], true, 0, []⟩ ∧ mapWf (sStripe true).media.stripes = true ∧
    ([6].getD 0 15 < ewThreshold (sStripe true) 0 (!true)) ∧ underParity (sStripe true) 1 0 = true ∧
    (bulkBlock (sStripe true) 3816).st = .parity ∧ (bulkBlock (sStripe true) 3816).strikes < 2 := by decide +kernel

/-- Block 0 of die 0 is mapped with little wear, and the die's other blocks have `wear`. -/
def sWear (wear : Nat) : State :=
  { sIo with time := 60_000_000_000, media.blocks := (0, blk .mapped 5 1022) :: ((List.range 3812).map fun k => (k + 1, blk .free wear 0)), media.map := [(0, ⟨true, false, 0, 0⟩)] }
theorem wit_wear : (((sWear 15006).media.blocks.filter fun p => p.2.st == .mapped) == [(0, blk .mapped 5 1022)]) = true ∧
    leastFree (sWear 15006) (0 / 3816) [] = some 1 ∧ homeOf (sWear 15006) 0 = some 0 ∧
    mapFind (sWear 15006).media.map 0 = some ⟨true, false, 0, 0⟩ ∧ 5 + 15000 < (bulkBlock (sWear 15006) 1).wear ∧
    periodOver (sWear 15006) (sWear 15006).media.wearAt 60_000_000_000 = true ∧ periodOver sIo sIo.media.wearAt 60_000_000_000 = false := by decide +kernel

theorem wit_evenWear : ((sStripe true).media.blocks.filter fun p => p.2.st == .mapped) = [(0, { blk .mapped 5 1022 with slc := false })] ∧
    leastFree (sStripe true) (0 / 3816) [] = some 1 ∧ homeOf (sStripe true) 0 = some 0 ∧
    periodOver { sStripe true with time := 60_000_000_000 } 0 60_000_000_000 = true ∧
    (bulkBlock (sStripe true) 1).wear ≤ 5 + 15000 := by decide +kernel

theorem wit_erase : (bulkBlock { sIo with media.blocks := [(bulkKey 1023 3815, blk .dirty 5 0)] } (bulkKey 1023 3815)).st = .dirty ∧
    ledgerTurns sIo (1023 % 64 / 16) = false ∧
    (bulkBlock sIo (bulkKey 1023 0)).st ≠ .dirty ∧ ∀ p ∈ sIo.media.blocks, p.2.st ≠ .mapped := by decide +kernel

/-- `n` ledger records of companion 0, the newest of SEQ n - 1. -/
def sLedger (n : Nat) : State :=
  { sIo with media.blocks := [(bulkKey 0 3812, blk .dirty 5 0)], media.ledgers := [(0, List.replicate n ⟨.done, true, 0, 0, 0, 0, n - 1, 0⟩)] }
theorem ledgerTurns_of {n : Nat} (h0 : 0 < n) (h1 : n % ledgerBlock = 0) (h2 : 31 * ledgerBlock ≤ n) : ledgerTurns (sLedger n) 0 = true := by
  have hl : mapGet (sLedger n).media.ledgers 0 [] = List.replicate n ⟨.done, true, 0, 0, 0, 0, n - 1, 0⟩ := rfl
  have hh : n - 1 + 1 = n := by omega
  simp only [ledgerTurns, hl, List.head?_replicate, List.length_replicate, if_neg (Nat.pos_iff_ne_zero.1 h0), hh, h1, beq_self_eq_true, Bool.true_and,
    decide_eq_true_eq]
  exact h2
theorem wit_ledgerTurns : (bulkBlock (sLedger (31 * 524_288)) (bulkKey 0 3812)).st = .dirty ∧ ledgerTurns (sLedger (31 * 524_288)) (0 % 64 / 16) = true :=
  ⟨by decide +kernel, ledgerTurns_of (by decide) (by decide) (by decide)⟩

theorem wit_mediaWindow : ({ sIo with time := 60_000_000_000 } : State).time / 60_000_000_000 = sIo.media.stageWin + 1 ∧
    sIo.time / 60_000_000_000 = sIo.media.stageWin := by decide +kernel

/-! Patrol, correctable errors, records, spares and membership. -/

def patrolAt (i : Nat) (v : BitVec 64) : State := { up with integ.patrol := v, integ.patrolPos := [i, i, i, i] }
theorem wit_patrol : bitsAt (patrolAt 5 0x10001).integ.patrol.toNat 0 16 ≠ 0 ∧ bitsAt (patrolAt 5 0x10001).integ.patrol.toNat 16 16 ≠ 0 ∧
    (patrolAt (patrolSpan .t0 - 2) 0x10001).integ.patrolPos[0]? = some (patrolSpan .t0 - 2) ∧
    patrolSpan .t0 - 2 + 1 < patrolSpan .t0 ∧ (patrolAt 0 1).integ.patrolPos[1]? = some 0 ∧ 0 + 1 < patrolSpan .t1 ∧
    bitsAt (patrolAt 5 0x10001).integ.patrol.toNat (16 * patrolPlace .tileStore) 16 = 0 ∧ { up with power.flashHold := true }.power.flashHold = true := by
  decide +kernel

def patrolTiles (v : BitVec 64) : State := { patrolAt (3 * 32768 + 7) v with tiles := [(3, Tile.shipped 3)] }
def sGuarded : State :=
  { patrolTiles 0x1_0001_0001 with tiles := [(3, { Tile.shipped 3 with placed := true, context := 15, station := 2 })],
                                      cal.windows := [⟨15, 2, 9, 1, 6⟩], time := 5 }
theorem wit_patrolTiles : bitsAt (patrolTiles 0x1_0001_0001).integ.patrol.toNat 32 16 ≠ 0 ∧
    (patrolTiles 0x1_0001_0001).integ.patrolPos[2]? = some (3 * 32768 + 7) ∧ 3 * 32768 + 7 + 1 < patrolSpan .tileStore ∧ (3 * 32768 + 7) / 32768 = 3 ∧
    protectedTile (patrolTiles 0x1_0001_0001) (tileOf (patrolTiles 0x1_0001_0001) 3) = false ∧
    protectedTile sGuarded (tileOf sGuarded 3) = true ∧ bitsAt (patrolAt 5 (2 ^ 48)).integ.patrol.toNat 48 16 ≠ 0 ∧ 5 + 1 < patrolSpan .bulk ∧
    protectedBulk (patrolAt 5 (2 ^ 48)) = false ∧ (patrolAt 5 (2 ^ 48)).power.flashHold = false := by decide +kernel

/-- R57, R81: what the patrol of tile 3's store corrects and cannot correct is counted there. -/
theorem test_patrolTile : (tileOf (after (.patrolRead .tileStore .corrected) (patrolTiles 0x1_0001_0001)) 3).counts.storeCe = 1 ∧
    (tileOf (after (.patrolRead .tileStore (.uncorrectable none)) (patrolTiles 0x1_0001_0001)) 3).faults = 16 := by decide +kernel

/-- R456: the patrol counts a pass and begins anew at the end of a medium. -/
theorem test_patrolEnd : (after (.patrolRead .t0 .clean) (patrolAt (patrolSpan .t0 - 1) 0x10001)).integ.patrolPos.head? = some 0 := by decide +kernel

def ceAt (log : Bool) (lv : Nat) : State := { up with integ.ceLog := log, integ.ce := [(572, ⟨7, lv, 0, 0, [(4, 0, 1)]⟩)], integ.ceLeak := 4, integ.ceCapacity := 10 }
/-- The same three windows later, with no leak yet. -/
def ceLate (lv : Nat) : State := { ceAt false lv with time := 3 * ((up.integ.ceWindow.toNat) * 1_000_000) }
theorem wit_correctable : (ceAt false 8).integ.ceLog = false ∧ (ceOf (ceAt false 8) 572).level + 1 < (ceAt false 8).integ.ceCapacity.toNat ∧
    (ceAt false 9).integ.ceCapacity.toNat ≤ (ceOf (ceAt false 9) 572).level + 1 ∧ (∀ e ∈ (ceOf (ceAt true 0) 572).table, e.1 ≠ 5) ∧
    (ceOf (ceAt true 0) 572).table.length < 64 ∧ mapWf (ceAt false 8).integ.ce = true ∧
    mapFind (ceAt false 8).integ.ce 572 = some ⟨7, 8, 0, 0, [(4, 0, 1)]⟩ ∧ 8 - 3 * (ceAt false 8).integ.ceLeak.toNat < (ceAt false 8).integ.ceCapacity.toNat ∧
    (ceAt false 8).time / ((ceAt false 8).integ.ceWindow.toNat * 1_000_000) ≤ (ceAt false 8).integ.ceWin ∧ (ceLate 8).integ.ceLog = false ∧
    (ceLate 8).time / ((ceLate 8).integ.ceWindow.toNat * 1_000_000) = (ceLate 8).integ.ceWin + 3 ∧ mapWf (ceLate 8).integ.ce = true := by
  decide +kernel

/-- R8: an error at a stamp past three window ends counts in the new window, after three leaks. -/
theorem test_ceWindows : (ceOf (after (.correctableError 572 0) (ceLate 8)) 572).level = 1 ∧ (ceOf (after .ceLeak (ceLate 8)) 572).level = 0 := by
  decide +kernel

/-- R453: the event that fills the bucket makes a STORM record. -/
theorem test_storm : ((after (.correctableError 572 0) (ceAt false 9)).integ.recs.map (·.cls)) = [.storm] := by decide +kernel

def sRec : State := after (.patrolRead .t0 (.uncorrectable none)) (patrolAt 5 0x10001)
theorem wit_recordPersist : (sRec.easel.unpersisted.head?).isSome = true ∧ up.easel.unpersisted = [] ∧
    ((after .recordPersist sRec).integ.recs.map (·.persisted)) = [true] := by decide +kernel

def secOf : TileSec := tileSecOf []
def imTile : Image := { imageOf [] with tiles := [secOf], placements := [] }
def faulted : Tile := { Tile.shipped 0 with st := .fault, placed := true, context := 15 }
/-- Tile 0 of context 15 is in FAULT; tile 67 is an idle spare of its half. -/
def sSpare : State :=
  { up with
    ctxs := [(15, { Ctx.empty with st := .running, loaded := some ⟨imTile, 0, [0], [], [], []⟩ })]
    tiles := [(0, faulted), (67, { Tile.shipped 67 with st := .spareIdle })] }
theorem wit_reStencil : (ctxOf sSpare (tileOf sSpare 0).context).loaded = some ⟨imTile, 0, [0], [], [], []⟩ ∧ (tileOf sSpare 0).placed = true ∧
    (tileOf sSpare 0).st = .fault ∧ (tileOf sSpare 0).role = .service ∧ imTile.tiles[(tileOf sSpare 0).logical]? = some secOf ∧
    (sparesFor sSpare 0 secOf.reloc).find? (spareUsable sSpare) = some 67 ∧ sSpare.recov.mirrorActive = false ∧
    sSpare.integ.phase = .service := by decide +kernel

def worn : Tile := { Tile.shipped 64 with role := .retired }
def sNoSpare : State :=
  { sSpare with
    tiles := [(0, faulted), (64, worn), (65, worn), (66, worn), (67, worn), (132, worn), (133, worn), (134, worn), (135, worn), (200, worn), (201, worn),
      (202, worn), (203, worn), (268, worn), (269, worn), (270, worn), (271, worn), (336, worn), (337, worn), (338, worn), (339, worn),
      (404, worn), (405, worn), (406, worn), (407, worn), (472, worn), (473, worn), (474, worn), (475, worn), (540, worn), (541, worn),
      (542, worn), (543, worn)] }
theorem wit_noSpare : (ctxOf sNoSpare (tileOf sNoSpare 0).context).loaded = some ⟨imTile, 0, [0], [], [], []⟩ ∧ (tileOf sNoSpare 0).placed = true ∧
    (tileOf sNoSpare 0).st = .fault ∧ (tileOf sNoSpare 0).role = .service ∧ imTile.placements = [] ∧ (∀ r, sparesFor sNoSpare 0 r = []) ∧
    (tileOf sNoSpare 543).st ≠ .fault := by
  have h : ((List.range Config.tiles).filter fun q => (tileOf sNoSpare q).role == .spare) = [] := by decide +kernel
  refine ⟨by decide +kernel, by decide +kernel, by decide +kernel, by decide +kernel, rfl, fun r => ?_, by decide +kernel⟩
  unfold sparesFor; simp only [h, List.filter_nil]; split <;> rfl

theorem wit_spareDay : sSpare.easel.spareDay ≠ some (sSpare.time / dayNs) ∧ { up with easel.spareDay := some 0 }.easel.spareDay = some (up.time / dayNs) := by
  decide +kernel

theorem wit_spareTest : (tileOf sSpare 67).st = .spareIdle ∧ (67 : Nat) ∈ [67] ∧
    mapFind ({ up with tiles := [(3, { faulted with placed := false })] } : State).tiles 3 = some { faulted with placed := false } := by decide +kernel

def member (on re : Bool) : Member := ⟨on, re, 0, 0, false, 0⟩
/-- Member `n` of a mesh of four. -/
def sMesh (n : Nat) (ms : SMap Member) : State :=
  { up with
    time := 1_000_000_000, folio.topology := 1, folio.dimX := 4, folio.number := n, folio.folioId := 77, folio.members := ms }
def four (m : Member) : SMap Member := [(0, member true false), (1, member true false), (2, m), (3, member true false)]
theorem wit_membership : inFolio (sMesh 1 (four (member true false))) = true ∧
    mapFind (sMesh 1 (four (member true false))).folio.members 2 = some (member true false) ∧ 2 ≠ (sMesh 1 (four (member true false))).folio.number ∧
    mapFind (sMesh 1 (four (member true false))).folio.members 0 = some (member true false) ∧
    mapFind (sMesh 1 (four (member true false))).folio.members 1 = some (member true false) ∧
    (sMesh 1 (four (member true false))).folio.lastReach + 1_000_000_000 ≤ (sMesh 1 (four (member true false))).time ∧
    ({ sMesh 1 (four (member true false)) with time := 999_999_999 } : State).time < 0 + 1_000_000_000 ∧
    mapFind (sMesh 0 (four (member false false))).folio.members 2 = some (member false false) ∧
    mapFind (sMesh 0 (four (member false true))).folio.members 2 = some (member false true) ∧
    (sMesh 0 (four (member false true))).integ.phase = .service ∧ (sMesh 1 (four (member true false))).recov.mirrorActive = false := by decide +kernel

theorem wit_ownFrame : periodOver (sMesh 1 (four (member true false))) (sMesh 1 (four (member true false))).folio.frameAt 10_000_000 = true ∧
    { sMesh 1 (four (member true false)) with time := 9_999_999 }.resumed = true ∧
    periodOver { sMesh 1 (four (member true false)) with time := 9_999_999 } 0 10_000_000 = false := by decide +kernel

/-- R475, R482: member 2 is lost; the loss of member 0 moves the time master to the lowest member in service. -/
theorem test_memberLoss : (after (.memberLoss 2) (sMesh 1 (four (member true false)))).recov.takeovers = 1 ∧
    (after (.memberLoss 0) (sMesh 1 (four (member true false)))).folio.master = 1 := by decide +kernel

/-! Hatch ports, folio time, calibration. -/

def port (st : PortState) (lanes : Nat) (rep : List (Nat × Sheet)) : Port := ⟨st, lanes, 0, 0, rep, 0, 0, 0, 0, 0, 0⟩
def i8s : Sheet := sheetOf 0x01 (zeros 1024)
/-- Member 1 of four in a line, with port 0 as `x`. -/
def sPort (x : Port) : State :=
  { up with folio.topology := 1, folio.dimX := 4, folio.number := 1, folio.folioId := 77, folio.ports := [(0, x)], folio.joined := true }
theorem wit_portCheck : (portOf (sPort (port .training 0 [])) 0).st = .training ∧ (portOf (sPort (port .checking 2 [])) 0).st = .checking ∧
    rightlyWired (sPort (port .training 0 [])) 0 77 2 1 = true ∧ rightlyWired (sPort (port .training 0 [])) 0 77 2 0 = false ∧
    portRole (sPort (port .training 0 [])).folio.topology 0 < 7 ∧ (portOf (after (.portCheck 0 77 2 1) (sPort (port .checking 2 []))) 0).st = .up ∧
    (portOf (after (.portCheck 0 77 3 1) (sPort (port .checking 2 []))) 0).st = .miswired := by decide +kernel

theorem wit_portFailures : (portOf (sPort (port .failed 0 [])) 0).st = .failed ∧ (portOf (sPort (port .up 4 [(5, i8s)])) 0).st = .up ∧
    (portOf (sPort (port .up 4 [(5, i8s)])) 0).replay ≠ [] ∧ (portOf (sPort (port .off 0 [])) 0).replay = [] ∧
    (portOf (sPort (port .off 0 [])) 0).st = .off ∧ (portOf (sPort (port .up 4 [(5, i8s)])) 0).lanes = 4 ∧
    0 < (portOf (sPort (port .up 4 [(5, i8s)])) 0).replay.length := by decide +kernel

/-- R426, R430: a FAILED port retrains every 100 ms; sheets that wait 10 µs for an acknowledgement fail their port. -/
theorem wit_portTimes : portDue { sPort (port .failed 0 []) with time := 100_000_000 } (portOf (sPort (port .failed 0 [])) 0) 100_000_000 = true ∧
    portDue { sPort (port .failed 0 []) with time := 99_999_999 } (portOf (sPort (port .failed 0 [])) 0) 100_000_000 = false ∧
    portDue { sPort (port .up 4 [(5, i8s)]) with time := 10_000 } (portOf (sPort (port .up 4 [(5, i8s)])) 0) 10_000 = true ∧
    (portOf (after (.hatchAckTimeout 0) { sPort (port .up 4 [(5, i8s)]) with time := 10_000 }) 0).st = .failed := by decide +kernel

/-- Member 0 of 18: port 6 carries a detour of port 0. -/
def sDetour : State :=
  { up with folio.topology := 3, folio.dimX := 3, folio.dimY := 3, folio.dimZ := 2, folio.ports := [(0, port .up 4 []), (6, port .detour 4 [])] }
theorem wit_detourEnd : detourOver sDetour 6 = true ∧ detourOver sDetour (13 - 6) = false ∧ sDetour.streams = [] := by decide +kernel

def sTime : State := sPort (port .up 4 [])
theorem wit_timing : inFolio sTime = true ∧ sTime.folio.master = 0 ∧ sTime.folio.number ≠ 0 ∧ sTime.folio.joined = true ∧ sTime.resumed = true ∧
    { sTime with folio.number := 0, folio.master := 1 }.folio.master ≠ 0 ∧ inService { sTime with folio.number := 0, folio.master := 1 } 0 = true ∧
    isHead sTime = false ∧ { sTime with folio.joined := false }.folio.joined = false ∧ domainOn sTime 0 = true ∧ 3 < folioSize sTime ∧
    3 ∉ sTime.folio.broken ∧ isHead { sTime with folio.number := 0 } = true ∧
    periodOver { sTime with time := 1_000 } 0 1_000 = true ∧ periodOver { sTime with time := 999 } 0 1_000 = false ∧
    periodOver { sTime with time := 60_000_000_000 } sTime.floor 60_000_000_000 = true ∧
    periodOver { sTime with time := 10_000_000 } sTime.easel.healthAt 10_000_000 = true ∧
    ({ sTime with time := 1_000_000 } : State).time / 1_000_000 ≠ sTime.readWin ∧ sTime.time / 1_000_000 = sTime.readWin ∧
    up.power.measuredDay ≠ some (up.time / dayNs) ∧ up.media.staging.length ≤ 256 * stageLimit (usableFrom50 up.power.emeasMj) := by decide +kernel

def calTile (vofs : Int) : Tile := { Tile.shipped 0 with st := .running, placed := true, faults := 2 ^ faultCanary, vofs := vofs, freq := 81, context := 15, station := 2 }
def sCal (vofs : Int) (ws : List OpenWindow) : State := { onTile (calTile vofs) with cal.ctrl := 3, cal.windows := ws, time := 1_000_005 }
theorem wit_tileInterval : (sCal 7 []).cal.ctrl.getLsbD 1 = true ∧ (tileOf (sCal 7 []) 0).placed = true ∧ (tileOf (sCal 7 []) 0).change = none ∧
    (tileOf (sCal 7 []) 0).st = .running ∧ (tileOf (sCal 7 []) 0).faults.getLsbD faultCanary = true ∧ (sCal 7 []).cal.windows = [] ∧
    (tileOf (sCal 7 []) 0).vofs < calVmax (sCal 7 []) ∧ calVmax (sCal 8 []) ≤ (tileOf (sCal 8 []) 0).vofs ∧
    calFreqMin (sCal 8 []) < (tileOf (sCal 8 []) 0).freq ∧ (1_000_005 : Nat) < 1_000_006 ∧
    (sCal 7 []).time / 1_000_000 ≠ (tileOf (sCal 7 []) 0).cal.interval ∧
    coversTile ⟨15, 2, 9, 1, 1_000_006⟩ (tileOf (sCal 7 [⟨15, 2, 9, 1, 1_000_006⟩]) 0) = true := by
  decide +kernel

def imBlocks : Image :=
  { imageOf [] with streams := [⟨1, 0x20, 0, 0x20, 0, stnFeed, 0xE5, 0, 0, 0, 4, 0, 0, 0⟩], feed := [⟨2, 1, 0, 0, 0, 1024⟩] }
/-- A die and mode with this evidence; a window protects the bulk channels when `shut`. -/
def sDie (x : DieCal) (shut : Bool) : State :=
  { up with
    cal.ctrl := 3, cal.dies := [(unitKey 1023 false, x)], time := 5, cal.windows := if shut then [⟨15, 0xE5, 9, 2, 6⟩] else []
    ctxs := [(15, { Ctx.empty with st := .running, loaded := some ⟨imBlocks, 0, [], [], [], []⟩ })] }
def die0 : DieCal := { DieCal.fresh with reads := 65535, n1 := 60, n0 := 40, ewReads := 9 }
theorem wit_levels : 1023 < 1024 + Config.fastDies ∧ calFlash (sDie die0 false) 16 16 ≤ die0.reads ∧ (sDie die0 false).cal.ctrl.getLsbD 0 = true ∧
    protectedDie (sDie die0 false) 1023 = false ∧ die0.step = 0 ∧ 0 < die0.n0 + die0.n1 ∧
    calFlash (sDie die0 false) 8 8 * (die0.n0 + die0.n1) ≤ 100 * die0.n1 ∧ dieAt (sDie die0 false) (unitKey 1023 false) = die0 ∧
    (0 : Nat) < calFlash (sDie die0 false) 16 16 ∧ dieAt (sDie { die0 with due := true } false) (unitKey 1023 false) = { die0 with due := true } ∧
    protectedDie (sDie { die0 with sweeping := true } true) 1023 = true ∧ protectedBulk (sDie die0 true) = true ∧ (List.replicate 15 (0 : Nat)).length = 15 := by decide +kernel

/-! Power. -/

def sPh (ph : PowerPhase) (step : Nat) (doms : BitVec 20) : State := { sIo with power.phase := ph, power.upStep := step, power.domains := doms }
theorem wit_powerPhases : (sPh .running 5 0xFFFFF).power.phase = .running ∧ (sPh .committing 5 0xFFFFF).power.phase = .committing ∧
    (sPh .committing 5 0xFFFFF).media.staging = [] ∧ (sPh .committing 5 0xFFFFF).power.thermal = false ∧
    (sPh .committing 5 0xFFFFF).power.resetAfter = false ∧ (sPh .committed 5 1).power.phase = .committed ∧ (sPh .unpowered 0 0).power.phase = .unpowered ∧
    (sPh .stepping 1 1).power.phase = .stepping ∧ 1 ≤ (sPh .stepping 1 1).power.upStep ∧ (sPh .stepping 4 1).power.upStep ≤ 4 ∧
    (sPh .stepping 2 1).power.upStep = 2 ∧ (sPh .stepping 5 1).power.upStep = 5 ∧ 1 ∈ stepDomains (sPh .stepping 5 1).power.upStep ∧
    InputCause.underVoltage ≠ .removeReq := by decide +kernel

/-- R511, R517: step 2 goes on at 80 units of flow, and stops at 79. -/
theorem test_flow : (after (.powerUpStep 80) (sPh .stepping 2 0x80001)).power.upStep = 3 ∧
    (after (.powerUpStep 79) (sPh .stepping 2 0x80001)).power.phase = .thermalHold := by decide +kernel

/-- R503: what staging held, and what flash held, is there after the commit and the return of the input. -/
theorem test_commit : (readSector (after .inputReturn (after .commitComplete (sPh .committing 5 0xFFFFF))) 7).head? = some 0 ∧
    (after .commitComplete (sPh .committing 5 0xFFFFF)).media.marker = true ∧
    (after .inputReturn (after .commitComplete (sPh .committing 5 0xFFFFF))).power.phase = .stepping := by decide +kernel

theorem wit_bank : up.power.measuring = false ∧ domainOn up 19 = true ∧ { up with power.measuring := true }.power.measuring = true ∧
    up.media.waiting = [] ∧ up.power.emeasMj ≠ 0 ∧ up.power.phase = .running ∧ 52500 ≤ 53500 := by decide +kernel

def cool : PowerObs := ⟨900, 950, 54000, List.replicate 24 200, 80⟩
def hot : PowerObs := { cool with temps := 320 :: List.replicate 23 200 }
theorem obs_below (l : List Int) (f : Nat → Int) (h : (l.zipIdx.all fun p => decide (p.1 < 8 * f p.2)) = true) :
    ∀ n t, l[n]? = some t → t < 8 * f n := by
  intro n t hn
  obtain ⟨hl, rfl⟩ := List.getElem?_eq_some_iff.1 hn
  have := List.all_eq_true.1 h (l[n], n) (by simp [List.mem_zipIdx_iff_getElem?])
  simpa using this

/-- Folio time has passed the end of the first 1 ms window. -/
def sMs : State := { sIo with time := 1_000_000 }
theorem wit_throttle : domainOn sMs 0 = true ∧ otherWindow sMs sMs.power.window 1_000_000 = true ∧ cool.temps.length = 24 ∧ hot.temps.length = 24 ∧ sMs.power.phase = .running ∧ 80 ≤ cool.flow ∧
    (∀ n t, cool.temps[n]? = some t → t < 8 * criticalC n) ∧ (∀ n t, cool.temps[n]? = some t → t < 8 * throttleC n) ∧
    (∀ n t, hot.temps[n]? = some t → t < 8 * criticalC n) ∧ (∃ n t, hot.temps[n]? = some t ∧ 8 * throttleC n ≤ t) ∧
    sMs.power.surged = false :=
  ⟨by decide +kernel, by decide +kernel, rfl, rfl, rfl, by decide, obs_below _ _ (by decide +kernel), obs_below _ _ (by decide +kernel), obs_below _ _ (by decide +kernel),
    ⟨0, 320, rfl, by decide⟩, rfl⟩

/-- R515: over budget, the cap falls by 4; well under it, the cap rises by 1; in between it stays. -/
theorem test_cap : [901, 854, 900].map (fun w => (after (.throttleWindow { cool with meanW := w, flow := 120 }) { sMs with power.freqCap := 100 }).power.freqCap) =
    [96, 101, 100] := by decide +kernel

theorem wit_thermal : 8 * criticalC 23 ≤ 920 ∧ ¬(8 * criticalC 23 ≤ 919) ∧ 1050 < 1051 ∧ ({ cool with flow := 79 } : PowerObs).flow < 80 := by decide +kernel

/-! Boot: slots with signed images, a signed layout record, and what follows. -/

def zSt : Nat := 1459929212189281089607074998085705277009730441383482444415362146330441185358
def kSt : Nat := 109779523611119672857684231220950301512246766140933230396555968575858195463313
def imgSt : Bytes := signedImage (fwBody 0 0) zSt kSt
def slotAt (block : Nat) (img : Bytes) : Cells := cellsWrite [] (block * 0x100_0000) img
/-- A module whose boot stands before the boot ROM. -/
def sBoot (cs : Cells) : State :=
  { State.reset with
    power.phase := .running, power.upStep := 5, power.domains := 0xFFFFF, boot.romKeys := [beBytes 32 kFw, beBytes 32 kSt], stylus.cs := cs
    stylus.regions := [(1, BitVec.ofNat 64 (2 ^ 63 + 2 * 1024 + 16))] }

theorem slotImage_of {s : State} {kind slot : Nat} {h img : Bytes} (h1 : regionValid (mapGet s.stylus.regions kind 0) = true)
    (h2 : csBytes s (slotBase s kind slot) 128 = some h) (h3 : u64 h 16 ≤ slotBytes s kind)
    (h4 : csBytes s (slotBase s kind slot) (u64 h 16) = some img) (h5 : firmwareOk s kind (slotBytes s kind) img = true) :
    slotImage s kind slot = some img := by
  unfold slotImage
  rw [h1, h2, Option.bind_some, if_neg (Nat.not_lt.2 h3), h4, Option.filter_some, h5]
  rfl

theorem noImage_of {s : State} {kind slot : Nat} {h img : Bytes} (h2 : csBytes s (slotBase s kind slot) 128 = some h)
    (h4 : csBytes s (slotBase s kind slot) (u64 h 16) = some img) (h5 : (u32 img 0 == 0x5746_4B4E) = false) : slotImage s kind slot = none := by
  have h6 : firmwareOk s kind (slotBytes s kind) img = false := by simp only [firmwareOk, h5, Bool.false_and]
  unfold slotImage
  rw [h2, Option.bind_some, h4, Option.filter_some, h6]
  split <;> (try split) <;> rfl

theorem csBytes_of {s : State} {a k : Nat} {img : Bytes} (h1 : s.stylus.cs = cellsWrite [] a img) (h2 : s.stylus.csBad = []) (h : k ≤ img.length) :
    csBytes s a k = some (img.take k) := by
  simp only [csBytes, h1, h2, List.any_nil, Bool.false_eq_true, if_false, cellsRead_take _ _ _ a h]
  rw [cellsRead_cellsWrite (m := []) a img rfl]

theorem csBytes_all {s : State} {a : Nat} {img : Bytes} (h1 : s.stylus.cs = cellsWrite [] a img) (h2 : s.stylus.csBad = []) :
    csBytes s a img.length = some img := by rw [csBytes_of h1 h2 (Nat.le_refl _), List.take_length]

theorem csBytes_past {s : State} {a b : Nat} {img : Bytes} (h1 : s.stylus.cs = cellsWrite [] a img) (h2 : s.stylus.csBad = []) (hb : a + img.length ≤ b) :
    ∀ k, csBytes s b k = some (zeros k) := by
  have hc (k : Nat) : ∀ c, a + img.length ≤ c → cellsRead s.stylus.cs c k = zeros k := by
    induction k with
    | zero => intro c _; rfl
    | succ k ih =>
      intro c hc
      have h0 : cellRead s.stylus.cs c = 0 := by rw [h1, cellRead_cellsWrite_other (m := []) img rfl (Or.inr hc)]; rfl
      rw [cellsRead, h0, ih (c + 1) (by omega)]
      rfl
  intro k
  simp only [csBytes, h2, List.any_nil, Bool.false_eq_true, if_false, hc k b hb]

theorem sBoot_cs (c : Cells) : (sBoot c).stylus.cs = c := rfl
theorem romIdentity_cs (s : State) : (romIdentity s).stylus.cs = s.stylus.cs := rfl
theorem romIdentity_bad (s : State) : (romIdentity s).stylus.csBad = s.stylus.csBad := rfl

def sRom : State := sBoot (slotAt 8 imgSt)
set_option maxRecDepth 100000 in
theorem imgSt_signed : sigOk (liveKeys (romIdentity sRom) [0, 1]) 0 imgSt = true :=
  sigOk_of zSt (by decide +kernel) (by decide +kernel) (by decide +kernel) (by decide +kernel) (by decide +kernel) (by decide +kernel)
    (by decide +kernel) (by decide +kernel) (by decide +kernel)

theorem wit_bootRom : sRom.power.phase = .running ∧ sRom.boot.romDone = false ∧ sRom.boot.stopped = false ∧ sRom.boot.dbgLevel ≠ 2 ∧
    chooseSlot (romIdentity sRom) 0 = some (0, imgSt) := by
  have h1 : (romIdentity sRom).stylus.cs = cellsWrite [] (slotBase (romIdentity sRom) 0 0) imgSt := by
    rw [show slotBase (romIdentity sRom) 0 0 = 8 * 0x100_0000 by decide +kernel]; exact (romIdentity_cs sRom).trans (sBoot_cs _)
  have h2 : (romIdentity sRom).stylus.csBad = [] := romIdentity_bad sRom
  have hl : imgSt.length = 384 := by decide +kernel
  have ha : slotImage (romIdentity sRom) 0 0 = some imgSt :=
    slotImage_of (h := imgSt.take 128) (by decide +kernel) (csBytes_of h1 h2 (by rw [hl]; decide)) (by decide +kernel)
      (by rw [show u64 (imgSt.take 128) 16 = imgSt.length by decide +kernel]; exact csBytes_all h1 h2)
      (firmwareOk_of (by decide +kernel) imgSt_signed (by decide +kernel))
  have hp := csBytes_past h1 h2 (b := slotBase (romIdentity sRom) 0 1) (by rw [hl]; decide +kernel)
  have hb : slotImage (romIdentity sRom) 0 1 = none := noImage_of (hp 128) (hp _) (by decide +kernel)
  refine ⟨rfl, rfl, rfl, by decide +kernel, ?_⟩
  simp only [chooseSlot, ha, hb]

theorem noSlots {s : State} {kind : Nat} (h2 : ∀ k, csBytes s (slotBase s kind k) 128 = some (zeros 128)) (h4 : ∀ k, csBytes s (slotBase s kind k) 0 = some []) :
    chooseSlot s kind = none := by
  have h0 : u64 (zeros 128) 16 = 0 := by decide +kernel
  have h (k : Nat) : slotImage s kind k = none := noImage_of (h2 k) (by rw [h0]; exact h4 k) (by decide +kernel)
  simp only [chooseSlot, h]

theorem empty_cs {s : State} (h1 : s.stylus.cs = []) (h2 : s.stylus.csBad = []) (a n : Nat) : csBytes s a n = some (zeros n) := by
  have h : ∀ n a, cellsRead [] a n = zeros n := by
    intro n; induction n with
    | zero => intro a; rfl
    | succ n ih => intro a; simp only [cellsRead, ih]; rfl
  simp only [csBytes, h1, h2, List.any_nil, h, Bool.false_eq_true, if_false]

theorem wit_noStage1 : (sBoot []).boot.romDone = false ∧ chooseSlot (romIdentity (sBoot [])) 0 = none :=
  ⟨rfl, noSlots (fun _ => empty_cs rfl rfl _ _) (fun _ => empty_cs rfl rfl _ _)⟩

/-- The boot ROM is done; the firmware slot A holds an image. -/
def sSt (cs : Cells) : State :=
  { sBoot cs with boot.romDone := true, boot.stage := 1, boot.deviceKey := some 5, boot.layerSecret := some 7, stylus.regions := [(0, region0), (1, BitVec.ofNat 64 (2 ^ 63 + 2 * 1024 + 16))] }
theorem applyRecords_cs (c : Cells) : (applyRecords (resumeTime (sSt c)) []).stylus.cs = c := by with_unfolding_all rfl
theorem applyRecords_bad (c : Cells) : (applyRecords (resumeTime (sSt c)) []).stylus.csBad = [] := by with_unfolding_all rfl
set_option maxRecDepth 100000 in
theorem wit_stage1 : (sSt (slotAt 16 imgFw)).boot.romDone = true ∧ (sSt (slotAt 16 imgFw)).boot.stage1Done = false ∧
    (sSt (slotAt 16 imgFw)).boot.identityFail = false ∧
    applyLayout (resumeTime (sSt (slotAt 16 imgFw))) (((tchilava (resumeTime (sSt (slotAt 16 imgFw))) (recordsIn (resumeTime (sSt (slotAt 16 imgFw)))) 0x01).map
      fun r => r.2.1).getD []) = some (resumeTime (sSt (slotAt 16 imgFw))) ∧
    chooseSlot (applyRecords (resumeTime (sSt (slotAt 16 imgFw))) (recordsIn (resumeTime (sSt (slotAt 16 imgFw))))) 1 = some (0, imgFw) := by
  have hr : recordsIn (resumeTime (sSt (slotAt 16 imgFw))) = [] := by decide +kernel
  have hs : sigOk (liveKeys (applyRecords (resumeTime (sSt (slotAt 16 imgFw))) []) [0, 1]) 0 imgFw = true :=
    sigOk_of zFw (by decide +kernel) (by decide +kernel) (by decide +kernel) (by decide +kernel) (by decide +kernel) (by decide +kernel)
      (by decide +kernel) (by decide +kernel) (by decide +kernel)
  have h1 : (applyRecords (resumeTime (sSt (slotAt 16 imgFw))) []).stylus.cs =
      cellsWrite [] (slotBase (applyRecords (resumeTime (sSt (slotAt 16 imgFw))) []) 1 0) imgFw := by
    rw [show slotBase (applyRecords (resumeTime (sSt (slotAt 16 imgFw))) []) 1 0 = 16 * 0x100_0000 by decide +kernel]; exact applyRecords_cs _
  have h2 : (applyRecords (resumeTime (sSt (slotAt 16 imgFw))) []).stylus.csBad = [] := applyRecords_bad _
  have hl : imgFw.length = 384 := by decide +kernel
  have ha : slotImage (applyRecords (resumeTime (sSt (slotAt 16 imgFw))) []) 1 0 = some imgFw :=
    slotImage_of (h := imgFw.take 128) (by decide +kernel) (csBytes_of h1 h2 (by rw [hl]; decide)) (by decide +kernel)
      (by rw [show u64 (imgFw.take 128) 16 = imgFw.length by decide +kernel]; exact csBytes_all h1 h2)
      (firmwareOk_of (by decide +kernel) hs (by decide +kernel))
  have hp := csBytes_past h1 h2 (b := slotBase (applyRecords (resumeTime (sSt (slotAt 16 imgFw))) []) 1 1) (by rw [hl]; decide +kernel)
  have hb : slotImage (applyRecords (resumeTime (sSt (slotAt 16 imgFw))) []) 1 1 = none := noImage_of (hp 128) (hp _) (by decide +kernel)
  rw [hr]
  refine ⟨rfl, rfl, rfl, rfl, ?_⟩
  simp only [chooseSlot, ha, hb]

theorem wit_noFirmware : applyLayout (resumeTime (sSt [])) (((tchilava (resumeTime (sSt [])) (recordsIn (resumeTime (sSt []))) 0x01).map fun r => r.2.1).getD []) =
      some (resumeTime (sSt [])) ∧ chooseSlot (applyRecords (resumeTime (sSt [])) (recordsIn (resumeTime (sSt [])))) 1 = none := by
  have hr : recordsIn (resumeTime (sSt [])) = [] := by decide +kernel
  rw [hr]
  exact ⟨rfl, noSlots (fun _ => empty_cs (by decide +kernel) (by decide +kernel) _ _) (fun _ => empty_cs (by decide +kernel) (by decide +kernel) _ _)⟩

/-- A CS_LAYOUT record of the module's maker that gives a region the private area. -/
def zLay : Nat := 68218873445209021690725001346484365399109170031586247653152623588412012220637
def kLay : Nat := 53118620423307034358543801621889537208825942822684417883007331612808692372209
def layBody : Bytes :=
  List.flatten [leBytes 4 0x52434B4E, leBytes 2 1, leBytes 2 0, leBytes 8 1, leBytes 4 8, zeros 44, leBytes 8 (2 ^ 63 + 2 ^ 10), zeros 56]
def layRec : Bytes := signedImage layBody zLay kLay
def sLay : State := { sSt (slotAt 48 layRec) with boot.romKeys := [beBytes 32 kFw, beBytes 32 kSt, beBytes 32 kLay] }

theorem tchilava_of {s : State} {i g : Nat} {b r : Bytes} (t : Nat) (hs : sigOk (liveKeys s [2, 3]) 0 r = true) :
    tchilava s [((t, i, g), b, r)] t = some ((t, i, g), b, r) := by simp [tchilava, hs]

set_option maxRecDepth 100000 in
theorem layRec_signed : sigOk (liveKeys (resumeTime sLay) [2, 3]) 0 layRec = true :=
  sigOk_of zLay (by decide +kernel) (by decide +kernel) (by decide +kernel) (by decide +kernel) (by decide +kernel) (by decide +kernel)
    (by decide +kernel) (by decide +kernel) (by decide +kernel)

set_option maxRecDepth 100000 in
theorem wit_badLayout : sLay.boot.romDone = true ∧ sLay.boot.stage1Done = false ∧ sLay.boot.stopped = false ∧
    applyLayout (resumeTime sLay) (((tchilava (resumeTime sLay) (recordsIn (resumeTime sLay)) 0x01).map fun r => r.2.1).getD []) = none := by
  have hr : recordsIn (resumeTime sLay) = [((1, 0, 1), leBytes 8 (2 ^ 63 + 2 ^ 10), layRec)] := by decide +kernel
  refine ⟨rfl, rfl, rfl, ?_⟩
  rw [hr, tchilava_of 1 layRec_signed, Option.map_some, Option.getD_some]
  decide +kernel

/-! Start of the firmware, Easel, the sideband, attestation, the debug port and the rules of every step. -/

def sStage (b : Nat) : State := { sIo with boot.stage := b }
def ctxRec : Bytes := List.flatten [[15, 1], leBytes 2 1, leBytes 2 1, zeros 2, leBytes 4 1, zeros 20]
theorem wit_firmwareStart : (sStage 1).boot.stage1Done = true ∧ (sStage 1).boot.stage = 1 ∧ (sStage 1).boot.stopped = false ∧
    (sStage 1).power.phase = .running ∧ { sStage 1 with media.commitBegun := true, media.manifest := [7] }.media.marker = false ∧
    { sStage 1 with boot.rolesLost := true }.boot.rolesLost = true ∧ (sStage 1).folio.topology = 0 := by decide +kernel

/-- R376: sectors of a commit that did not end are poisoned. -/
theorem test_commitLost : sectorPoisoned (after (.easelFirmwareStart []) { sStage 1 with media.commitBegun := true, media.manifest := [7], media.marker := false }) 7 =
    true := by decide +kernel

theorem wit_restore : (sStage 2).boot.stage = 2 ∧ (sStage 2).integ.phase ≠ .startUp ∧ isHead (sStage 2) = true ∧ (sStage 2).boot.policy.contexts = [] ∧
    (sStage 2).boot.policy.objects = [] ∧ { sStage 2 with boot.policy.contexts := [(15, ctxRec, 9)] }.boot.policy.contexts = [(15, ctxRec, 9)] ∧
    (configureCtx { sStage 2 with boot.policy.contexts := [(15, ctxRec, 9)] } ctxRec).isSome = true ∧
    isHead { sStage 2 with folio.number := 1 } = false := by decide +kernel

def sConfirm : State := { sIo with boot.deviceKey := some 5, boot.fwSvn := 2, boot.st1Svn := 3, time := 600_000_000_000 }
theorem wit_confirm : sConfirm.integ.phase = .service ∧ 2 ≤ sConfirm.boot.stage ∧ sConfirm.boot.identityFail = false ∧ sConfirm.boot.deviceKey ≠ none ∧
    sConfirm.easel.restarting = false ∧ sConfirm.easel.serviceFrom + 600_000_000_000 ≤ sConfirm.time ∧ counterOf sConfirm 1 < sConfirm.boot.fwSvn ∧
    counterOf sConfirm 0 < sConfirm.boot.st1Svn ∧ sIo.time < sIo.easel.serviceFrom + 600_000_000_000 := by decide +kernel

/-- R6: folio time 60 s after the last floor; no earlier than it has been; 0 at the first power-up of all. -/
theorem test_resume : (resumeTime { sIo with easel.log := [.timeFloor 9], timeStarted := true }).time = 60_000_000_009 ∧
    (resumeTime { sIo with easel.log := [], timeStarted := true, lastTime := 90_000_000_000 }).time = 90_000_000_000 ∧
    (resumeTime { sIo with timeStarted := false }).time = 0 := by decide +kernel

theorem wit_bootEvents : { sIo with timeStarted := true }.timeStarted = true ∧ State.reset.timeStarted = false ∧
    { sStage 1 with easel.log := [.timeFloor 9] }.easel.log = .timeFloor 9 :: [] ∧ State.reset.easel.log = [] ∧
    (sStage 1).boot.stopped = false ∧ (sStage 1).boot.stage < 2 ∧ (sStage 1).power.phase = .running ∧ 2 ≤ (sStage 2).boot.stage := by decide +kernel

/-- Easel at folio time `t` with these queues. -/
def sEasel (t : Nat) (e : Easel) : State := { sIo with easel := e, time := t }
def e0 : Easel := sIo.easel
def frame (decim : Nat) : Frame551 := ⟨0, 0, decim, 0, 900, 950, 132, 0, [], 90, 0, 0, 0, 0⟩
theorem wit_easel : easelRuns (sEasel 100_000_000 e0) = true ∧ e0.lastClear + 100_000_000 ≤ (sEasel 100_000_000 e0).time ∧
    (sEasel 99_999_999 e0).time < e0.lastClear + 100_000_000 ∧ (sEasel 1 { e0 with q1 := [0], q4 := [0] }).easel.q1 = 0 :: [] ∧
    (sEasel 1 { e0 with q2 := [0] }).easel.q1 = [] ∧ (sEasel 1 { e0 with q3 := [0] }).easel.q2 = [] ∧
    0 < (sEasel 20_000_000 { e0 with telemMs := 10 }).easel.telemMs.toNat ∧
    (sEasel 20_000_000 e0).time % ((sEasel 20_000_000 { e0 with telemMs := 10 }).easel.telemMs.toNat * 1_000_000) = 0 ∧ e0.ended = [] ∧
    (sEasel 1 { e0 with ended := [(1, frame 0)] }).easel.ended = (1, frame 0) :: [] ∧ 1 % 2 ^ (frame 0).decim = 0 ∧ 1 % 2 ^ (frame 1).decim ≠ 0 ∧ e0.lastClear + 500_000_000 ≤ (sEasel 500_000_000 e0).time ∧
    2 ≤ ([400_000_000, 1].filter fun t => t / 600_000_000_000 == 500_000_000 / 600_000_000_000).length ∧ easelRuns State.reset = false := by
  decide +kernel

theorem wit_overload : (sEasel 100_000_000 { e0 with overload := true, calmFrom := some 0 }).easel.overload = true ∧
    easelFull (sEasel 100_000_000 { e0 with overload := true, calmFrom := some 0 }) = false ∧
    oldestWaited (sEasel 100_000_000 { e0 with overload := true, calmFrom := some 0 }) 2000000 = false ∧
    32 ≤ (List.replicate 32 (0 : Nat)).length ∧ max e0.lastTick e0.overloadFrom + 100_000_000 ≤ (sEasel 100_000_000 e0).time ∧
    (sEasel 99_999_999 e0).time < e0.lastTick + 100_000_000 ∧
    easelRefuses (sEasel 100_000_000 { e0 with overload := true, q3 := [90_000_000] }) = true := by decide +kernel

/-- R548: class 1 goes before class 4. -/
theorem test_dispatch : (after (.easelDispatch 5) (sEasel 1 { e0 with q1 := [0], q4 := [0] })).easel.q1 = [] ∧
    (after (.easelDispatch 5) (sEasel 1 { e0 with q1 := [0], q4 := [0] })).easel.q4 = [0] := by decide +kernel

def sHold : State := { sIo with power.phase := .thermalHold }
def sTest (x : TestRun) : State := { sIo with easel.test := some x, integ.phase := .test, tiles := [(67, { Tile.shipped 67 with st := .testing })] }
theorem wit_sideband : domainOn sIo 0 = true ∧ Own sIo 0xFF ∧ Own sIo 0 ∧ ¬ Own sIo 1 ∧ sHold.power.phase = .thermalHold ∧ cooled sHold = true ∧
    sHold.media.fold = none ∧ MiReady sIo ∧ sIo.integ.phase = .service ∧ sIo.easel.test = none ∧ (noteOverload sIo).easel.overload = false ∧
    (sTest ⟨0, 1, 0, true⟩).integ.phase ≠ .service ∧ { sIo with easel.restarting := true }.easel.restarting = true := by
  unfold Own MiReady; decide +kernel

theorem wit_tests : (sTest ⟨2, 1, 0, true⟩).easel.test = some ⟨2, 1, 0, true⟩ ∧ (sTest ⟨2, 1, 0, true⟩).power.measuring = false ∧
    (tileOf (sTest ⟨0, 1, 0, true⟩) 67).st = .testing ∧ (tileOf (sTest ⟨0, 1, 0, true⟩) 67).role = .spare ∧
    (tileOf { sIo with tiles := [(67, { Tile.shipped 67 with st := .spareIdle })] } 67).st = .spareIdle := by decide +kernel

/-- R554: a spare that fails its test is retired; the test's result is logged. -/
theorem test_testEnd : (tileOf (after (.testEnd [67]) (sTest ⟨0, 1, 0, true⟩)) 67).st = .retired ∧
    ((after (.testEnd [67]) (sTest ⟨0, 1, 0, true⟩)).integ.phase = .service) := by decide +kernel

def sFar (broken : List Nat) : State :=
  { sIo with folio.topology := 1, folio.dimX := 4, folio.members := [(0, ⟨true, false, 0, 0, false, 0⟩), (3, ⟨true, false, 0, 0, false, 0⟩)], folio.broken := broken }
theorem wit_reads : 572 < 573 ∧ { sIo with integ.ceLog := true }.integ.ceLog = true ∧ mapWf sIo.integ.ce = true ∧ ¬ Own (sFar []) 3 ∧ inFolio (sFar []) = true ∧
    3 < folioSize (sFar []) ∧ inService (sFar []) 3 = true ∧ (sFar []).folio.broken = [] ∧ folioSize (sFar []) ≤ 4 ∧ inFolio sIo = false ∧
    domainOn State.reset 0 = false := by unfold Own; decide +kernel

theorem wit_standard : MiReady sIo ∧ miStructLength 4 = some 4096 ∧ 4 < 5 ∧ 0xABCD01 % 256 = 1 ∧ 0x0E % 256 = 0x0E ∧
    SpdmReady sIo ∧ bitSet 0x10 4 = true ∧ bitSet 1 0 = true ∧ sIo.boot.aliasKey = none ∧ { sIo with boot.aliasKey := some 7 }.boot.aliasKey = some 7 ∧
    (measured { sIo with boot.st1Digest := zeros 32 } 2).isSome = true := by unfold SpdmReady MiReady; decide +kernel

/-! The debug port. -/

def secretText : Bytes := [0x20, 0x7E, 0x41, 0x41, 0x41, 0x41, 0x41, 0x41]
def sPw (verifier : Bytes) (top : Nat) : State := { sIo with boot.policy.debug := some ([1], verifier, top) }
theorem wit_password : (sPw (sha256 ([1] ++ secretText)) 2).boot.pwLocked = false ∧ passwordForm secretText = true ∧
    (sPw (sha256 ([1] ++ secretText)) 2).boot.policy.debug = some ([1], sha256 ([1] ++ secretText), 2) ∧ sha256 ([1] ++ secretText) ≠ [] ∧
    (2 : Nat) ≤ 2 ∧ { sIo with boot.pwLocked := true }.boot.pwLocked = true ∧ sIo.boot.policy.debug = none := by
  refine ⟨rfl, by decide +kernel, rfl, ?_, by decide, rfl, rfl⟩
  rw [sha256_eq]; decide +kernel

def zDbg : Nat := 86851102057768595278542727750150480077631891262063537340160914292863331902332
def kDbg : Nat := 107088899207327734738402362018019934763506573459848728596458860505130318710864
def sNonce (t : Nat) (keys : List (Nat × Bytes)) : State :=
  { sIo with boot.dbgNonce := some ⟨zeros 32, 0⟩, time := t, boot.policy.keys := keys, stylus.counters := [(4, (31, 31))] }
set_option maxRecDepth 100000 in
theorem wit_response : (sNonce 59_999_999_999 [(2, beBytes 32 kDbg)]).time < 0 + 60_000_000_000 ∧
    (2, beBytes 32 kDbg) ∈ (sNonce 59_999_999_999 [(2, beBytes 32 kDbg)]).boot.policy.keys ∧
    signedBy (beBytes 32 kDbg) (responseDigest (sNonce 59_999_999_999 [(2, beBytes 32 kDbg)]) (zeros 32) 1) zDbg zDbg = true := by
  refine ⟨by decide +kernel, by decide +kernel, ?_⟩
  have hk : beBytes 32 kDbg = sha256 (pointBytes (easyKey zDbg)) := by rw [sha256_eq]; decide +kernel
  have hd : responseDigest (sNonce 59_999_999_999 [(2, beBytes 32 kDbg)]) (zeros 32) 1 = digestOf (zeros 32 ++ digestOf [] ++ leBytes 1 1) := by
    simp only [digestOf, ← sha256_eq]; rfl
  rw [hd, hk]
  exact signedBy_easy _ zDbg (by decide +kernel) (by decide +kernel)

theorem wit_noResponse : 0 + 60_000_000_000 ≤ (sNonce 60_000_000_000 []).time ∧ (sNonce 5 []).boot.policy.keys = [] ∧ liveKeys (sNonce 5 []) [4] = [] ∧
    (sNonce 5 []).boot.dbgNonce = some ⟨zeros 32, 0⟩ ∧ sIo.boot.dbgNonce = none := by decide +kernel

/-! Every step. -/

theorem wit_step : { sIo with pending := [.selfFence] }.pending = .selfFence :: [] ∧ sIo.pending = [] ∧ step { sIo with pending := [.selfFence] } = exec .selfFence sIo := by
  refine ⟨rfl, rfl, rfl⟩

theorem wit_invariants : PlatformInv up ∧ CanonicalInv up ∧ runs .firmwareConfirm up = true ∧ powersUp .firmwareConfirm = false ∧ changesMemory .firmwareConfirm = false := by
  unfold PlatformInv CanonicalInv; decide +kernel

/-- R537, R540: a state whose debug level rises to FULL. -/
theorem wit_fullDebug : (sPw [] 2).boot.dbgLevel ≠ 2 ∧ SpdmReady { sIo with boot.dbgLevel := 2 } ∧ { sIo with boot.dbgLevel := 2 }.boot.aliasKey = none := by
  unfold SpdmReady MiReady; decide +kernel

/-- Region 1 of the code store is blocks 16 and 17. -/
def sRegions : State := { sIo with stylus.regions := [(1, BitVec.ofNat 64 (2 ^ 63 + 2 * 1024 + 16))] }
theorem wit_overlaps : (BitVec.ofNat 64 (2 ^ 63 + 2 * 1024 + 17)).getLsbD 63 = true ∧
    bitsAt (BitVec.ofNat 64 (2 ^ 63 + 2 * 1024 + 17)).toNat 0 10 ≤ 17 ∧ 17 < 17 + bitsAt (BitVec.ofNat 64 (2 ^ 63 + 2 * 1024 + 17)).toNat 10 11 ∧
    1 ≠ sRegions.stylus.csSel.toNat ∧ mapFind sRegions.stylus.regions 1 = some (BitVec.ofNat 64 (2 ^ 63 + 2 * 1024 + 16)) ∧
    bitsAt (BitVec.ofNat 64 (2 ^ 63 + 1024 + 895)).toNat 0 10 ≤ 895 ∧ ¬ (895 < 8 ∨ 896 ≤ 895) := by decide +kernel

theorem wit_shutdown : { sIo with host.shutdown := 2 }.host.shutdown ≠ 0 ∧ NvmReady { sIo with host.shutdown := 2 } 1 7 1 ∧ (zeros 4096).length % 4096 = 0 ∧
    writeRefusal { sIo with host.shutdown := 2 } lastLba 1 = none := by
  refine ⟨by decide +kernel, ?_, by decide +kernel, by decide +kernel⟩
  unfold NvmReady IoReady; exact ⟨by decide +kernel, by decide +kernel, ⟨_, rfl, rfl⟩⟩

end Sys2Proof.Tests
end

namespace Sys2Proof.Proofs
open Sys2Proof Sys2Proof.Machine Sys2Proof.Safety

/-! ## A step -/

theorem step_of_cons {s : State} {c : Instr} {rest : List Instr} (h : s.pending = c :: rest) :
    step s = exec c { s with pending := rest } := by
  unfold step; rw [h]

theorem step_of_nil {s : State} (h : s.pending = []) : step s = .next (tick s) := by
  unfold step; rw [h]

/-- Settles O1: the two cases of the queue. -/
theorem stepRunsTheFrontCommand : Obligations.StepRunsTheFrontCommand :=
  fun _ => ⟨fun _ _ => step_of_cons, step_of_nil⟩

/-! ## Error records

A record that is written stands at the head of the ring, whether it is new or merges into the newest (R462). -/

theorem raiseEvent_integ (s : State) (key lid : Nat) : (raiseEvent s key lid).integ = s.integ :=
  (congrArg State.integ (raiseEvent_frame s key lid) :)

theorem forwardRecs_recs (s : State) : (forwardRecs s).integ.recs = s.integ.recs := by
  unfold forwardRecs; split <;> rfl

theorem reportRec_recs (s : State) (r : ErrRec) : (reportRec s r).integ.recs = s.integ.recs := by
  unfold reportRec
  split
  · dsimp only
    rw [raiseEvent_integ]
    split
    · exact forwardRecs_recs _
    · rfl
  · rfl

theorem recMerges_cls {n : ErrRec} {a : RecArgs} {now : Nat} (h : recMerges n a now = true) : n.cls = a.cls := by
  simp only [recMerges, Bool.and_eq_true, beq_iff_eq] at h
  exact h.1.1.1.1.1.1

theorem recordErr_head (s : State) (a : RecArgs) : ∃ r rs, (recordErr s a).integ.recs = r :: rs ∧ r.cls = a.cls := by
  unfold recordErr
  dsimp only
  split
  next rs h =>
    cases hr : s.integ.recs with
    | nil => simp [hr] at h
    | cons n rest =>
      simp only [hr] at h
      split at h
      next hm =>
        cases h
        exact ⟨_, _, rfl, recMerges_cls hm⟩
      · cases h
  · exact ⟨_, _, reportRec_recs _ _, rfl⟩

/-- What an access that is turned away leaves: one record of the class, and nothing else of the machine changed (R14, R460). -/
def Records (s u : State) (cls : ErrClass) : Prop :=
  SameButReports s u ∧ ∃ r rs, u.integ.recs = r :: rs ∧ r.cls = cls

theorem recordErr_records (s : State) (a : RecArgs) : Records s (recordErr s a) a.cls :=
  ⟨recordErr_frame s a, recordErr_head s a⟩

theorem protReg_records (s : State) (off : Nat) (write : Bool) : Records s (protReg s off write) .protection :=
  recordErr_records _ _

theorem usageReg_records (s : State) (off : Nat) : Records s (usageReg s off) .usage := recordErr_records _ _

/-! ## Writes of RWB fields (R14, R395) -/

theorem writeRwb_locked {s : State} (h : s.stylus.lock = true) (w : Writer) (off : Nat) (f : State → State) :
    writeRwb s w off f = protReg s off true := if_pos h

theorem writeRwb_boot {s : State} (hl : s.stylus.lock = false) (hb : s.stylus.bootMode = true) (off : Nat)
    (f : State → State) : writeRwb s .bootCode off f = f s := by
  simp [writeRwb, hl, hb]

theorem writeRwb_barred {s : State} {w : Writer} (hl : s.stylus.lock = false)
    (hw : w ≠ .bootCode ∨ s.stylus.bootMode = false) (off : Nat) (f : State → State) : writeRwb s w off f = s := by
  rcases hw with hw | hw <;> simp [writeRwb, hl, hw]

theorem writeRegion_clash {s : State} {v : BitVec 64} (h : regionClash s (keep v 0xFE00_0000_001F_FFFF) = true)
    (w : Writer) : writeRegion s w v = protReg s 0x010_0028 true := if_pos h

theorem writeRegion_free {s : State} {v : BitVec 64} (h : regionClash s (keep v 0xFE00_0000_001F_FFFF) = false)
    (w : Writer) : writeRegion s w v = writeRwb s w 0x010_0028 fun s =>
      { s with stylus.regions := mapPut s.stylus.regions s.stylus.csSel.toNat (keep v 0xFE00_0000_001F_FFFF) } :=
  if_neg (by simp [h])

theorem writeRegion_locked {s : State} (h : s.stylus.lock = true) (w : Writer) (v : BitVec 64) :
    writeRegion s w v = protReg s 0x010_0028 true := by
  cases hc : regionClash s (keep v 0xFE00_0000_001F_FFFF) with
  | true => exact writeRegion_clash hc w
  | false => rw [writeRegion_free hc, writeRwb_locked h]

/-! ## The mailbox (R385, R397, R398) -/

theorem offerDesc_busy {s : State} {c : Caller} (hc : isMailbox c = true) (hb : s.stylus.mbxBusy.isSome = true)
    (f : Caller → State) : offerDesc s c f = usageReg s 0x010_0060 := by
  simp [offerDesc, hc, hb]

theorem offerDesc_free {s : State} (hb : s.stylus.mbxBusy = none) (c : Caller) (f : Caller → State) :
    offerDesc s c f = f (callerNow s c) := by
  simp [offerDesc, hb]

/-- What the Stylus ROM holds beside the operations of the dies, the completions and the mailbox's own registers. -/
def SameButOps (s u : State) : Prop :=
  { u with stylus.nextId := s.stylus.nextId, stylus.dies := s.stylus.dies, stylus.cpls := s.stylus.cpls,
           stylus.mbxBusy := s.stylus.mbxBusy, stylus.mbxCpl0 := s.stylus.mbxCpl0, stylus.mbxCpl1 := s.stylus.mbxCpl1,
           integ := s.integ, host := s.host, easel := s.easel, freeCtr := s.freeCtr } = s

theorem SameButOps.trans {s t u : State} (h : SameButOps s t) (h' : SameButOps t u) : SameButOps s u := by
  unfold SameButOps at *; rw [← h, ← h']

theorem SameButReports.sameButOps {s u : State} (h : SameButReports s u) : SameButOps s u := by
  unfold SameButReports at h; unfold SameButOps; rw [← h]

theorem finishOp_sameButOps (s : State) (o : Op) (status bucket : Nat) (ew : Bool) (level : Nat) :
    SameButOps s (finishOp s o status bucket ew level) := by
  unfold finishOp; dsimp only; split <;> rfl

theorem finishOp_nextId (s : State) (o : Op) (status bucket : Nat) (ew : Bool) (level : Nat) :
    (finishOp s o status bucket ew level).stylus.nextId = s.stylus.nextId := by
  unfold finishOp; dsimp only; split <;> rfl

theorem setDie_sameButOps (s : State) (k : Nat) (d : Die) : SameButOps s (setDie s k d) := by
  unfold setDie; split <;> rfl

theorem setDie_nextId (s : State) (k : Nat) (d : Die) : (setDie s k d).stylus.nextId = s.stylus.nextId := by
  unfold setDie; split <;> rfl

theorem recordErr_nextId (s : State) (a : RecArgs) : (recordErr s a).stylus.nextId = s.stylus.nextId :=
  (congrArg (fun u : State => u.stylus.nextId) (recordErr_frame s a) :)

/-- The state in which a descriptor has drawn its number, and has taken the mailbox if it came from there. -/
def numbered (s : State) (c : Caller) : State :=
  let t := { s with stylus.nextId := s.stylus.nextId + 1 }
  if isMailbox c then { t with stylus.mbxBusy := some s.stylus.nextId } else t

theorem numbered_sameButOps (s : State) (c : Caller) : SameButOps s (numbered s c) := by
  unfold numbered; dsimp only; split <;> rfl

theorem numbered_nextId (s : State) (c : Caller) : (numbered s c).stylus.nextId = s.stylus.nextId + 1 := by
  unfold numbered; dsimp only; split <;> rfl

/-- A submission draws one number and leaves the rest of the protection registers (R384, R387). -/
theorem submitDesc_spec (s : State) (r : Routine) (c : Caller) (d : Desc) (prio : Nat) :
    SameButOps s (submitDesc s r c d prio) ∧ (submitDesc s r c d prio).stylus.nextId = s.stylus.nextId + 1 := by
  suffices h : SameButOps (numbered s c) (submitDesc s r c d prio) ∧
      (submitDesc s r c d prio).stylus.nextId = (numbered s c).stylus.nextId from
    ⟨(numbered_sameButOps s c).trans h.1, h.2.trans (numbered_nextId s c)⟩
  have finish (o : Op) (n : Nat) : SameButOps (numbered s c) (finishOp (numbered s c) o n 0 false 0) ∧
      (finishOp (numbered s c) o n 0 false 0).stylus.nextId = (numbered s c).stylus.nextId :=
    ⟨finishOp_sameButOps .., finishOp_nextId ..⟩
  have protect (o : Op) (a : RecArgs) :
      SameButOps (numbered s c) (finishOp (recordErr (numbered s c) a) o 4 0 false 0) ∧
      (finishOp (recordErr (numbered s c) a) o 4 0 false 0).stylus.nextId = (numbered s c).stylus.nextId :=
    ⟨(SameButReports.sameButOps (recordErr_frame _ a)).trans (finishOp_sameButOps ..),
      (finishOp_nextId ..).trans (recordErr_nextId _ a)⟩
  unfold submitDesc
  extract_lets o s1 s2 refuse k x
  split
  · exact finish _ 5
  split
  · exact protect _ _
  split
  · exact finish _ 5
  · exact protect _ _
  · exact ⟨setDie_sameButOps .., setDie_nextId ..⟩

theorem submitRaw_spec (s : State) (c : Caller) (b : Bytes) (prio : Nat) :
    SameButOps s (submitRaw s c b prio) ∧ (submitRaw s c b prio).stylus.nextId = s.stylus.nextId + 1 := by
  unfold submitRaw
  dsimp only
  split
  · exact submitDesc_spec ..
  · refine ⟨?_, ?_⟩
    · exact SameButOps.trans (by split <;> rfl) (finishOp_sameButOps ..)
    · exact finishOp_nextId ..

theorem mailboxGo_busy {s : State} {w : Writer} (hw : w ≠ .host) (hb : s.stylus.mbxBusy.isSome = true) :
    mailboxGo s w = usageReg s 0x010_0060 := by
  unfold mailboxGo
  cases w with
  | host => exact absurd rfl hw
  | bootCode => exact offerDesc_busy rfl hb _
  | easel => exact offerDesc_busy rfl hb _

theorem mailboxGo_easel {s : State} (hb : s.stylus.mbxBusy = none) :
    mailboxGo s .easel =
      submitRaw s .mailbox ((List.range 4).flatMap fun i => leBytes 8 (mapGet s.stylus.mbxDesc i 0).toNat) 0 := by
  unfold mailboxGo
  exact offerDesc_free hb .mailbox _

/-- Settles O20: each write by its writer, the lock and the mailbox. -/
theorem protectionWritesComplete : Obligations.ProtectionWritesComplete := by
  intro s v
  refine ⟨fun hl hb => ?_, fun w hl => ?_, fun w hl hw => ⟨?_, fun hc => ?_⟩, fun hl hb hc => ?_, fun w hc => ?_,
    fun w hl => ?_, ?_, fun w hw hb => ?_, fun hb => ?_⟩
  · refine ⟨_, congrArg Host.Outcome.next (writeRwb_boot hl hb _ _), ?_, rfl⟩
    rw [← hl]
  · exact ⟨_, congrArg Host.Outcome.next (writeRwb_locked hl w _ _), protReg_records ..⟩
  · exact congrArg Host.Outcome.next (writeRwb_barred hl hw _ _)
  · exact congrArg Host.Outcome.next ((writeRegion_free hc w).trans (writeRwb_barred hl hw _ _))
  · exact ⟨_, congrArg Host.Outcome.next ((writeRegion_free hc _).trans (writeRwb_boot hl hb _ _)), rfl, mapGet_mapPut_same ..,
      fun n hn => mapGet_mapPut_other _ _ _ hn⟩
  · exact ⟨_, congrArg Host.Outcome.next (writeRegion_clash hc w), protReg_records ..⟩
  · exact ⟨_, congrArg Host.Outcome.next (writeRegion_locked hl w v), protReg_records ..⟩
  · exact ⟨_, rfl, protReg_records ..⟩
  · exact ⟨_, congrArg Host.Outcome.next (mailboxGo_busy hw hb), usageReg_records ..⟩
  · intro raw
    obtain ⟨hsame, hid⟩ := submitRaw_spec s .mailbox raw 0
    refine ⟨_, congrArg Host.Outcome.next (mailboxGo_easel hb), rfl, hid, ?_, ?_, ?_, ?_⟩
    · exact (congrArg State.mem hsame :)
    · exact (congrArg (fun u : State => u.stylus.lock) hsame :)
    · exact (congrArg (fun u : State => u.stylus.regions) hsame :)
    · exact (congrArg (fun u : State => u.stylus.wp) hsame :)

end Sys2Proof.Proofs

namespace Sys2Proof.Proofs
open Sys2Proof Sys2Proof.Machine Sys2Proof.Safety

/-! ## Folio time (R433, R434) -/

/-- The marks of several ports leave as frames, and nothing else changes. -/
theorem foldl_sendReply (t : State) (b : Bytes) (ps : List Nat) :
    ps.foldl (fun s p => sendReply s .hatchFrame (1 + p) b) t =
      { t with host.replies := (ps.map fun p => ⟨.hatchFrame, 1 + p, b, []⟩).reverse ++ t.host.replies } := by
  induction ps generalizing t with
  | nil => rfl
  | cons p ps ih => rw [List.foldl_cons, ih]; simp [sendReply]

/-- The ports that are UP. -/
def upPorts (s : State) : List Nat := (List.range 8).filter fun p => (portOf s p).st == .up

theorem foldl_sendReply_time (t : State) (n : Nat) (h : t.time = n) (ps : List Nat) :
    ps.foldl (fun s p => sendReply s .hatchFrame (1 + p) (leBytes 8 s.time)) t =
      ps.foldl (fun s p => sendReply s .hatchFrame (1 + p) (leBytes 8 n)) t := by
  induction ps generalizing t with
  | nil => rfl
  | cons p ps ih => rw [List.foldl_cons, List.foldl_cons, h]; exact ih _ h

theorem sendMarks_eq (s : State) :
    sendMarks s = { s with
      host.replies := ((upPorts s).map fun p => ⟨.hatchFrame, 1 + p, leBytes 8 s.time, []⟩).reverse ++ s.host.replies } := by
  unfold sendMarks
  rw [foldl_sendReply_time s s.time rfl, foldl_sendReply]
  rfl

/-- What TIMING_MARK does once its marks have left (R433, R434, R482): `t` is the state in which they have. -/
def corrected (t : State) (offset : Option Int) : State :=
  let s := if t.folio.master ≠ 0 ∧ inService t 0 then { t with folio.master := 0 } else t
  if isMaster s then s
  else match offset with
    | none => { s with folio.holdover := true }
    | some d =>
      let s := { s with folio.holdover := false, folio.offset := d }
      if !s.folio.joined || !s.resumed then s
      else if d < 0 then countNs s
      else if 0 < d then { s with folio.slowTick := true }
      else s

theorem execTimingMark_due {s : State} (hf : inFolio s = true) (hp : periodOver s s.folio.markAt 1_000 = true)
    (o : Option Int) : execTimingMark o s = .next (corrected (sendMarks { s with folio.markAt := s.time }) o) := by
  unfold execTimingMark
  rw [if_neg (by simp [hf, hp])]
  rfl

theorem execTimingMark_early {s : State} (hr : s.resumed = true) (hp : periodOver s s.folio.markAt 1_000 = false)
    (o : Option Int) : execTimingMark o s = .next s := by
  unfold execTimingMark
  rw [if_pos (by simp [hr, hp])]

theorem countNs_time (s : State) : (countNs s).time = (s.time + 1) % 2 ^ 64 := by
  unfold countNs endWindow
  dsimp only
  split <;> rfl

/-- A member that follows the head without a path holds over. -/
theorem corrected_none {t : State} (hm : t.folio.master = 0) (hn : t.folio.number ≠ 0) :
    corrected t none = { t with folio.holdover := true } := by
  simp [corrected, isMaster, hm, Ne.symm hn]

/-- A member behind the master counts one more. -/
theorem corrected_behind {t : State} (hm : t.folio.master = 0) (hn : t.folio.number ≠ 0) (hj : t.folio.joined = true)
    (hr : t.resumed = true) {d : Int} (hd : d < 0) :
    corrected t (some d) = countNs { t with folio.holdover := false, folio.offset := d } := by
  simp [corrected, isMaster, hm, Ne.symm hn, hj, hr, hd]

/-- A member ahead of the master lets a tick pass. -/
theorem corrected_ahead {t : State} (hm : t.folio.master = 0) (hn : t.folio.number ≠ 0) (hj : t.folio.joined = true)
    (hr : t.resumed = true) {d : Int} (hd : 0 < d) :
    corrected t (some d) = { t with folio.holdover := false, folio.offset := d, folio.slowTick := true } := by
  simp [corrected, isMaster, hm, Ne.symm hn, hj, hr, hd, Int.not_lt.2 (Int.le_of_lt hd)]

/-- The head that has rejoined takes mastership back (R482). -/
theorem corrected_head {t : State} (hm : t.folio.master ≠ 0) (hi : inService t 0 = true) (hn : t.folio.number = 0)
    (o : Option Int) : corrected t o = { t with folio.master := 0 } := by
  simp [corrected, isMaster, hm, hi, hn]

/-! ## Folio joins, time floors and the management ring (R6, R434, R435, R553) -/

theorem execFolioJoin_joins {s : State} (count : Nat) (hf : inFolio s = true) (hh : isHead s = false)
    (hj : s.folio.joined = false) : execFolioJoin count s =
      .next { s with time := count % 2 ^ 64, folio.joined := true, folio.lastReach := count % 2 ^ 64 } := by
  simp [execFolioJoin, hf, hh, hj]

theorem execFolioJoin_stays {s : State} (count : Nat)
    (h : inFolio s = false ∨ isHead s = true ∨ s.folio.joined = true) : execFolioJoin count s = .next s := by
  rcases h with h | h | h <;> simp [execFolioJoin, h]

theorem execTimeFloor_early {s : State} (h : periodOver s s.floor 60_000_000_000 = false) :
    execTimeFloor s = .next s := by
  simp [execTimeFloor, h]

theorem execTimeFloor_due {s : State} (hr : s.resumed = true) (h : periodOver s s.floor 60_000_000_000 = true) :
    execTimeFloor s = .next (persist { s with floor := s.time } (.timeFloor s.time)) := by
  simp [execTimeFloor, hr, h]

theorem execManagementFrame_other {s : State} {dest : Nat} (payload : Bytes) (hf : inFolio s = true)
    (hd : domainOn s 0 = true) (h : dest ≠ s.folio.number) :
    execManagementFrame dest payload s = .next (ringSend s payload) := by
  simp [execManagementFrame, hf, hd, h]

theorem execManagementFrame_own {s : State} (payload : Bytes) (hf : inFolio s = true) (hd : domainOn s 0 = true) :
    execManagementFrame s.folio.number payload s =
      .next (if isHead s then sendReply s .sideband 2 payload else s) := by
  simp [execManagementFrame, hf, hd]

theorem execManagementRingBreak_new {s : State} {m : Nat} (hf : inFolio s = true) (hm : m < folioSize s)
    (hb : m ∉ s.folio.broken) :
    execManagementRingBreak m s = .next { s with folio.broken := s.folio.broken ++ [m] } := by
  simp [execManagementRingBreak, hf, Nat.not_le.2 hm, hb]

/-- What leaves when the marks are due: one frame to each port that is UP, and nothing else (R433). -/
theorem sendMarks_spec (s : State) :
    (sendMarks s).host.replies.length = s.host.replies.length + (upPorts s).length ∧
    (∀ p, p < 8 → (portOf s p).st = .up →
      ⟨.hatchFrame, 1 + p, leBytes 8 s.time, []⟩ ∈ (sendMarks s).host.replies) ∧
    { sendMarks s with host.replies := s.host.replies } = s := by
  rw [sendMarks_eq]
  refine ⟨by simp [Nat.add_comm], fun p hp hu => ?_, rfl⟩
  have hmem : p ∈ upPorts s := by simp [upPorts, hp, hu]
  exact List.mem_append_left _ (List.mem_reverse.2 (List.mem_map_of_mem hmem))

/-- Settles O49: the marks, the correction that follows them, and the management ring's frames. -/
theorem folioTimeAndManagementComplete : Obligations.FolioTimeAndManagementComplete := by
  intro s
  refine ⟨fun hf hr hp => ⟨sendMarks_spec { s with folio.markAt := s.time }, fun t ht => ?_⟩,
    fun hr hp o => execTimingMark_early hr hp o, execFolioJoin_joins, execFolioJoin_stays, execTimeFloor_early,
    fun hr hp => ⟨_, execTimeFloor_due hr hp, rfl, rfl, rfl⟩, fun dest payload hf hd => ⟨?_, ?_, ?_⟩,
    fun m => execManagementRingBreak_new⟩
  · have due (o : Option Int) : exec (.timingMark o) s = .next (corrected t o) := ht ▸ execTimingMark_due hf hp o
    have folio : t.folio = { s.folio with markAt := s.time } := by rw [ht, sendMarks_eq]
    have resumed : t.resumed = true := by rw [ht, sendMarks_eq]; exact hr
    have time : t.time = s.time := by rw [ht, sendMarks_eq]
    refine ⟨fun hm hn => ?_, fun hm hi hn o => ?_⟩
    · have hm' : t.folio.master = 0 := by rw [folio]; exact hm
      have hn' : t.folio.number ≠ 0 := by rw [folio]; exact hn
      refine ⟨(due none).trans (congrArg _ (corrected_none hm' hn')), fun d hj => ?_⟩
      have hj' : t.folio.joined = true := by rw [folio]; exact hj
      refine ⟨fun hd => ⟨(due _).trans (congrArg _ (corrected_behind hm' hn' hj' resumed hd)), ?_⟩,
        fun hd => (due _).trans (congrArg _ (corrected_ahead hm' hn' hj' resumed hd))⟩
      rw [countNs_time, ← time]
    · have hm' : t.folio.master ≠ 0 := by rw [folio]; exact hm
      have hi' : inService t 0 = true := by unfold inService; rw [folio]; exact hi
      have hn' : t.folio.number = 0 := by rw [folio]; exact hn
      exact (due o).trans (congrArg _ (corrected_head hm' hi' hn' o))
  · exact execManagementFrame_other payload hf hd
  · rintro rfl hh
    exact (execManagementFrame_own payload hf hd).trans (by rw [hh]; rfl)
  · rintro rfl hh
    exact (execManagementFrame_own payload hf hd).trans (by rw [hh]; rfl)

end Sys2Proof.Proofs

namespace Sys2Proof.Proofs
open Sys2Proof Sys2Proof.Machine Sys2Proof.Safety

/-! ## Register writes (R10 to R14) -/

theorem execRegisterWrite_aligned {off : Nat} (h : off % 8 = 0) (w : Writer) (v : BitVec 64) (s : State) :
    execRegisterWrite w off 8 v s = .next (writeReg s w off v) := by
  simp [execRegisterWrite, h]

theorem execRegisterWrite_ignored {off size : Nat} (h : size ≠ 8 ∨ off % 8 ≠ 0 ∨ 0x188_0000 ≤ off) (w : Writer)
    (v : BitVec 64) (s : State) : execRegisterWrite w off size v s = .next s := by
  unfold execRegisterWrite
  split
  next hal =>
    obtain ⟨hs, ho⟩ := hal
    have hr : 0x188_0000 ≤ off := by omega
    rw [writeReg, if_pos hr]
  · rfl

/-- A write into the window of tile `p`. -/
theorem execRegisterWrite_tile {p r : Nat} (hp : p < Config.tiles) (hr : r < 0x4000) (h8 : r % 8 = 0) (w : Writer)
    (v : BitVec 64) (s : State) : execRegisterWrite w (tileReg p r) 8 v s = .next (writeWindow s p r v) := by
  have hp' : p < 544 := hp
  have hw : (tileReg p r - 0x100_0000) / 0x4000 = p ∧ (tileReg p r - 0x100_0000) % 0x4000 = r := by
    unfold tileReg; omega
  rw [execRegisterWrite_aligned (by unfold tileReg; omega), writeReg, if_neg (by unfold tileReg; omega),
    if_pos (by unfold tileReg; omega), hw.1, hw.2]

/-- The tile window's command bits are commands of their own (R77). -/
theorem onUnit_tile {p : Nat} (hp : p < Config.tiles) (t : State) : onUnit (decide (p < Config.tiles)) t = .next t :=
  onUnit_next (decide_eq_true hp) t

theorem updTile_onlyTile (s : State) (p : Nat) (f : Tile → Tile) : OnlyTile s (updTile s p f) p :=
  ⟨rfl, fun _ hq => tileOf_updTile_ne s f hq⟩

/-! A register of one field: a value in range takes its place, one out of range leaves it with a USAGE record (R13). -/

theorem regOf_field16 {n : Nat} (h : n < 2 ^ 16) : (regOf [(0, 16, n)]).toNat = n := by
  simp [regOf]
  omega

theorem bitsAt_lt (v lo n : Nat) : bitsAt v lo n < 2 ^ n := Nat.mod_lt _ (Nat.two_pow_pos n)

theorem writeFields_inRange {old v : BitVec 64} {ok : Nat → Bool} (h : ok (bitsAt v.toNat 0 16) = true) :
    writeFields old v [⟨0, 16, ok⟩] = (regOf [(0, 16, bitsAt v.toNat 0 16)], false) := by
  simp [writeFields, h]

theorem writeFields_outOfRange {old v : BitVec 64} {ok : Nat → Bool} (h : ok (bitsAt v.toNat 0 16) = false) :
    writeFields old v [⟨0, 16, ok⟩] = (regOf [(0, 16, bitsAt old.toNat 0 16)], true) := by
  simp [writeFields, h]

theorem within_iff {lo hi v : Nat} : within lo hi v = true ↔ lo ≤ v ∧ v ≤ hi := by simp [within]

theorem within_eq_false {lo hi v : Nat} : within lo hi v = false ↔ v < lo ∨ hi < v := by
  simp [within]; omega

theorem writeTelem_inRange {s : State} {v : BitVec 64} (h : within 10 60000 (bitsAt v.toNat 0 16) = true) :
    writeGlb s 0x508 v = { s with easel.telemMs := (regOf [(0, 16, bitsAt v.toNat 0 16)]).setWidth 16 } := by
  simp [writeGlb, writeFields_inRange h, usageIf]

theorem writeTelem_outOfRange {s : State} {v : BitVec 64} (h : within 10 60000 (bitsAt v.toNat 0 16) = false) :
    writeGlb s 0x508 v = usageReg s 0x508 := by
  have same : (regOf [(0, 16, bitsAt (s.easel.telemMs.setWidth 64).toNat 0 16)]).setWidth 16 = s.easel.telemMs := by
    apply BitVec.eq_of_toNat_eq
    have := s.easel.telemMs.isLt
    rw [BitVec.toNat_setWidth, regOf_field16 (bitsAt_lt ..)]
    simp [bitsAt]
    omega
  simp only [writeGlb, writeFields_outOfRange h, usageIf, same, if_true]

theorem writeLimit_inRange {s : State} {v : BitVec 64} (h : within 300 900 (bitsAt v.toNat 0 16) = true) :
    writePwr s 0x08 v = { s with power.limitW := bitsAt v.toNat 0 16 } := by
  simp [writePwr, writeFields_inRange h, usageIf, regOf_field16 (bitsAt_lt ..)]

theorem recordErr_telemMs (s : State) (a : RecArgs) : (recordErr s a).easel.telemMs = s.easel.telemMs := by
  unfold recordErr
  dsimp only
  split
  · rfl
  · exact (congrArg (fun u : State => u.easel.telemMs) (reportRec_frame _ _) :)

/-! The protection block (R394, R397, R398). -/

theorem writeWp_locked {s : State} (hl : s.stylus.lock = true) (hk : s.stylus.wpSel.toNat < 14306) (w : Writer)
    (v : BitVec 64) : writeWp s w v = protReg s 0x010_0018 true := by
  rw [writeWp, if_neg (Nat.not_le.2 hk), writeRwb_locked hl]

/-- The host may not write the mailbox's descriptor. -/
theorem writeMailbox_host {k : Nat} (hk : k < 4) (s : State) (v : BitVec 64) :
    exec (.registerWrite .host (0x100040 + 8 * k) 8 v) s = .next (protReg s (0x100040 + 8 * k) true) := by
  interval_cases k <;> rfl

theorem writeMailbox_easel {k : Nat} (hk : k < 4) (s : State) (v : BitVec 64) :
    exec (.registerWrite .easel (0x100040 + 8 * k) 8 v) s =
      .next { s with stylus.mbxDesc := mapPut s.stylus.mbxDesc k v } := by
  interval_cases k <;> rfl

theorem readMailbox {k : Nat} (hk : k < 4) (s : State) :
    readReg s (0x100040 + 8 * k) = mapGet s.stylus.mbxDesc k 0 := by
  interval_cases k <;> rfl

/-- Settles O21: an access by its size and place, a selector as its command, a field by its range, and the protection block by
the writer and the lock. -/
theorem registerWritesComplete : Obligations.RegisterWritesComplete := by
  intro s w v
  refine ⟨fun off size h => execRegisterWrite_ignored h w v s, rfl, rfl, rfl, rfl, fun p hp => ⟨?_, ?_⟩, fun p hp => ?_,
    fun hlo hhi => ?_, fun h => ?_, ⟨_, rfl, rfl, rfl⟩, fun hlo hhi => ?_, fun hl hk => ?_, fun k hk => ?_, fun k hk => ?_⟩
  · exact (execRegisterWrite_tile hp (by decide) rfl w 2 s).trans (onUnit_tile hp _).symm
  · exact (execRegisterWrite_tile hp (by decide) rfl w 1 s).trans (onUnit_tile hp _).symm
  · exact ⟨_, execRegisterWrite_tile hp (by decide) rfl w v s, updTile_onlyTile s p _, tileOf_updTile ..⟩
  · refine ⟨_, congrArg Host.Outcome.next (writeTelem_inRange (within_iff.2 ⟨hlo, hhi⟩)), rfl, ?_⟩
    rw [BitVec.toNat_setWidth, regOf_field16 (bitsAt_lt ..), Nat.mod_eq_of_lt (bitsAt_lt ..)]
  · obtain ⟨hsame, hrec⟩ := usageReg_records s 0x508
    exact ⟨_, congrArg Host.Outcome.next (writeTelem_outOfRange (within_eq_false.2 h)), hsame, recordErr_telemMs .., hrec⟩
  · exact ⟨_, congrArg Host.Outcome.next (writeLimit_inRange (within_iff.2 ⟨hlo, hhi⟩)), rfl, rfl⟩
  · exact ⟨_, congrArg Host.Outcome.next (writeWp_locked hl hk w v), protReg_records ..⟩
  · exact ⟨_, writeMailbox_host hk s v, protReg_records ..⟩
  · exact ⟨_, writeMailbox_easel hk s v, rfl, (readMailbox hk _).trans (mapGet_mapPut_same ..)⟩

end Sys2Proof.Proofs

namespace Sys2Proof.Proofs
open Sys2Proof Sys2Proof.Machine Sys2Proof.Safety

/-! ### What a function of the model leaves unchanged

The state is cut into areas. `view p s` keeps the fields of area `p` alone, so that `view p (f s) = view p s` says that `f` leaves
that area. There is one lemma `view_f` for each function `f` of the model that answers a state: its hypothesis lists the areas that `f`
may change, and its proof uses the lemmas of the functions that `f` calls. -/

/-- The parts of the state that a command may change or leave. -/
inductive Area where
  | memory | pages | tables | indexes | lexical | moves | cache | contexts | requests | streams
  | fabric | tiles | stations | clock | selectors | recovery | calibration | boot | power | folio
  | protection | media | host | integrity | easel | draws | queue | rest
deriving DecidableEq

/-- One part of the state: the fields of the others are as after reset. -/
def view (p : Area) (s : State) : State :=
  match p with
  | .memory => { State.reset with mem := s.mem, poison := s.poison }
  | .pages => { State.reset with pages := s.pages }
  | .tables => { State.reset with
      tables := s.tables, migLog := s.migLog, updates := s.updates, scatters := s.scatters,
      readCtrs := s.readCtrs }
  | .indexes => { State.reset with indexes := s.indexes }
  | .lexical => { State.reset with vocabs := s.vocabs, norms := s.norms, grammars := s.grammars }
  | .moves => { State.reset with
      copies := s.copies, queued := s.queued, inflight := s.inflight, reads := s.reads, runs := s.runs,
      nextRun := s.nextRun }
  | .cache => { State.reset with cache := s.cache, cacheOrder := s.cacheOrder, allocOrder := s.allocOrder }
  | .contexts => { State.reset with ctxs := s.ctxs }
  | .requests => { State.reset with reqs := s.reqs, nextRid := s.nextRid, admitPtr := s.admitPtr }
  | .streams => { State.reset with streams := s.streams }
  | .fabric => { State.reset with arbiters := s.arbiters, boundaries := s.boundaries }
  | .tiles => { State.reset with tiles := s.tiles }
  | .stations => { State.reset with encodes := s.encodes, fronts := s.fronts, gens := s.gens, engines := s.engines }
  | .clock => { State.reset with time := s.time, resumed := s.resumed, floor := s.floor, timeStarted := s.timeStarted }
  | .selectors => { State.reset with mon := s.mon }
  | .recovery => { State.reset with recov := s.recov }
  | .calibration => { State.reset with cal := s.cal }
  | .boot => { State.reset with boot := s.boot }
  | .power => { State.reset with power := s.power }
  | .folio => { State.reset with folio := s.folio }
  | .protection => { State.reset with stylus := s.stylus }
  | .media => { State.reset with media := s.media }
  | .host => { State.reset with host := s.host }
  | .integrity => { State.reset with integ := s.integ }
  | .easel => { State.reset with easel := s.easel }
  | .draws => { State.reset with freeCtr := s.freeCtr }
  | .queue => { State.reset with pending := s.pending }
  | .rest => { State.reset with hard := s.hard, readWin := s.readWin, lastTime := s.lastTime }

/-- A record update leaves the parts whose fields it repeats. -/
@[simp] theorem view_update {p : Area} {t : State}
    {x1 x2 x3 x4 x5 x6 x7 x8 x9 x10 x11 x12 x13 x14 x15 x16 x17 x18 x19 x20 x21 x22 x23 x24 x25 x26 x27 x28 x29 x30 x31 x32 x33 x34 x35 x36
        x37 x38 x39 x40 x41 x42 x43 x44 x45 x46 x47 x48 x49 x50 x51 x52 : _}
    (_ : p = .memory → x19 = t.mem ∧ x20 = t.poison)
    (_ : p = .pages → x21 = t.pages)
    (_ : p = .tables → x26 = t.tables ∧ x27 = t.migLog ∧ x30 = t.updates ∧ x31 = t.scatters ∧ x28 = t.readCtrs)
    (_ : p = .indexes → x34 = t.indexes)
    (_ : p = .lexical → x35 = t.vocabs ∧ x36 = t.norms ∧ x37 = t.grammars)
    (_ : p = .moves → x22 = t.copies ∧ x23 = t.queued ∧ x24 = t.inflight ∧ x25 = t.reads ∧ x32 = t.runs ∧ x33 = t.nextRun)
    (_ : p = .cache → x16 = t.cache ∧ x17 = t.cacheOrder ∧ x18 = t.allocOrder)
    (_ : p = .contexts → x12 = t.ctxs)
    (_ : p = .requests → x13 = t.reqs ∧ x14 = t.nextRid ∧ x15 = t.admitPtr)
    (_ : p = .streams → x8 = t.streams)
    (_ : p = .fabric → x9 = t.arbiters ∧ x10 = t.boundaries)
    (_ : p = .tiles → x7 = t.tiles)
    (_ : p = .stations → x38 = t.encodes ∧ x39 = t.fronts ∧ x40 = t.gens ∧ x41 = t.engines)
    (_ : p = .clock → x2 = t.time ∧ x3 = t.resumed ∧ x6 = t.floor ∧ x4 = t.timeStarted)
    (_ : p = .selectors → x52 = t.mon)
    (_ : p = .recovery → x47 = t.recov)
    (_ : p = .calibration → x48 = t.cal)
    (_ : p = .boot → x50 = t.boot)
    (_ : p = .power → x49 = t.power)
    (_ : p = .folio → x45 = t.folio)
    (_ : p = .protection → x43 = t.stylus)
    (_ : p = .media → x42 = t.media)
    (_ : p = .host → x44 = t.host)
    (_ : p = .integrity → x46 = t.integ)
    (_ : p = .easel → x51 = t.easel)
    (_ : p = .draws → x1 = t.freeCtr)
    (_ : p = .rest → x11 = t.hard ∧ x29 = t.readWin ∧ x5 = t.lastTime) :
    view p (State.mk t.pending x1 x2 x3 x4 x5 x6 x7 x8 x9 x10 x11 x12 x13 x14 x15 x16 x17 x18 x19 x20 x21 x22 x23 x24 x25 x26 x27 x28 x29
        x30 x31 x32 x33 x34 x35 x36 x37 x38 x39 x40 x41 x42 x43 x44 x45 x46 x47 x48 x49 x50 x51 x52) = view p t := by
  cases p <;> simp_all [view]

section
variable {p : Area}

@[simp] theorem view_ite {c : Prop} [Decidable c] {s t : State} :
    view p (if c then s else t) = if c then view p s else view p t := by
  split <;> rfl

/-- A loop leaves an area that each of its rounds leaves. -/
@[simp] theorem view_foldl {α : Type} {f : State → α → State} (hf : ∀ t a, view p (f t a) = view p t) {l : List α} {s : State} :
    view p (l.foldl f s) = view p s := by
  induction l generalizing s with
  | nil => rfl
  | cons a l ih => rw [List.foldl_cons, ih, hf]

/-- The same for a loop that carries a value before the state. -/
theorem view_foldl_snd {α β : Type} {f : β × State → α → β × State} (hf : ∀ t a, view p (f t a).2 = view p t.2) (l : List α)
    (x : β × State) : view p (l.foldl f x).2 = view p x.2 := by
  induction l generalizing x with
  | nil => rfl
  | cons a l ih => rw [List.foldl_cons, ih, hf]

/-- The same for a loop that carries a value after the state. -/
theorem view_foldl_fst {α β : Type} {f : State × β → α → State × β} (hf : ∀ t a, view p (f t a).1 = view p t.1) (l : List α)
    (x : State × β) : view p (l.foldl f x).1 = view p x.1 := by
  induction l generalizing x with
  | nil => rfl
  | cons a l ih => rw [List.foldl_cons, ih, hf]

/-- A check that passed. -/
theorem ok_of_ite_error {ε α : Type} {c : Prop} [Decidable c] {a : ε} {x : Except ε α} {y : α}
    (e : (if c then .error a else x) = .ok y) : x = .ok y := by
  split at e
  · cases e
  · exact e

/-- The same for a loop that may fail. -/
theorem view_foldl_bind {α β : Type} {π : β → State} {g : α → β → Option β}
    (hg : ∀ r a b, g r a = some b → view p (π b) = view p (π a)) {l : List α} {a b : β}
    (e : l.foldl (fun acc r => acc.bind (g r)) (some a) = some b) : view p (π b) = view p (π a) := by
  induction l generalizing a with
  | nil => cases e; rfl
  | cons r l ih =>
    rw [List.foldl_cons, Option.bind_some] at e
    cases hr : g r a with
    | none => rw [hr, List.foldl_fixed' (fun _ => rfl)] at e; cases e
    | some c => rw [hr] at e; exact (ih e).trans (hg r a c hr)

/-- A step that may fail, with its fallback. -/
theorem view_getD {o : Option State} {s t : State} (ht : view p t = view p s) (ho : ∀ u, o = some u → view p u = view p s) :
    view p (o.getD t) = view p s := by
  cases o with
  | none => exact ht
  | some u => exact ho u rfl

/-- The state of a pair that was taken apart. -/
theorem view_of_snd_eq {α : Type} {x : α × State} {a : α} {s t : State} (e : x = (a, t)) (hx : view p x.2 = view p s) :
    view p t = view p s := by
  rw [e] at hx
  exact hx

/-! ### Ops -/

@[simp] theorem view_setTile (h : p ∉ [.tiles]) {s x1 t} :
    view p (setTile s x1 t) = view p s := by simp_all [setTile]

@[simp] theorem view_updTile (h : p ∉ [.tiles]) {s x1 f} :
    view p (updTile s x1 f) = view p s := by simp_all [updTile]

@[simp] theorem view_setCtx (h : p ∉ [.contexts]) {s c x} :
    view p (setCtx s c x) = view p s := by simp_all [setCtx]

@[simp] theorem view_updCtx (h : p ∉ [.contexts]) {s c f} :
    view p (updCtx s c f) = view p s := by simp_all [updCtx]

@[simp] theorem view_setStream (h : p ∉ [.streams]) {s n x} :
    view p (setStream s n x) = view p s := by simp_all [setStream]

@[simp] theorem view_updStream (h : p ∉ [.streams]) {s n f} :
    view p (updStream s n f) = view p s := by simp_all [updStream]

@[simp] theorem view_updReq (h : p ∉ [.requests]) {s r f} :
    view p (updReq s r f) = view p s := by simp_all [updReq]

@[simp] theorem view_draw (h : p ∉ [.draws]) {s n} :
    view p (draw s n).2 = view p s := by simp_all [draw]

@[simp] theorem view_toMembers (h : p ∉ [.host]) {s b} :
    view p (toMembers s b) = view p s := by simp_all [toMembers]

@[simp] theorem view_toRejoining (h : p ∉ [.host, .draws]) {s holders b} :
    view p (toRejoining s holders b) = view p s := by simp_all [toRejoining]

@[simp] theorem view_askMembers (h : p ∉ [.host, .draws]) {answer s b} :
    view p (askMembers answer s b).2 = view p s := by
  unfold askMembers
  split <;> simp_all

@[simp] theorem view_farDraining (h : p ∉ [.draws]) {s} :
    view p (farDraining s).2 = view p s := by
  unfold farDraining
  split <;> simp_all

@[simp] theorem view_sendReply (h : p ∉ [.host]) {s c status data poison} :
    view p (sendReply s c status data poison) = view p s := by simp_all [sendReply]

@[simp] theorem view_postCpl (h : p ∉ [.host]) {s c} :
    view p (postCpl s c) = view p s := by
  unfold postCpl
  split <;> simp_all

@[simp] theorem view_eventCpl (h : p ∉ [.host]) {s cid key lid} :
    view p (eventCpl s cid key lid) = view p s := by simp_all [eventCpl]

@[simp] theorem view_raiseEvent (h : p ∉ [.host]) {s key lid} :
    view p (raiseEvent s key lid) = view p s := by
  unfold raiseEvent
  dsimp only
  (repeat' split) <;> simp_all

@[simp] theorem view_forwardRecs (h : p ∉ [.host, .integrity]) {s} :
    view p (forwardRecs s) = view p s := by simp_all [forwardRecs]

@[simp] theorem view_reportRec (h : p ∉ [.host, .integrity]) {s r} :
    view p (reportRec s r) = view p s := by
  unfold reportRec
  split <;> simp_all

@[simp] theorem view_recordErr (h : p ∉ [.host, .integrity, .easel, .draws]) {s a} :
    view p (recordErr s a) = view p s := by
  unfold recordErr
  dsimp only
  split <;> simp_all

@[simp] theorem view_usageReg (h : p ∉ [.host, .integrity, .easel, .draws]) {s offset} :
    view p (usageReg s offset) = view p s := by simp_all [usageReg]

@[simp] theorem view_protReg (h : p ∉ [.host, .integrity, .easel, .draws]) {s offset write} :
    view p (protReg s offset write) = view p s := by simp_all [protReg]

@[simp] theorem view_complete (h : p ∉ [.host]) {s o sct sc dnr dw0 dw1 data more} :
    view p (complete s o sct sc dnr dw0 dw1 data more) = view p s := by
  unfold complete
  (repeat' split) <;> simp_all

@[simp] theorem view_vendorCpl (h : p ∉ [.host]) {s o mask hi dw1} :
    view p (vendorCpl s o mask hi dw1) = view p s := by simp_all [vendorCpl]

@[simp] theorem view_adminDone (h : p ∉ [.host]) {s cid hi dw1} :
    view p (adminDone s cid hi dw1) = view p s := by simp_all [adminDone]

@[simp] theorem view_adminRefuse (h : p ∉ [.host]) {s cid st reason} :
    view p (adminRefuse s cid st reason) = view p s := by simp_all [adminRefuse]

@[simp] theorem view_stdCpl (h : p ∉ [.host]) {s o sct sc dnr dw0 data} :
    view p (stdCpl s o sct sc dnr dw0 data) = view p s := by simp_all [stdCpl]

@[simp] theorem view_noteOverload (h : p ∉ [.easel]) {s} :
    view p (noteOverload s) = view p s := by simp_all [noteOverload]

@[simp] theorem view_enqueue3 (h : p ∉ [.easel]) {s} :
    view p (enqueue3 s) = view p s := by simp_all [enqueue3]

@[simp] theorem view_countRefusal (h : p ∉ [.easel]) {s} :
    view p (countRefusal s) = view p s := by simp_all [countRefusal]

@[simp] theorem view_takeSq (h : p ∉ [.host]) {s q} :
    view p (takeSq s q) = view p s := by simp_all [takeSq]

@[simp] theorem view_busyOr (h : p ∉ [.host, .easel]) {s t cid us} :
    view p (busyOr s t cid us) = view p s := by
  unfold busyOr
  split <;> simp_all

@[simp] theorem view_adminCmd (h : p ∉ [.host, .easel]) {s cid delivery f} (hf : ∀ t, view p (f t) = view p t) :
    view p (adminCmd s cid delivery f) = view p s := by simp_all [adminCmd]

@[simp] theorem view_onMembers (h : p ∉ [.host, .draws]) {s cid frame f} (hf : ∀ t, view p (f t) = view p t) :
    view p (onMembers s cid frame f) = view p s := by
  have := view_askMembers (p := p) (by simp_all) (answer := Config.farRefuses) (s := s) (b := frame)
  unfold onMembers
  split <;> simp_all

@[simp] theorem view_adminCmdAlways (h : p ∉ [.host, .easel]) {s f} (hf : ∀ t, view p (f t) = view p t) :
    view p (adminCmdAlways s f) = view p s := by simp_all [adminCmdAlways]

@[simp] theorem view_ioCmd (h : p ∉ [.host]) {s sq cid f} (hf : ∀ t, view p (f t) = view p t) :
    view p (ioCmd s sq cid f) = view p s := by simp_all [ioCmd]

@[simp] theorem view_enterPhase (h : p ∉ [.host, .integrity]) {s ph} :
    view p (enterPhase s ph) = view p s := by simp_all [enterPhase]

/-! ### StreamOps -/

@[simp] theorem view_crossBoundary (h : p ∉ [.fabric]) {s b} :
    view p (crossBoundary s b) = view p s := by simp_all [crossBoundary]

@[simp] theorem view_pumpStream (h : p ∉ [.streams, .fabric]) {s n} :
    view p (pumpStream s n) = view p s := by
  unfold pumpStream
  dsimp only
  (repeat' split) <;> simp_all

@[simp] theorem view_emitOut (h : p ∉ [.streams, .fabric]) {s n sh fresh} :
    view p (emitOut s n sh fresh) = view p s := by simp_all [emitOut]

@[simp] theorem view_emitAll (h : p ∉ [.streams, .fabric]) {s n shs} :
    view p (emitAll s n shs) = view p s := by simp_all [emitAll]

@[simp] theorem view_freeSlots (h : p ∉ [.streams]) {s n k} :
    view p (freeSlots s n k) = view p s := by
  unfold freeSlots
  split <;> simp_all

@[simp] theorem view_releaseOwed (h : p ∉ [.streams]) {s stn c} :
    view p (releaseOwed s stn c) = view p s := by simp_all [releaseOwed]

@[simp] theorem view_newBatch (h : p ∉ [.contexts]) {s c} :
    view p (newBatch s c).2 = view p s := by simp_all [newBatch]

@[simp] theorem view_emitLocal (h : p ∉ [.streams, .fabric]) {s c l sh fresh} :
    view p (emitLocal s c l sh fresh) = view p s := by
  unfold emitLocal
  split <;> simp_all

/-! ### TileOps -/

@[simp] theorem view_tileRec (h : p ∉ [.host, .integrity, .easel, .draws]) {s x1 cls op addr a poison} :
    view p (tileRec s x1 cls op addr a poison) = view p s := by simp_all [tileRec]

@[simp] theorem view_haltTile (h : p ∉ [.tiles, .host, .integrity, .easel, .draws]) {s x1 bit cls op addr a} :
    view p (haltTile s x1 bit cls op addr a) = view p s := by simp_all [haltTile]

@[simp] theorem view_settle (h : p ∉ [.tiles]) {s x1} :
    view p (settle s x1) = view p s := by simp_all [settle]

@[simp] theorem view_releaseSlot (h : p ∉ [.streams, .tiles]) {s x1 x} :
    view p (releaseSlot s x1 x) = view p s := by
  unfold releaseSlot
  dsimp only
  split <;> simp_all

@[simp] theorem view_releaseUse (h : p ∉ [.streams, .tiles]) {s x1 x} :
    view p (releaseUse s x1 x) = view p s := by simp_all [releaseUse]

@[simp] theorem view_releaseAll (h : p ∉ [.streams, .tiles]) {s x1 xs} :
    view p (releaseAll s x1 xs) = view p s := by simp_all [releaseAll]

@[simp] theorem view_writtenSheet (h : p ∉ [.draws]) {s t buf o flags x5} :
    view p (writtenSheet s t buf o flags x5).2 = view p s := by simp_all [writtenSheet]

@[simp] theorem view_onIssue (h : p ∉ [.tiles, .host, .integrity, .easel, .draws]) {s q n op run}
    (hrun : ∀ t i k w, view p (run s t i k w) = view p s) : view p (onIssue s q n op run) = view p s := by
  simp at h
  unfold onIssue
  dsimp only
  (repeat' split) <;> simp [h, hrun]

@[simp] theorem view_issueVector (h : p ∉ [.tiles, .draws]) {s x1 n t i k w o srcs} :
    view p (issueVector s x1 n t i k w o srcs) = view p s := by simp_all [issueVector]

@[simp] theorem view_formatMismatch (h : p ∉ [.tiles, .host, .integrity, .easel, .draws]) {s x1 addr cls} :
    view p (formatMismatch s x1 addr cls) = view p s := by simp_all [formatMismatch]

/-! ### Strokes -/

theorem view_execNop (h : p ∉ [.tiles, .host, .integrity, .easel, .draws]) {x0 n s} {u}
    (e : execNop x0 n s = .next u) : view p u = view p s := by
  obtain ⟨-, rfl⟩ := onUnit_cases e
  simp at h
  simp [h]

@[simp] theorem view_runMma (h : p ∉ [.streams, .tiles, .host, .integrity, .easel, .draws]) {x0 n s t i k w} :
    view p (runMma x0 n s t i k w) = view p s := by simp_all [runMma]

theorem view_execMma (h : p ∉ [.streams, .tiles, .host, .integrity, .easel, .draws]) {x0 n s} {u}
    (e : execMma x0 n s = .next u) : view p u = view p s := by
  obtain ⟨-, rfl⟩ := onUnit_cases e
  simp at h
  simp [h]

@[simp] theorem view_runPreload (h : p ∉ [.streams, .tiles, .host, .integrity, .easel, .draws]) {x0 n s t i k w} :
    view p (runPreload x0 n s t i k w) = view p s := by
  unfold runPreload
  dsimp only
  split <;> simp_all

theorem view_execPreload (h : p ∉ [.streams, .tiles, .host, .integrity, .easel, .draws]) {x0 n s} {u}
    (e : execPreload x0 n s = .next u) : view p u = view p s := by
  obtain ⟨-, rfl⟩ := onUnit_cases e
  simp at h
  simp [h]

@[simp] theorem view_drainSheets (h : p ∉ [.draws]) {s t k} :
    view p (drainSheets s t k).2 = view p s := by
  simp_all [drainSheets, view_foldl_snd]

@[simp] theorem view_runDrain (h : p ∉ [.tiles, .draws]) {x0 n s t i k w} :
    view p (runDrain x0 n s t i k w) = view p s := by simp_all [runDrain]

theorem view_execDrain (h : p ∉ [.tiles, .host, .integrity, .easel, .draws]) {x0 n s} {u}
    (e : execDrain x0 n s = .next u) : view p u = view p s := by
  obtain ⟨-, rfl⟩ := onUnit_cases e
  simp at h
  simp [h]

theorem view_execCtbl (h : p ∉ [.tiles, .host, .integrity, .easel, .draws]) {x0 n s} {u}
    (e : execCtbl x0 n s = .next u) : view p u = view p s := by
  obtain ⟨-, rfl⟩ := onUnit_cases e
  simp at h
  simp [h]

@[simp] theorem view_runVector (h : p ∉ [.tiles, .host, .integrity, .easel, .draws]) {x0 n f s t i k w} :
    view p (runVector x0 n f s t i k w) = view p s := by simp_all [runVector]

theorem view_execVop (h : p ∉ [.tiles, .host, .integrity, .easel, .draws]) {x0 n s} {u}
    (e : execVop x0 n s = .next u) : view p u = view p s := by
  obtain ⟨-, rfl⟩ := onUnit_cases e
  simp at h
  simp [h]

theorem view_execFunc (h : p ∉ [.tiles, .host, .integrity, .easel, .draws]) {x0 n s} {u}
    (e : execFunc x0 n s = .next u) : view p u = view p s := by
  obtain ⟨-, rfl⟩ := onUnit_cases e
  simp at h
  simp [h]

theorem view_execReduce (h : p ∉ [.tiles, .host, .integrity, .easel, .draws]) {x0 n s} {u}
    (e : execReduce x0 n s = .next u) : view p u = view p s := by
  obtain ⟨-, rfl⟩ := onUnit_cases e
  simp at h
  simp [h]

theorem view_execCvt (h : p ∉ [.tiles, .host, .integrity, .easel, .draws]) {x0 n s} {u}
    (e : execCvt x0 n s = .next u) : view p u = view p s := by
  obtain ⟨-, rfl⟩ := onUnit_cases e
  simp at h
  simp [h]

theorem view_execSignpack (h : p ∉ [.tiles, .host, .integrity, .easel, .draws]) {x0 n s} {u}
    (e : execSignpack x0 n s = .next u) : view p u = view p s := by
  obtain ⟨-, rfl⟩ := onUnit_cases e
  simp at h
  simp [h]

@[simp] theorem view_runEmit (h : p ∉ [.streams, .fabric, .tiles, .host, .integrity, .easel, .draws]) {x0 n ce ue s t i k} :
    view p (runEmit x0 n ce ue s t i k) = view p s := by
  unfold runEmit
  split <;> simp_all

theorem view_execEmit (h : p ∉ [.streams, .fabric, .tiles, .host, .integrity, .easel, .draws]) {x0 o s} {u}
    (e : execEmit x0 o s = .next u) : view p u = view p s := by
  obtain ⟨-, rfl⟩ := onUnit_cases e
  simp at h
  simp [h]

theorem view_execRelease (h : p ∉ [.streams, .tiles, .host, .integrity, .easel, .draws]) {x0 n s} {u}
    (e : execRelease x0 n s = .next u) : view p u = view p s := by
  obtain ⟨-, rfl⟩ := onUnit_cases e
  simp at h
  simp [h]

theorem view_execCopy (h : p ∉ [.tiles, .host, .integrity, .easel, .draws]) {x0 n s} {u}
    (e : execCopy x0 n s = .next u) : view p u = view p s := by
  obtain ⟨-, rfl⟩ := onUnit_cases e
  simp at h
  simp [h]

theorem view_execInvalidStroke (h : p ∉ [.tiles, .host, .integrity, .easel, .draws]) {x0 o s} {u}
    (e : execInvalidStroke x0 o s = .next u) : view p u = view p s := by
  obtain ⟨-, rfl⟩ := onUnit_cases e
  simp at h
  dsimp only
  (repeat' split) <;> simp [h]

@[simp] theorem view_rerunDrain (h : p ∉ [.tiles, .draws]) {s x1 idx x3 counted} :
    view p (rerunDrain s x1 idx x3 counted) = view p s := by simp_all [rerunDrain]

@[simp] theorem view_finishExec (h : p ∉ [.streams, .tiles, .host, .integrity, .easel, .draws]) {s x1 idx x3} :
    view p (finishExec s x1 idx x3) = view p s := by
  simp at h
  unfold finishExec
  dsimp only
  split <;> simp [h]

@[simp] theorem view_mismatchExec (h : p ∉ [.streams, .tiles, .host, .integrity, .easel, .draws]) {s x1 idx x3 n} :
    view p (mismatchExec s x1 idx x3 n) = view p s := by simp_all [mismatchExec]

theorem view_execStrokeComplete (h : p ∉ [.streams, .tiles, .host, .integrity, .easel, .draws]) {x0 idx obs s} {u}
    (e : execStrokeComplete x0 idx obs s = .next u) : view p u = view p s := by
  obtain ⟨-, rfl⟩ := onUnit_cases e
  simp at h
  dsimp only
  (repeat' split) <;> simp [h]

/-! ### ContextOps -/

@[simp] theorem view_checkOvercommit (h : p ∉ [.contexts, .host]) {s} :
    view p (checkOvercommit s) = view p s := by simp_all [checkOvercommit]

@[simp] theorem view_clearOvercommit (h : p ∉ [.contexts]) {s} :
    view p (clearOvercommit s) = view p s := by simp_all [clearOvercommit]

@[simp] theorem view_recordsChanged (h : p ∉ [.cache]) {s} :
    view p (recordsChanged s) = view p s := by simp_all [recordsChanged]

@[simp] theorem view_writeRoles (h : p ∉ [.cache, .boot]) {s} :
    view p (writeRoles s) = view p s := by simp_all [writeRoles]

@[simp] theorem view_retireTile (h : p ∉ [.cache, .contexts, .tiles, .boot, .host]) {s x1} :
    view p (retireTile s x1) = view p s := by simp_all [retireTile]

@[simp] theorem view_freeTiles (h : p ∉ [.cache, .contexts, .tiles, .boot, .host]) {s ps} :
    view p (freeTiles s ps) = view p s := by simp_all [freeTiles]

@[simp] theorem view_wakeDomain (h : p ∉ [.tiles, .power]) {s d} :
    view p (wakeDomain s d) = view p s := by simp_all [wakeDomain]

@[simp] theorem view_dropDomain (h : p ∉ [.tiles, .power]) {s d} :
    view p (dropDomain s d) = view p s := by simp_all [dropDomain]

@[simp] theorem view_dropIdleDomains (h : p ∉ [.tiles, .power]) {s} :
    view p (dropIdleDomains s) = view p s := by
  simp at h
  unfold dropIdleDomains
  dsimp only
  (repeat' split) <;> simp [h]

theorem view_allocGroups (h : p ∉ [.pages, .media]) {s n x2} {a u}
    (e : allocGroups s n x2 = some (a, u)) : view p u = view p s := by
  unfold allocGroups at e
  dsimp only at e
  (repeat' split at e) <;> cases e <;> simp_all

theorem view_allocPages (h : p ∉ [.pages, .media]) {s t n x3} {a u}
    (e : allocPages s t n x3 = some (a, u)) : view p u = view p s := by
  unfold allocPages at e
  split at e
  · exact view_allocGroups h e
  · dsimp only at e
    split at e <;> cases e
    simp_all

@[simp] theorem view_freePages (h : p ∉ [.pages]) {s ps} :
    view p (freePages s ps) = view p s := by simp_all [freePages]

@[simp] theorem view_freeWhere (h : p ∉ [.pages]) {s q} :
    view p (freeWhere s q) = view p s := by simp_all [freeWhere]

@[simp] theorem view_zeroPage (h : p ∉ [.memory]) {s x1} :
    view p (zeroPage s x1) = view p s := by simp_all [zeroPage]

@[simp] theorem view_memWrite (h : p ∉ [.memory]) {s a bs mark} :
    view p (memWrite s a bs mark) = view p s := by simp_all [memWrite]

@[simp] theorem view_setWindow (h : p ∉ [.memory, .host]) {s m} :
    view p (setWindow s m) = view p s := by simp_all [setWindow]

@[simp] theorem view_dropReq (h : p ∉ [.requests]) {s rid} :
    view p (dropReq s rid) = view p s := by simp_all [dropReq]

@[simp] theorem view_refuseHeld (h : p ∉ [.requests, .host]) {s c} :
    view p (refuseHeld s c) = view p s := by simp_all [refuseHeld]

@[simp] theorem view_enterCtx (h : p ∉ [.contexts, .requests, .tiles, .host]) {s c st} :
    view p (enterCtx s c st) = view p s := by
  unfold enterCtx
  split <;> simp_all

@[simp] theorem view_afterReq (h : p ∉ [.contexts, .requests, .tiles, .host]) {s c} :
    view p (afterReq s c) = view p s := by simp_all [afterReq]

@[simp] theorem view_healShards (h : p ∉ [.folio]) {s kind id} :
    view p (healShards s kind id) = view p s := by simp_all [healShards]

/-! ### MediaOps -/

@[simp] theorem view_setBlock (h : p ∉ [.media]) {s k b} :
    view p (setBlock s k b) = view p s := by simp_all [setBlock]

@[simp] theorem view_updBlock (h : p ∉ [.media]) {s k f} :
    view p (updBlock s k f) = view p s := by simp_all [updBlock]

/-! ### TableOps -/

@[simp] theorem view_pagesWrite (h : p ∉ [.memory]) {s pages off bs mark} :
    view p (pagesWrite s pages off bs mark) = view p s := by simp_all [pagesWrite]

@[simp] theorem view_remoteRow (h : p ∉ [.host, .draws]) {s t r} :
    view p (remoteRow s t r).2 = view p s := by simp_all [remoteRow]

@[simp] theorem view_anyRow (h : p ∉ [.host, .draws]) {s v r origin} :
    view p (anyRow s v r origin).2 = view p s := by
  unfold anyRow
  split
  · rfl
  · split <;> simp_all

@[simp] theorem view_indexBlocks (h : p ∉ [.host, .draws]) {s v i origin} :
    view p (indexBlocks s v i origin).2 = view p s := by
  unfold indexBlocks
  dsimp only
  (repeat' split) <;> simp_all

/-! ### FeedOps -/

@[simp] theorem view_readDone (h : p ∉ [.moves]) {s c r ver pages b} :
    view p (readDone s c r ver pages b) = view p s := by simp_all [readDone]

@[simp] theorem view_openWindows (h : p ∉ [.tiles, .calibration]) {s c b origin} :
    view p (openWindows s c b origin) = view p s := by
  unfold openWindows
  split <;> simp_all

@[simp] theorem view_formBatch (h : p ∉ [.contexts, .tiles, .calibration]) {s c} :
    view p (formBatch s c).2 = view p s := by simp_all [formBatch]

@[simp] theorem view_newRun (h : p ∉ [.moves]) {s c k tag origin base n flags} :
    view p (newRun s c k tag origin base n flags).2 = view p s := by simp_all [newRun]

@[simp] theorem view_putPart (h : p ∉ [.moves]) {s run i x3} :
    view p (putPart s run i x3) = view p s := by simp_all [putPart]

@[simp] theorem view_sweepRun (h : p ∉ [.moves]) {s c k tag origin} :
    view p (sweepRun s c k tag origin) = view p s := by
  unfold sweepRun
  split <;> simp_all

@[simp] theorem view_startFeeds (h : p ∉ [.moves, .contexts, .tiles, .calibration]) {s c} :
    view p (startFeeds s c) = view p s := by simp_all [startFeeds]

@[simp] theorem view_storeQueued (h : p ∉ [.memory]) {s x sh} :
    view p (storeQueued s x sh) = view p s := by simp_all [storeQueued]

/-! ### Tiles -/

theorem view_execFirstNanTrap (h : p ∉ [.contexts, .tiles, .host]) {x0 s} {u}
    (e : execFirstNanTrap x0 s = .next u) : view p u = view p s := by
  obtain ⟨-, rfl⟩ := onUnit_cases e
  simp at h
  dsimp only
  (repeat' split) <;> simp [h]

theorem view_execHandshakeTimeout (h : p ∉ [.cache, .contexts, .tiles, .boot, .host]) {x0 s} {u}
    (e : execHandshakeTimeout x0 s = .next u) : view p u = view p s := by
  obtain ⟨-, rfl⟩ := onUnit_cases e
  simp_all

theorem view_execClockChange (h : p ∉ [.tiles]) {x0 s} {u}
    (e : execClockChange x0 s = .next u) : view p u = view p s := by
  obtain ⟨-, rfl⟩ := onUnit_cases e
  simp_all

theorem view_execQuiesceTimeout (h : p ∉ [.tiles]) {x0 s} {u}
    (e : execQuiesceTimeout x0 s = .next u) : view p u = view p s := by
  obtain ⟨-, rfl⟩ := onUnit_cases e
  simp_all

@[simp] theorem view_clearCounts (h : p ∉ [.tiles]) {s x1} :
    view p (clearCounts s x1) = view p s := by simp_all [clearCounts]

theorem view_execCntClr (h : p ∉ [.tiles]) {x0 s} {u}
    (e : execCntClr x0 s = .next u) : view p u = view p s := by
  obtain ⟨-, rfl⟩ := onUnit_cases e
  simp_all

@[simp] theorem view_writeTest (h : p ∉ [.tiles, .host, .integrity, .easel, .draws]) {s x1} :
    view p (writeTest s x1) = view p s := by simp_all [writeTest]

theorem view_execTest (h : p ∉ [.tiles, .host, .integrity, .easel, .draws]) {x0 s} {u}
    (e : execTest x0 s = .next u) : view p u = view p s := by
  obtain ⟨-, rfl⟩ := onUnit_cases e
  simp_all

@[simp] theorem view_endTest (h : p ∉ [.cache, .contexts, .tiles, .boot, .host]) {s x1 pass} :
    view p (endTest s x1 pass) = view p s := by simp_all [endTest]

theorem view_execSelfTestEnd (h : p ∉ [.cache, .contexts, .tiles, .boot, .host]) {x0 pass s} {u}
    (e : execSelfTestEnd x0 pass s = .next u) : view p u = view p s := by
  obtain ⟨-, rfl⟩ := onUnit_cases e
  simp_all

theorem view_execCanaryFail (h : p ∉ [.tiles]) {x0 s} {u}
    (e : execCanaryFail x0 s = .next u) : view p u = view p s := by
  obtain ⟨-, rfl⟩ := onUnit_cases e
  simp_all

/-! ### Fabric -/

@[simp] theorem view_pumpInto (h : p ∉ [.streams, .fabric]) {s boundary} :
    view p (pumpInto s boundary) = view p s := by simp_all [pumpInto]

theorem view_execIslandTransferAck (h : p ∉ [.streams, .fabric]) {boundary s} {u}
    (e : execIslandTransferAck boundary s = .next u) : view p u = view p s := by
  cases e
  simp_all

@[simp] theorem view_countEscalation (h : p ∉ [.contexts]) {s g} :
    view p (countEscalation s g) = view p s := by simp_all [countEscalation]

theorem view_execEscalation (h : p ∉ [.fabric]) {resource port s} {u}
    (e : execEscalation resource port s = .next u) : view p u = view p s := by
  cases e
  simp_all

theorem view_execResend (h : p ∉ [.streams]) {n s} {u}
    (e : execResend n s = .next u) : view p u = view p s := by
  cases e
  simp_all

/-! ### Loader -/

theorem view_evict (h : p ∉ [.cache]) {x0 s x2} {u}
    (e : evict x0 s x2 = some u) : view p u = view p s := by
  induction x0 generalizing s with
  | zero => cases e
  | succ n ih =>
    unfold evict at e
    dsimp only at e
    split at e
    · cases e; rfl
    · split at e
      · rw [ih e]; simp_all
      · cases e

theorem view_storeImage (h : p ∉ [.cache]) {s b} {u}
    (e : storeImage s b = .inr u) : view p u = view p s := by
  unfold storeImage at e
  simp at h
  dsimp only at e
  split at e
  · split at e
    · cases e
    · split at e
      next ht => cases e; simp [h, view_evict _ ht]
      · cases e
  · split at e
    next ht => cases e; simp [h, view_evict _ ht]
    · cases e

theorem view_execImageStore (h : p ∉ [.cache, .host, .easel, .draws]) {cid record s} {u}
    (e : execImageStore cid record s = .next u) : view p u = view p s := by
  cases e
  simp at h
  refine view_adminCmd (by simp [h]) fun t => ?_
  dsimp only
  repeat' split
  all_goals try simp [h]
  next ht => exact view_storeImage (by simp [h]) ht

@[simp] theorem view_setPin (h : p ∉ [.cache, .host]) {s cid id pin} :
    view p (setPin s cid id pin) = view p s := by
  unfold setPin
  split <;> simp_all

theorem view_execCachePin (h : p ∉ [.cache, .host, .easel]) {cid imageId s} {u}
    (e : execCachePin cid imageId s = .next u) : view p u = view p s := by
  cases e
  simp_all

theorem view_execCacheUnpin (h : p ∉ [.cache, .host, .easel]) {cid imageId s} {u}
    (e : execCacheUnpin cid imageId s = .next u) : view p u = view p s := by
  cases e
  simp_all

@[simp] theorem view_writeReport (h : p ∉ [.contexts]) {s c id placement reason w map} :
    view p (writeReport s c id placement reason w map) = view p s := by simp_all [writeReport]

@[simp] theorem view_refuseLoad (h : p ∉ [.host]) {s cid st reason} :
    view p (refuseLoad s cid st reason) = view p s := by
  unfold refuseLoad
  split <;> simp_all

@[simp] theorem view_refuseFree (h : p ∉ [.contexts, .host, .draws]) {s cid c id} :
    view p (refuseFree s cid c id) = view p s := by simp_all [refuseFree]

@[simp] theorem view_askLoad (h : p ∉ [.host, .draws]) {answer s cid c id} :
    view p (askLoad answer s cid c id).2 = view p s := by
  unfold askLoad
  split <;> simp_all

@[simp] theorem view_startLoad (h : p ∉ [.cache, .contexts, .host, .draws]) {s cid c id} :
    view p (startLoad s cid c id) = view p s := by
  simp at h
  unfold startLoad
  dsimp only
  split
  · cases cid <;> (repeat' split) <;> simp [h]
  · (repeat' split) <;> simp [h]

@[simp] theorem view_stateRefusal (h : p ∉ [.cache, .contexts, .host, .draws]) {s cid c id} :
    view p (stateRefusal s cid c id) = view p s := by simp_all [stateRefusal]

@[simp] theorem view_nextLoads (h : p ∉ [.cache, .contexts, .host, .draws]) {x0 s x2} :
    view p (nextLoads x0 s x2) = view p s := by
  simp at h
  induction x0 generalizing s with
  | zero => rfl
  | succ n ih =>
    unfold nextLoads
    dsimp only
    split
    · rfl
    · split
      · rfl
      · rw [ih]
        split <;> simp [h]

@[simp] theorem view_submitLoad (h : p ∉ [.cache, .contexts, .host, .draws]) {s cid c id} :
    view p (submitLoad s cid c id) = view p s := by simp_all [submitLoad]

theorem view_execImageLoad (h : p ∉ [.cache, .contexts, .host, .easel, .draws]) {cid ctx imageId s} {u}
    (e : execImageLoad cid ctx imageId s = .next u) : view p u = view p s := by
  obtain ⟨-, rfl⟩ := onUnit_cases e
  simp_all

theorem view_allotRegions (h : p ∉ [.memory, .pages, .media]) {s c im} {a u}
    (e : allotRegions s c im = some (a, u)) : view p u = view p s := by
  simp at h
  unfold allotRegions at e
  refine view_foldl_bind (π := Prod.snd) (fun r a b eb => ?_) e
  obtain ⟨q, hq, eb⟩ := Option.map_eq_some_iff.1 eb
  cases eb
  simp [h, view_allocPages _ hq]

@[simp] theorem view_dropLoad (h : p ∉ [.pages, .cache, .contexts, .streams, .tiles, .boot, .power, .host]) {s c} :
    view p (dropLoad s c) = view p s := by simp_all [dropLoad]

@[simp] theorem view_endStarts (h : p ∉ [.contexts, .host]) {s c ok} :
    view p (endStarts s c ok) = view p s := by simp_all [endStarts]

@[simp] theorem view_failLoad (h : p ∉ [.pages, .cache, .contexts, .requests, .streams, .tiles, .boot, .power, .host, .draws])
    {s c l st reason} :
    view p (failLoad s c l st reason) = view p s := by
  simp at h
  unfold failLoad
  simp [h]

theorem view_execLoadAllocation (h : p ∉ [.memory, .pages, .cache, .contexts, .requests, .streams, .tiles, .boot, .power, .media, .host,
    .draws]) {ctx s} {u}
    (e : execLoadAllocation ctx s = .next u) : view p u = view p s := by
  obtain ⟨-, rfl⟩ := onUnit_cases e
  simp at h
  dsimp only
  repeat' split
  all_goals try simp [h]
  next ht =>
    split at ht
    · cases ht
    · exact view_allotRegions (by simp [h]) ht

@[simp] theorem view_mapRing (h : p ∉ [.memory, .host]) {s c pages} :
    view p (mapRing s c pages) = view p s := by simp_all [mapRing]

@[simp] theorem view_armRings (h : p ∉ [.memory, .host]) {s c l} :
    view p (armRings s c l) = view p s := by
  unfold armRings
  split <;> simp_all

@[simp] theorem view_finishLoad (h : p ∉ [.memory, .moves, .cache, .contexts, .requests, .streams, .tiles, .calibration, .power, .host,
    .draws]) {s c l} :
    view p (finishLoad s c l) = view p s := by
  simp at h
  unfold finishLoad
  dsimp only
  (repeat' split) <;> simp [h]

theorem view_execLoadComplete (h : p ∉ [.memory, .pages, .moves, .cache, .contexts, .requests, .streams, .tiles, .calibration, .boot,
    .power, .host, .draws]) {ctx faults poisoned s} {u}
    (e : execLoadComplete ctx faults poisoned s = .next u) : view p u = view p s := by
  obtain ⟨-, rfl⟩ := onUnit_cases e
  simp at h
  dsimp only
  (repeat' split) <;> simp [h]

@[simp] theorem view_dropImage (h : p ∉ [.memory, .pages, .tables, .moves, .cache, .contexts, .streams, .tiles, .stations, .calibration,
    .boot, .host]) {s c} :
    view p (dropImage s c) = view p s := by simp_all [dropImage]

theorem view_execReplacementDrained (h : p ∉ [.memory, .pages, .tables, .moves, .cache, .contexts, .streams, .tiles, .stations,
    .calibration, .boot, .host]) {ctx s} {u}
    (e : execReplacementDrained ctx s = .next u) : view p u = view p s := by
  obtain ⟨-, rfl⟩ := onUnit_cases e
  simp at h
  dsimp only
  (repeat' split) <;> simp [h]

/-! ### Contexts -/

theorem view_configureCtx (h : p ∉ [.contexts]) {s r} {u}
    (e : configureCtx s r = some u) : view p u = view p s := by
  unfold configureCtx at e
  dsimp only at e
  (repeat' split at e) <;> cases e <;> simp_all

theorem view_execCtxConfigure (h : p ∉ [.contexts, .host, .easel, .draws]) {cid record s} {u}
    (e : execCtxConfigure cid record s = .next u) : view p u = view p s := by
  cases e
  simp at h
  refine view_adminCmd (by simp [h]) fun t => ?_
  split
  · simp [h]
  · refine view_onMembers (by simp [h]) fun t' => ?_
    cases hc : configureCtx t' record with
    | none => simp [h]
    | some v => simp [h, view_configureCtx _ hc]

theorem view_execCtxRelease (h : p ∉ [.memory, .pages, .contexts, .host, .easel, .draws]) {cid ctx s} {u}
    (e : execCtxRelease cid ctx s = .next u) : view p u = view p s := by
  obtain ⟨-, rfl⟩ := onUnit_cases e
  simp at h
  refine view_adminCmd (by simp [h]) fun t => ?_
  dsimp only
  split <;> simp [h]

theorem view_execCtxStart (h : p ∉ [.moves, .contexts, .requests, .tiles, .calibration, .host, .easel, .draws]) {cid ctx s} {u}
    (e : execCtxStart cid ctx s = .next u) : view p u = view p s := by
  obtain ⟨-, rfl⟩ := onUnit_cases e
  simp at h
  refine view_adminCmd (by simp [h]) fun t => ?_
  dsimp only
  split <;> simp [h]

theorem view_execCtxStop (h : p ∉ [.contexts, .requests, .tiles, .host, .easel, .draws]) {cid ctx s} {u}
    (e : execCtxStop cid ctx s = .next u) : view p u = view p s := by
  obtain ⟨-, rfl⟩ := onUnit_cases e
  simp at h
  refine view_adminCmd (by simp [h]) fun t => ?_
  dsimp only
  split <;> simp [h]

@[simp] theorem view_unloadImage (h : p ∉ [.memory, .pages, .tables, .moves, .cache, .contexts, .requests, .streams, .tiles, .stations,
    .calibration, .boot, .power, .host]) {s c} :
    view p (unloadImage s c) = view p s := by simp_all [unloadImage]

@[simp] theorem view_endUnloads (h : p ∉ [.memory, .pages, .tables, .moves, .cache, .contexts, .requests, .streams, .tiles, .stations,
    .calibration, .boot, .power, .host]) {s c} :
    view p (endUnloads s c) = view p s := by
  unfold endUnloads
  dsimp only
  split <;> simp_all

theorem view_execCtxUnload (h : p ∉ [.memory, .pages, .tables, .moves, .cache, .contexts, .requests, .streams, .tiles, .stations,
    .calibration, .boot, .power, .host, .easel, .draws]) {cid ctx s} {u}
    (e : execCtxUnload cid ctx s = .next u) : view p u = view p s := by
  obtain ⟨-, rfl⟩ := onUnit_cases e
  simp at h
  refine view_adminCmd (by simp [h]) fun t => ?_
  dsimp only
  (repeat' split) <;> simp [h]

theorem view_execNanClear (h : p ∉ [.contexts, .host, .easel]) {cid ctx s} {u}
    (e : execNanClear cid ctx s = .next u) : view p u = view p s := by
  obtain ⟨-, rfl⟩ := onUnit_cases e
  simp_all

/-! ### Tables -/

theorem view_endLoad (h : p ∉ [.host]) {s cid r} (hr : ∀ t, r = .ok t → view p t = view p s) :
    view p (endLoad s cid r) = view p s := by
  cases r with
  | error st => simp_all [endLoad]
  | ok t => simp_all [endLoad]

theorem view_takeTablePages (h : p ∉ [.pages, .media]) {s t} {a u}
    (e : takeTablePages s t = some (a, u)) : view p u = view p s := by
  unfold takeTablePages at e
  extract_lets use n m at e
  split at e
  · cases e; rfl
  · obtain ⟨a, ha, e⟩ := Option.bind_eq_some_iff.1 (Option.ite_none_left_eq_some.1 e).2
    obtain ⟨b, hb, e⟩ := Option.map_eq_some_iff.1 e
    cases e
    exact (view_allocPages h hb).trans (view_allocPages h ha)

@[simp] theorem view_fillTable (h : p ∉ [.memory]) {s t pages b} :
    view p (fillTable s t pages b) = view p s := by
  simp at h
  unfold fillTable
  dsimp only
  rw [view_foldl_fst fun t a => by simp [h]]
  simp [h]

@[simp] theorem view_freeTableVer (h : p ∉ [.pages, .tables]) {s v} :
    view p (freeTableVer s v) = view p s := by simp_all [freeTableVer]

theorem view_takeTable (h : p ∉ [.memory, .pages, .tables, .folio, .media]) {s raw b} {u}
    (e : takeTable s raw b = .ok u) : view p u = view p s := by
  rw [takeTable] at e
  simp at h
  replace e := ok_of_ite_error e
  extract_lets t at e
  have ht : view p t = view p s := by simp only [t]; split <;> simp [h]
  clear_value t
  split at e
  · cases e
  next hp =>
    have hv := (view_takeTablePages (by simp [h]) hp).trans ht
    replace e := ok_of_ite_error e
    dsimp only at e
    split at e <;> cases e <;> simp [h, hv]

theorem view_loadTable (h : p ∉ [.memory, .pages, .tables, .folio, .media]) {s r} {u}
    (e : loadTable s r = .ok u) : view p u = view p s := by
  unfold loadTable at e
  split at e
  · cases e
  · exact view_takeTable h e

theorem view_execTableLoad (h : p ∉ [.memory, .pages, .tables, .folio, .media, .host, .easel]) {cid record s} {u}
    (e : execTableLoad cid record s = .next u) : view p u = view p s := by
  cases e
  simp at h
  exact view_adminCmd (by simp [h]) fun t => view_endLoad (by simp [h]) fun u => view_loadTable (by simp [h])

@[simp] theorem view_updTable (h : p ∉ [.tables]) {s k f} :
    view p (updTable s k f) = view p s := by simp_all [updTable]

@[simp] theorem view_clearHotFull (h : p ∉ [.tables]) {s k} :
    view p (clearHotFull s k) = view p s := by simp_all [clearHotFull]

@[simp] theorem view_freeDrainedTable (h : p ∉ [.pages, .tables]) {s k} :
    view p (freeDrainedTable s k) = view p s := by
  simp at h
  unfold freeDrainedTable
  (repeat' split) <;> simp [h]

theorem view_execVersionStepTable (h : p ∉ [.tables, .host, .easel, .draws]) {cid id s} {u}
    (e : execVersionStepTable cid id s = .next u) : view p u = view p s := by
  cases e
  simp at h
  refine view_adminCmd (by simp [h]) fun t => ?_
  split <;> simp [h]

@[simp] theorem view_stepTable (h : p ∉ [.pages, .tables, .folio]) {s k t stamp blocked} :
    view p (stepTable s k t stamp blocked).2 = view p s := by simp_all [stepTable]

@[simp] theorem view_switchTable (h : p ∉ [.pages, .tables, .folio, .host, .draws]) {s k t} :
    view p (switchTable s k t) = view p s := by
  unfold switchTable
  split <;> simp_all

theorem view_growHot (h : p ∉ [.memory, .pages, .tables, .media]) {s k t n} {u}
    (e : growHot s k t n = some u) : view p u = view p s := by
  simp at h
  unfold growHot at e
  dsimp only at e
  split at e
  · cases e
  · obtain ⟨a, ha, e⟩ := Option.map_eq_some_iff.1 e
    cases e
    simp [h, view_allocPages _ ha]

@[simp] theorem view_applyAt (h : p ∉ [.memory]) {s t pages off x4} :
    view p (applyAt s t pages off x4) = view p s := by simp_all [applyAt]

theorem view_startMove (h : p ∉ [.tables]) {s k n row} {u}
    (e : startMove s k n row = some u) : view p u = view p s := by
  simp at h
  unfold startMove at e
  obtain ⟨t, ht, e⟩ := Option.bind_eq_some_iff.1 e
  obtain ⟨v, hv, e⟩ := Option.bind_eq_some_iff.1 e
  split at e
  · cases e
  · obtain ⟨n, hn, e⟩ := Option.map_eq_some_iff.1 e
    cases e
    simp [h]

theorem view_offerUpdate (h : p ∉ [.memory, .tables]) {s w t} (e : offerUpdate s w = .applied t ∨ offerUpdate s w = .logWait t) :
    view p t = view p s := by
  simp at h
  revert e
  fun_cases offerUpdate s w with
  | case1 | case2 | case3 => rintro (e | e) <;> cases e; rfl
  | case4 | case5 => rintro (e | e) <;> cases e; simp +zetaDelta [h]
  | case6 =>
    rename_i logged _ _ _ _ _ _
    rintro (e | e) <;> simp only [logged] at e <;> split at e <;> cases e
    · simp [h]
    · rfl
  | case7 =>
    rename_i logged _ _ _ _ _ ht
    have h₁ := view_startMove (p := p) (by simp [h]) ht
    rintro (e | e) <;> simp only [logged] at e <;> split at e <;> cases e
    · simp [h, h₁]
    · exact h₁
  | case8 | case9 => rintro (e | e) <;> cases e

@[simp] theorem view_setHotFull (h : p ∉ [.tables, .host]) {s k} :
    view p (setHotFull s k) = view p s := by
  unfold setHotFull
  split <;> simp_all

@[simp] theorem view_waitUpdate (h : p ∉ [.tables]) {s x1 log hot} :
    view p (waitUpdate s x1 log hot) = view p s := by
  unfold waitUpdate
  split <;> simp_all

@[simp] theorem view_takeUpdate (h : p ∉ [.memory, .tables, .host]) {s x1} :
    view p (takeUpdate s x1) = view p s := by
  have hofr := fun t => view_offerUpdate (p := p) (t := t) (s := s) (w := x1)
  simp at h
  unfold takeUpdate
  split
  · simp [h]
  · split
    next ht => exact view_offerUpdate (by simp [h]) (.inl ht)
    next ht => simp [h, view_offerUpdate _ (.inr ht)]
    · simp [h]
    · split <;> simp [h]

@[simp] theorem view_retryUpdates (h : p ∉ [.memory, .tables, .host]) {s} :
    view p (retryUpdates s) = view p s := by simp_all [retryUpdates]

@[simp] theorem view_sendUpdate (h : p ∉ [.memory, .tables, .host, .draws]) {s t x2} :
    view p (sendUpdate s t x2) = view p s := by simp_all [sendUpdate]

@[simp] theorem view_flushGroup (h : p ∉ [.memory, .tables, .requests, .host, .draws]) {s c x tbl} :
    view p (flushGroup s c x tbl) = view p s := by
  unfold flushGroup
  dsimp only
  (repeat' split) <;> simp_all

@[simp] theorem view_promoteRow (h : p ∉ [.tables]) {s k n row} :
    view p (promoteRow s k n row) = view p s := by
  simp at h
  unfold promoteRow
  split
  · rfl
  · split
    · rfl
    · split
      next ht => exact view_startMove (by simp [h]) ht
      · simp [h]

@[simp] theorem view_retryPromotions (h : p ∉ [.tables]) {s} :
    view p (retryPromotions s) = view p s := by
  simp at h
  refine view_foldl fun t a => view_foldl fun t' v => ?_
  simp [h]

@[simp] theorem view_readSettle (h : p ∉ [.tables, .rest]) {s} :
    view p (readSettle s) = view p s := by simp_all [readSettle]

@[simp] theorem view_countRead (h : p ∉ [.tables, .rest]) {s k n row origin d} :
    view p (countRead s k n row origin d) = view p s := by simp_all [countRead]

theorem view_execHotReadWindow (h : p ∉ [.tables, .rest]) {s} {u}
    (e : execHotReadWindow s = .next u) : view p u = view p s := by
  cases e
  simp_all

/-! ### Lexical -/

theorem view_takeObjectPages (h : p ∉ [.memory, .pages, .media]) {s kind id b} {a u}
    (e : takeObjectPages s kind id b = some (a, u)) : view p u = view p s := by
  simp at h
  unfold takeObjectPages at e
  dsimp only at e
  split at e
  · cases e
  · obtain ⟨a, ha, e⟩ := Option.map_eq_some_iff.1 e
    cases e
    simp [h, view_allocPages _ ha]

theorem view_takeVocab (h : p ∉ [.memory, .pages, .lexical, .media]) {s b} {u}
    (e : takeVocab s b = .ok u) : view p u = view p s := by
  simp at h
  unfold takeVocab at e
  dsimp only at e
  repeat' split at e
  all_goals cases e
  next ht => simp [h, view_takeObjectPages _ ht]

theorem view_takeNorm (h : p ∉ [.memory, .pages, .lexical, .media]) {s b} {u}
    (e : takeNorm s b = .ok u) : view p u = view p s := by
  simp at h
  unfold takeNorm at e
  dsimp only at e
  repeat' split at e
  all_goals cases e
  next ht => simp [h, view_takeObjectPages _ ht]

theorem view_takeGrammar (h : p ∉ [.memory, .pages, .lexical, .media]) {s b} {u}
    (e : takeGrammar s b = .ok u) : view p u = view p s := by
  simp at h
  unfold takeGrammar at e
  dsimp only at e
  repeat' split at e
  all_goals cases e
  next ht => simp [h, view_takeObjectPages _ ht]

theorem view_loadLexical (h : p ∉ [.memory, .pages, .lexical, .media]) {s r kind} {u}
    (e : loadLexical s r kind = .ok u) : view p u = view p s := by
  unfold loadLexical at e
  split at e
  · cases e
  · split at e
    · exact view_takeVocab h e
    · exact view_takeNorm h e
    · exact view_takeGrammar h e

theorem view_execVocabularyLoad (h : p ∉ [.memory, .pages, .lexical, .media, .host, .easel]) {cid record s} {u}
    (e : execVocabularyLoad cid record s = .next u) : view p u = view p s := by
  cases e
  simp at h
  exact view_adminCmd (by simp [h]) fun t => view_endLoad (by simp [h]) fun u => view_loadLexical (by simp [h])

theorem view_execNormalisationLoad (h : p ∉ [.memory, .pages, .lexical, .media, .host, .easel]) {cid record s} {u}
    (e : execNormalisationLoad cid record s = .next u) : view p u = view p s := by
  cases e
  simp at h
  exact view_adminCmd (by simp [h]) fun t => view_endLoad (by simp [h]) fun u => view_loadLexical (by simp [h])

theorem view_execGrammarLoad (h : p ∉ [.memory, .pages, .lexical, .media, .host, .easel]) {cid record s} {u}
    (e : execGrammarLoad cid record s = .next u) : view p u = view p s := by
  cases e
  simp at h
  exact view_adminCmd (by simp [h]) fun t => view_endLoad (by simp [h]) fun u => view_loadLexical (by simp [h])

theorem view_unloadObject (h : p ∉ [.pages, .tables, .indexes, .lexical]) {s kind id} {u}
    (e : unloadObject s kind id = some u) : view p u = view p s := by
  simp at h
  unfold unloadObject at e
  dsimp only at e
  split at e
  · cases e
  · split at e
    · obtain ⟨q, -, e⟩ := Option.bind_eq_some_iff.1 e
      split at e <;> cases e
      simp [h]
    · obtain ⟨q, -, e⟩ := Option.bind_eq_some_iff.1 e
      split at e <;> cases e
      simp [h]
    · obtain ⟨q, -, e⟩ := Option.bind_eq_some_iff.1 e
      split at e <;> cases e
      simp [h]
    · obtain ⟨q, -, e⟩ := Option.map_eq_some_iff.1 e
      cases e
      simp [h]
    · obtain ⟨q, -, e⟩ := Option.map_eq_some_iff.1 e
      cases e
      simp [h]
    · cases e

theorem view_execObjectUnload (h : p ∉ [.pages, .tables, .indexes, .lexical, .host, .easel]) {cid kind id s} {u}
    (e : execObjectUnload cid kind id s = .next u) : view p u = view p s := by
  cases e
  simp at h
  refine view_adminCmd (by simp [h]) fun t => ?_
  split
  next ht => simp [h, view_unloadObject _ ht]
  · simp [h]

/-! ### Letter -/

@[simp] theorem view_emitTokens (h : p ∉ [.streams, .fabric]) {s c x2 out tag origin} :
    view p (emitTokens s c x2 out tag origin) = view p s := by simp_all [emitTokens]

@[simp] theorem view_letterSheet (h : p ∉ [.contexts, .streams, .fabric, .stations, .draws]) {s n x sh} :
    view p (letterSheet s n x sh) = view p s := by
  simp at h
  unfold letterSheet
  dsimp only
  (repeat' split) <;> simp [h]

@[simp] theorem view_windowWrite (h : p ∉ [.host]) {s off bs poison rid} :
    view p (windowWrite s off bs poison rid) = view p s := by
  simp at h
  refine view_foldl fun t a => ?_
  split <;> simp [h]

/-! ### IndexOps -/

@[simp] theorem view_updIndex (h : p ∉ [.indexes]) {s k f} :
    view p (updIndex s k f) = view p s := by simp_all [updIndex]

/-! ### Indexes -/

theorem view_takeAreas (h : p ∉ [.pages, .media]) {s x1 x2} {a u}
    (e : takeAreas s x1 x2 = some (a, u)) : view p u = view p s := by
  induction x2 generalizing s a u with
  | nil => cases e; rfl
  | cons w ws ih =>
    unfold takeAreas at e
    dsimp only at e
    split at e
    · cases e
    · obtain ⟨a', ha, e⟩ := Option.bind_eq_some_iff.1 e
      obtain ⟨b, hb, e⟩ := Option.map_eq_some_iff.1 e
      cases e
      exact (ih hb).trans (view_allocPages h ha)

theorem view_newIndexVer (h : p ∉ [.pages, .media]) {s d ls} {a u}
    (e : newIndexVer s d ls = some (a, u)) : view p u = view p s := by
  unfold newIndexVer at e
  obtain ⟨b, hb, e⟩ := Option.map_eq_some_iff.1 e
  cases e
  exact view_takeAreas h hb

@[simp] theorem view_freeIndexVer (h : p ∉ [.pages]) {s v} :
    view p (freeIndexVer s v) = view p s := by simp_all [freeIndexVer]

theorem view_takeIndex (h : p ∉ [.pages, .indexes, .folio, .media]) {s raw b} {u}
    (e : takeIndex s raw b = .ok u) : view p u = view p s := by
  revert e
  simp at h
  fun_cases takeIndex s raw b
  case case1 => exact fun e => nomatch e
  case case2 => exact fun e => nomatch e
  case case3 => exact fun e => nomatch e
  all_goals
    rename_i s₁ _ _ hn _ _ _ _ _
    have hs : view p s₁ = view p s := by simp only [s₁]; split <;> simp [h]
    intro e
    injection e with e
    subst e
    simp +zetaDelta [h, (view_newIndexVer (by simp [h]) hn).trans hs]

theorem view_loadIndex (h : p ∉ [.pages, .indexes, .folio, .media]) {s r} {u}
    (e : loadIndex s r = .ok u) : view p u = view p s := by
  unfold loadIndex at e
  split at e
  · cases e
  · exact view_takeIndex h e

theorem view_execIndexLoad (h : p ∉ [.pages, .indexes, .folio, .media, .host, .easel]) {cid record s} {u}
    (e : execIndexLoad cid record s = .next u) : view p u = view p s := by
  cases e
  simp at h
  exact view_adminCmd (by simp [h]) fun t => view_endLoad (by simp [h]) fun u => view_loadIndex (by simp [h])

@[simp] theorem view_freeDrainedIndex (h : p ∉ [.pages, .indexes]) {s k} :
    view p (freeDrainedIndex s k) = view p s := by
  simp at h
  unfold freeDrainedIndex
  (repeat' split) <;> simp [h]

theorem view_execVersionStepIndex (h : p ∉ [.indexes, .host, .easel, .draws]) {cid id s} {u}
    (e : execVersionStepIndex cid id s = .next u) : view p u = view p s := by
  cases e
  simp at h
  refine view_adminCmd (by simp [h]) fun t => ?_
  split <;> simp [h]

@[simp] theorem view_stepIndex (h : p ∉ [.pages, .indexes, .folio]) {s k x stamp blocked} :
    view p (stepIndex s k x stamp blocked).2 = view p s := by
  simp at h
  unfold stepIndex
  dsimp only
  (repeat' split) <;> simp [h]

@[simp] theorem view_switchIndex (h : p ∉ [.pages, .indexes, .folio, .host, .draws]) {s k x} :
    view p (switchIndex s k x) = view p s := by
  unfold switchIndex
  split <;> simp_all

theorem view_execVersionSwitch (h : p ∉ [.pages, .tables, .indexes, .folio, .host, .draws]) {index id s} {u}
    (e : execVersionSwitch index id s = .next u) : view p u = view p s := by
  cases e
  (repeat' split) <;> simp_all

@[simp] theorem view_folioMisses (h : p ∉ [.draws]) {s n} :
    view p (folioMisses s n).2 = view p s := by
  unfold folioMisses
  split <;> simp_all

@[simp] theorem view_setMarginFull (h : p ∉ [.indexes, .host]) {s k} :
    view p (setMarginFull s k) = view p s := by simp_all [setMarginFull]

theorem view_commitRefusal (h : p ∉ [.indexes, .host, .draws]) {s id ops b} {u}
    (e : commitRefusal s id ops b = some u) : view p u = view p s := by
  unfold commitRefusal at e
  dsimp only at e
  (repeat' split at e) <;> cases e <;> simp_all

@[simp] theorem view_startCommit (h : p ∉ [.indexes, .host, .draws]) {s rid id b} :
    view p (startCommit s rid id b) = view p s := by
  unfold startCommit
  split <;> simp_all

theorem view_execCommitEpoch (h : p ∉ [.indexes, .requests]) {id s} {u}
    (e : execCommitEpoch id s = .next u) : view p u = view p s := by
  cases e
  (repeat' split) <;> simp_all

theorem view_execFairCopy (h : p ∉ [.indexes, .host, .easel]) {cid id s} {u}
    (e : execFairCopy cid id s = .next u) : view p u = view p s := by
  cases e
  simp at h
  refine view_adminCmd (by simp [h]) fun t => ?_
  split
  · simp [h]
  · split <;> simp [h]

@[simp] theorem view_copyRoom (h : p ∉ [.pages, .draws]) {s x} :
    view p (copyRoom s x) = view p s := by
  unfold copyRoom
  dsimp only
  split <;> simp_all

theorem view_execFairCopyEnd (h : p ∉ [.pages, .indexes, .media, .host, .draws]) {id poisoned s} {u}
    (e : execFairCopyEnd id poisoned s = .next u) : view p u = view p s := by
  cases e
  simp at h
  split
  · rfl
  split
  · rfl
  split
  · rfl
  extract_lets stop ls d
  split
  · simp [stop, h]
  split
  · simp [stop, h]
  next ht => simp [h, view_newIndexVer _ ht]

/-! ### Stylus -/

@[simp] theorem view_finishOp (h : p ∉ [.protection]) {s o status bucket ew level} :
    view p (finishOp s o status bucket ew level) = view p s := by simp_all [finishOp]

@[simp] theorem view_setDie (h : p ∉ [.protection]) {s k d} :
    view p (setDie s k d) = view p s := by simp_all [setDie]

@[simp] theorem view_submitDesc (h : p ∉ [.protection, .host, .integrity, .easel, .draws]) {s r c d prio} :
    view p (submitDesc s r c d prio) = view p s := by
  simp at h
  unfold submitDesc
  dsimp only
  (repeat' split) <;> simp [h]

@[simp] theorem view_submitRaw (h : p ∉ [.protection, .host, .integrity, .easel, .draws]) {s c b prio} :
    view p (submitRaw s c b prio) = view p s := by
  unfold submitRaw
  dsimp only
  split <;> simp_all

@[simp] theorem view_offerDesc (h : p ∉ [.host, .integrity, .easel, .draws]) {s c f} (hf : ∀ c, view p (f c) = view p s) :
    view p (offerDesc s c f) = view p s := by simp_all [offerDesc]

theorem view_execRead (h : p ∉ [.protection, .host, .integrity, .easel, .draws]) {c d prio s} {u}
    (e : execRead c d prio s = .next u) : view p u = view p s := by
  cases e
  simp_all

theorem view_execProgram (h : p ∉ [.protection, .host, .integrity, .easel, .draws]) {c d prio s} {u}
    (e : execProgram c d prio s = .next u) : view p u = view p s := by
  cases e
  simp_all

theorem view_execErase (h : p ∉ [.protection, .host, .integrity, .easel, .draws]) {c d prio s} {u}
    (e : execErase c d prio s = .next u) : view p u = view p s := by
  cases e
  simp_all

theorem view_execProbe (h : p ∉ [.protection, .host, .integrity, .easel, .draws]) {c d prio s} {u}
    (e : execProbe c d prio s = .next u) : view p u = view p s := by
  cases e
  simp_all

theorem view_execCalRead (h : p ∉ [.protection, .host, .integrity, .easel, .draws]) {c d prio s} {u}
    (e : execCalRead c d prio s = .next u) : view p u = view p s := by
  cases e
  simp_all

theorem view_execCsRead (h : p ∉ [.protection, .host, .integrity, .easel, .draws]) {c d prio s} {u}
    (e : execCsRead c d prio s = .next u) : view p u = view p s := by
  cases e
  simp_all

theorem view_execCsProgram (h : p ∉ [.protection, .host, .integrity, .easel, .draws]) {c d prio s} {u}
    (e : execCsProgram c d prio s = .next u) : view p u = view p s := by
  cases e
  simp_all

theorem view_execCsErase (h : p ∉ [.protection, .host, .integrity, .easel, .draws]) {c d prio s} {u}
    (e : execCsErase c d prio s = .next u) : view p u = view p s := by
  cases e
  simp_all

theorem view_execCsFetch (h : p ∉ [.protection, .host, .integrity, .easel, .draws]) {c d prio s} {u}
    (e : execCsFetch c d prio s = .next u) : view p u = view p s := by
  cases e
  simp_all

theorem view_execRbRead (h : p ∉ [.protection, .host, .integrity, .easel, .draws]) {c d prio s} {u}
    (e : execRbRead c d prio s = .next u) : view p u = view p s := by
  cases e
  simp_all

theorem view_execRbAdvance (h : p ∉ [.protection, .host, .integrity, .easel, .draws]) {c d prio s} {u}
    (e : execRbAdvance c d prio s = .next u) : view p u = view p s := by
  cases e
  simp_all

theorem view_execBadDescriptor (h : p ∉ [.protection, .host, .integrity, .easel, .draws]) {c raw s} {u}
    (e : execBadDescriptor c raw s = .next u) : view p u = view p s := by
  cases e
  simp_all

@[simp] theorem view_trackRead (h : p ∉ [.calibration]) {s d bucket ew n1 n0} :
    view p (trackRead s d bucket ew n1 n0) = view p s := by simp_all [trackRead]

@[simp] theorem view_closeMediaWindow (h : p ∉ [.media]) {s} :
    view p (closeMediaWindow s) = view p s := by simp_all [closeMediaWindow]

@[simp] theorem view_mediaSettle (h : p ∉ [.media]) {s} :
    view p (mediaSettle s) = view p s := by simp_all [mediaSettle]

@[simp] theorem view_countBulkRead (h : p ∉ [.media]) {s die ew level failed} :
    view p (countBulkRead s die ew level failed) = view p s := by simp_all [countBulkRead]

@[simp] theorem view_refreshLogical (h : p ∉ [.media]) {s n} :
    view p (refreshLogical s n) = view p s := by simp_all [refreshLogical]

@[simp] theorem view_refreshBlock (h : p ∉ [.media]) {s k} :
    view p (refreshBlock s k) = view p s := by
  unfold refreshBlock
  split <;> simp_all

@[simp] theorem view_poisonSector (h : p ∉ [.media]) {s phys} :
    view p (poisonSector s phys) = view p s := by
  unfold poisonSector
  split <;> simp_all

@[simp] theorem view_readDone' (h : p ∉ [.memory, .calibration, .protection, .media, .host, .integrity, .easel, .draws]) {s o obs} :
    view p (readDone' s o obs) = view p s := by
  simp at h
  fun_cases readDone' s o obs with
  | _ d secs bucket ew failed level k unread lost rebuilt s₁ s₂ s₃ s₄ s₅ s₆ =>
    have h₁ : view p s₁ = view p s := by simp [s₁, h]
    have h₂ : view p s₂ = view p s₁ := by simp [s₂, h]
    have h₃ : view p s₃ = view p s₂ := by simp [s₃, h]
    have h₄ : view p s₄ = view p s₃ := by simp only [s₄]; split <;> simp [h]
    have h₅ : view p s₅ = view p s₄ := by
      simp only [s₅]
      split
      · rfl
      · split
        · simp [h]
        · refine view_foldl fun t i => by simp [h]
    have h₆ : view p s₆ = view p s₅ := view_foldl fun t q => by simp [h]
    rw [view_finishOp (by simp [h]), h₆, h₅, h₄, h₃, h₂, h₁]

@[simp] theorem view_mediaRec (h : p ∉ [.host, .integrity, .easel, .draws]) {s die block op status wear} :
    view p (mediaRec s die block op status wear) = view p s := by simp_all [mediaRec]

@[simp] theorem view_restage (h : p ∉ [.media, .host]) {s} :
    view p (restage s) = view p s := by
  unfold restage
  dsimp only
  (repeat' split) <;> simp_all

@[simp] theorem view_retireBlock (h : p ∉ [.media, .host, .integrity, .easel, .draws]) {s k op status} :
    view p (retireBlock s k op status) = view p s := by simp_all [retireBlock]

@[simp] theorem view_ledgerPut (h : p ∉ [.media]) {s c kind die block slc wear sentinels} :
    view p (ledgerPut s c kind die block slc wear sentinels) = view p s := by simp_all [ledgerPut]

@[simp] theorem view_turnLedger (h : p ∉ [.media]) {s c} :
    view p (turnLedger s c) = view p s := by simp_all [turnLedger]

@[simp] theorem view_ledger (h : p ∉ [.media]) {s kind die block slc wear sentinels} :
    view p (ledger s kind die block slc wear sentinels) = view p s := by simp_all [ledger]

@[simp] theorem view_blankBlock (h : p ∉ [.media]) {s k} :
    view p (blankBlock s k) = view p s := by simp_all [blankBlock]

@[simp] theorem view_failFast (h : p ∉ [.media, .host, .integrity, .easel, .draws]) {s die block op status} :
    view p (failFast s die block op status) = view p s := by simp_all [failFast]

@[simp] theorem view_eraseDone (h : p ∉ [.memory, .protection, .media, .host, .integrity, .easel, .draws]) {s o good} :
    view p (eraseDone s o good) = view p s := by
  simp at h
  fun_cases eraseDone s o good with
  | _ d m s₁ s₂ =>
    have h₁ : view p s₁ = view p s := by simp only [s₁]; split <;> simp [h]
    clear_value s₁
    have h₂ : view p s₂ = view p s₁ := by
      simp only [s₂]
      split <;> split
      · simp [h]
      · simp [h]
      · exact view_foldl fun t q => view_foldl fun t' i => by simp [h]
      · simp [h]
    simp [h, h₁, h₂]

@[simp] theorem view_programDone (h : p ∉ [.memory, .protection, .media, .host, .integrity, .easel, .draws]) {s o good} :
    view p (programDone s o good) = view p s := by simp_all [programDone]

@[simp] theorem view_setCounter (h : p ∉ [.protection]) {s n v} :
    view p (setCounter s n v) = view p s := by simp_all [setCounter]

@[simp] theorem view_csReadDone (h : p ∉ [.memory, .protection, .host, .integrity, .easel, .draws]) {s o obs} :
    view p (csReadDone s o obs) = view p s := by simp_all [csReadDone]

@[simp] theorem view_csWriteDone (h : p ∉ [.cache, .protection, .host, .integrity, .easel, .draws]) {s o good} :
    view p (csWriteDone s o good) = view p s := by
  unfold csWriteDone
  dsimp only
  split <;> simp_all

@[simp] theorem view_probeDone (h : p ∉ [.protection, .media, .host, .integrity, .easel, .draws]) {s o obs} :
    view p (probeDone s o obs) = view p s := by
  unfold probeDone
  dsimp only
  split <;> simp_all

@[simp] theorem view_opDone (h : p ∉ [.memory, .cache, .calibration, .protection, .media, .host, .integrity, .easel, .draws]) {s o obs} :
    view p (opDone s o obs) = view p s := by
  simp at h
  unfold opDone
  dsimp only
  split
  all_goals try simp [h]

theorem view_execDescriptorComplete (h : p ∉ [.memory, .cache, .calibration, .protection, .media, .host, .integrity, .easel, .draws])
    {id obs s} {u}
    (e : execDescriptorComplete id obs s = .next u) : view p u = view p s := by
  cases e
  (repeat' split) <;> simp_all

/-! ### Flash -/

@[simp] theorem view_forgetCopies (h : p ∉ [.media]) {s k} :
    view p (forgetCopies s k) = view p s := by simp_all [forgetCopies]

@[simp] theorem view_makeDirty (h : p ∉ [.media, .host, .integrity, .easel, .draws]) {s k} :
    view p (makeDirty s k) = view p s := by simp_all [makeDirty]

@[simp] theorem view_sweepLog (h : p ∉ [.media, .host, .integrity, .easel, .draws]) {s} :
    view p (sweepLog s) = view p s := by simp_all [sweepLog]

@[simp] theorem view_stageOne (h : p ∉ [.media, .host]) {s w} :
    view p (stageOne s w).1 = view p s := by
  simp at h
  unfold stageOne
  dsimp only
  (repeat' split) <;> simp [h]

@[simp] theorem view_stageWaiting (h : p ∉ [.media, .host]) {s} :
    view p (stageWaiting s) = view p s := by
  simp at h
  have go : ∀ ws t, view p (stageWaiting.go ws t) = view p t := by
    intro ws
    induction ws with
    | nil => intro t; simp [stageWaiting.go, h]
    | cons w ws ih =>
      intro t
      have hone := view_stageOne (p := p) (by simp [h]) (s := t) (w := w)
      unfold stageWaiting.go
      split
      next hs => rw [hs] at hone; exact (ih _).trans hone
      next hs => rw [hs] at hone; simpa [h] using hone
  exact go _ _

@[simp] theorem view_restageBlock (h : p ∉ [.media]) {s k} :
    view p (restageBlock s k) = view p s := by simp_all [restageBlock]

theorem view_openLogStripe (h : p ∉ [.media]) {s} {u}
    (e : openLogStripe s = some u) : view p u = view p s := by
  unfold openLogStripe at e
  dsimp only at e
  (repeat' split at e) <;> cases e <;> simp_all

@[simp] theorem view_countPages (h : p ∉ [.media]) {s pages} :
    view p (countPages s pages) = view p s := by simp_all [countPages]

@[simp] theorem view_writeSummary (h : p ∉ [.media]) {s k} :
    view p (writeSummary s k) = view p s := by simp_all [writeSummary]

@[simp] theorem view_parityPage (h : p ∉ [.media]) {s x w} :
    view p (parityPage s x w) = view p s := by
  unfold parityPage
  split <;> simp_all

@[simp] theorem view_closeParity (h : p ∉ [.media]) {s x} :
    view p (closeParity s x) = view p s := by simp_all [closeParity]

@[simp] theorem view_closeLogStripe (h : p ∉ [.media, .host, .integrity, .easel, .draws]) {s n} :
    view p (closeLogStripe s n) = view p s := by
  unfold closeLogStripe
  split <;> simp_all

@[simp] theorem view_programPage (h : p ∉ [.media, .host, .integrity, .easel, .draws]) {s n x k good} :
    view p (programPage s n x k good) = view p s := by
  simp at h
  unfold programPage
  dsimp only
  (repeat' split) <;> simp [h]

theorem view_execStagingProgram (h : p ∉ [.media, .host, .integrity, .easel, .draws]) {good s} {u}
    (e : execStagingProgram good s = .next u) : view p u = view p s := by
  cases e
  simp at h
  split
  · rfl
  split
  · rfl
  next t ht =>
    have h₁ : view p t = view p s := by
      split at ht
      · cases ht; rfl
      · exact view_openLogStripe (by simp [h]) ht
    split
    · exact h₁
    · split <;> simp [h, h₁]

theorem view_startFold (h : p ∉ [.media]) {s n rest victim} {u}
    (e : startFold s n rest victim = some u) : view p u = view p s := by
  simp at h
  unfold startFold at e
  obtain ⟨k, -, e⟩ := Option.map_eq_some_iff.1 e
  cases e
  simp [h]

@[simp] theorem view_foldVictim (h : p ∉ [.media, .host, .integrity, .easel, .draws]) {s k} :
    view p (foldVictim s k) = view p s := by
  simp at h
  unfold foldVictim
  split
  · simp [h]
  · exact view_getD rfl fun u => view_startFold (by simp [h])

theorem view_execFoldStart (h : p ∉ [.media, .host, .integrity, .easel, .draws]) {s} {u}
    (e : execFoldStart s = .next u) : view p u = view p s := by
  cases e
  simp at h
  split
  · rfl
  split
  · simp [h]
  split
  · exact view_getD rfl fun u => view_startFold (by simp [h])
  · (repeat' split) <;> simp [h]

@[simp] theorem view_nextFold (h : p ∉ [.media]) {s f} :
    view p (nextFold s f) = view p s := by
  simp at h
  unfold nextFold
  dsimp only
  split
  · simp [h]
  · exact view_getD (by simp [h]) fun u eu => (view_startFold (by simp [h]) eu).trans (by simp [h])

@[simp] theorem view_abandonFold (h : p ∉ [.media, .host, .integrity, .easel, .draws]) {s f} :
    view p (abandonFold s f) = view p s := by simp_all [abandonFold]

theorem view_joinFoldStripe (h : p ∉ [.media]) {s k} {u}
    (e : joinFoldStripe s k = some u) : view p u = view p s := by
  simp at h
  unfold joinFoldStripe at e
  dsimp only at e
  split at e
  · cases e; simp [h]
  · obtain ⟨q, -, e⟩ := Option.map_eq_some_iff.1 (Option.ite_none_left_eq_some.1 e).2
    cases e
    simp [h]

@[simp] theorem view_journalFold (h : p ∉ [.media, .host, .integrity, .easel, .draws]) {s f} :
    view p (journalFold s f) = view p s := by simp_all [journalFold]

theorem view_execFoldJournal (h : p ∉ [.media, .host, .integrity, .easel, .draws]) {good s} {u}
    (e : execFoldJournal good s = .next u) : view p u = view p s := by
  cases e
  simp at h
  split
  · rfl
  split
  · rfl
  split
  · split
    next ht => simp [h, view_joinFoldStripe _ ht]
    · rfl
  · exact view_getD (by simp [h]) fun u eu => (view_startFold (by simp [h]) eu).trans (by simp [h])

theorem view_execMappingCheckpoint (h : p ∉ [.media]) {s} {u}
    (e : execMappingCheckpoint s = .next u) : view p u = view p s := by
  cases e
  simp_all

theorem view_execWearCheck (h : p ∉ [.media]) {s} {u}
    (e : execWearCheck s = .next u) : view p u = view p s := by
  cases e
  simp at h
  split
  · rfl
  · refine (view_foldl fun t d => ?_).trans (by simp [h])
    dsimp only
    split
    · split
      · cases homeOf t _ <;> simp [h]
      · rfl
    · rfl

@[simp] theorem view_foldParity (h : p ∉ [.media]) {s x} :
    view p (foldParity s x) = view p s := by simp_all [foldParity]

theorem view_execFoldStripeClose (h : p ∉ [.media]) {s} {u}
    (e : execFoldStripeClose s = .next u) : view p u = view p s := by
  cases e
  (repeat' split) <;> simp_all

@[simp] theorem view_failVerify (h : p ∉ [.media, .host, .integrity, .easel, .draws]) {s k} :
    view p (failVerify s k) = view p s := by simp_all [failVerify]

@[simp] theorem view_releaseStripe (h : p ∉ [.media, .host, .integrity, .easel, .draws]) {s n x} :
    view p (releaseStripe s n x) = view p s := by simp_all [releaseStripe]

theorem view_execStripeVerify (h : p ∉ [.media, .host, .integrity, .easel, .draws]) {stripe buckets s} {u}
    (e : execStripeVerify stripe buckets s = .next u) : view p u = view p s := by
  cases e
  simp at h
  dsimp only
  (repeat' split) <;> simp [h]

@[simp] theorem view_intendErase (h : p ∉ [.protection, .media, .host, .integrity, .easel, .draws]) {s die block slc} :
    view p (intendErase s die block slc) = view p s := by simp_all [intendErase]

theorem view_execEraseIntent (h : p ∉ [.protection, .media, .host, .integrity, .easel, .draws]) {die block slc s} {u}
    (e : execEraseIntent die block slc s = .next u) : view p u = view p s := by
  cases e
  simp_all

theorem view_execMediaStageWindow (h : p ∉ [.media, .host]) {s} {u}
    (e : execMediaStageWindow s = .next u) : view p u = view p s := by
  cases e
  simp_all

theorem view_execMediaThresholds (h : p ∉ [.media, .host, .easel]) {cid record s} {u}
    (e : execMediaThresholds cid record s = .next u) : view p u = view p s := by
  cases e
  simp_all

/-! ### Commit -/

@[simp] theorem view_abortWrites (h : p ∉ [.protection]) {s} :
    view p (abortWrites s) = view p s := by
  simp at h
  refine view_foldl fun t a => ?_
  simp [h]

@[simp] theorem view_commitBegin (h : p ∉ [.protection, .media, .host, .integrity, .easel, .draws]) {s} :
    view p (commitBegin s) = view p s := by
  unfold commitBegin
  dsimp only
  split <;> simp_all

@[simp] theorem view_drainStaging (h : p ∉ [.media, .host, .integrity, .easel, .draws]) {x0 s} :
    view p (drainStaging x0 s) = view p s := by
  induction x0 generalizing s with
  | zero => rfl
  | succ n ih =>
    simp at h
    unfold drainStaging
    split
    · rfl
    split
    · rfl
    next t ht =>
      have h₁ : view p t = view p s := by
        split at ht
        · cases ht; rfl
        · exact view_openLogStripe (by simp [h]) ht
      split
      · exact h₁
      · split
        · rw [ih]; simp [h, h₁]
        · exact h₁

@[simp] theorem view_commitEnd (h : p ∉ [.media, .host, .integrity, .easel, .draws]) {s} :
    view p (commitEnd s) = view p s := by
  simp at h
  unfold commitEnd
  dsimp only
  (repeat' split) <;> simp [h]

@[simp] theorem view_mediaCommit (h : p ∉ [.protection, .media, .host, .integrity, .easel, .draws]) {s} :
    view p (mediaCommit s) = view p s := by simp_all [mediaCommit]

/-! ### Integrity -/

@[simp] theorem view_containModule (h : p ∉ [.media, .host, .integrity, .easel, .draws]) {s code} :
    view p (containModule s code) = view p s := by
  simp at h
  unfold containModule
  dsimp only
  (repeat' split) <;> simp [h]

@[simp] theorem view_structureLost (h : p ∉ [.tables, .indexes, .media, .host, .integrity, .easel, .draws]) {s x1} :
    view p (structureLost s x1) = view p s := by
  unfold structureLost
  split <;> simp_all

@[simp] theorem view_lineLost (h : p ∉ [.memory, .tables, .indexes, .media, .host, .integrity, .easel, .draws]) {s op a hit} :
    view p (lineLost s op a hit) = view p s := by
  unfold lineLost
  dsimp only
  (repeat' split) <;> simp_all

@[simp] theorem view_patrolNext (h : p ∉ [.integrity]) {s m} :
    view p (patrolNext s m) = view p s := by simp_all [patrolNext]

@[simp] theorem view_patrolPage (h : p ∉ [.protection, .host, .integrity, .easel, .draws]) {s i} :
    view p (patrolPage s i) = view p s := by simp_all [patrolPage]

theorem view_execPatrolRead (h : p ∉ [.memory, .tables, .indexes, .tiles, .protection, .media, .host, .integrity, .easel, .draws])
    {m obs s} {u}
    (e : execPatrolRead m obs s = .next u) : view p u = view p s := by
  cases e
  (repeat' split) <;> simp_all

@[simp] theorem view_ceStorm (h : p ∉ [.host, .integrity, .easel, .draws]) {s src address} :
    view p (ceStorm s src address) = view p s := by simp_all [ceStorm]

@[simp] theorem view_ceSettle (h : p ∉ [.host, .integrity, .easel, .draws]) {s} :
    view p (ceSettle s) = view p s := by simp_all [ceSettle]

theorem view_execCorrectableError (h : p ∉ [.host, .integrity, .easel, .draws]) {source address s} {u}
    (e : execCorrectableError source address s = .next u) : view p u = view p s := by
  obtain ⟨-, rfl⟩ := onUnit_cases e
  simp_all

theorem view_execCeLeak (h : p ∉ [.host, .integrity, .easel, .draws]) {s} {u}
    (e : execCeLeak s = .next u) : view p u = view p s := by
  cases e
  simp_all

@[simp] theorem view_persist (h : p ∉ [.easel]) {s x1} :
    view p (persist s x1) = view p s := by simp_all [persist]

@[simp] theorem view_persistRecord (h : p ∉ [.integrity, .easel]) {s} :
    view p (persistRecord s) = view p s := by
  unfold persistRecord
  split <;> simp_all

theorem view_execRecordPersist (h : p ∉ [.integrity, .easel]) {s} {u}
    (e : execRecordPersist s = .next u) : view p u = view p s := by
  cases e
  simp_all

/-! ### Feed -/

@[simp] theorem view_detected (h : p ∉ [.host, .integrity, .easel, .draws]) {s stn c n seq a b made} :
    view p (detected s stn c n seq a b made) = view p s := by simp_all [detected]

@[simp] theorem view_exitCheck (h : p ∉ [.host, .integrity, .easel, .draws]) {s stn c n sh} :
    view p (exitCheck s stn c n sh).2 = view p s := by
  unfold exitCheck
  split <;> simp_all

@[simp] theorem view_usageStn (h : p ∉ [.host, .integrity, .easel, .draws]) {s stn c n seq a} :
    view p (usageStn s stn c n seq a) = view p s := by simp_all [usageStn]

@[simp] theorem view_setFeed (h : p ∉ [.contexts]) {s c k x} :
    view p (setFeed s c k x) = view p s := by simp_all [setFeed]

@[simp] theorem view_emitRuns (h : p ∉ [.moves, .streams, .fabric]) {s c k x3} :
    view p (emitRuns s c k x3) = view p s := by
  induction x3 generalizing s with
  | zero => rfl
  | succ n ih =>
    simp at h
    unfold emitRuns
    split
    · rfl
    split
    · rfl
    dsimp only
    split <;> rw [ih] <;> simp [h]

@[simp] theorem view_pumpRuns (h : p ∉ [.moves, .streams, .fabric]) {s c k} :
    view p (pumpRuns s c k) = view p s := by simp_all [pumpRuns]

@[simp] theorem view_sweepPart (h : p ∉ [.host, .integrity, .easel, .draws]) {s r reg x run} :
    view p (sweepPart s r reg x run).2 = view p s := by
  simp at h
  unfold sweepPart
  dsimp only
  refine view_foldl_snd (fun a i => ?_) _ _
  split <;> simp [h]

@[simp] theorem view_rowPart (h : p ∉ [.host, .draws]) {s r reg x origin i} :
    view p (rowPart s r reg x origin i).2 = view p s := by
  unfold rowPart
  dsimp only
  (repeat' split) <;> simp_all

@[simp] theorem view_lateRead (h : p ∉ [.moves, .contexts, .requests, .streams, .fabric]) {s r} :
    view p (lateRead s r).1 = view p s := by
  unfold lateRead
  dsimp only
  (repeat' split) <;> simp_all

@[simp] theorem view_issueRead (h : p ∉ [.moves, .contexts, .requests, .streams, .fabric]) {s r} :
    view p (issueRead s r) = view p s := by simp_all [issueRead]

theorem view_execStationDeadline (h : p ∉ [.moves, .contexts, .requests, .streams, .fabric]) {ctx station batch s} {u}
    (e : execStationDeadline ctx station batch s = .next u) : view p u = view p s := by
  cases e
  simp_all

@[simp] theorem view_pumpStore (h : p ∉ [.memory, .contexts, .streams, .host, .integrity, .easel, .draws]) {s c k x3} :
    view p (pumpStore s c k x3) = view p s := by
  induction x3 generalizing s with
  | zero => rfl
  | succ n ih =>
    simp at h
    unfold pumpStore
    split
    · dsimp only
      split
      · rfl
      · split
        · rfl
        · rw [ih]; simp [h]
    · rfl

@[simp] theorem view_ringRead (h : p ∉ [.memory, .contexts, .streams, .host, .integrity, .easel, .draws]) {s c region off n} :
    view p (ringRead s c region off n) = view p s := by
  simp at h
  refine view_foldl fun t a => ?_
  split
  · split <;> simp [h]
  · rfl

@[simp] theorem view_setScatter (h : p ∉ [.tables]) {s x} :
    view p (setScatter s x) = view p s := by simp_all [setScatter]

@[simp] theorem view_scatterRun (h : p ∉ [.memory, .tables, .requests, .host, .integrity, .easel, .draws]) {s tbl c x n idx vs} :
    view p (scatterRun s tbl c x n idx vs).2 = view p s := by
  simp at h
  fun_cases scatterRun s tbl c x n idx vs with
  | case1 => rfl
  | case2 _ t _ _ _ _ _ _ _ s₁ hr s₂ =>
    have h₁ : view p s₁ = view p s := view_of_snd_eq hr (view_foldl_snd (fun a sh => by simp [h]) _ _)
    have h₂ : view p s₂ = view p s₁ := by simp [s₂, h]
    refine (view_foldl_snd (fun a q => ?_) _ _).trans (h₂.trans h₁)
    dsimp only
    repeat' split
    all_goals simp [h]

@[simp] theorem view_pumpScatter (h : p ∉ [.memory, .tables, .requests, .streams, .host, .integrity, .easel, .draws]) {s c k x3} :
    view p (pumpScatter s c k x3) = view p s := by
  induction x3 generalizing s with
  | zero => rfl
  | succ n ih =>
    simp at h
    unfold pumpScatter
    split
    · split
      · dsimp only
        split
        · split
          · rfl
          · rw [ih]; simp [h]
        · rfl
      · rfl
    · rfl

@[simp] theorem view_closeScatter (h : p ∉ [.memory, .tables, .requests, .host, .draws]) {s c b} :
    view p (closeScatter s c b) = view p s := by
  simp at h
  refine view_foldl fun t a => ?_
  dsimp only
  split <;> simp [h]

@[simp] theorem view_closeIdle (h : p ∉ [.memory, .tables, .requests, .host, .draws]) {s} :
    view p (closeIdle s) = view p s := by
  simp at h
  refine view_foldl fun t a => view_foldl fun t' y => ?_
  split <;> simp [h]

@[simp] theorem view_drainScatter (h : p ∉ [.memory, .tables, .requests, .streams, .host, .integrity, .easel, .draws]) {s} :
    view p (drainScatter s) = view p s := by simp_all [drainScatter]

@[simp] theorem view_settleTables (h : p ∉ [.memory, .pages, .tables, .requests, .streams, .host, .integrity, .easel, .draws]) {s} :
    view p (settleTables s) = view p s := by simp_all [settleTables]

@[simp] theorem view_readReplica (h : p ∉ [.moves]) {s r reg origin} :
    view p (readReplica s r reg origin) = view p s := by
  simp at h
  unfold readReplica
  (repeat' split) <;> simp [h]

@[simp] theorem view_readPart (h : p ∉ [.moves, .host, .integrity, .easel, .draws]) {s r x2 checkFailed} :
    view p (readPart s r x2 checkFailed) = view p s := by simp_all [readPart]

theorem view_execTierReadReturn (h : p ∉ [.memory, .pages, .tables, .indexes, .moves, .contexts, .requests, .streams, .fabric, .media,
    .host, .integrity, .easel, .draws]) {k obs s} {u}
    (e : execTierReadReturn k obs s = .next u) : view p u = view p s := by
  cases e
  simp at h
  dsimp only
  (repeat' split) <;> simp [h]

@[simp] theorem view_rowsRun (h : p ∉ [.tables, .moves, .contexts, .requests, .streams, .fabric, .host, .integrity, .easel, .draws, .rest])
    {s c k n sh} :
    view p (rowsRun s c k n sh) = view p s := by
  simp at h
  fun_cases rowsRun s c k n sh with
  | case1 => rfl
  | case2 f _ x _ _ reg _ b origin ver idx st base live s₁ run s₂ hr len stn s₃ =>
    have h₁ : view p s₁ = view p s := by simp [s₁, h]
    have h₂ : view p s₂ = view p s₁ := view_of_snd_eq hr (view_newRun (by simp [h]))
    have h₃ : view p s₃ = view p s₂ := by
      refine view_foldl fun t q => ?_
      dsimp only
      repeat' split
      all_goals simp [h]
    simp [h, h₁, h₂, h₃]
  | case3 => rfl

@[simp] theorem view_blocksRun (h : p ∉ [.moves, .contexts, .streams, .fabric, .tiles, .calibration]) {s c k sh} :
    view p (blocksRun s c k sh) = view p s := by simp_all [blocksRun]

theorem view_execHotRowCopyEnd (h : p ∉ [.memory, .pages, .tables, .requests, .streams, .host, .integrity, .easel, .draws])
    {table version row s} {u}
    (e : execHotRowCopyEnd table version row s = .next u) : view p u = view p s := by
  cases e
  (repeat' split) <;> simp_all

theorem view_execHotGrow (h : p ∉ [.memory, .pages, .tables, .requests, .streams, .media, .host, .integrity, .easel, .draws])
    {cid pages id s} {u}
    (e : execHotGrow cid pages id s = .next u) : view p u = view p s := by
  cases e
  simp at h
  refine view_adminCmd (by simp [h]) fun t => ?_
  split
  next ht =>
    obtain ⟨q, -, hq⟩ := Option.bind_eq_some_iff.1 ht
    simp [h, view_growHot _ hq]
  · simp [h]

@[simp] theorem view_feedSheet (h : p ∉ [.memory, .tables, .moves, .contexts, .requests, .streams, .fabric, .tiles, .calibration, .host,
    .integrity, .easel, .draws, .rest]) {s n x sh} :
    view p (feedSheet s n x sh) = view p s := by
  simp at h
  fun_cases feedSheet s n x sh
  all_goals
    rename_i fs scatter c kept t _
    have ht : view p t = view p s := by
      refine view_foldl fun t q => ?_
      dsimp only
      (repeat' split) <;> simp [h]
    simp [h, ht]

@[simp] theorem view_bumpTier (h : p ∉ [.contexts]) {s c f} :
    view p (bumpTier s c f) = view p s := by simp_all [bumpTier]

@[simp] theorem view_firePage (h : p ∉ [.moves, .contexts]) {s c k x3 batch origin page prio} :
    view p (firePage s c k x3 batch origin page prio) = view p s := by simp_all [firePage]

@[simp] theorem view_firePrefetch (h : p ∉ [.moves, .contexts]) {s x sh} :
    view p (firePrefetch s x sh) = view p s := by
  simp at h
  unfold firePrefetch
  split
  · rfl
  · refine view_foldl fun t a => ?_
    dsimp only
    split <;> simp [h]

theorem view_stagingPage (h : p ∉ [.pages, .moves, .media]) {s c t} {a u}
    (e : stagingPage s c t = some (a, u)) : view p u = view p s := by
  simp at h
  unfold stagingPage at e
  split at e
  · obtain ⟨a, ha, e⟩ := Option.bind_eq_some_iff.1 e
    obtain ⟨q, -, e⟩ := Option.map_eq_some_iff.1 e
    cases e
    exact view_allocPages (by simp [h]) ha
  · obtain ⟨a, ha, e⟩ := Option.map_eq_some_iff.1 e
    cases e
    simp [h]

theorem view_execMoveIssue (h : p ∉ [.pages, .moves, .contexts, .media]) {s} {u}
    (e : execMoveIssue s = .next u) : view p u = view p s := by
  cases e
  simp at h
  dsimp only
  split
  · rfl
  split
  · rfl
  split
  · simp [h]
  split
  · rfl
  next ht => simp [h, view_stagingPage _ ht]

theorem view_execMoveDeadline (h : p ∉ [.moves, .contexts]) {s} {u}
    (e : execMoveDeadline s = .next u) : view p u = view p s := by
  cases e
  simp_all

theorem view_execMoveComplete (h : p ∉ [.memory, .moves, .contexts]) {k s} {u}
    (e : execMoveComplete k s = .next u) : view p u = view p s := by
  cases e
  simp at h
  split
  · rfl
  split
  · rfl
  dsimp only
  split <;> simp [h]

@[simp] theorem view_unpinBatch (h : p ∉ [.moves]) {s c b} :
    view p (unpinBatch s c b) = view p s := by simp_all [unpinBatch]

/-! ### Front -/

@[simp] theorem view_writeStep (h : p ∉ [.requests, .stations, .host]) {s v slot r src stopTok opening} :
    view p (writeStep s v slot r src stopTok opening) = view p s := by simp_all [writeStep]

@[simp] theorem view_frontStep (h : p ∉ [.contexts, .requests, .stations, .host]) {s v slot q t src} :
    view p (frontStep s v slot q t src) = view p s := by
  simp at h
  fun_cases frontStep s v slot q t src
  all_goals simp +zetaDelta [h]

@[simp] theorem view_refuseStep (h : p ∉ [.contexts, .host]) {s c src st} :
    view p (refuseStep s c src st) = view p s := by simp_all [refuseStep]

@[simp] theorem view_submitStep (h : p ∉ [.contexts, .requests, .stations, .host]) {s src c handle t} :
    view p (submitStep s src c handle t) = view p s := by
  simp at h
  unfold submitStep
  (repeat' split) <;> simp [h]

@[simp] theorem view_submitClose (h : p ∉ [.contexts, .requests, .stations, .host]) {s src c handle} :
    view p (submitClose s src c handle) = view p s := by
  unfold submitClose
  dsimp only
  (repeat' split) <;> simp_all

@[simp] theorem view_openFront (h : p ∉ [.requests, .stations, .host]) {s q} :
    view p (openFront s q) = view p s := by
  unfold openFront
  dsimp only
  (repeat' split) <;> simp_all

/-! ### AdmitOps -/

@[simp] theorem view_sendBytes (h : p ∉ [.streams, .fabric]) {s c l flags tag origin b} :
    view p (sendBytes s c l flags tag origin b) = view p s := by
  simp at h
  unfold sendBytes
  (repeat' split) <;> simp [h]

@[simp] theorem view_offerReq (h : p ∉ [.requests, .host]) {s c kind src record payload id} :
    view p (offerReq s c kind src record payload id) = view p s := by
  unfold offerReq
  split <;> simp_all

@[simp] theorem view_useVersions (h : p ∉ [.pages, .tables, .indexes]) {s q up} :
    view p (useVersions s q up) = view p s := by
  simp at h
  fun_cases useVersions s q up with
  | case1 step t | case2 step t | case3 step t =>
    have ht : view p t = view p s := by
      simp only [t]
      split
      · refine view_foldl fun t id => ?_
        split <;> simp [h]
      · rfl
    simp [h, ht]

@[simp] theorem view_sendQuery (h : p ∉ [.streams, .fabric]) {s q} :
    view p (sendQuery s q) = view p s := by
  unfold sendQuery
  split <;> simp_all

@[simp] theorem view_startDelivery (h : p ∉ [.contexts]) {s q} :
    view p (startDelivery s q) = view p s := by
  unfold startDelivery
  split <;> simp_all

@[simp] theorem view_beginReq (h : p ∉ [.indexes, .contexts, .requests, .streams, .fabric, .stations, .host, .draws]) {s q} :
    view p (beginReq s q) = view p s := by
  unfold beginReq
  dsimp only
  (repeat' split) <;> simp_all

@[simp] theorem view_admitReq (h : p ∉ [.pages, .tables, .indexes, .contexts, .requests, .streams, .fabric, .tiles, .stations,
    .calibration, .host, .easel, .draws]) {s q} :
    view p (admitReq s q) = view p s := by
  unfold admitReq
  dsimp only
  split <;> simp_all

@[simp] theorem view_refuseReq (h : p ∉ [.requests, .host]) {s q st} :
    view p (refuseReq s q st) = view p s := by simp_all [refuseReq]

@[simp] theorem view_countRefused (h : p ∉ [.indexes]) {s q st} :
    view p (countRefused s q st) = view p s := by
  simp at h
  unfold countRefused
  (repeat' split) <;> simp [h]

@[simp] theorem view_takeEntry (h : p ∉ [.host]) {s r} :
    view p (takeEntry s r) = view p s := by simp_all [takeEntry]

@[simp] theorem view_grantReq (h : p ∉ [.pages, .tables, .indexes, .contexts, .requests, .streams, .fabric, .tiles, .stations,
    .calibration, .host, .easel, .draws]) {s q} :
    view p (grantReq s q) = view p s := by
  simp at h
  have ring : view p (match q.src.ring with | some r => takeEntry s r | none => s) = view p s := by
    split <;> simp [h]
  unfold grantReq
  dsimp only
  repeat' split
  all_goals try simp [h]
  next ht => exact (view_commitRefusal (by simp [h]) ht).trans ring

/-! ### Admit -/

@[simp] theorem view_takeRing (h : p ∉ [.contexts, .requests, .stations, .host]) {s r step} :
    view p (takeRing s r step) = view p s := by
  unfold takeRing
  split <;> simp_all

theorem view_execQuery (h : p ∉ [.contexts, .requests, .stations, .host]) {src ctx record s} {u}
    (e : execQuery src ctx record s = .next u) : view p u = view p s := by
  obtain ⟨-, rfl⟩ := onUnit_cases e
  (repeat' split) <;> simp_all

theorem view_execFrontOpen (h : p ∉ [.requests, .host]) {sq cid ctx record s} {u}
    (e : execFrontOpen sq cid ctx record s = .next u) : view p u = view p s := by
  obtain ⟨-, rfl⟩ := onUnit_cases e
  simp_all

theorem view_execFrontStep (h : p ∉ [.contexts, .requests, .stations, .host]) {src ctx handle token s} {u}
    (e : execFrontStep src ctx handle token s = .next u) : view p u = view p s := by
  obtain ⟨-, rfl⟩ := onUnit_cases e
  (repeat' split) <;> simp_all

theorem view_execFrontClose (h : p ∉ [.contexts, .requests, .stations, .host]) {sq cid ctx handle s} {u}
    (e : execFrontClose sq cid ctx handle s = .next u) : view p u = view p s := by
  obtain ⟨-, rfl⟩ := onUnit_cases e
  simp_all

theorem view_execDeliveryJob (h : p ∉ [.requests, .host]) {sq cid ctx record s} {u}
    (e : execDeliveryJob sq cid ctx record s = .next u) : view p u = view p s := by
  obtain ⟨-, rfl⟩ := onUnit_cases e
  simp_all

theorem view_execBatchJob (h : p ∉ [.requests, .host]) {sq cid ctx record s} {u}
    (e : execBatchJob sq cid ctx record s = .next u) : view p u = view p s := by
  obtain ⟨-, rfl⟩ := onUnit_cases e
  simp_all

theorem view_execIndexCommit (h : p ∉ [.requests, .host]) {sq cid ctx ops id data s} {u}
    (e : execIndexCommit sq cid ctx ops id data s = .next u) : view p u = view p s := by
  obtain ⟨-, rfl⟩ := onUnit_cases e
  simp_all

theorem view_execAdmissionGrant (h : p ∉ [.pages, .tables, .indexes, .contexts, .requests, .streams, .fabric, .tiles, .stations,
    .calibration, .host, .easel, .draws]) {s} {u}
    (e : execAdmissionGrant s = .next u) : view p u = view p s := by
  unfold execAdmissionGrant at e
  dsimp only at e
  (repeat' split at e) <;> cases e <;> simp_all

theorem view_execRingCreate (h : p ∉ [.host, .easel]) {cid address ring slots cq ctx s} {u}
    (e : execRingCreate cid address ring slots cq ctx s = .next u) : view p u = view p s := by
  cases e
  simp_all

theorem view_execRingDelete (h : p ∉ [.requests, .host, .easel]) {cid ring s} {u}
    (e : execRingDelete cid ring s = .next u) : view p u = view p s := by
  cases e
  simp at h
  refine view_adminCmd (by simp [h]) fun t => ?_
  split
  · split <;> simp [h]
  · simp [h]

theorem view_execRingDeleteDone (h : p ∉ [.host]) {ring s} {u}
    (e : execRingDeleteDone ring s = .next u) : view p u = view p s := by
  cases e
  (repeat' split) <;> simp_all

@[simp] theorem view_usageRing (h : p ∉ [.host, .integrity, .easel, .draws]) {s c} :
    view p (usageRing s c) = view p s := by simp_all [usageRing]

theorem view_execRingTailSnoop (h : p ∉ [.host, .integrity, .easel, .draws]) {ring tail entries s} {u}
    (e : execRingTailSnoop ring tail entries s = .next u) : view p u = view p s := by
  cases e
  simp at h
  dsimp only
  (repeat' split) <;> simp [h]

/-! ### Hatch -/

@[simp] theorem view_setPort (h : p ∉ [.folio]) {s x1 x} :
    view p (setPort s x1 x) = view p s := by simp_all [setPort]

@[simp] theorem view_updPort (h : p ∉ [.folio]) {s x1 f} :
    view p (updPort s x1 f) = view p s := by simp_all [updPort]

@[simp] theorem view_sendPort (h : p ∉ [.folio]) {s x1 n sh} :
    view p (sendPort s x1 n sh) = view p s := by simp_all [sendPort]

@[simp] theorem view_sendHatch (h : p ∉ [.streams, .folio, .host, .integrity, .easel, .draws]) {s n} :
    view p (sendHatch s n) = view p s := by
  unfold sendHatch
  dsimp only
  (repeat' split) <;> simp_all

@[simp] theorem view_ackHatch (h : p ∉ [.streams, .folio]) {s n} :
    view p (ackHatch s n) = view p s := by
  unfold ackHatch
  split <;> simp_all

/-! ### Nvm -/

@[simp] theorem view_stdRefuse (h : p ∉ [.host]) {s o sct sc} :
    view p (stdRefuse s o sct sc) = view p s := by simp_all [stdRefuse]

@[simp] theorem view_forwardNvm (h : p ∉ [.host, .draws]) {s o n} :
    view p (forwardNvm s o n) = view p s := by simp_all [forwardNvm]

@[simp] theorem view_nvmCmd (h : p ∉ [.host, .draws]) {s sq cid nsid n f} (hf : ∀ t o, view p (f t o) = view p t) :
    view p (nvmCmd s sq cid nsid n f) = view p s := by simp_all [nvmCmd]

@[simp] theorem view_errorEntry (h : p ∉ [.host]) {s o sct sc lba nsid} :
    view p (errorEntry s o sct sc lba nsid) = view p s := by simp_all [errorEntry]

theorem view_execNvmRead (h : p ∉ [.host, .integrity, .easel, .draws]) {sq cid nsid slba count s} {u}
    (e : execNvmRead sq cid nsid slba count s = .next u) : view p u = view p s := by
  cases e
  simp at h
  refine view_nvmCmd (by simp [h]) fun t o => ?_
  split
  · simp [h]
  split
  · simp [h]
  dsimp only
  split <;> simp [h]

@[simp] theorem view_acceptWrite (h : p ∉ [.media, .host]) {s o slba sectors} :
    view p (acceptWrite s o slba sectors) = view p s := by
  unfold acceptWrite
  split <;> simp_all

theorem view_execNvmWrite (h : p ∉ [.media, .host, .draws]) {sq cid nsid slba data s} {u}
    (e : execNvmWrite sq cid nsid slba data s = .next u) : view p u = view p s := by
  cases e
  simp_all

theorem view_execWriteZeroes (h : p ∉ [.media, .host, .draws]) {sq cid nsid slba count s} {u}
    (e : execWriteZeroes sq cid nsid slba count s = .next u) : view p u = view p s := by
  cases e
  simp_all

theorem view_execFlush (h : p ∉ [.host, .draws]) {sq cid nsid s} {u}
    (e : execFlush sq cid nsid s = .next u) : view p u = view p s := by
  cases e
  simp_all

@[simp] theorem view_deallocate (h : p ∉ [.media, .host, .integrity, .easel, .draws]) {s n} :
    view p (deallocate s n) = view p s := by
  simp at h
  unfold deallocate
  dsimp only
  (repeat' split) <;> simp [h]

theorem view_execDatasetManagement (h : p ∉ [.media, .host, .integrity, .easel, .draws]) {sq cid nsid ranges s} {u}
    (e : execDatasetManagement sq cid nsid ranges s = .next u) : view p u = view p s := by
  cases e
  simp at h
  refine view_nvmCmd (by simp [h]) fun t o => ?_
  (repeat' split) <;> simp [h]

@[simp] theorem view_eraseNamespace (h : p ∉ [.media, .host, .integrity, .easel, .draws]) {s} :
    view p (eraseNamespace s) = view p s := by simp_all [eraseNamespace]

theorem view_execFormatNvm (h : p ∉ [.media, .host, .integrity, .easel, .draws]) {cid nsid ses s} {u}
    (e : execFormatNvm cid nsid ses s = .next u) : view p u = view p s := by
  cases e
  simp_all

theorem view_execSanitize (h : p ∉ [.media, .host, .integrity, .easel, .draws]) {cid action s} {u}
    (e : execSanitize cid action s = .next u) : view p u = view p s := by
  cases e
  simp_all

/-! ### Logs -/

@[simp] theorem view_logRead (h : p ∉ [.host, .integrity]) {s lid off n rae} :
    view p (logRead s lid off n rae) = view p s := by simp_all [logRead]

@[simp] theorem view_serveLog (h : p ∉ [.host, .integrity, .draws]) {s lid lsp lsi off len rae} :
    view p (serveLog s lid lsp lsi off len rae).2 = view p s := by
  unfold serveLog
  dsimp only
  (repeat' split) <;> simp_all

@[simp] theorem view_serveIdentify (h : p ∉ [.draws]) {s cns nsid} :
    view p (serveIdentify s cns nsid).2 = view p s := by
  unfold serveIdentify
  dsimp only
  (repeat' split) <;> simp_all

/-! ### Power -/

@[simp] theorem view_eventRec (h : p ∉ [.host, .integrity, .easel, .draws]) {s unit} :
    view p (eventRec s unit) = view p s := by simp_all [eventRec]

@[simp] theorem view_sendMembership (h : p ∉ [.host]) {s faulted} :
    view p (sendMembership s faulted) = view p s := by simp_all [sendMembership]

@[simp] theorem view_onlyDomains (h : p ∉ [.tiles, .power]) {s ds} :
    view p (onlyDomains s ds) = view p s := by simp_all [onlyDomains]

@[simp] theorem view_holdThermal (h : p ∉ [.tiles, .power, .host, .integrity, .easel, .draws]) {s} :
    view p (holdThermal s) = view p s := by simp_all [holdThermal]

@[simp] theorem view_shed (h : p ∉ [.tiles, .power, .folio, .host]) {s} :
    view p (shed s) = view p s := by simp_all [shed]

@[simp] theorem view_beginCommit (h : p ∉ [.tiles, .power, .folio, .protection, .media, .host, .integrity, .easel, .draws]) {s} :
    view p (beginCommit s) = view p s := by simp_all [beginCommit]

theorem view_execInputFailure (h : p ∉ [.tiles, .power, .folio, .protection, .media, .host, .integrity, .easel, .draws]) {cause s} {u}
    (e : execInputFailure cause s = .next u) : view p u = view p s := by
  unfold execInputFailure at e
  dsimp only at e
  (repeat' split at e) <;> cases e <;> simp_all

theorem view_execBankExhausted (h : p ∉ [.tiles, .power]) {s} {u}
    (e : execBankExhausted s = .next u) : view p u = view p s := by
  cases e
  (repeat' split) <;> simp_all

@[simp] theorem view_thermalStop (h : p ∉ [.tiles, .power, .folio, .protection, .media, .host, .integrity, .easel, .draws]) {s} :
    view p (thermalStop s) = view p s := by
  unfold thermalStop
  split <;> simp_all

@[simp] theorem view_readSensor (h : p ∉ [.power]) {s n reading} :
    view p (readSensor s n reading) = view p s := by simp_all [readSensor]

theorem view_execThermalStop (h : p ∉ [.tiles, .power, .folio, .protection, .media, .host, .integrity, .easel, .draws]) {sensor reading s}
    {u}
    (e : execThermalStop sensor reading s = .next u) : view p u = view p s := by
  obtain ⟨-, rfl⟩ := onUnit_cases e
  simp_all

theorem view_execPowerUpStep (h : p ∉ [.tiles, .power, .folio, .protection, .media, .host, .integrity, .easel, .draws]) {flow s} {u}
    (e : execPowerUpStep flow s = .next u) : view p u = view p s := by
  cases e
  (repeat' split) <;> simp_all

theorem view_execDomainGoodTimeout (h : p ∉ [.tiles, .power, .host, .integrity, .easel, .draws]) {domain s} {u}
    (e : execDomainGoodTimeout domain s = .next u) : view p u = view p s := by
  obtain ⟨-, rfl⟩ := onUnit_cases e
  simp_all

@[simp] theorem view_startMeasurement (h : p ∉ [.power]) {s} :
    view p (startMeasurement s) = view p s := by simp_all [startMeasurement]

theorem view_execBankMeasurement (h : p ∉ [.power]) {s} {u}
    (e : execBankMeasurement s = .next u) : view p u = view p s := by
  cases e
  simp_all

theorem view_execBankMeasurementEnd (h : p ∉ [.power, .media, .host]) {mJ s} {u}
    (e : execBankMeasurementEnd mJ s = .next u) : view p u = view p s := by
  cases e
  simp_all

theorem view_execBankCharged (h : p ∉ [.power, .media, .host]) {mV s} {u}
    (e : execBankCharged mV s = .next u) : view p u = view p s := by
  cases e
  simp_all

theorem view_execSurge (h : p ∉ [.power]) {watts s} {u}
    (e : execSurge watts s = .next u) : view p u = view p s := by
  cases e
  simp_all

/-! ### Easel -/

@[simp] theorem view_serve3 (h : p ∉ [.easel]) {s ns rest} :
    view p (serve3 s ns rest) = view p s := by simp_all [serve3]

theorem view_execEaselDispatch (h : p ∉ [.easel]) {serviceNs s} {u}
    (e : execEaselDispatch serviceNs s = .next u) : view p u = view p s := by
  unfold execEaselDispatch at e
  dsimp only at e
  (repeat' split at e) <;> cases e <;> simp_all

theorem view_execOverloadEnd (h : p ∉ [.easel]) {s} {u}
    (e : execOverloadEnd s = .next u) : view p u = view p s := by
  unfold execOverloadEnd at e
  dsimp only at e
  (repeat' split at e) <;> cases e <;> simp_all

@[simp] theorem view_newFrameWindow (h : p ∉ [.power, .easel]) {s} :
    view p (newFrameWindow s) = view p s := by simp_all [newFrameWindow]

@[simp] theorem view_endWindow (h : p ∉ [.power, .easel]) {s} :
    view p (endWindow s) = view p s := by simp_all [endWindow]

@[simp] theorem view_countNs (h : p ∉ [.clock, .power, .easel]) {s} :
    view p (countNs s) = view p s := by simp_all [countNs]

theorem view_execTelemetryFrame (h : p ∉ [.easel]) {s} {u}
    (e : execTelemetryFrame s = .next u) : view p u = view p s := by
  cases e
  (repeat' split) <;> simp_all

theorem view_execDecimationTick (h : p ∉ [.easel]) {s} {u}
    (e : execDecimationTick s = .next u) : view p u = view p s := by
  cases e
  simp_all

theorem view_execWatchdogExpiry (h : p ∉ [.tiles, .power, .folio, .protection, .media, .host, .integrity, .easel, .draws]) {s} {u}
    (e : execWatchdogExpiry s = .next u) : view p u = view p s := by
  cases e
  simp_all

theorem view_execHealthSnapshotRefresh (h : p ∉ [.easel, .draws]) {s} {u}
    (e : execHealthSnapshotRefresh s = .next u) : view p u = view p s := by
  cases e
  simp_all

/-! ### Retrieve -/

@[simp] theorem view_addCond (h : p ∉ [.requests]) {s rid m} :
    view p (addCond s rid m) = view p s := by simp_all [addCond]

@[simp] theorem view_joinQuery (h : p ∉ [.contexts]) {s rid} :
    view p (joinQuery s rid) = view p s := by
  unfold joinQuery
  split <;> simp_all

@[simp] theorem view_probeSheet (h : p ∉ [.contexts, .requests, .streams]) {s n x sh} :
    view p (probeSheet s n x sh) = view p s := by
  unfold probeSheet
  split <;> simp_all

@[simp] theorem view_searchQuery (h : p ∉ [.requests]) {s rid} :
    view p (searchQuery s rid) = view p s := by
  unfold searchQuery
  split <;> simp_all

@[simp] theorem view_spoilFound (h : p ∉ [.requests]) {s rid} :
    view p (spoilFound s rid) = view p s := by simp_all [spoilFound]

theorem view_execProbePass (h : p ∉ [.indexes, .contexts, .requests, .streams, .host, .integrity, .easel, .draws]) {on s} {u}
    (e : execProbePass on s = .next u) : view p u = view p s := by
  obtain ⟨-, rfl⟩ := onUnit_cases e
  simp at h
  dsimp only
  (repeat' split) <;> simp [h]

@[simp] theorem view_emitMerged (h : p ∉ [.streams, .fabric]) {s q rs} :
    view p (emitMerged s q rs) = view p s := by
  unfold emitMerged
  split <;> simp_all

@[simp] theorem view_writeResult (h : p ∉ [.host]) {s q header body bad} :
    view p (writeResult s q header body bad) = view p s := by simp_all [writeResult]

@[simp] theorem view_resultMarks (h : p ∉ [.host, .integrity, .easel, .draws]) {s c b} :
    view p (resultMarks s c b).2 = view p s := by
  simp at h
  exact view_foldl_snd (fun a q => by simp [h]) _ _

@[simp] theorem view_packResult (h : p ∉ [.indexes, .requests, .host, .integrity, .easel, .draws]) {s q x2 k v rs} :
    view p (packResult s q x2 k v rs) = view p s := by simp_all [packResult]

@[simp] theorem view_tryPack (h : p ∉ [.indexes, .requests, .host, .integrity, .easel, .draws]) {s rid} :
    view p (tryPack s rid) = view p s := by
  simp at h
  unfold tryPack
  (repeat' split) <;> simp [h]

@[simp] theorem view_packSheet (h : p ∉ [.indexes, .requests, .streams, .host, .integrity, .easel, .draws]) {s n x sh} :
    view p (packSheet s n x sh) = view p s := by
  unfold packSheet
  split <;> simp_all

theorem view_execFolioMerge (h : p ∉ [.indexes, .requests, .streams, .fabric, .host, .integrity, .easel, .draws]) {rid remote s} {u}
    (e : execFolioMerge rid remote s = .next u) : view p u = view p s := by
  cases e
  (repeat' split) <;> simp_all

/-! ### VideoOps -/

@[simp] theorem view_bumpDec (h : p ∉ [.contexts]) {s c f} :
    view p (bumpDec s c f) = view p s := by simp_all [bumpDec]

/-! ### Video -/

@[simp] theorem view_setEnd (h : p ∉ [.contexts]) {s c x2} :
    view p (setEnd s c x2) = view p s := by simp_all [setEnd]

@[simp] theorem view_emptyPosition (h : p ∉ [.contexts]) {s c d flags x4 r} :
    view p (emptyPosition s c d flags x4 r) = view p s := by simp_all [emptyPosition]

theorem view_execShuffleIssue (h : p ∉ [.contexts, .streams, .fabric, .host, .integrity, .easel, .draws]) {on s} {u}
    (e : execShuffleIssue on s = .next u) : view p u = view p s := by
  obtain ⟨-, rfl⟩ := onUnit_cases e
  simp at h
  dsimp only
  (repeat' split) <;> simp [h]

@[simp] theorem view_takeUnit (h : p ∉ [.streams, .stations]) {s n k x3} :
    view p (takeUnit s n k x3) = view p s := by
  induction x3 generalizing s with
  | zero => rfl
  | succ n ih =>
    simp at h
    unfold takeUnit
    split
    · split
      · rfl
      · dsimp only
        rw [ih]; simp [h]
    · rfl

@[simp] theorem view_pumpUnit (h : p ∉ [.streams, .stations]) {s n} :
    view p (pumpUnit s n) = view p s := by
  unfold pumpUnit
  split <;> simp_all

@[simp] theorem view_decodeSheet (h : p ∉ [.streams, .stations]) {s n sh} :
    view p (decodeSheet s n sh) = view p s := by simp_all [decodeSheet]

theorem view_execDecodeEngineGrant (h : p ∉ [.contexts, .streams, .fabric, .stations]) {engine s} {u}
    (e : execDecodeEngineGrant engine s = .next u) : view p u = view p s := by
  obtain ⟨-, rfl⟩ := onUnit_cases e
  simp at h
  dsimp only
  (repeat' split) <;> simp [h]

@[simp] theorem view_emitSample (h : p ∉ [.contexts, .streams, .fabric, .tiles, .calibration]) {s c d hdr f poison n time} :
    view p (emitSample s c d hdr f poison n time) = view p s := by
  unfold emitSample
  dsimp only
  (repeat' split) <;> simp_all

theorem view_execDecodeUnitEnd (h : p ∉ [.contexts, .streams, .fabric, .tiles, .stations, .calibration, .host, .integrity, .easel, .draws])
    {engine obs s} {u}
    (e : execDecodeUnitEnd engine obs s = .next u) : view p u = view p s := by
  obtain ⟨-, rfl⟩ := onUnit_cases e
  simp at h
  split
  · rfl
  split
  · rfl
  simp [h]
  exact (view_foldl fun t n => by split <;> simp [h]).trans (by simp [h])

@[simp] theorem view_dedupSheet (h : p ∉ [.contexts, .streams, .fabric]) {s n x sh} :
    view p (dedupSheet s n x sh) = view p s := by
  unfold dedupSheet
  split <;> simp_all

@[simp] theorem view_releaseSample (h : p ∉ [.contexts, .streams]) {s c d y} :
    view p (releaseSample s c d y) = view p s := by
  unfold releaseSample
  dsimp only
  (repeat' split) <;> simp_all

@[simp] theorem view_discardDropped (h : p ∉ [.contexts, .streams]) {s c b} :
    view p (discardDropped s c b) = view p s := by
  unfold discardDropped
  split <;> simp_all

@[simp] theorem view_deliverSheet (h : p ∉ [.contexts, .streams]) {s n x sh} :
    view p (deliverSheet s n x sh) = view p s := by
  unfold deliverSheet
  split <;> simp_all

@[simp] theorem view_ringLines (h : p ∉ [.host]) {s pages off parts} :
    view p (ringLines s pages off parts) = view p s := by
  simp at h
  unfold ringLines
  rw [view_foldl_fst fun t a => view_foldl fun t' q => by simp [h]]

@[simp] theorem view_writeSlot (h : p ∉ [.contexts, .host]) {s c port x3 pages k parts} :
    view p (writeSlot s c port x3 pages k parts) = view p s := by
  unfold writeSlot
  dsimp only
  (repeat' split) <;> simp_all

@[simp] theorem view_biteRecord (h : p ∉ [.host, .integrity, .easel, .draws]) {s c stn} :
    view p (biteRecord s c stn) = view p s := by simp_all [biteRecord]

@[simp] theorem view_putSample (h : p ∉ [.contexts, .streams, .host, .integrity, .easel, .draws]) {s c port x3 pages k d y} :
    view p (putSample s c port x3 pages k d y) = view p s := by
  simp at h
  have hs : ∀ l : List Sheet, view p (l.foldl (fun (a : List (Sheet × Bool) × State) sh =>
    let (bad, s) := exitCheck a.2 stnDeliver c ((localStream s c d.copy).getD 0) sh
    (a.1 ++ [(sh, bad)], s)) ([], s)).2 = view p s := fun l => view_foldl_snd (fun a q => by simp [h]) _ _
  unfold putSample
  dsimp only
  simp [h, hs]

@[simp] theorem view_putEnd (h : p ∉ [.contexts, .host, .integrity, .easel, .draws]) {s c port x3 pages k x6 tokens} :
    view p (putEnd s c port x3 pages k x6 tokens) = view p s := by simp_all [putEnd]

theorem view_execDeliverWrite (h : p ∉ [.contexts, .streams, .host, .integrity, .easel, .draws]) {ctx port s} {u}
    (e : execDeliverWrite ctx port s = .next u) : view p u = view p s := by
  obtain ⟨-, rfl⟩ := onUnit_cases e
  simp at h
  dsimp only
  (repeat' split) <;> simp [h]

/-! ### Admin -/

@[simp] theorem view_adminStd (h : p ∉ [.host]) {s cid sct sc dw0 data} :
    view p (adminStd s cid sct sc dw0 data) = view p s := by simp_all [adminStd]

theorem view_execIdentify (h : p ∉ [.host, .easel, .draws]) {cid cns nsid s} {u}
    (e : execIdentify cid cns nsid s = .next u) : view p u = view p s := by
  cases e
  simp_all

theorem view_execGetLogPage (h : p ∉ [.host, .integrity, .easel, .draws]) {cid lid lsp lsi offset len rae s} {u}
    (e : execGetLogPage cid lid lsp lsi offset len rae s = .next u) : view p u = view p s := by
  cases e
  simp_all

theorem view_execGetFeatures (h : p ∉ [.host, .easel]) {cid fid dword11 s} {u}
    (e : execGetFeatures cid fid dword11 s = .next u) : view p u = view p s := by
  cases e
  simp_all

theorem view_execSetFeatures (h : p ∉ [.host, .easel]) {cid fid value s} {u}
    (e : execSetFeatures cid fid value s = .next u) : view p u = view p s := by
  cases e
  (repeat' split) <;> simp_all

theorem view_execCreateIoCompletionQueue (h : p ∉ [.host, .easel]) {cid qid size vector s} {u}
    (e : execCreateIoCompletionQueue cid qid size vector s = .next u) : view p u = view p s := by
  cases e
  simp_all

theorem view_execCreateIoSubmissionQueue (h : p ∉ [.host, .easel]) {cid qid size cqid s} {u}
    (e : execCreateIoSubmissionQueue cid qid size cqid s = .next u) : view p u = view p s := by
  cases e
  simp_all

theorem view_execDeleteIoSubmissionQueue (h : p ∉ [.requests, .media, .host, .easel]) {cid qid s} {u}
    (e : execDeleteIoSubmissionQueue cid qid s = .next u) : view p u = view p s := by
  cases e
  simp at h
  refine view_adminCmdAlways (by simp [h]) fun t => ?_
  split <;> simp [h]

theorem view_execDeleteIoCompletionQueue (h : p ∉ [.host, .easel]) {cid qid s} {u}
    (e : execDeleteIoCompletionQueue cid qid s = .next u) : view p u = view p s := by
  cases e
  simp_all

theorem view_execCompletionQueueDoorbell (h : p ∉ [.host]) {cq head s} {u}
    (e : execCompletionQueueDoorbell cq head s = .next u) : view p u = view p s := by
  cases e
  (repeat' split) <;> simp_all

theorem view_execAsynchronousEventRequest (h : p ∉ [.host, .easel]) {cid s} {u}
    (e : execAsynchronousEventRequest cid s = .next u) : view p u = view p s := by
  cases e
  simp at h
  refine view_adminCmdAlways (by simp [h]) fun t => ?_
  (repeat' split) <;> simp [h]

theorem view_execAbortCommand (h : p ∉ [.requests, .host, .easel]) {cid sq target s} {u}
    (e : execAbortCommand cid sq target s = .next u) : view p u = view p s := by
  cases e
  simp at h
  refine view_adminCmdAlways (by simp [h]) fun t => ?_
  split <;> simp [h]

theorem view_execInvalidCommandOpcode (h : p ∉ [.host, .easel]) {cid opcode s} {u}
    (e : execInvalidCommandOpcode cid opcode s = .next u) : view p u = view p s := by
  cases e
  simp_all

theorem view_execShutdownNotification (h : p ∉ [.protection, .media, .host, .integrity, .easel, .draws]) {s} {u}
    (e : execShutdownNotification s = .next u) : view p u = view p s := by
  cases e
  simp_all

/-! ### Records -/

@[simp] theorem view_countBoot (h : p ∉ [.boot, .easel]) {s kind slot b} :
    view p (countBoot s kind slot b) = view p s := by simp_all [countBoot]

/-! ### RegWrite -/

@[simp] theorem view_selSmon (h : p ∉ [.selectors]) {s v} :
    view p (selSmon s v) = view p s := by simp_all [selSmon]

@[simp] theorem view_selHmon (h : p ∉ [.selectors]) {s v} :
    view p (selHmon s v) = view p s := by simp_all [selHmon]

@[simp] theorem view_selTier (h : p ∉ [.selectors]) {s v} :
    view p (selTier s v) = view p s := by simp_all [selTier]

@[simp] theorem view_selTbl (h : p ∉ [.selectors]) {s v} :
    view p (selTbl s v) = view p s := by simp_all [selTbl]

@[simp] theorem view_selCtx (h : p ∉ [.selectors]) {s v} :
    view p (selCtx s v) = view p s := by simp_all [selCtx]

@[simp] theorem view_selMc (h : p ∉ [.selectors]) {s v} :
    view p (selMc s v) = view p s := by simp_all [selMc]

@[simp] theorem view_selIdx (h : p ∉ [.selectors]) {s v} :
    view p (selIdx s v) = view p s := by simp_all [selIdx]

@[simp] theorem view_selVoc (h : p ∉ [.selectors]) {s v} :
    view p (selVoc s v) = view p s := by simp_all [selVoc]

@[simp] theorem view_selLtr (h : p ∉ [.selectors]) {s v} :
    view p (selLtr s v) = view p s := by simp_all [selLtr]

@[simp] theorem view_selDec (h : p ∉ [.selectors]) {s v} :
    view p (selDec s v) = view p s := by simp_all [selDec]

@[simp] theorem view_selHlk (h : p ∉ [.selectors]) {s v} :
    view p (selHlk s v) = view p s := by simp_all [selHlk]

@[simp] theorem view_selCe (h : p ∉ [.selectors, .host, .integrity, .easel, .draws]) {s v} :
    view p (selCe s v) = view p s := by simp_all [selCe]

@[simp] theorem view_selCal (h : p ∉ [.selectors]) {s v} :
    view p (selCal s v) = view p s := by simp_all [selCal]

@[simp] theorem view_selLog (h : p ∉ [.selectors]) {s v} :
    view p (selLog s v) = view p s := by simp_all [selLog]

@[simp] theorem view_selTemp (h : p ∉ [.selectors, .host, .integrity, .easel, .draws]) {s v} :
    view p (selTemp s v) = view p s := by simp_all [selTemp]

theorem view_execGlbSmonSel (h : p ∉ [.selectors]) {v s} {u}
    (e : execGlbSmonSel v s = .next u) : view p u = view p s := by
  cases e
  simp_all

theorem view_execGlbHmonSel (h : p ∉ [.selectors]) {v s} {u}
    (e : execGlbHmonSel v s = .next u) : view p u = view p s := by
  cases e
  simp_all

theorem view_execTierMonSel (h : p ∉ [.selectors]) {v s} {u}
    (e : execTierMonSel v s = .next u) : view p u = view p s := by
  cases e
  simp_all

theorem view_execTblSel (h : p ∉ [.selectors]) {v s} {u}
    (e : execTblSel v s = .next u) : view p u = view p s := by
  cases e
  simp_all

theorem view_execGlbCtxSel (h : p ∉ [.selectors]) {v s} {u}
    (e : execGlbCtxSel v s = .next u) : view p u = view p s := by
  cases e
  simp_all

theorem view_execGlbMcSel (h : p ∉ [.selectors]) {v s} {u}
    (e : execGlbMcSel v s = .next u) : view p u = view p s := by
  cases e
  simp_all

theorem view_execRtvIdxSel (h : p ∉ [.selectors]) {v s} {u}
    (e : execRtvIdxSel v s = .next u) : view p u = view p s := by
  cases e
  simp_all

theorem view_execLtrVocSel (h : p ∉ [.selectors]) {v s} {u}
    (e : execLtrVocSel v s = .next u) : view p u = view p s := by
  cases e
  simp_all

theorem view_execLtrMonSel (h : p ∉ [.selectors]) {v s} {u}
    (e : execLtrMonSel v s = .next u) : view p u = view p s := by
  cases e
  simp_all

theorem view_execDecMonSel (h : p ∉ [.selectors]) {v s} {u}
    (e : execDecMonSel v s = .next u) : view p u = view p s := by
  cases e
  simp_all

theorem view_execHlkMonSel (h : p ∉ [.selectors]) {v s} {u}
    (e : execHlkMonSel v s = .next u) : view p u = view p s := by
  cases e
  simp_all

theorem view_execIntCeSel (h : p ∉ [.selectors, .host, .integrity, .easel, .draws]) {v s} {u}
    (e : execIntCeSel v s = .next u) : view p u = view p s := by
  cases e
  simp_all

theorem view_execCalMonSel (h : p ∉ [.selectors]) {v s} {u}
    (e : execCalMonSel v s = .next u) : view p u = view p s := by
  cases e
  simp_all

theorem view_execCalLogSel (h : p ∉ [.selectors]) {v s} {u}
    (e : execCalLogSel v s = .next u) : view p u = view p s := by
  cases e
  simp_all

theorem view_execPwrTempSel (h : p ∉ [.selectors, .host, .integrity, .easel, .draws]) {v s} {u}
    (e : execPwrTempSel v s = .next u) : view p u = view p s := by
  cases e
  simp_all

@[simp] theorem view_clearCe (h : p ∉ [.integrity]) {s src} :
    view p (clearCe s src) = view p s := by simp_all [clearCe]

theorem view_execClear (h : p ∉ [.integrity]) {s} {u}
    (e : execClear s = .next u) : view p u = view p s := by
  cases e
  simp_all

@[simp] theorem view_startScrub (h : p ∉ [.host, .integrity, .easel, .draws]) {s} :
    view p (startScrub s) = view p s := by simp_all [startScrub]

@[simp] theorem view_abortScrub (h : p ∉ [.integrity]) {s} :
    view p (abortScrub s) = view p s := by simp_all [abortScrub]

theorem view_execGo (h : p ∉ [.host, .integrity, .easel, .draws]) {space s} {u}
    (e : execGo space s = .next u) : view p u = view p s := by
  cases e
  simp_all

theorem view_execAbort (h : p ∉ [.integrity]) {s} {u}
    (e : execAbort s = .next u) : view p u = view p s := by
  cases e
  simp_all

@[simp] theorem view_scrubLost (h : p ∉ [.memory, .host, .integrity, .easel, .draws]) {s q} :
    view p (scrubLost s q) = view p s := by simp_all [scrubLost]

theorem view_execScrubPassEnd (h : p ∉ [.memory, .host, .integrity, .easel, .draws]) {codewords s} {u}
    (e : execScrubPassEnd codewords s = .next u) : view p u = view p s := by
  cases e
  simp_all

@[simp] theorem view_writeRwb (h : p ∉ [.host, .integrity, .easel, .draws]) {s w off f} (hf : ∀ t, view p (f t) = view p t) :
    view p (writeRwb s w off f) = view p s := by simp_all [writeRwb]

@[simp] theorem view_writeLock (h : p ∉ [.protection, .host, .integrity, .easel, .draws]) {s w v} :
    view p (writeLock s w v) = view p s := by simp_all [writeLock]

theorem view_execLock (h : p ∉ [.protection, .host, .integrity, .easel, .draws]) {w s} {u}
    (e : execLock w s = .next u) : view p u = view p s := by
  cases e
  simp_all

@[simp] theorem view_writeRegion (h : p ∉ [.protection, .host, .integrity, .easel, .draws]) {s w v} :
    view p (writeRegion s w v) = view p s := by simp_all [writeRegion]

theorem view_execCsRegionWrite (h : p ∉ [.protection, .host, .integrity, .easel, .draws]) {w v s} {u}
    (e : execCsRegionWrite w v s = .next u) : view p u = view p s := by
  cases e
  simp_all

@[simp] theorem view_mailboxGo (h : p ∉ [.protection, .host, .integrity, .easel, .draws]) {s w} :
    view p (mailboxGo s w) = view p s := by
  unfold mailboxGo
  split <;> simp_all

theorem view_execMailboxGo (h : p ∉ [.protection, .host, .integrity, .easel, .draws]) {w s} {u}
    (e : execMailboxGo w s = .next u) : view p u = view p s := by
  cases e
  simp_all

@[simp] theorem view_writeWp (h : p ∉ [.protection, .host, .integrity, .easel, .draws]) {s w v} :
    view p (writeWp s w v) = view p s := by simp_all [writeWp]

@[simp] theorem view_usageIf (h : p ∉ [.host, .integrity, .easel, .draws]) {s bad off} :
    view p (usageIf s bad off) = view p s := by simp_all [usageIf]

@[simp] theorem view_writeEw (h : p ∉ [.protection, .host, .integrity, .easel, .draws]) {s v} :
    view p (writeEw s v) = view p s := by simp_all [writeEw]

@[simp] theorem view_writeGlb (h : p ∉ [.selectors, .host, .integrity, .easel, .draws]) {s off v} :
    view p (writeGlb s off v) = view p s := by
  unfold writeGlb
  split <;> simp_all

@[simp] theorem view_writePrt (h : p ∉ [.protection, .host, .integrity, .easel, .draws]) {s w off v} :
    view p (writePrt s w off v) = view p s := by
  unfold writePrt
  split <;> simp_all

@[simp] theorem view_writeInt (h : p ∉ [.selectors, .host, .integrity, .easel, .draws]) {s off v} :
    view p (writeInt s off v) = view p s := by
  unfold writeInt
  split <;> simp_all

@[simp] theorem view_writeCal (h : p ∉ [.selectors, .calibration, .host, .integrity, .easel, .draws]) {s off v} :
    view p (writeCal s off v) = view p s := by
  unfold writeCal
  split <;> simp_all

@[simp] theorem view_writePwr (h : p ∉ [.selectors, .power, .host, .integrity, .easel, .draws]) {s off v} :
    view p (writePwr s off v) = view p s := by
  unfold writePwr
  split <;> simp_all

@[simp] theorem view_writeWindow (h : p ∉ [.tiles, .host, .integrity, .easel, .draws]) {s x1 off v} :
    view p (writeWindow s x1 off v) = view p s := by
  unfold writeWindow
  split <;> simp_all

@[simp] theorem view_writeReg (h : p ∉ [.tiles, .selectors, .calibration, .power, .protection, .host, .integrity, .easel, .draws])
    {s w off v} :
    view p (writeReg s w off v) = view p s := by
  simp at h
  unfold writeReg
  dsimp only
  (repeat' split) <;> simp [h]

theorem view_execRegisterWrite (h : p ∉ [.tiles, .selectors, .calibration, .power, .protection, .host, .integrity, .easel, .draws])
    {w offset size v s} {u}
    (e : execRegisterWrite w offset size v s = .next u) : view p u = view p s := by
  cases e
  simp_all

/-! ### Boot -/

@[simp] theorem view_bootStop (h : p ∉ [.boot, .host, .integrity, .easel, .draws]) {s} :
    view p (bootStop s) = view p s := by simp_all [bootStop]

@[simp] theorem view_romIdentity (h : p ∉ [.boot, .protection]) {s} :
    view p (romIdentity s) = view p s := by simp_all [romIdentity]

theorem view_execBootRom (h : p ∉ [.boot, .protection, .host, .integrity, .easel, .draws]) {s} {u}
    (e : execBootRom s = .next u) : view p u = view p s := by
  unfold execBootRom at e
  dsimp only at e
  (repeat' split at e) <;> cases e <;> simp_all

@[simp] theorem view_resumeTime (h : p ∉ [.clock]) {s} :
    view p (resumeTime s) = view p s := by simp_all [resumeTime]

theorem view_applyLayout (h : p ∉ [.protection]) {s body} {u}
    (e : applyLayout s body = some u) : view p u = view p s := by
  simp at h
  unfold applyLayout at e
  refine view_foldl_bind (π := id) (fun r a b eb => ?_) e
  dsimp only at eb
  split at eb <;> cases eb
  simp [h]

@[simp] theorem view_protectRun (h : p ∉ [.protection]) {s first count} :
    view p (protectRun s first count) = view p s := by simp_all [protectRun]

@[simp] theorem view_raiseFloors (h : p ∉ [.protection]) {s} :
    view p (raiseFloors s) = view p s := by simp_all [raiseFloors]

@[simp] theorem view_applyRoles (h : p ∉ [.tiles, .boot, .protection]) {s} :
    view p (applyRoles s) = view p s := by simp_all [applyRoles]

@[simp] theorem view_applyFolio (h : p ∉ [.folio, .host, .integrity, .easel, .draws]) {s b} :
    view p (applyFolio s b) = view p s := by simp_all [applyFolio]

@[simp] theorem view_applyRecords (h : p ∉ [.tiles, .boot, .folio, .protection, .host, .integrity, .easel, .draws]) {s rs} :
    view p (applyRecords s rs) = view p s := by
  simp at h
  unfold applyRecords
  dsimp only
  (repeat' split) <;> simp [h]

@[simp] theorem view_startFirmware (h : p ∉ [.boot, .protection, .easel]) {s slot img} :
    view p (startFirmware s slot img) = view p s := by
  unfold startFirmware
  split <;> simp_all

theorem view_execStage1 (h : p ∉ [.tiles, .clock, .boot, .folio, .protection, .host, .integrity, .easel, .draws]) {s} {u}
    (e : execStage1 s = .next u) : view p u = view p s := by
  cases e
  simp at h
  split
  · rfl
  dsimp only
  split
  · simp [h]
  next ht =>
    have h₁ := (view_applyLayout (p := p) (by simp [h]) ht).trans (view_resumeTime (by simp [h]))
    split <;> simp [h, h₁]

@[simp] theorem view_promote (h : p ∉ [.cache, .tiles, .boot]) {s x1} :
    view p (promote s x1) = view p s := by
  simp at h
  unfold promote
  (repeat' split) <;> simp [h]

@[simp] theorem view_testAll (h : p ∉ [.cache, .contexts, .tiles, .boot, .power, .host]) {s failed} :
    view p (testAll s failed) = view p s := by simp_all [testAll]

@[simp] theorem view_recoverCommit (h : p ∉ [.media]) {s} :
    view p (recoverCommit s) = view p s := by simp_all [recoverCommit]

@[simp] theorem view_probeCut (h : p ∉ [.protection, .host, .integrity, .easel, .draws]) {s} :
    view p (probeCut s) = view p s := by simp_all [probeCut]

@[simp] theorem view_trainPorts (h : p ∉ [.tiles, .power, .folio]) {s} :
    view p (trainPorts s) = view p s := by simp_all [trainPorts]

theorem view_execEaselFirmwareStart (h : p ∉ [.cache, .contexts, .tiles, .boot, .power, .folio, .protection, .media, .host, .integrity,
    .easel, .draws]) {failed s} {u}
    (e : execEaselFirmwareStart failed s = .next u) : view p u = view p s := by
  cases e
  simp_all

theorem view_execBootStageTimeout (h : p ∉ [.boot, .host, .integrity, .easel, .draws]) {s} {u}
    (e : execBootStageTimeout s = .next u) : view p u = view p s := by
  cases e
  simp_all

@[simp] theorem view_restoreObject (h : p ∉ [.memory, .pages, .tables, .indexes, .lexical, .cache, .folio, .media]) {s r} :
    view p (restoreObject s r) = view p s := by
  simp at h
  have take : ∀ e : Except Status State, (∀ t, e = .ok t → view p t = view p s) →
      view p (match e with | .ok t => t | .error _ => s) = view p s := by
    rintro (st | t) ht
    · rfl
    · exact ht t rfl
  unfold restoreObject
  dsimp only
  split
  · exact take _ fun t => view_loadTable (by simp [h])
  · exact take _ fun t => view_loadIndex (by simp [h])
  · repeat' split
    next ht => exact view_storeImage (by simp [h]) ht
    all_goals rfl
  · split
    · exact take _ fun t => view_loadLexical (by simp [h])
    · rfl

@[simp] theorem view_restoreContext (h : p ∉ [.cache, .contexts, .host, .draws]) {s r id} :
    view p (restoreContext s r id) = view p s := by
  simp at h
  unfold restoreContext
  split
  next ht => simp [h, view_configureCtx _ ht]
  · dsimp only
    split <;> simp [h]

theorem view_execRestore (h : p ∉ [.memory, .pages, .tables, .indexes, .lexical, .cache, .contexts, .boot, .folio, .media, .host, .draws])
    {s} {u}
    (e : execRestore s = .next u) : view p u = view p s := by
  cases e
  simp_all

theorem view_execFirmwareConfirm (h : p ∉ [.cache, .boot]) {s} {u}
    (e : execFirmwareConfirm s = .next u) : view p u = view p s := by
  cases e
  simp_all

theorem view_execFirmwareImageDownload (h : p ∉ [.host, .easel]) {cid offset data s} {u}
    (e : execFirmwareImageDownload cid offset data s = .next u) : view p u = view p s := by
  cases e
  simp_all

@[simp] theorem view_writeFirmware (h : p ∉ [.boot, .protection, .host]) {s kind slot b} :
    view p (writeFirmware s kind slot b) = view p s := by simp_all [writeFirmware]

theorem view_execFirmwareCommit (h : p ∉ [.boot, .protection, .host, .easel]) {cid slot action s} {u}
    (e : execFirmwareCommit cid slot action s = .next u) : view p u = view p s := by
  cases e
  simp at h
  simp [h]

theorem view_execFirmwareRestartEnd (h : p ∉ [.easel]) {s} {u}
    (e : execFirmwareRestartEnd s = .next u) : view p u = view p s := by
  cases e
  simp_all

/-! ### Attest -/

@[simp] theorem view_spdmError (h : p ∉ [.host]) {s code data} :
    view p (spdmError s code data) = view p s := by simp_all [spdmError]

@[simp] theorem view_spdmDone (h : p ∉ [.host]) {s data} :
    view p (spdmDone s data) = view p s := by simp_all [spdmDone]

@[simp] theorem view_spdmLater (h : p ∉ [.host, .easel]) {s us} :
    view p (spdmLater s us) = view p s := by simp_all [spdmLater]

theorem view_spdmRequest (h : p ∉ [.host, .easel]) {s f} {u} (hf : ∀ t, view p (f t) = view p t)
    (e : spdmRequest s f = .next u) : view p u = view p s := by
  simp at h
  unfold spdmRequest at e
  (repeat' split at e) <;> cases e <;> simp [h, hf]

theorem view_execGetVersion (h : p ∉ [.host, .easel]) {s} {u}
    (e : execGetVersion s = .next u) : view p u = view p s := by
  cases e
  simp_all

theorem view_execGetCapabilities (h : p ∉ [.host, .easel]) {s} {u}
    (e : execGetCapabilities s = .next u) : view p u = view p s := by
  cases e
  simp_all

theorem view_execNegotiateAlgorithms (h : p ∉ [.host, .easel]) {asym hash s} {u}
    (e : execNegotiateAlgorithms asym hash s = .next u) : view p u = view p s := by
  cases e
  simp_all

theorem view_execGetDigests (h : p ∉ [.host, .easel]) {s} {u}
    (e : execGetDigests s = .next u) : view p u = view p s := by
  cases e
  simp_all

theorem view_execGetCertificate (h : p ∉ [.host, .easel]) {slot offset len s} {u}
    (e : execGetCertificate slot offset len s = .next u) : view p u = view p s := by
  cases e
  simp_all

theorem view_execChallenge (h : p ∉ [.host, .easel, .draws]) {slot nonce s} {u}
    (e : execChallenge slot nonce s = .next u) : view p u = view p s := by
  cases e
  simp at h
  dsimp only
  (repeat' split) <;> simp [h]

theorem view_execGetMeasurements (h : p ∉ [.host, .easel, .draws]) {index signed nonce s} {u}
    (e : execGetMeasurements index signed nonce s = .next u) : view p u = view p s := by
  cases e
  simp at h
  dsimp only
  (repeat' split) <;> simp [h]

theorem view_execSpdmUnsupported (h : p ∉ [.host, .easel]) {code s} {u}
    (e : execSpdmUnsupported code s = .next u) : view p u = view p s := by
  cases e
  simp_all

@[simp] theorem view_shiftOut (h : p ∉ [.boot, .host]) {s result nonce} :
    view p (shiftOut s result nonce) = view p s := by simp_all [shiftOut]

theorem view_access {s f} {u} (hf : ∀ t, view p (f t) = view p t)
    (e : access s f = .next u) : view p u = view p s := by
  unfold access at e
  (repeat' split at e) <;> cases e <;> simp [hf]

@[simp] theorem view_failOpen (h : p ∉ [.boot, .host]) {s result} :
    view p (failOpen s result) = view p s := by simp_all [failOpen]

@[simp] theorem view_debugRec (h : p ∉ [.host, .integrity, .easel, .draws]) {s} :
    view p (debugRec s) = view p s := by simp_all [debugRec]

@[simp] theorem view_openPort (h : p ∉ [.boot, .host]) {s level method} :
    view p (openPort s level method) = view p s := by simp_all [openPort]

theorem view_execNonce (h : p ∉ [.boot, .host, .draws]) {s} {u}
    (e : execNonce s = .next u) : view p u = view p s := by
  cases e
  simp_all

theorem view_execPassword (h : p ∉ [.boot, .host, .integrity, .easel, .draws]) {level text s} {u}
    (e : execPassword level text s = .next u) : view p u = view p s := by
  cases e
  simp at h
  dsimp only
  (repeat' split) <;> simp [h]

theorem view_execResponse (h : p ∉ [.boot, .host, .integrity, .easel, .draws]) {level sigR sigS s} {u}
    (e : execResponse level sigR sigS s = .next u) : view p u = view p s := by
  cases e
  simp_all

/-! ### Calibrate -/

@[simp] theorem view_calLog (h : p ∉ [.calibration, .easel]) {s kind unit cause oldA newA oldB newB} :
    view p (calLog s kind unit cause oldA newA oldB newB) = view p s := by simp_all [calLog]

@[simp] theorem view_countHeld (h : p ∉ [.calibration]) {s} :
    view p (countHeld s) = view p s := by simp_all [countHeld]

theorem view_execProtectedWindowEnd (h : p ∉ [.calibration]) {s} {u}
    (e : execProtectedWindowEnd s = .next u) : view p u = view p s := by
  cases e
  simp_all

@[simp] theorem view_askPoint (h : p ∉ [.tiles]) {s x1 f v} :
    view p (askPoint s x1 f v) = view p s := by simp_all [askPoint]

@[simp] theorem view_stepUp (h : p ∉ [.tiles, .calibration, .easel]) {s x1 cause} :
    view p (stepUp s x1 cause) = view p s := by simp_all [stepUp]

@[simp] theorem view_stepDown (h : p ∉ [.tiles, .calibration, .easel]) {s x1} :
    view p (stepDown s x1) = view p s := by simp_all [stepDown]

theorem view_execTileCalInterval (h : p ∉ [.tiles, .calibration, .easel]) {x0 s} {u}
    (e : execTileCalInterval x0 s = .next u) : view p u = view p s := by
  obtain ⟨-, rfl⟩ := onUnit_cases e
  simp at h
  simp [h]

@[simp] theorem view_setDieCal (h : p ∉ [.calibration]) {s k x} :
    view p (setDieCal s k x) = view p s := by simp_all [setDieCal]

@[simp] theorem view_moveShift (h : p ∉ [.calibration, .easel]) {s unit slc d kind cause entry} :
    view p (moveShift s unit slc d kind cause entry) = view p s := by simp_all [moveShift]

theorem view_execLevelTrack (h : p ∉ [.calibration, .easel]) {unit slc s} {u}
    (e : execLevelTrack unit slc s = .next u) : view p u = view p s := by
  obtain ⟨-, rfl⟩ := onUnit_cases e
  simp at h
  simp [h]

theorem view_execLevelSweep (h : p ∉ [.calibration, .protection, .host, .integrity, .easel, .draws]) {unit slc s} {u}
    (e : execLevelSweep unit slc s = .next u) : view p u = view p s := by
  obtain ⟨-, rfl⟩ := onUnit_cases e
  simp_all

theorem view_execLevelSweepAdopt (h : p ∉ [.calibration, .easel]) {unit slc buckets s} {u}
    (e : execLevelSweepAdopt unit slc buckets s = .next u) : view p u = view p s := by
  obtain ⟨-, rfl⟩ := onUnit_cases e
  simp_all

/-! ### Ingress -/

@[simp] theorem view_tileSheet (h : p ∉ [.tiles]) {s x x2 sh} :
    view p (tileSheet s x x2 sh) = view p s := by simp_all [tileSheet]

@[simp] theorem view_countAccepted (h : p ∉ [.requests]) {s x sh} :
    view p (countAccepted s x sh) = view p s := by
  unfold countAccepted
  dsimp only
  (repeat' split) <;> simp_all

@[simp] theorem view_releaseResults (h : p ∉ [.streams]) {s c b} :
    view p (releaseResults s c b) = view p s := by simp_all [releaseResults]

@[simp] theorem view_resultSheet (h : p ∉ [.requests, .streams]) {s x sh} :
    view p (resultSheet s x sh) = view p s := by
  unfold resultSheet
  split <;> simp_all

@[simp] theorem view_consume (h : p ∉ [.memory, .tables, .indexes, .moves, .contexts, .requests, .streams, .fabric, .tiles, .stations,
    .calibration, .host, .integrity, .easel, .draws, .rest]) {s n x sh} :
    view p (consume s n x sh) = view p s := by simp_all [consume]

@[simp] theorem view_placeSheet (h : p ∉ [.memory, .requests, .streams, .tiles, .stations]) {s n x sh} :
    view p (placeSheet s n x sh) = view p s := by
  unfold placeSheet
  split <;> simp_all

@[simp] theorem view_releaseHold (h : p ∉ [.streams, .tiles]) {s x1} :
    view p (releaseHold s x1) = view p s := by simp_all [releaseHold]

@[simp] theorem view_acceptSheet (h : p ∉ [.memory, .moves, .contexts, .requests, .streams, .fabric, .tiles, .stations]) {s n x sh sub} :
    view p (acceptSheet s n x sh sub) = view p s := by
  unfold acceptSheet
  split <;> simp_all

@[simp] theorem view_ingressRec (h : p ∉ [.host, .integrity, .easel, .draws]) {s n x a made} :
    view p (ingressRec s n x a made) = view p s := by
  unfold ingressRec
  split <;> simp_all

@[simp] theorem view_ingress (h : p ∉ [.memory, .moves, .contexts, .requests, .streams, .fabric, .tiles, .stations, .host, .integrity,
    .easel, .draws]) {s n x a checkFailed} :
    view p (ingress s n x a checkFailed) = view p s := by simp_all [ingress]

@[simp] theorem view_farArrival (h : p ∉ [.memory, .moves, .contexts, .requests, .streams, .fabric, .tiles, .stations, .folio, .host,
    .integrity, .easel, .draws]) {s n x port a checkFailed} :
    view p (farArrival s n x port a checkFailed) = view p s := by simp_all [farArrival]

theorem view_execSheetIngress (h : p ∉ [.memory, .moves, .contexts, .requests, .streams, .fabric, .tiles, .stations, .folio, .host,
    .integrity, .easel, .draws]) {n err checkFailed far s} {u}
    (e : execSheetIngress n err checkFailed far s = .next u) : view p u = view p s := by
  cases e
  (repeat' split) <;> simp_all

theorem view_execCreditReturn (h : p ∉ [.streams, .fabric, .folio]) {n s} {u}
    (e : execCreditReturn n s = .next u) : view p u = view p s := by
  unfold execCreditReturn at e
  dsimp only at e
  (repeat' split at e) <;> cases e <;> simp_all

/-! ### Complete -/

@[simp] theorem view_endDelivery (h : p ∉ [.requests]) {s q} :
    view p (endDelivery s q) = view p s := by
  unfold endDelivery
  split <;> simp_all

@[simp] theorem view_endReq (h : p ∉ [.pages, .tables, .indexes, .moves, .contexts, .requests, .tiles, .host]) {s q} :
    view p (endReq s q) = view p s := by simp_all [endReq]

@[simp] theorem view_postOne (h : p ∉ [.pages, .tables, .indexes, .moves, .contexts, .requests, .streams, .tiles, .host, .integrity,
    .easel, .draws]) {s q x2} :
    view p (postOne s q x2) = view p s := by simp_all [postOne]

theorem view_execCompletionPost (h : p ∉ [.memory, .pages, .tables, .indexes, .moves, .cache, .contexts, .requests, .streams, .tiles,
    .stations, .calibration, .boot, .power, .host, .integrity, .easel, .draws]) {rid s} {u}
    (e : execCompletionPost rid s = .next u) : view p u = view p s := by
  cases e
  simp at h
  dsimp only
  (repeat' split) <;> simp [h]

/-! ### Grants -/

@[simp] theorem view_takeArrived (h : p ∉ [.memory, .tables, .indexes, .moves, .contexts, .requests, .streams, .fabric, .tiles, .stations,
    .calibration, .host, .integrity, .easel, .draws, .rest]) {s n} :
    view p (takeArrived s n) = view p s := by
  simp at h
  unfold takeArrived
  (repeat' split) <;> simp [h]

@[simp] theorem view_granted (h : p ∉ [.memory, .tables, .indexes, .moves, .contexts, .requests, .streams, .fabric, .tiles, .stations,
    .calibration, .folio, .host, .integrity, .easel, .draws, .rest]) {s resource n} :
    view p (granted s resource n) = view p s := by
  unfold granted
  split <;> simp_all

theorem view_execArbiterGrant (h : p ∉ [.memory, .tables, .indexes, .moves, .contexts, .requests, .streams, .fabric, .tiles, .stations,
    .calibration, .folio, .host, .integrity, .easel, .draws, .rest]) {resource ports reqs s} {u}
    (e : execArbiterGrant resource ports reqs s = .next u) : view p u = view p s := by
  unfold execArbiterGrant at e
  dsimp only at e
  (repeat' split at e) <;> cases e <;> simp_all

/-! ### Window -/

@[simp] theorem view_unmapPage (h : p ∉ [.memory, .pages, .host]) {s c w} :
    view p (unmapPage s c w) = view p s := by
  unfold unmapPage
  split <;> simp_all

theorem view_mapEntry (h : p ∉ [.memory, .pages, .media, .host]) {cid s x2} {u}
    (e : mapEntry cid s x2 = some u) : view p u = view p s := by
  simp at h
  unfold mapEntry at e
  dsimp only at e
  replace e := (Option.ite_none_left_eq_some.1 e).2
  split at e
  · obtain ⟨a, ha, e⟩ := Option.map_eq_some_iff.1 (Option.ite_none_left_eq_some.1 e).2
    cases e
    simp [h, view_allocPages _ ha]
  · replace e := (Option.ite_none_left_eq_some.1 e).2
    split at e <;> cases e <;> simp [h]

theorem view_windowEntries (h : p ∉ [.memory, .pages, .media, .host]) {cid x1 s} {u}
    (e : windowEntries cid x1 s = some u) : view p u = view p s := by
  induction x1 generalizing s with
  | nil => cases e; rfl
  | cons w ws ih =>
    unfold windowEntries at e
    split at e
    · obtain ⟨t, ht, e⟩ := Option.bind_eq_some_iff.1 e
      exact (ih e).trans (view_mapEntry h ht)
    · cases e

@[simp] theorem view_windowCommand (h : p ∉ [.memory, .pages, .media, .host, .easel]) {s cid data} :
    view p (windowCommand s cid data) = view p s := by
  simp at h
  refine view_adminCmd (by simp [h]) fun t => ?_
  split
  · simp [h]
  split
  · simp [h]
  next ht =>
    have h₁ := view_windowEntries (p := p) (by simp [h]) ht
    split <;> simp [h, h₁]

theorem view_execWindowMap (h : p ∉ [.memory, .pages, .media, .host, .easel]) {cid entries s} {u}
    (e : execWindowMap cid entries s = .next u) : view p u = view p s := by
  cases e
  simp_all

theorem view_execWindowUnmap (h : p ∉ [.memory, .pages, .media, .host, .easel]) {cid entries s} {u}
    (e : execWindowUnmap cid entries s = .next u) : view p u = view p s := by
  cases e
  simp_all

theorem view_execDeferredUnmap (h : p ∉ [.memory, .pages, .host]) {k s} {u}
    (e : execDeferredUnmap k s = .next u) : view p u = view p s := by
  cases e
  (repeat' split) <;> simp_all

@[simp] theorem view_clearWindow (h : p ∉ [.memory, .pages, .host]) {s} :
    view p (clearWindow s) = view p s := by simp_all [clearWindow]

theorem view_execDecoderCommit (h : p ∉ [.memory, .pages, .host]) {base bytes s} {u}
    (e : execDecoderCommit base bytes s = .next u) : view p u = view p s := by
  cases e
  simp_all

theorem view_execDecoderDecommit (h : p ∉ [.host]) {s} {u}
    (e : execDecoderDecommit s = .next u) : view p u = view p s := by
  cases e
  simp_all

@[simp] theorem view_protWindow (h : p ∉ [.host, .integrity, .easel, .draws]) {s off write} :
    view p (protWindow s off write) = view p s := by simp_all [protWindow]

theorem view_execHostWindowRead (h : p ∉ [.host, .integrity, .easel, .draws]) {offset len s} {u}
    (e : execHostWindowRead offset len s = .next u) : view p u = view p s := by
  unfold execHostWindowRead at e
  dsimp only at e
  (repeat' split at e) <;> cases e <;> simp_all

theorem view_execHostWindowWrite (h : p ∉ [.memory, .host, .integrity, .easel, .draws]) {offset data s} {u}
    (e : execHostWindowWrite offset data s = .next u) : view p u = view p s := by
  cases e
  simp at h
  split
  · simp [h]
  split
  · rfl
  refine view_foldl fun t a => ?_
  split
  · split <;> simp [h]
  · simp [h]

theorem view_execBackInvalidateResponse (h : p ∉ [.memory, .host]) {line s} {u}
    (e : execBackInvalidateResponse line s = .next u) : view p u = view p s := by
  cases e
  (repeat' split) <;> simp_all

/-! ### HostReset -/

@[simp] theorem view_orphanAll (h : p ∉ [.tables, .indexes, .contexts, .requests, .host]) {s} :
    view p (orphanAll s) = view p s := by simp_all [orphanAll]

@[simp] theorem view_resetController (h : p ∉ [.tables, .indexes, .contexts, .requests, .stations, .media, .host]) {s} :
    view p (resetController s) = view p s := by simp_all [resetController]

theorem view_execControllerReset (h : p ∉ [.tables, .indexes, .contexts, .requests, .stations, .media, .host]) {s} {u}
    (e : execControllerReset s = .next u) : view p u = view p s := by
  cases e
  simp_all

theorem view_execFunctionLevelReset (h : p ∉ [.tables, .indexes, .contexts, .requests, .stations, .media, .host]) {s} {u}
    (e : execFunctionLevelReset s = .next u) : view p u = view p s := by
  cases e
  simp_all

@[simp] theorem view_linkRec (h : p ∉ [.host, .integrity, .easel, .draws]) {s} :
    view p (linkRec s) = view p s := by simp_all [linkRec]

@[simp] theorem view_linkDown (h : p ∉ [.host, .integrity, .easel, .draws]) {s} :
    view p (linkDown s) = view p s := by simp_all [linkDown]

theorem view_execCxlLinkTrain (h : p ∉ [.host, .integrity, .easel, .draws]) {rate width latencyFlit s} {u}
    (e : execCxlLinkTrain rate width latencyFlit s = .next u) : view p u = view p s := by
  cases e
  simp_all

theorem view_execPerst (h : p ∉ [.tables, .indexes, .contexts, .requests, .stations, .media, .host, .integrity, .easel, .draws]) {low s} {u}
    (e : execPerst low s = .next u) : view p u = view p s := by
  cases e
  simp_all

theorem view_execHotReset (h : p ∉ [.tables, .indexes, .contexts, .requests, .stations, .media, .host, .integrity, .easel, .draws]) {s} {u}
    (e : execHotReset s = .next u) : view p u = view p s := by
  cases e
  simp_all

/-! ### Recovery -/

@[simp] theorem view_discardFlight (h : p ∉ [.tables, .moves, .contexts, .streams, .tiles, .stations, .folio]) {s c} :
    view p (discardFlight s c) = view p s := by simp_all [discardFlight]

@[simp] theorem view_readmit (h : p ∉ [.indexes, .contexts, .requests, .streams, .fabric, .tiles, .stations, .calibration, .host, .draws])
    {s rid} :
    view p (readmit s rid) = view p s := by
  unfold readmit
  dsimp only
  (repeat' split) <;> simp_all

@[simp] theorem view_replayCtx (h : p ∉ [.tables, .indexes, .moves, .contexts, .requests, .streams, .fabric, .tiles, .stations,
    .calibration, .folio, .host, .draws]) {s c} :
    view p (replayCtx s c) = view p s := by simp_all [replayCtx]

@[simp] theorem view_recoveryRec (h : p ∉ [.host, .integrity, .easel, .draws]) {s kind stage ctx b unit address} :
    view p (recoveryRec s kind stage ctx b unit address) = view p s := by simp_all [recoveryRec]

@[simp] theorem view_beginRecovery (h : p ∉ [.recovery, .host, .integrity]) {s kind} :
    view p (beginRecovery s kind) = view p s := by simp_all [beginRecovery]

@[simp] theorem view_endRecovery (h : p ∉ [.recovery, .host, .integrity]) {s} :
    view p (endRecovery s) = view p s := by simp_all [endRecovery]

@[simp] theorem view_unabsorbed (h : p ∉ [.recovery, .host, .integrity, .easel, .draws]) {s kind ctx b unit address} :
    view p (unabsorbed s kind ctx b unit address) = view p s := by simp_all [unabsorbed]

@[simp] theorem view_takeSpare (h : p ∉ [.cache, .contexts, .tiles, .boot, .power, .host]) {s q r n l} :
    view p (takeSpare s q r n l).2 = view p s := by
  induction n generalizing s l with
  | zero => rfl
  | succ n ih =>
    simp at h
    unfold takeSpare
    dsimp only
    split
    · rfl
    · split
      · simp [h]
      · rw [ih]; simp [h]

@[simp] theorem view_placeLogical (h : p ∉ [.tiles]) {s c l k x4} :
    view p (placeLogical s c l k x4) = view p s := by
  unfold placeLogical
  split <;> simp_all

@[simp] theorem view_moveEndpoint (h : p ∉ [.streams]) {s c x2 q} :
    view p (moveEndpoint s c x2 q) = view p s := by simp_all [moveEndpoint]

@[simp] theorem view_reloadOn (h : p ∉ [.contexts, .streams, .tiles, .power]) {s c l ps k} :
    view p (reloadOn s c l ps k) = view p s := by simp_all [reloadOn]

@[simp] theorem view_loseContext (h : p ∉ [.memory, .pages, .tables, .indexes, .moves, .cache, .contexts, .requests, .streams, .tiles,
    .stations, .calibration, .boot, .power, .folio, .host]) {s c} :
    view p (loseContext s c) = view p s := by
  simp at h
  unfold loseContext
  extract_lets t t₁
  have ht : view p t = view p s := by simp [t, h]
  have h₁ : view p t₁ = view p t := view_foldl fun t a => by split <;> simp [h]
  simp [h, h₁, ht]

theorem view_execReStencil (h : p ∉ [.memory, .pages, .tables, .indexes, .moves, .cache, .contexts, .requests, .streams, .fabric, .tiles,
    .stations, .recovery, .calibration, .boot, .power, .folio, .host, .integrity, .easel, .draws]) {x0 selfTests s} {u}
    (e : execReStencil x0 selfTests s = .next u) : view p u = view p s := by
  obtain ⟨-, rfl⟩ := onUnit_cases e
  simp at h
  dsimp only
  split
  · rfl
  split
  · rfl
  split
  · simp [h]
  · split <;> simp [h]

@[simp] theorem view_testSpares (h : p ∉ [.cache, .contexts, .tiles, .boot, .host]) {s failed} :
    view p (testSpares s failed) = view p s := by simp_all [testSpares]

theorem view_execSpareDailyTest (h : p ∉ [.cache, .contexts, .tiles, .boot, .host, .easel]) {failed s} {u}
    (e : execSpareDailyTest failed s = .next u) : view p u = view p s := by
  cases e
  simp_all

theorem view_execMembershipFrame (h : p ∉ [.folio, .host]) {member faulted easelAlive s} {u}
    (e : execMembershipFrame member faulted easelAlive s = .next u) : view p u = view p s := by
  cases e
  simp_all

@[simp] theorem view_redirect (h : p ∉ [.streams]) {s} :
    view p (redirect s) = view p s := by simp_all [redirect]

@[simp] theorem view_rescan (h : p ∉ [.requests]) {s} :
    view p (rescan s) = view p s := by simp_all [rescan]

@[simp] theorem view_loseShard (h : p ∉ [.recovery, .folio, .host, .integrity, .easel, .draws]) {s kind id k} :
    view p (loseShard s kind id k) = view p s := by simp_all [loseShard]

@[simp] theorem view_loseShards (h : p ∉ [.recovery, .folio, .host, .integrity, .easel, .draws]) {s} :
    view p (loseShards s) = view p s := by
  simp at h
  unfold loseShards
  extract_lets t
  have ht : view p t = view p s := view_foldl fun t a => view_foldl fun t' k => by simp [h]
  exact (view_foldl fun t a => view_foldl fun t' k => by simp [h]).trans ht

theorem view_execMemberLoss (h : p ∉ [.tables, .indexes, .moves, .contexts, .requests, .streams, .fabric, .tiles, .stations, .recovery,
    .calibration, .folio, .host, .integrity, .easel, .draws]) {member s} {u}
    (e : execMemberLoss member s = .next u) : view p u = view p s := by
  cases e
  simp at h
  simp [h]

@[simp] theorem view_discardAll (h : p ∉ [.memory, .pages, .tables, .indexes, .lexical, .moves, .cache, .contexts, .requests, .streams,
    .tiles, .stations, .calibration, .boot, .host]) {s} :
    view p (discardAll s) = view p s := by simp_all [discardAll]

theorem view_execSelfFence (h : p ∉ [.memory, .pages, .tables, .indexes, .lexical, .moves, .cache, .contexts, .requests, .streams, .tiles,
    .stations, .calibration, .boot, .power, .folio, .host, .integrity, .easel, .draws]) {s} {u}
    (e : execSelfFence s = .next u) : view p u = view p s := by
  cases e
  simp_all

theorem view_execMemberRejoin (h : p ∉ [.recovery, .folio, .host, .integrity, .easel, .draws]) {member s} {u}
    (e : execMemberRejoin member s = .next u) : view p u = view p s := by
  cases e
  simp at h
  simp [h]

theorem view_execRemirrorEnd (h : p ∉ [.streams, .recovery, .folio, .host, .integrity, .easel, .draws]) {member s} {u}
    (e : execRemirrorEnd member s = .next u) : view p u = view p s := by
  cases e
  simp_all

@[simp] theorem view_sendMarks (h : p ∉ [.host]) {s} :
    view p (sendMarks s) = view p s := by simp_all [sendMarks]

theorem view_execTimingMark (h : p ∉ [.clock, .power, .folio, .host, .easel]) {offset s} {u}
    (e : execTimingMark offset s = .next u) : view p u = view p s := by
  cases e
  simp at h
  dsimp only
  (repeat' split) <;> simp [h]

theorem view_execFolioJoin (h : p ∉ [.clock, .folio]) {count s} {u}
    (e : execFolioJoin count s = .next u) : view p u = view p s := by
  cases e
  simp_all

theorem view_execTimeFloor (h : p ∉ [.clock, .easel]) {s} {u}
    (e : execTimeFloor s = .next u) : view p u = view p s := by
  cases e
  simp_all

/-! ### Ports -/

@[simp] theorem view_portRec (h : p ∉ [.host, .integrity, .easel, .draws]) {s x1} :
    view p (portRec s x1) = view p s := by simp_all [portRec]

@[simp] theorem view_moveOne (h : p ∉ [.folio]) {s x1 blocked x} :
    view p (moveOne s x1 blocked x).2 = view p s := by
  unfold moveOne
  dsimp only
  split <;> simp_all

@[simp] theorem view_drainPort (h : p ∉ [.folio]) {s x1} :
    view p (drainPort s x1) = view p s := by
  simp at h
  unfold drainPort
  split
  · rfl
  · exact view_foldl_snd (fun a q => by simp [h]) _ _

@[simp] theorem view_portsChanged (h : p ∉ [.folio, .host, .integrity]) {s} :
    view p (portsChanged s) = view p s := by simp_all [portsChanged]

@[simp] theorem view_failPort (h : p ∉ [.folio, .host, .integrity, .easel, .draws]) {s x1} :
    view p (failPort s x1) = view p s := by
  unfold failPort
  dsimp only
  (repeat' split) <;> simp_all

theorem view_execPortCheck (h : p ∉ [.folio, .host, .integrity, .easel, .draws]) {port folioId peer peerPort s} {u}
    (e : execPortCheck port folioId peer peerPort s = .next u) : view p u = view p s := by
  obtain ⟨-, rfl⟩ := onUnit_cases e
  simp_all

theorem view_execPortRetrain (h : p ∉ [.folio, .host, .integrity, .easel, .draws]) {port lanes s} {u}
    (e : execPortRetrain port lanes s = .next u) : view p u = view p s := by
  obtain ⟨-, rfl⟩ := onUnit_cases e
  simp_all

theorem view_execHatchLinkFailure (h : p ∉ [.folio, .host, .integrity, .easel, .draws]) {port s} {u}
    (e : execHatchLinkFailure port s = .next u) : view p u = view p s := by
  obtain ⟨-, rfl⟩ := onUnit_cases e
  simp_all

theorem view_execHatchAckTimeout (h : p ∉ [.folio, .host, .integrity, .easel, .draws]) {port s} {u}
    (e : execHatchAckTimeout port s = .next u) : view p u = view p s := by
  obtain ⟨-, rfl⟩ := onUnit_cases e
  simp_all

theorem view_execHatchLaneLoss (h : p ∉ [.folio, .host, .integrity, .easel, .draws]) {port lanes s} {u}
    (e : execHatchLaneLoss port lanes s = .next u) : view p u = view p s := by
  obtain ⟨-, rfl⟩ := onUnit_cases e
  simp_all

theorem view_execHatchReplay (h : p ∉ [.folio]) {port k s} {u}
    (e : execHatchReplay port k s = .next u) : view p u = view p s := by
  obtain ⟨-, rfl⟩ := onUnit_cases e
  simp_all

theorem view_execDetourEnd (h : p ∉ [.folio]) {port s} {u}
    (e : execDetourEnd port s = .next u) : view p u = view p s := by
  obtain ⟨-, rfl⟩ := onUnit_cases e
  simp_all

@[simp] theorem view_ringSend (h : p ∉ [.host]) {s payload} :
    view p (ringSend s payload) = view p s := by simp_all [ringSend]

theorem view_execManagementFrame (h : p ∉ [.host]) {dest payload s} {u}
    (e : execManagementFrame dest payload s = .next u) : view p u = view p s := by
  cases e
  simp_all

theorem view_execManagementRingBreak (h : p ∉ [.folio]) {member s} {u}
    (e : execManagementRingBreak member s = .next u) : view p u = view p s := by
  cases e
  simp_all

/-! ### Sideband -/

@[simp] theorem view_miInvalid (h : p ∉ [.host]) {s} :
    view p (miInvalid s) = view p s := by simp_all [miInvalid]

@[simp] theorem view_miLater (h : p ∉ [.host, .easel]) {s us} :
    view p (miLater s us) = view p s := by simp_all [miLater]

@[simp] theorem view_miDone (h : p ∉ [.host]) {s data} :
    view p (miDone s data) = view p s := by simp_all [miDone]

@[simp] theorem view_miAnswer (h : p ∉ [.host]) {s accepted} :
    view p (miAnswer s accepted) = view p s := by simp_all [miAnswer]

@[simp] theorem view_miClass3 (h : p ∉ [.host, .easel]) {s f} (hf : ∀ t, view p (f t) = view p t) :
    view p (miClass3 s f) = view p s := by simp_all [miClass3]

theorem view_miRequest {s f} {u} (hf : ∀ t, view p (f t) = view p t)
    (e : miRequest s f = .next u) : view p u = view p s := by
  unfold miRequest at e
  (repeat' split at e) <;> cases e <;> simp [hf]

theorem view_miVendor (h : p ∉ [.host]) {s opcode member args f} {u} (hf : ∀ t, view p (f t) = view p t)
    (e : miVendor s opcode member args f = .next u) : view p u = view p s := by
  simp at h
  unfold miVendor at e
  cases e
  simp [h, hf]

@[simp] theorem view_beginTest (h : p ∉ [.tiles, .power, .host, .integrity, .easel]) {s kind} :
    view p (beginTest s kind) = view p s := by
  unfold beginTest
  split <;> simp_all

theorem view_execTestStart (h : p ∉ [.tiles, .power, .host, .integrity, .easel]) {member kind s} {u}
    (e : execTestStart member kind s = .next u) : view p u = view p s := by
  cases e
  simp_all

theorem view_execTestEnd (h : p ∉ [.cache, .contexts, .tiles, .boot, .host, .integrity, .easel]) {failed s} {u}
    (e : execTestEnd failed s = .next u) : view p u = view p s := by
  cases e
  (repeat' split) <;> simp_all

theorem view_execTestStatus (h : p ∉ [.host, .easel]) {member s} {u}
    (e : execTestStatus member s = .next u) : view p u = view p s := by
  simp at h
  refine view_miVendor (by simp [h]) (fun t => ?_) e
  dsimp only
  split
  · simp [h]
  · refine view_miClass3 (by simp [h]) fun t => ?_
    split <;> simp [h]

theorem view_execTelemetryRead (h : p ∉ [.host, .easel]) {member select start s} {u}
    (e : execTelemetryRead member select start s = .next u) : view p u = view p s := by
  cases e
  (repeat' split) <;> simp_all

theorem view_execRecordsRead (h : p ∉ [.host, .integrity, .easel, .draws]) {member source start s} {u}
    (e : execRecordsRead member source start s = .next u) : view p u = view p s := by
  cases e
  (repeat' split) <;> simp_all

theorem view_execCeClear (h : p ∉ [.host, .integrity, .easel]) {member source s} {u}
    (e : execCeClear member source s = .next u) : view p u = view p s := by
  cases e
  simp_all

theorem view_execReadNvmeMiDataStructure (h : p ∉ [.host, .easel, .draws]) {dtyp portId s} {u}
    (e : execReadNvmeMiDataStructure dtyp portId s = .next u) : view p u = view p s := by
  cases e
  (repeat' split) <;> simp_all

theorem view_execSubsystemHealthStatusPoll (h : p ∉ [.host]) {s} {u}
    (e : execSubsystemHealthStatusPoll s = .next u) : view p u = view p s := by
  cases e
  simp_all

theorem view_execControllerHealthStatusPoll (h : p ∉ [.host]) {s} {u}
    (e : execControllerHealthStatusPoll s = .next u) : view p u = view p s := by
  cases e
  simp_all

theorem view_execConfigurationGet (h : p ∉ [.host, .easel]) {id s} {u}
    (e : execConfigurationGet id s = .next u) : view p u = view p s := by
  cases e
  simp_all

theorem view_execConfigurationSet (h : p ∉ [.host, .easel]) {id value s} {u}
    (e : execConfigurationSet id value s = .next u) : view p u = view p s := by
  cases e
  simp_all

theorem view_execVpdRead (h : p ∉ [.host, .easel]) {offset len s} {u}
    (e : execVpdRead offset len s = .next u) : view p u = view p s := by
  cases e
  simp_all

theorem view_execTunnelledAdmin (h : p ∉ [.host, .integrity, .easel, .draws]) {opcode dword10 s} {u}
    (e : execTunnelledAdmin opcode dword10 s = .next u) : view p u = view p s := by
  cases e
  (repeat' split) <;> simp_all

end

/-- The areas that a command may change. Nothing is said here about the host interface, the records, Easel and the free inputs; and
no command but a power-up touches the queue. -/
def changes (p : Area) (c : Instr) : Bool :=
  match p with
  | .memory => changesMemory c
  | .pages => changesPages c
  | .tables => changesTables c
  | .indexes => changesIndexes c
  | .lexical => changesLexical c
  | .moves => changesMoves c
  | .cache => changesCache c
  | .contexts => changesContexts c
  | .requests => changesRequests c
  | .streams => changesStreams c
  | .fabric => changesFabric c
  | .tiles => changesTiles c
  | .stations => changesStations c
  | .clock => changesTime c
  | .selectors => changesSelectors c
  | .recovery => changesRecovery c
  | .calibration => changesCalibration c
  | .boot => changesBoot c
  | .power => changesPower c
  | .folio => changesFolio c
  | .protection => changesProtection c
  | .media => changesMedia c
  | .host | .integrity | .easel | .draws | .rest => true
  | .queue => false

/-- A command that leaves area `p` may change none but other areas. -/
theorem outside {p : Area} {c : Instr} {areas : List Area} (hc : (areas.all fun q => changes q c) = true)
    (hp : changes p c = false) : p ∉ areas := fun hm => by
  rw [List.all_eq_true.1 hc p hm] at hp
  cases hp

/-- A command that does not begin a power-up leaves each area that it is not listed for. -/
theorem exec_view {p : Area} {c : Instr} {s u : State} (e : exec c s = .next u) (hu : powersUp c = false)
    (hp : changes p c = false) : view p u = view p s := by
  cases c with
  | nop => exact view_execNop (outside rfl hp) e
  | mma => exact view_execMma (outside rfl hp) e
  | preload => exact view_execPreload (outside rfl hp) e
  | drain => exact view_execDrain (outside rfl hp) e
  | ctbl => exact view_execCtbl (outside rfl hp) e
  | vop => exact view_execVop (outside rfl hp) e
  | func => exact view_execFunc (outside rfl hp) e
  | reduce => exact view_execReduce (outside rfl hp) e
  | cvt => exact view_execCvt (outside rfl hp) e
  | signpack => exact view_execSignpack (outside rfl hp) e
  | emit => exact view_execEmit (outside rfl hp) e
  | release => exact view_execRelease (outside rfl hp) e
  | copy => exact view_execCopy (outside rfl hp) e
  | invalidStroke => exact view_execInvalidStroke (outside rfl hp) e
  | strokeComplete => exact view_execStrokeComplete (outside rfl hp) e
  | firstNanTrap => exact view_execFirstNanTrap (outside rfl hp) e
  | handshakeTimeout => exact view_execHandshakeTimeout (outside rfl hp) e
  | clockChange => exact view_execClockChange (outside rfl hp) e
  | quiesceTimeout => exact view_execQuiesceTimeout (outside rfl hp) e
  | cntClr => exact view_execCntClr (outside rfl hp) e
  | test => exact view_execTest (outside rfl hp) e
  | selfTestEnd => exact view_execSelfTestEnd (outside rfl hp) e
  | islandTransferAck => exact view_execIslandTransferAck (outside rfl hp) e
  | arbiterGrant => exact view_execArbiterGrant (outside rfl hp) e
  | escalation => exact view_execEscalation (outside rfl hp) e
  | sheetIngress => exact view_execSheetIngress (outside rfl hp) e
  | resend => exact view_execResend (outside rfl hp) e
  | creditReturn => exact view_execCreditReturn (outside rfl hp) e
  | glbSmonSel => exact view_execGlbSmonSel (outside rfl hp) e
  | glbHmonSel => exact view_execGlbHmonSel (outside rfl hp) e
  | tierMonSel => exact view_execTierMonSel (outside rfl hp) e
  | tblSel => exact view_execTblSel (outside rfl hp) e
  | glbCtxSel => exact view_execGlbCtxSel (outside rfl hp) e
  | glbMcSel => exact view_execGlbMcSel (outside rfl hp) e
  | rtvIdxSel => exact view_execRtvIdxSel (outside rfl hp) e
  | ltrVocSel => exact view_execLtrVocSel (outside rfl hp) e
  | ltrMonSel => exact view_execLtrMonSel (outside rfl hp) e
  | decMonSel => exact view_execDecMonSel (outside rfl hp) e
  | hlkMonSel => exact view_execHlkMonSel (outside rfl hp) e
  | intCeSel => exact view_execIntCeSel (outside rfl hp) e
  | calMonSel => exact view_execCalMonSel (outside rfl hp) e
  | calLogSel => exact view_execCalLogSel (outside rfl hp) e
  | pwrTempSel => exact view_execPwrTempSel (outside rfl hp) e
  | clear => exact view_execClear (outside rfl hp) e
  | go => exact view_execGo (outside rfl hp) e
  | abort => exact view_execAbort (outside rfl hp) e
  | scrubPassEnd => exact view_execScrubPassEnd (outside rfl hp) e
  | lock => exact view_execLock (outside rfl hp) e
  | csRegionWrite => exact view_execCsRegionWrite (outside rfl hp) e
  | mailboxGo => exact view_execMailboxGo (outside rfl hp) e
  | registerWrite => exact view_execRegisterWrite (outside rfl hp) e
  | read => exact view_execRead (outside rfl hp) e
  | program => exact view_execProgram (outside rfl hp) e
  | erase => exact view_execErase (outside rfl hp) e
  | probe => exact view_execProbe (outside rfl hp) e
  | calRead => exact view_execCalRead (outside rfl hp) e
  | csRead => exact view_execCsRead (outside rfl hp) e
  | csProgram => exact view_execCsProgram (outside rfl hp) e
  | csErase => exact view_execCsErase (outside rfl hp) e
  | csFetch => exact view_execCsFetch (outside rfl hp) e
  | rbRead => exact view_execRbRead (outside rfl hp) e
  | rbAdvance => exact view_execRbAdvance (outside rfl hp) e
  | badDescriptor => exact view_execBadDescriptor (outside rfl hp) e
  | descriptorComplete => exact view_execDescriptorComplete (outside rfl hp) e
  | imageLoad => exact view_execImageLoad (outside rfl hp) e
  | loadAllocation => exact view_execLoadAllocation (outside rfl hp) e
  | loadComplete => exact view_execLoadComplete (outside rfl hp) e
  | replacementDrained => exact view_execReplacementDrained (outside rfl hp) e
  | imageStore => exact view_execImageStore (outside rfl hp) e
  | cachePin => exact view_execCachePin (outside rfl hp) e
  | cacheUnpin => exact view_execCacheUnpin (outside rfl hp) e
  | ctxConfigure => exact view_execCtxConfigure (outside rfl hp) e
  | ctxRelease => exact view_execCtxRelease (outside rfl hp) e
  | ctxStart => exact view_execCtxStart (outside rfl hp) e
  | ctxStop => exact view_execCtxStop (outside rfl hp) e
  | ctxUnload => exact view_execCtxUnload (outside rfl hp) e
  | tableLoad => exact view_execTableLoad (outside rfl hp) e
  | indexLoad => exact view_execIndexLoad (outside rfl hp) e
  | vocabularyLoad => exact view_execVocabularyLoad (outside rfl hp) e
  | normalisationLoad => exact view_execNormalisationLoad (outside rfl hp) e
  | grammarLoad => exact view_execGrammarLoad (outside rfl hp) e
  | objectUnload => exact view_execObjectUnload (outside rfl hp) e
  | windowMap => exact view_execWindowMap (outside rfl hp) e
  | windowUnmap => exact view_execWindowUnmap (outside rfl hp) e
  | deferredUnmap => exact view_execDeferredUnmap (outside rfl hp) e
  | versionStepTable => exact view_execVersionStepTable (outside rfl hp) e
  | versionStepIndex => exact view_execVersionStepIndex (outside rfl hp) e
  | versionSwitch => exact view_execVersionSwitch (outside rfl hp) e
  | hotGrow => exact view_execHotGrow (outside rfl hp) e
  | nanClear => exact view_execNanClear (outside rfl hp) e
  | fairCopy => exact view_execFairCopy (outside rfl hp) e
  | fairCopyEnd => exact view_execFairCopyEnd (outside rfl hp) e
  | mediaThresholds => exact view_execMediaThresholds (outside rfl hp) e
  | ringCreate => exact view_execRingCreate (outside rfl hp) e
  | ringDelete => exact view_execRingDelete (outside rfl hp) e
  | ringDeleteDone => exact view_execRingDeleteDone (outside rfl hp) e
  | ringTailSnoop => exact view_execRingTailSnoop (outside rfl hp) e
  | indexCommit => exact view_execIndexCommit (outside rfl hp) e
  | commitEpoch => exact view_execCommitEpoch (outside rfl hp) e
  | query => exact view_execQuery (outside rfl hp) e
  | frontOpen => exact view_execFrontOpen (outside rfl hp) e
  | frontStep => exact view_execFrontStep (outside rfl hp) e
  | frontClose => exact view_execFrontClose (outside rfl hp) e
  | deliveryJob => exact view_execDeliveryJob (outside rfl hp) e
  | batchJob => exact view_execBatchJob (outside rfl hp) e
  | admissionGrant => exact view_execAdmissionGrant (outside rfl hp) e
  | completionPost => exact view_execCompletionPost (outside rfl hp) e
  | nvmRead => exact view_execNvmRead (outside rfl hp) e
  | nvmWrite => exact view_execNvmWrite (outside rfl hp) e
  | writeZeroes => exact view_execWriteZeroes (outside rfl hp) e
  | flush => exact view_execFlush (outside rfl hp) e
  | datasetManagement => exact view_execDatasetManagement (outside rfl hp) e
  | identify => exact view_execIdentify (outside rfl hp) e
  | createIoSubmissionQueue => exact view_execCreateIoSubmissionQueue (outside rfl hp) e
  | createIoCompletionQueue => exact view_execCreateIoCompletionQueue (outside rfl hp) e
  | deleteIoSubmissionQueue => exact view_execDeleteIoSubmissionQueue (outside rfl hp) e
  | deleteIoCompletionQueue => exact view_execDeleteIoCompletionQueue (outside rfl hp) e
  | getLogPage => exact view_execGetLogPage (outside rfl hp) e
  | setFeatures => exact view_execSetFeatures (outside rfl hp) e
  | getFeatures => exact view_execGetFeatures (outside rfl hp) e
  | asynchronousEventRequest => exact view_execAsynchronousEventRequest (outside rfl hp) e
  | abortCommand => exact view_execAbortCommand (outside rfl hp) e
  | firmwareImageDownload => exact view_execFirmwareImageDownload (outside rfl hp) e
  | firmwareCommit => exact view_execFirmwareCommit (outside rfl hp) e
  | formatNvm => exact view_execFormatNvm (outside rfl hp) e
  | sanitize => exact view_execSanitize (outside rfl hp) e
  | invalidCommandOpcode => exact view_execInvalidCommandOpcode (outside rfl hp) e
  | shutdownNotification => exact view_execShutdownNotification (outside rfl hp) e
  | controllerReset => exact view_execControllerReset (outside rfl hp) e
  | functionLevelReset => exact view_execFunctionLevelReset (outside rfl hp) e
  | decoderCommit => exact view_execDecoderCommit (outside rfl hp) e
  | decoderDecommit => exact view_execDecoderDecommit (outside rfl hp) e
  | hostWindowRead => exact view_execHostWindowRead (outside rfl hp) e
  | hostWindowWrite => exact view_execHostWindowWrite (outside rfl hp) e
  | cxlLinkTrain => exact view_execCxlLinkTrain (outside rfl hp) e
  | perst => exact view_execPerst (outside rfl hp) e
  | moveIssue => exact view_execMoveIssue (outside rfl hp) e
  | moveDeadline => exact view_execMoveDeadline (outside rfl hp) e
  | moveComplete => exact view_execMoveComplete (outside rfl hp) e
  | stationDeadline => exact view_execStationDeadline (outside rfl hp) e
  | tierReadReturn => exact view_execTierReadReturn (outside rfl hp) e
  | hotRowCopyEnd => exact view_execHotRowCopyEnd (outside rfl hp) e
  | hotReadWindow => exact view_execHotReadWindow (outside rfl hp) e
  | probePass => exact view_execProbePass (outside rfl hp) e
  | folioMerge => exact view_execFolioMerge (outside rfl hp) e
  | decodeEngineGrant => exact view_execDecodeEngineGrant (outside rfl hp) e
  | decodeUnitEnd => exact view_execDecodeUnitEnd (outside rfl hp) e
  | shuffleIssue => exact view_execShuffleIssue (outside rfl hp) e
  | deliverWrite => exact view_execDeliverWrite (outside rfl hp) e
  | stagingProgram => exact view_execStagingProgram (outside rfl hp) e
  | foldStart => exact view_execFoldStart (outside rfl hp) e
  | foldJournal => exact view_execFoldJournal (outside rfl hp) e
  | mappingCheckpoint => exact view_execMappingCheckpoint (outside rfl hp) e
  | wearCheck => exact view_execWearCheck (outside rfl hp) e
  | foldStripeClose => exact view_execFoldStripeClose (outside rfl hp) e
  | stripeVerify => exact view_execStripeVerify (outside rfl hp) e
  | eraseIntent => exact view_execEraseIntent (outside rfl hp) e
  | mediaStageWindow => exact view_execMediaStageWindow (outside rfl hp) e
  | patrolRead => exact view_execPatrolRead (outside rfl hp) e
  | correctableError => exact view_execCorrectableError (outside rfl hp) e
  | ceLeak => exact view_execCeLeak (outside rfl hp) e
  | recordPersist => exact view_execRecordPersist (outside rfl hp) e
  | reStencil => exact view_execReStencil (outside rfl hp) e
  | spareDailyTest => exact view_execSpareDailyTest (outside rfl hp) e
  | membershipFrame => exact view_execMembershipFrame (outside rfl hp) e
  | memberLoss => exact view_execMemberLoss (outside rfl hp) e
  | selfFence => exact view_execSelfFence (outside rfl hp) e
  | memberRejoin => exact view_execMemberRejoin (outside rfl hp) e
  | remirrorEnd => exact view_execRemirrorEnd (outside rfl hp) e
  | timingMark => exact view_execTimingMark (outside rfl hp) e
  | folioJoin => exact view_execFolioJoin (outside rfl hp) e
  | timeFloor => exact view_execTimeFloor (outside rfl hp) e
  | portCheck => exact view_execPortCheck (outside rfl hp) e
  | portRetrain => exact view_execPortRetrain (outside rfl hp) e
  | hatchLinkFailure => exact view_execHatchLinkFailure (outside rfl hp) e
  | hatchAckTimeout => exact view_execHatchAckTimeout (outside rfl hp) e
  | hatchReplay => exact view_execHatchReplay (outside rfl hp) e
  | detourEnd => exact view_execDetourEnd (outside rfl hp) e
  | managementFrame => exact view_execManagementFrame (outside rfl hp) e
  | protectedWindowEnd => exact view_execProtectedWindowEnd (outside rfl hp) e
  | tileCalInterval => exact view_execTileCalInterval (outside rfl hp) e
  | levelTrack => exact view_execLevelTrack (outside rfl hp) e
  | levelSweep => exact view_execLevelSweep (outside rfl hp) e
  | levelSweepAdopt => exact view_execLevelSweepAdopt (outside rfl hp) e
  | inputFailure => exact view_execInputFailure (outside rfl hp) e
  | commitComplete => cases hu
  | bankExhausted => exact view_execBankExhausted (outside rfl hp) e
  | inputReturn => cases hu
  | insertion => cases hu
  | powerUpStep => exact view_execPowerUpStep (outside rfl hp) e
  | domainGoodTimeout => exact view_execDomainGoodTimeout (outside rfl hp) e
  | bootRom => exact view_execBootRom (outside rfl hp) e
  | stage1 => exact view_execStage1 (outside rfl hp) e
  | easelFirmwareStart => exact view_execEaselFirmwareStart (outside rfl hp) e
  | restore => exact view_execRestore (outside rfl hp) e
  | bootStageTimeout => exact view_execBootStageTimeout (outside rfl hp) e
  | bankMeasurement => exact view_execBankMeasurement (outside rfl hp) e
  | bankMeasurementEnd => exact view_execBankMeasurementEnd (outside rfl hp) e
  | throttleWindow => cases hu
  | surge => exact view_execSurge (outside rfl hp) e
  | thermalStop => exact view_execThermalStop (outside rfl hp) e
  | firmwareConfirm => exact view_execFirmwareConfirm (outside rfl hp) e
  | easelDispatch => exact view_execEaselDispatch (outside rfl hp) e
  | overloadEnd => exact view_execOverloadEnd (outside rfl hp) e
  | telemetryFrame => exact view_execTelemetryFrame (outside rfl hp) e
  | decimationTick => exact view_execDecimationTick (outside rfl hp) e
  | watchdogExpiry => exact view_execWatchdogExpiry (outside rfl hp) e
  | powerOn => cases hu
  | testStart => exact view_execTestStart (outside rfl hp) e
  | testEnd => exact view_execTestEnd (outside rfl hp) e
  | testStatus => exact view_execTestStatus (outside rfl hp) e
  | telemetryRead => exact view_execTelemetryRead (outside rfl hp) e
  | recordsRead => exact view_execRecordsRead (outside rfl hp) e
  | ceClear => exact view_execCeClear (outside rfl hp) e
  | readNvmeMiDataStructure => exact view_execReadNvmeMiDataStructure (outside rfl hp) e
  | subsystemHealthStatusPoll => exact view_execSubsystemHealthStatusPoll (outside rfl hp) e
  | controllerHealthStatusPoll => exact view_execControllerHealthStatusPoll (outside rfl hp) e
  | configurationGet => exact view_execConfigurationGet (outside rfl hp) e
  | configurationSet => exact view_execConfigurationSet (outside rfl hp) e
  | vpdRead => exact view_execVpdRead (outside rfl hp) e
  | tunnelledAdmin => exact view_execTunnelledAdmin (outside rfl hp) e
  | getVersion => exact view_execGetVersion (outside rfl hp) e
  | getCapabilities => exact view_execGetCapabilities (outside rfl hp) e
  | negotiateAlgorithms => exact view_execNegotiateAlgorithms (outside rfl hp) e
  | getDigests => exact view_execGetDigests (outside rfl hp) e
  | getCertificate => exact view_execGetCertificate (outside rfl hp) e
  | challenge => exact view_execChallenge (outside rfl hp) e
  | getMeasurements => exact view_execGetMeasurements (outside rfl hp) e
  | spdmUnsupported => exact view_execSpdmUnsupported (outside rfl hp) e
  | nonce => exact view_execNonce (outside rfl hp) e
  | password => exact view_execPassword (outside rfl hp) e
  | response => exact view_execResponse (outside rfl hp) e
  | canaryFail => exact view_execCanaryFail (outside rfl hp) e
  | hatchLaneLoss => exact view_execHatchLaneLoss (outside rfl hp) e
  | bankCharged => exact view_execBankCharged (outside rfl hp) e
  | managementRingBreak => exact view_execManagementRingBreak (outside rfl hp) e
  | backInvalidateResponse => exact view_execBackInvalidateResponse (outside rfl hp) e
  | completionQueueDoorbell => exact view_execCompletionQueueDoorbell (outside rfl hp) e
  | hotReset => exact view_execHotReset (outside rfl hp) e
  | healthSnapshotRefresh => exact view_execHealthSnapshotRefresh (outside rfl hp) e
  | firmwareRestartEnd => exact view_execFirmwareRestartEnd (outside rfl hp) e

/-- A field of an area that is left is as before. -/
theorem field_of_view {α : Type} (g : State → α) (p : Area) {s u : State} (hv : view p u = view p s)
    (hg : ∀ t, g (view p t) = g t := by intro; rfl) : g u = g s :=
  calc
    g u = g (view p u) := (hg u).symm
    _ = g (view p s) := by rw [hv]
    _ = g s := hg s

/-- A field of an area that a command leaves is as before. -/
theorem exec_field {α : Type} (g : State → α) (p : Area) {c : Instr} {s u : State} (e : exec c s = .next u) (hu : powersUp c = false)
    (hp : changes p c = false) (hg : ∀ t, g (view p t) = g t := by intro; rfl) : g u = g s :=
  field_of_view g p (exec_view e hu hp) hg

/-- Settles O6: `exec_field` for each field of each area. -/
theorem commandsKeepOtherData : Obligations.CommandsKeepOtherData := by
  unfold Obligations.CommandsKeepOtherData
  intro c s u e hu
  exact ⟨
    fun h => ⟨exec_field State.mem .memory e hu h, exec_field State.poison .memory e hu h⟩,
    fun h => exec_field State.pages .pages e hu h,
    fun h => ⟨exec_field State.tables .tables e hu h, exec_field State.migLog .tables e hu h, exec_field State.updates .tables e hu h,
        exec_field State.scatters .tables e hu h, exec_field State.readCtrs .tables e hu h⟩,
    fun h => exec_field State.indexes .indexes e hu h,
    fun h => ⟨exec_field State.vocabs .lexical e hu h, exec_field State.norms .lexical e hu h, exec_field State.grammars .lexical e hu h⟩,
    fun h => ⟨exec_field State.copies .moves e hu h, exec_field State.queued .moves e hu h, exec_field State.inflight .moves e hu h,
        exec_field State.reads .moves e hu h, exec_field State.runs .moves e hu h, exec_field State.nextRun .moves e hu h⟩,
    fun h => ⟨exec_field State.cache .cache e hu h, exec_field State.cacheOrder .cache e hu h, exec_field State.allocOrder .cache e hu h⟩,
    fun h => exec_field State.ctxs .contexts e hu h,
    fun h => ⟨exec_field State.reqs .requests e hu h, exec_field State.nextRid .requests e hu h,
        exec_field State.admitPtr .requests e hu h⟩,
    fun h => exec_field State.streams .streams e hu h,
    fun h => ⟨exec_field State.arbiters .fabric e hu h, exec_field State.boundaries .fabric e hu h⟩,
    fun h => exec_field State.tiles .tiles e hu h,
    fun h => ⟨exec_field State.encodes .stations e hu h, exec_field State.fronts .stations e hu h, exec_field State.gens .stations e hu h,
        exec_field State.engines .stations e hu h⟩⟩

end Sys2Proof.Proofs

namespace Sys2Proof.Proofs
open Sys2Proof Sys2Proof.Machine Sys2Proof.Safety

/-! ### Completions stay, and requests that ended do not come back -/

/-- A completion that the module has posted, or that waits in its queue. -/
def Held (s : State) (y : Completion) : Prop := y ∈ s.host.posted ∨ ∃ z, cqOf s y.cq = some z ∧ y ∈ z.waiting

/-- What every step of the work after a completion keeps: completions stay, and a request that has ended stays so. -/
structure Later (s u : State) : Prop where
  held : ∀ y, Held s y → Held u y
  gone : ∀ r, reqOf s r = none → reqOf u r = none

namespace Later

theorem refl (s : State) : Later s s := ⟨fun _ h => h, fun _ h => h⟩

theorem trans {s t u : State} (h₁ : Later s t) (h₂ : Later t u) : Later s u :=
  ⟨fun y h => h₂.held y (h₁.held y h), fun r h => h₂.gone r (h₁.gone r h)⟩

/-- `trans` with the second step first: its states determine those of the first. -/
theorem after {s t u : State} (h₂ : Later t u) (h₁ : Later s t) : Later s u := h₁.trans h₂

theorem of_eq {s u : State} (hp : u.host.posted = s.host.posted) (hc : u.host.cqs = s.host.cqs) (hr : u.reqs = s.reqs) : Later s u where
  held y h := by simpa only [Held, cqOf, hp, hc] using h
  gone r h := by simpa only [reqOf, hr] using h

theorem of_view {s u : State} (hh : view .host u = view .host s) (hr : view .requests u = view .requests s) : Later s u :=
  of_eq (field_of_view (fun t => t.host.posted) .host hh) (field_of_view (fun t => t.host.cqs) .host hh)
    (field_of_view State.reqs .requests hr)

theorem foldl {α : Type} {f : State → α → State} (hf : ∀ t a, Later t (f t a)) (l : List α) (s : State) : Later s (l.foldl f s) := by
  induction l generalizing s with
  | nil => exact refl s
  | cons a l ih => exact (hf s a).trans (ih _)

theorem foldl_snd {α β : Type} {f : β × State → α → β × State} (hf : ∀ t a, Later t.2 (f t a).2) (l : List α) (x : β × State) :
    Later x.2 (l.foldl f x).2 := by
  induction l generalizing x with
  | nil => exact refl _
  | cons a l ih => exact (hf x a).trans (ih _)

theorem of_snd_eq {α : Type} {x : α × State} {a : α} {s t : State} (e : x = (a, t)) (h : Later s x.2) : Later s t := by
  rw [e] at h
  exact h

theorem postCpl (s : State) (c : Completion) : Later s (postCpl s c) where
  held y h := by
    unfold Machine.postCpl
    split
    · exact h
    next q hq =>
      split
      · refine h.imp (List.mem_cons_of_mem c) fun ⟨z, hz, hy⟩ => ?_
        by_cases hc : y.cq = c.cq
        · rw [hc, hq] at hz
          cases hz
          exact ⟨{ q with unread := q.unread + 1 }, by simp [hc, cqOf], hy⟩
        · exact ⟨z, by simpa [cqOf, mapFind_mapPut_other _ _ hc] using hz, hy⟩
      · refine h.imp id fun ⟨z, hz, hy⟩ => ?_
        by_cases hc : y.cq = c.cq
        · rw [hc, hq] at hz
          cases hz
          exact ⟨{ q with waiting := q.waiting ++ [c] }, by simp [hc, cqOf], List.mem_append_left _ hy⟩
        · exact ⟨z, by simpa [cqOf, mapFind_mapPut_other _ _ hc] using hz, hy⟩
  gone r h := by
    have hr : (Machine.postCpl s c).reqs = s.reqs := field_of_view State.reqs .requests (view_postCpl (by simp))
    rwa [reqOf, hr]

theorem updReq (s : State) (r : Nat) (f : Req → Req) : Later s (updReq s r f) where
  held y h := h
  gone q h := by
    by_cases hq : q = r
    · rw [hq] at h ⊢
      rw [reqOf_updReq, h, Option.map_none]
    · rw [reqOf_updReq_ne _ _ hq, h]

theorem raiseEvent (s : State) (key lid : Nat) : Later s (raiseEvent s key lid) := by
  unfold Machine.raiseEvent
  split
  · exact refl s
  · dsimp only
    split
    · exact of_eq rfl rfl rfl
    · exact (postCpl _ _).after (of_eq rfl rfl rfl)

theorem forwardRecs (s : State) : Later s (forwardRecs s) := by
  unfold Machine.forwardRecs
  split
  · exact of_eq rfl rfl rfl
  · exact refl s

theorem reportRec (s : State) (r : ErrRec) : Later s (reportRec s r) := by
  unfold Machine.reportRec
  split
  · refine trans ?_ (raiseEvent _ _ _)
    split
    · exact (forwardRecs _).after (of_eq rfl rfl rfl)
    · exact refl s
  · exact of_eq rfl rfl rfl

theorem recordErr (s : State) (a : RecArgs) : Later s (recordErr s a) := by
  unfold Machine.recordErr
  dsimp only
  split
  · exact of_eq rfl rfl rfl
  · exact (reportRec _ _).after (of_eq rfl rfl rfl)

theorem exitCheck (s : State) (stn c n : Nat) (sh : Sheet) : Later s (exitCheck s stn c n sh).2 := by
  unfold Machine.exitCheck
  split
  · exact refl s
  · exact recordErr _ _

theorem toMembers (s : State) (b : Bytes) : Later s (toMembers s b) := by
  unfold Machine.toMembers
  split
  · exact of_eq rfl rfl rfl
  · exact refl s

theorem toRejoining (s : State) (holders : List Nat) (b : Bytes) : Later s (toRejoining s holders b) := by
  unfold Machine.toRejoining
  split
  · dsimp only
    split <;> exact of_eq rfl rfl rfl
  · exact refl s

theorem setHotFull (s : State) (k : Nat) : Later s (setHotFull s k) := by
  unfold Machine.setHotFull
  split
  · split
    · exact refl s
    · exact (raiseEvent _ _ _).after (of_eq rfl rfl rfl)
  · exact refl s

theorem waitUpdate (s : State) (w : Update) (log hot : Bool) : Later s (waitUpdate s w log hot) :=
  of_view (view_waitUpdate (by simp)) (view_waitUpdate (by simp))

theorem offerUpdate {s t : State} {w : Update} (e : offerUpdate s w = .applied t ∨ offerUpdate s w = .logWait t) : Later s t :=
  of_view (view_offerUpdate (by simp) e) (view_offerUpdate (by simp) e)

theorem takeUpdate (s : State) (w : Update) : Later s (takeUpdate s w) := by
  unfold Machine.takeUpdate
  split
  · exact waitUpdate _ _ _ _
  · split
    next e => exact offerUpdate (.inl e)
    next e => exact (offerUpdate (.inr e)).trans (waitUpdate _ _ _ _)
    · exact waitUpdate _ _ _ _
    · split
      · exact (waitUpdate _ _ _ _).trans (setHotFull _ _)
      · exact refl s

theorem sendUpdate (s : State) (t : TableDesc) (w : Update) : Later s (sendUpdate s t w) := by
  unfold Machine.sendUpdate
  dsimp only
  refine ((toRejoining _ _ _).trans (takeUpdate _ _)).after ?_
  generalize (t.shards != 0 && _) = far
  cases far
  · exact refl s
  · exact toMembers _ _

theorem flushGroup (s : State) (c : Nat) (x : ScatterBatch) (tbl : BitVec 64) : Later s (flushGroup s c x tbl) := by
  unfold Machine.flushGroup
  split
  · exact refl s
  · dsimp only
    split
    · exact refl s
    · refine trans ?_ (foldl (fun t w => sendUpdate t _ w) _ _)
      split
      · exact (updReq _ _ _).after (of_eq rfl rfl rfl)
      · exact of_eq rfl rfl rfl

theorem scatterRun (s : State) (tbl : BitVec 64) (c : Nat) (x : ScatterBatch) (n : Nat) (idx : Sheet) (vs : List Sheet) :
    Later s (scatterRun s tbl c x n idx vs).2 := by
  fun_cases Machine.scatterRun s tbl c x n idx vs with
  | case1 => exact refl s
  | case2 _ t _ _ _ _ _ _ _ s₁ hr s₂ =>
    have h₁ : Later s s₁ := by
      refine of_snd_eq hr (foldl_snd (fun a sh => ?_) vs (([] : List (List Nat × Bool)), s))
      exact exitCheck _ _ _ _ _
    have h₂ : Later s₁ s₂ := by
      simp only [s₂]
      split
      · exact refl _
      · exact recordErr _ _
    refine (h₁.trans h₂).trans (foldl_snd (fun a q => ?_) _ (x, s₂))
    have step : ∀ (b : Prop) [Decidable b] (y z v : ScatterBatch) (t u : State), Later t u →
        Later t (if b then (y, Machine.flushGroup u c v tbl) else (z, u)).2 := by
      intro b _ y z v t u hu
      split
      · exact hu.trans (flushGroup _ _ _ _)
      · exact hu
    dsimp only
    split
    · split
      · exact step _ _ _ _ _ _ (recordErr _ _)
      · split <;> exact step _ _ _ _ _ _ (refl _)
    · exact step _ _ _ _ _ _ (recordErr _ _)

theorem pumpScatter (s : State) (c k n : Nat) : Later s (pumpScatter s c k n) := by
  have after : ∀ t x n m k k', Later t (freeSlots (freeSlots (setScatter t x) n k) m k') := fun _ _ _ _ _ _ =>
    of_view (by simp) (by simp)
  induction n generalizing s with
  | zero => exact refl s
  | succ n ih =>
    unfold Machine.pumpScatter
    split
    · split
      · dsimp only
        split
        · split
          · exact refl s
          · exact (ih _).after ((after _ _ _ _ _ _).after (scatterRun _ _ _ _ _ _ _))
        · exact refl s
      · exact refl s
    · exact refl s

theorem closeScatter (s : State) (c b : Nat) : Later s (closeScatter s c b) := by
  refine foldl (fun t x => ?_) _ _
  dsimp only
  split
  · exact (flushGroup _ _ _ _).after (of_eq rfl rfl rfl)
  · exact of_eq rfl rfl rfl

theorem closeIdle (s : State) : Later s (closeIdle s) := by
  refine foldl (fun t x => foldl (fun t' y => ?_) _ _) _ _
  split
  · exact refl _
  · exact closeScatter _ _ _

theorem settleTables (s : State) : Later s (settleTables s) := by
  refine trans (of_view (u := s.tables.foldl (fun s p => freeDrainedTable s p.1) s) (by simp) (by simp)) ?_
  exact (closeIdle _).after (foldl (fun t x => pumpScatter _ _ _ _) _ _)

end Later

/-! ### ADMISSION_GRANT, COMMIT_EPOCH and COMPLETION_POST -/

/-- A pair of a map in its form is what the map finds. -/
theorem mapFind_of_mem {α : Type} {m : SMap α} {k : Nat} {a : α} (hw : mapWf m = true) (hm : (k, a) ∈ m) : mapFind m k = some a := by
  rw [mapWf_iff] at hw
  induction m with
  | nil => cases hm
  | cons b t ih =>
    obtain ⟨j, b⟩ := b
    rw [List.map_cons, List.pairwise_cons] at hw
    obtain ⟨hj, hw⟩ := hw
    rw [mapFind]
    rcases List.mem_cons.1 hm with hm | hm
    · cases hm
      rw [if_pos rfl]
    · have hlt : j < k := hj k (List.mem_map_of_mem hm)
      rw [if_neg hlt.ne, if_neg hlt.not_gt, ih hw hm]

/-- A completion of a queue that exists is the newest. -/
theorem vendorCpl_answers_sq (s : State) {o : Origin} (m : BitVec 10) (hi dw1 : Nat) {x : SQ} (hm : m ≠ 0) (hr : o.ring = none)
    (hs : o.sq ≠ 0) (hc : o.cid < orphanCid) (hx : mapFind s.host.sqs o.sq = some x) (hq : (cqOf s x.cq).isSome) :
    Answers (vendorCpl s o m hi dw1) x.cq o.sq o.cid (statusField (statusOfMask m)).1 (statusField (statusOfMask m)).2.1 := by
  unfold vendorCpl complete
  simp only [hm, if_false, Nat.not_le.2 hc, originQueue, hr, hs, hx, Option.map_some]
  exact ⟨_, postCpl_newest hq, rfl, rfl, rfl, rfl, rfl⟩

/-- Nothing is admitted while the link is in viral or the module contained. -/
theorem execAdmissionGrant_held {s : State} (h : s.host.viral = true ∨ s.integ.phase = .contained) :
    execAdmissionGrant s = .next s := by
  unfold execAdmissionGrant
  rw [if_pos (by simpa using h)]

theorem execAdmissionGrant_of_grant {s : State} {q : Req} (hv : s.host.viral = false) (hp : s.integ.phase ≠ .contained)
    (hq : ((List.range 16).map fun i => (s.admitPtr + i) % 16).findSome? (nextGrant s) = some q) :
    execAdmissionGrant s = .next (grantReq { s with admitPtr := (q.ctx + 1) % 16 } q) := by
  unfold execAdmissionGrant
  rw [if_neg (by simp [hv, hp])]
  dsimp only
  rw [hq]

/-- A batch that is not as its rules say is refused. -/
theorem grantReq_batch_refused {s : State} {q : Req} (hk : q.kind = .batch) (hr : q.src.ring = none) (hb : batchOk s q = false) :
    grantReq s q = refuseReq s q .format := by
  simp [grantReq, hk, hr, hb]

theorem batch_refused {s : State} {q : Req} {x : SQ} (hk : q.kind = .batch) (hb : batchOk s q = false) (hr : q.src.ring = none)
    (hs : q.src.sq ≠ 0) (hc : q.src.cid < orphanCid) (hx : mapFind s.host.sqs q.src.sq = some x) (hq : (cqOf s x.cq).isSome)
    (hw : mapWf s.reqs = true) :
    reqOf (grantReq s q) q.rid = none ∧ Answers (grantReq s q) x.cq q.src.sq q.src.cid 7 0x81 ∧
      (grantReq s q).ctxs = s.ctxs ∧ (grantReq s q).mem = s.mem := by
  rw [grantReq_batch_refused hk hr hb]
  unfold refuseReq
  have hreq : reqOf (vendorCpl (dropReq s q.rid) q.src (condBit .format) 0 0) = reqOf (dropReq s q.rid) := by
    funext r
    simp only [reqOf, field_of_view State.reqs .requests (view_vendorCpl (by simp))]
  refine ⟨by simp [hreq, reqOf_dropReq _ _ _ hw],
    vendorCpl_answers_sq (dropReq s q.rid) (condBit .format) 0 0 (by decide) hr hs hc hx hq, ?_, ?_⟩
  · exact field_of_view State.ctxs .contexts ((view_vendorCpl (by simp)).trans (view_dropReq (by simp)))
  · exact field_of_view State.mem .memory ((view_vendorCpl (by simp)).trans (view_dropReq (by simp)))

/-- The commit that an index waits for ends: the epoch moves and the request has one more completion. -/
theorem execCommitEpoch_done {s : State} {id : BitVec 64} {k : Nat} {x : Index} {c : Commit} {y : Req}
    (hi : indexOf s id = some (k, x)) (hw : mapWf s.indexes = true) (hc : x.commit = some c) (hy : reqOf s c.rid = some y) :
    ∃ u z, execCommitEpoch id s = .next u ∧ { u with indexes := s.indexes, reqs := s.reqs } = s ∧
      mapFind u.indexes k = some { x with ePrev := x.eCommit, eCommit := c.epoch, cStamp := s.time, commit := none } ∧
      reqOf u c.rid = some z ∧ z.done = true ∧ z.posts.length = y.posts.length + 1 := by
  have hx : mapFind s.indexes k = some x := mapFind_of_mem hw (List.mem_of_find?_eq_some hi)
  unfold execCommitEpoch
  simp only [hi, hc]
  refine ⟨_, { y with done := true, posts := y.posts ++ [⟨y.src, 0, min c.misses 0xFFFF, c.epoch % 2 ^ 32, true⟩] }, rfl, rfl,
    by simp [updIndex, updReq, mapFind_mapUpd, hx], ?_, rfl, by simp⟩
  rw [reqOf_updReq, show reqOf (updIndex s k _) c.rid = some y from hy, Option.map_some]

theorem endDelivery_of_kind {s : State} {q : Req} (hk : q.kind ≠ .delivery) : endDelivery s q = s := by
  unfold endDelivery
  split
  · rw [if_neg fun h => hk h.1]
  · rfl

/-- A completion of a request that is not its last is posted and leaves the request, its posts aside. -/
theorem postOne_not_final {s : State} {q : Req} {p : Post} (hf : p.final = false) (hq : reqOf s q.rid = some q) :
    reqOf (postOne s q p) q.rid = some { q with posts := q.posts.drop 1 } ∧ (postOne s q p).fronts = s.fronts := by
  unfold postOne
  simp only [hf, Bool.false_eq_true, if_false]
  constructor
  · have hr : ∀ t, view .requests t = view .requests s → reqOf t q.rid = some q := fun t ht => by
      rw [reqOf, field_of_view State.reqs .requests ht]
      exact hq
    rw [reqOf_updReq, hr _ (by simp), Option.map_some]
  · exact field_of_view State.fronts .stations (by simp)

/-- A running context has nothing to leave when a request ends. -/
theorem afterReq_of_running {s : State} {c : Nat} (h : (ctxOf s c).st = .running) : afterReq s c = s := by
  unfold afterReq
  rw [if_neg (by simp [h])]

theorem endUnloads_of_running {s : State} {c : Nat} (h : (ctxOf s c).st = .running) : endUnloads s c = s := by
  unfold endUnloads
  dsimp only
  split
  · rfl
  · rw [if_pos (by simp [h])]

theorem useVersions_of_kind {s : State} {q : Req} (hk : q.kind = .commit ∨ q.kind = .front) (up : Bool) : useVersions s q up = s := by
  rcases hk with hk | hk <;> simp [useVersions, hk]

theorem endReq_of_kind {s : State} {q : Req} (hk : q.kind = .commit ∨ q.kind = .front) (hc : (ctxOf s q.ctx).st = .running) :
    endReq s q = dropReq (unpinBatch s q.ctx q.batch) q.rid := by
  unfold endReq
  dsimp only
  rw [useVersions_of_kind hk, if_neg (by rcases hk with hk | hk <;> simp [hk])]
  exact afterReq_of_running hc

/-- The last completion of a commit or a front request that has ended well: it is SUCCESS, and the request is dropped. -/
theorem postOne_final {s : State} {q : Req} {p : Post} (hk : q.kind = .commit ∨ q.kind = .front) (hf : p.final = true)
    (hp : p.cond = 0) (hq : q.cond = 0) (hi : s.integ.phase ≠ .contained) (hc : (ctxOf s q.ctx).st = .running) :
    postOne s q p =
      dropReq (unpinBatch (vendorCpl (releaseResults s q.ctx q.batch) p.src (condBit .success) p.hi p.dw1) q.ctx q.batch) q.rid := by
  have htrap : (q.kind == .query || q.kind == .batch || q.kind == .delivery) = false := by
    rcases hk with hk | hk <;> rw [hk] <;> rfl
  have hctx : ∀ t, view .contexts t = view .contexts s → (ctxOf t q.ctx).st = .running := fun t ht => by
    rw [ctxOf, field_of_view State.ctxs .contexts ht]
    exact hc
  unfold postOne
  simp only [hf, hp, hq, hi, htrap, Bool.and_false, Bool.false_eq_true, if_true, if_false]
  exact endReq_of_kind hk (hctx _ (by simp))

theorem answers_of_host {s u : State} (h : u.host = s.host) {cq sq cid sct sc : Nat} (ha : Answers s cq sq cid sct sc) :
    Answers u cq sq cid sct sc := by
  simpa only [Answers, cqOf, h] using ha

theorem freeDrainedTable_scatters (s : State) (k : Nat) : (freeDrainedTable s k).scatters = s.scatters := by
  unfold freeDrainedTable
  (repeat' split) <;> rfl

/-- With no scatter batch that goes on, the tables settle by freeing drained versions alone. -/
theorem settleTables_of_no_scatter {s : State} (h : s.scatters = []) :
    settleTables s = s.tables.foldl (fun s p => freeDrainedTable s p.1) s := by
  have hs : (s.tables.foldl (fun s p => freeDrainedTable s p.1) s).scatters = [] := by
    refine List.foldlRecOn (motive := fun t : State => t.scatters = []) _ _ h fun t ht p _ => ?_
    rw [freeDrainedTable_scatters, ht]
  simp [settleTables, drainScatter, closeIdle, hs]

/-- A completion that answers is one that the module holds. -/
theorem held_of_answers {s : State} {cq sq cid sct sc : Nat} (h : Answers s cq sq cid sct sc) :
    ∃ y, Held s y ∧ y.cq = cq ∧ y.sqId = sq ∧ y.cid = cid ∧ y.sct = sct ∧ y.sc = sc := by
  obtain ⟨y, hy, hcq, hrest⟩ := h
  refine ⟨y, ?_, hcq, hrest⟩
  rcases hy with hy | ⟨z, hz, hy⟩
  · exact .inl (List.mem_of_mem_head? hy)
  · exact .inr ⟨z, hcq ▸ hz, List.mem_of_getLast? hy⟩

/-- COMPLETION_POST on the one completion of a commit or a front request that is its last. -/
theorem execCompletionPost_final {s : State} {rid : Nat} {q : Req} {p : Post} (hq : reqOf s rid = some q) (hr : q.rid = rid)
    (hk : q.kind = .commit ∨ q.kind = .front) (hp : q.posts = [p]) (hf : p.final = true) (hv : recordsVisible s rid = true) :
    execCompletionPost rid s = .next (endUnloads (settleTables (postOne s q p)) q.ctx) := by
  subst hr
  unfold execCompletionPost
  have hd : q.kind ≠ .delivery := by rcases hk with hk | hk <;> simp [hk]
  have hb : q.kind ≠ .batch := by rcases hk with hk | hk <;> simp [hk]
  have hn : q.kind ≠ .query := by rcases hk with hk | hk <;> simp [hk]
  simp [hq, endDelivery_of_kind hd, hp, hv, hf, hb, hn]

theorem commit_or_front_ends {s : State} {rid : Nat} {q : Req} {p : Post} {x : SQ} (hq : reqOf s rid = some q) (hr : q.rid = rid)
    (hk : q.kind = .commit ∨ q.kind = .front) (hp : q.posts = [p]) (hf : p.final = true) (hv : recordsVisible s rid = true)
    (hpc : p.cond = 0) (hqc : q.cond = 0) (hi : s.integ.phase ≠ .contained) (hw : mapWf s.reqs = true) (hring : p.src.ring = none)
    (hsq : p.src.sq ≠ 0) (hcid : p.src.cid < orphanCid) (hx : mapFind s.host.sqs p.src.sq = some x) (hcq : (cqOf s x.cq).isSome)
    (hrun : (ctxOf s q.ctx).st = .running) :
    ∃ u, execCompletionPost rid s = .next u ∧ reqOf u rid = none ∧
      (∃ y, (y ∈ u.host.posted ∨ ∃ z, cqOf u x.cq = some z ∧ y ∈ z.waiting) ∧ y.cq = x.cq ∧ y.sqId = p.src.sq ∧ y.cid = p.src.cid ∧
        y.sct = 0 ∧ y.sc = 0) ∧
      (s.scatters = [] → Answers u x.cq p.src.sq p.src.cid 0 0 ∧ u.mem = s.mem) := by
  subst hr
  have hpost := postOne_final hk hf hpc hqc hi hrun
  set t := postOne s q p with ht
  have hhost : (releaseResults s q.ctx q.batch).host = s.host := field_of_view State.host .host (by simp)
  have hans : Answers t x.cq p.src.sq p.src.cid 0 0 := by
    have h := vendorCpl_answers_sq (releaseResults s q.ctx q.batch) (condBit .success) p.hi p.dw1 (by decide) hring hsq hcid
      (by rwa [hhost]) (by simpa only [cqOf, hhost] using hcq)
    rw [hpost]
    exact answers_of_host rfl h
  have hgone : reqOf t q.rid = none := by
    have hreqs : (unpinBatch (vendorCpl (releaseResults s q.ctx q.batch) p.src (condBit .success) p.hi p.dw1) q.ctx q.batch).reqs =
        s.reqs := field_of_view State.reqs .requests (by simp)
    rw [hpost, reqOf_dropReq _ _ _ (by rwa [hreqs]), if_pos rfl]
  have hend : endUnloads (settleTables t) q.ctx = settleTables t := by
    have hctxs : (settleTables t).ctxs = s.ctxs := by
      rw [hpost]
      exact field_of_view State.ctxs .contexts (by simp)
    refine endUnloads_of_running ?_
    rwa [ctxOf, hctxs]
  refine ⟨settleTables t, by rw [execCompletionPost_final hq rfl hk hp hf hv, hend], (Later.settleTables t).gone _ hgone, ?_, fun hs => ?_⟩
  · obtain ⟨y, hy, hycq, hrest⟩ := held_of_answers hans
    exact ⟨y, by simpa only [Held, hycq] using (Later.settleTables t).held y hy, hycq, hrest⟩
  · have hst : t.scatters = [] := by
      rw [hpost]
      exact (field_of_view State.scatters .tables (by simp)).trans hs
    rw [settleTables_of_no_scatter hst]
    refine ⟨answers_of_host (field_of_view State.host .host (by simp)) hans, ?_⟩
    rw [hpost]
    exact field_of_view State.mem .memory (by simp)

/-- COMPLETION_POST on a completion of a front request that is not its last. -/
theorem execCompletionPost_not_final {s : State} {rid : Nat} {q : Req} {p : Post} {rest : List Post} (hq : reqOf s rid = some q)
    (hr : q.rid = rid) (hk : q.kind = .front) (hp : q.posts = p :: rest) (hf : p.final = false) (hv : recordsVisible s rid = true) :
    ∃ u, execCompletionPost rid s = .next u ∧ reqOf u rid = some { q with posts := rest } ∧ u.fronts = s.fronts := by
  subst hr
  obtain ⟨hreq, hfr⟩ := postOne_not_final hf hq
  refine ⟨postOne s q p, ?_, by rw [hreq, hp, List.drop_one, List.tail_cons], hfr⟩
  simp [execCompletionPost, hq, endDelivery_of_kind (q := q) (s := s) (by simp [hk]), hp, hv, hf]

/-! What the work that a request begins leaves of its admission. -/

/-- The request `rid` keeps what its admission fixed, and so do the contexts' counts and the rings. -/
structure KeepsAdmission (rid : Nat) (s u : State) : Prop where
  req : ∀ z, reqOf s rid = some z → ∃ y, reqOf u rid = some y ∧ y.admitted = z.admitted ∧ y.origin = z.origin ∧
    y.firstOrigin = z.firstOrigin ∧ y.ctx = z.ctx ∧ y.kind = z.kind
  count : ∀ c, (ctxOf u c).admitted = (ctxOf s c).admitted
  rings : u.host.rings = s.host.rings
  ptr : u.admitPtr = s.admitPtr

namespace KeepsAdmission
variable {rid : Nat}

theorem of_eq {s u : State} (hr : u.reqs = s.reqs) (hc : u.ctxs = s.ctxs) (hh : u.host.rings = s.host.rings)
    (hp : u.admitPtr = s.admitPtr) : KeepsAdmission rid s u where
  req z hz := ⟨z, by rwa [reqOf, hr], rfl, rfl, rfl, rfl, rfl⟩
  count c := by rw [ctxOf, hc, ctxOf]
  rings := hh
  ptr := hp

theorem refl (s : State) : KeepsAdmission rid s s := of_eq rfl rfl rfl rfl

theorem of_view {s u : State} (hr : view .requests u = view .requests s) (hc : view .contexts u = view .contexts s)
    (hh : view .host u = view .host s) : KeepsAdmission rid s u :=
  of_eq (field_of_view State.reqs .requests hr) (field_of_view State.ctxs .contexts hc)
    (field_of_view (fun t => t.host.rings) .host hh) (field_of_view State.admitPtr .requests hr)

theorem trans {s t u : State} (h₁ : KeepsAdmission rid s t) (h₂ : KeepsAdmission rid t u) : KeepsAdmission rid s u where
  req z hz := by
    obtain ⟨y, hy, hadm, horig, hfirst, hctx, hkind⟩ := h₁.req z hz
    obtain ⟨w, hw, hadm', horig', hfirst', hctx', hkind'⟩ := h₂.req y hy
    exact ⟨w, hw, hadm'.trans hadm, horig'.trans horig, hfirst'.trans hfirst, hctx'.trans hctx, hkind'.trans hkind⟩
  count c := (h₂.count c).trans (h₁.count c)
  rings := h₂.rings.trans h₁.rings
  ptr := h₂.ptr.trans h₁.ptr

/-- `trans` with the second step first: its states determine those of the first. -/
theorem after {s t u : State} (h₂ : KeepsAdmission rid t u) (h₁ : KeepsAdmission rid s t) : KeepsAdmission rid s u := h₁.trans h₂

/-- A request may add completions and be marked done. -/
theorem updReq (s : State) (d : Req → Bool) (f : Req → List Post) :
    KeepsAdmission rid s (updReq s rid fun q => { q with done := d q, posts := f q }) where
  req z hz := ⟨{ z with done := d z, posts := f z }, by rw [reqOf_updReq, hz, Option.map_some], rfl, rfl, rfl, rfl, rfl⟩
  count _ := rfl
  rings := rfl
  ptr := rfl

theorem updCtx (s : State) (c : Nat) (f : Ctx → Ctx) (hf : ∀ x, (f x).admitted = x.admitted) : KeepsAdmission rid s (updCtx s c f) where
  req z hz := ⟨z, hz, rfl, rfl, rfl, rfl, rfl⟩
  count d := by
    by_cases hd : d = c
    · rw [hd, ctxOf_updCtx, hf]
    · rw [ctxOf_updCtx_ne _ _ hd]
  rings := rfl
  ptr := rfl

theorem startDelivery (s : State) (q : Req) : KeepsAdmission rid s (startDelivery s q) := by
  unfold Machine.startDelivery
  split
  · exact refl s
  · exact updCtx _ _ _ fun _ => rfl

theorem toMembers (s : State) (b : Bytes) : KeepsAdmission rid s (toMembers s b) := by
  unfold Machine.toMembers
  split
  · exact of_eq rfl rfl rfl rfl
  · exact refl s

theorem toRejoining (s : State) (holders : List Nat) (b : Bytes) : KeepsAdmission rid s (toRejoining s holders b) := by
  unfold Machine.toRejoining
  split
  · dsimp only
    split <;> exact of_eq rfl rfl rfl rfl
  · exact refl s

theorem startCommit (s : State) (r : Nat) (id : BitVec 64) (b : Bytes) : KeepsAdmission rid s (startCommit s r id b) := by
  have misses : ∀ n, KeepsAdmission rid s (folioMisses s n).2 := fun n => of_view (by simp) (by simp) (by simp)
  unfold Machine.startCommit
  split
  · exact refl s
  · dsimp only
    have index : ∀ t k f, KeepsAdmission rid t (updIndex t k f) := fun _ _ _ => of_view (by simp) (by simp) (by simp)
    refine (index _ _ _).after ((toRejoining _ _ _).after ?_)
    split
    · exact misses _
    · exact (toMembers _ _).after (misses _)

theorem windowWrite (s : State) (off : Nat) (bs : Bytes) (poison : Bool) (r : Option Nat) :
    KeepsAdmission rid s (windowWrite s off bs poison r) := by
  unfold Machine.windowWrite
  generalize (pieces 64 bs).zipIdx = ps
  induction ps generalizing s with
  | nil => exact refl s
  | cons a ps ih =>
    rw [List.foldl_cons]
    refine (ih _).after ?_
    split
    · exact of_eq rfl rfl rfl rfl
    · exact refl s

theorem writeStep (s : State) (v : Vocab) (slot : Nat) {r : FrontText} (src : Origin) (stop : Option Nat) (opening : Bool)
    (hr : r.q.rid = rid) : KeepsAdmission rid s (writeStep s v slot r src stop opening) := by
  subst hr
  have fronts : ∀ t m, KeepsAdmission r.q.rid t { t with fronts := m } := fun _ _ => of_eq rfl rfl rfl rfl
  exact (fronts _ _).after ((updReq _ (fun q => q.done) _).after (windowWrite _ _ _ _ _))

theorem openFront (s : State) (q : Req) : KeepsAdmission q.rid s (openFront s q) := by
  unfold Machine.openFront
  split
  · exact refl s
  · dsimp only
    split
    · exact (writeStep _ _ _ _ _ _ (by simp only [withMask, apply_ite FrontSeq.rid, ite_self])).after (of_eq rfl rfl rfl rfl)
    · exact refl s

theorem beginReq (s : State) (q : Req) : KeepsAdmission q.rid s (beginReq s q) := by
  unfold Machine.beginReq
  split
  · exact of_view (by simp) (by simp) (by simp)
  · split
    · dsimp only
      split
      · exact (updReq _ (fun _ => true) _).after (of_view (by simp) (by simp) (by simp))
      · exact of_view (by simp) (by simp) (by simp)
    · exact refl s
  · exact startDelivery _ _
  · exact startCommit _ _ _ _
  · exact openFront _ _

end KeepsAdmission

/-- The request as its admission leaves it. -/
def Admitted (s u : State) (q : Req) : Prop :=
  ∃ z, reqOf u q.rid = some z ∧ z.admitted = true ∧ z.origin = s.time ∧ z.firstOrigin = s.time ∧ z.ctx = q.ctx ∧ z.kind = q.kind

theorem formBatch_count (s : State) (c d : Nat) : (ctxOf (formBatch s c).2 d).admitted = (ctxOf s d).admitted := by
  have hc : (formBatch s c).2.ctxs = (newBatch s c).2.ctxs := field_of_view State.ctxs .contexts (view_openWindows (by simp))
  rw [ctxOf, hc]
  by_cases hd : d = c
  · simp [newBatch, hd, ctxOf]
  · simp [newBatch, ctxOf, mapGet_mapPut_other _ _ _ hd]

/-- Admission marks the request, counts it in its context, and leaves the rings. -/
theorem admitReq_admits (s : State) (q : Req) :
    Admitted s (admitReq s q) q ∧ (ctxOf (admitReq s q) q.ctx).admitted = satAdd (ones 32) (ctxOf s q.ctx).admitted 1 ∧
      (admitReq s q).host.rings = s.host.rings ∧ (admitReq s q).admitPtr = s.admitPtr := by
  fun_cases admitReq s q with
  | _ forms b s₁ hs text snap z s₂ s₃ =>
    obtain ⟨htime, hcount, hrings, hptr⟩ : s₁.time = s.time ∧ (∀ d, (ctxOf s₁ d).admitted = (ctxOf s d).admitted) ∧
        s₁.host.rings = s.host.rings ∧ s₁.admitPtr = s.admitPtr := by
      split at hs
      · obtain rfl : (formBatch s q.ctx).2 = s₁ := congrArg Prod.snd hs
        exact ⟨field_of_view State.time .clock (by simp), formBatch_count s q.ctx,
          field_of_view (fun t => t.host.rings) .host (by simp), field_of_view State.admitPtr .requests (by simp)⟩
      · cases hs
        exact ⟨rfl, fun _ => rfl, rfl, rfl⟩
    have keep : KeepsAdmission z.rid s₃ (beginReq (useVersions s₃ z true) z) :=
      (KeepsAdmission.beginReq _ z).after (.of_view (by simp) (by simp) (by simp))
    obtain ⟨y, hy, hadm, horig, hfirst, hctx, hkind⟩ := keep.req z (mapFind_mapPut_same _ _ _)
    refine ⟨⟨y, hy, hadm, horig.trans htime, hfirst.trans htime, hctx, hkind⟩, ?_, keep.rings.trans hrings, keep.ptr.trans hptr⟩
    rw [keep.count, ctxOf_updCtx, ← hcount]
    rfl

/-- A request that its checks allow is admitted, its ring entry taken. -/
theorem grantReq_of_allowed {s t : State} {q : Req} (ht : t = match q.src.ring with | some r => takeEntry s r | none => s)
    (hquery : q.kind = .query → queryRefusal t q = none) (hfront : q.kind = .front → openRefusal t q = none)
    (hdelivery : q.kind = .delivery → deliveryOk t q = true) (hbatch : q.kind = .batch → batchOk t q = true)
    (hcommit : q.kind = .commit → commitRefusal t q.objectId (u32 q.record 0) q.payload = none) : grantReq s q = admitReq t q := by
  subst ht
  unfold grantReq
  dsimp only
  split
  next hk =>
    split
    next h => cases (hquery hk).symm.trans h
    · rfl
  next hk =>
    split
    next h => cases (hfront hk).symm.trans h
    · rfl
  next hk => exact if_pos (hdelivery hk)
  next hk => exact if_pos (hbatch hk)
  next hk =>
    split
    next h => cases (hcommit hk).symm.trans h
    · rfl

/-- Taking a ring's entry moves its head. -/
theorem takeEntry_ring (s : State) (r : Nat) :
    mapFind (takeEntry s r).host.rings r = (mapFind s.host.rings r).map fun x => { x with head := x.head + 1, entries := x.entries.drop 1 } :=
  mapFind_mapUpd _ _ _

theorem grantReq_admits {s : State} {q : Req}
    (hok : ∀ s', s' = (match q.src.ring with | some r => takeEntry s r | none => s) →
      (q.kind = .query → queryRefusal s' q = none) ∧ (q.kind = .front → openRefusal s' q = none) ∧
      (q.kind = .delivery → deliveryOk s' q = true) ∧ (q.kind = .batch → batchOk s' q = true) ∧
      (q.kind = .commit → commitRefusal s' q.objectId (u32 q.record 0) q.payload = none)) :
    Admitted s (grantReq s q) q ∧ (grantReq s q).admitPtr = s.admitPtr ∧
      (ctxOf (grantReq s q) q.ctx).admitted = satAdd (ones 32) (ctxOf s q.ctx).admitted 1 ∧
      ∀ r x, q.src.ring = some r → mapFind s.host.rings r = some x →
        mapFind (grantReq s q).host.rings r = some { x with head := x.head + 1, entries := x.entries.drop 1 } := by
  obtain ⟨hquery, hfront, hdelivery, hbatch, hcommit⟩ := hok _ rfl
  rw [grantReq_of_allowed rfl hquery hfront hdelivery hbatch hcommit]
  cases hr : q.src.ring with
  | none =>
    obtain ⟨hadm, hcount, hrings, hptr⟩ := admitReq_admits s q
    exact ⟨hadm, hptr, hcount, fun r x h => nomatch h⟩
  | some r =>
    obtain ⟨hadm, hcount, hrings, hptr⟩ := admitReq_admits (takeEntry s r) q
    refine ⟨hadm, hptr, hcount, fun r' x h hx => ?_⟩
    cases h
    rw [hrings, takeEntry_ring, hx, Option.map_some]

/-- Settles O30, clause by clause. -/
theorem requestsAreAdmittedAndEnd : Obligations.RequestsAreAdmittedAndEnd := by
  unfold Obligations.RequestsAreAdmittedAndEnd
  refine fun s => ⟨?admitted, ?refused, execAdmissionGrant_held, ?commit, ?final, ?open_⟩
  case admitted =>
    intro q hv hp hq hok
    obtain ⟨⟨z, hz, hadm, horig, hfirst, hctx, hkind⟩, hptr, hcount, hring⟩ := grantReq_admits (hok _ · rfl)
    exact ⟨_, z, execAdmissionGrant_of_grant hv hp hq, hptr, hz, hadm, horig, hfirst, hctx, hkind, hcount, hring⟩
  case refused =>
    intro q x hv hp hq hk hb hr hs hc hx hcq hw
    exact ⟨_, execAdmissionGrant_of_grant hv hp hq, batch_refused hk hb hr hs hc hx hcq hw⟩
  case commit =>
    intro id k x c y hi hw hc hy
    exact execCommitEpoch_done hi hw hc hy
  case final =>
    intro rid q p x hq hr hk hp hf hv hpc hqc hi hw hring hsq hcid hx hcq hrun
    exact commit_or_front_ends hq hr hk hp hf hv hpc hqc hi hw hring hsq hcid hx hcq hrun
  case open_ =>
    intro rid q p rest hq hr hk hp hf hv
    exact execCompletionPost_not_final hq hr hk hp hf hv

end Sys2Proof.Proofs

namespace Sys2Proof.Proofs
open Sys2Proof Sys2Proof.Machine Sys2Proof.Safety

/-! ## Memory, the code store and the maps stay canonical (R34, R176)

One lemma `canon_<f>` for each function of the model that takes part in a step: where the function leaves the areas below alone it
is the function's frame (`canon_of_view`), elsewhere it follows from the lemmas of what the function calls. `canon_exec` puts the
commands together. -/

/-- The areas that hold what `CanonicalInv` speaks of. -/
def dataAreas : List Area := [.memory, .protection, .pages, .tiles, .contexts, .streams, .requests]

theorem canon_of_view {s u : State} (h : CanonicalInv s) (hv : ∀ p ∈ dataAreas, view p u = view p s) :
    CanonicalInv u := by
  simp only [dataAreas, List.forall_mem_cons, List.not_mem_nil, false_imp_iff, implies_true, and_true] at hv
  obtain ⟨hm, hp, hg, ht, hc, hs, hr⟩ := hv
  unfold CanonicalInv
  rw [field_of_view State.mem .memory hm, field_of_view State.poison .memory hm,
    field_of_view (·.stylus.cs) .protection hp, field_of_view State.pages .pages hg,
    field_of_view State.tiles .tiles ht, field_of_view State.ctxs .contexts hc,
    field_of_view State.streams .streams hs, field_of_view State.reqs .requests hr]
  exact h

/-- The form of a record that is written out: an update of other fields keeps it. -/
theorem canonicalInv_mk {x0 x1 x2 x3 x4 x5 x6 x7 x8 x9 x10 x11 x12 x13 x14 x15 x16 x17 x18 x19 x20 x21 x22 x23 x24 x25
    x26 x27 x28 x29 x30 x31 x32 x33 x34 x35 x36 x37 x38 x39 x40 x41 x42 x43 x44 x45 x46 x47 x48 x49 x50 x51 x52} :
    CanonicalInv
      ⟨x0, x1, x2, x3, x4, x5, x6, x7, x8, x9, x10, x11, x12, x13, x14, x15, x16, x17, x18, x19, x20, x21, x22, x23,
        x24, x25, x26, x27, x28, x29, x30, x31, x32, x33, x34, x35, x36, x37, x38, x39, x40, x41, x42, x43, x44, x45,
        x46, x47, x48, x49, x50, x51, x52⟩ ↔
    cellsWf x19 = true ∧ cellsWf x43.cs = true ∧ mapWf x20 = true ∧ mapWf x21 = true ∧ mapWf x7 = true ∧
    mapWf x12 = true ∧ mapWf x8 = true ∧ mapWf x13 = true := Iff.rfl

theorem canon_parts {s : State} (h : CanonicalInv s) :
    cellsWf s.mem = true ∧ cellsWf s.stylus.cs = true ∧ mapWf s.poison = true ∧ mapWf s.pages = true ∧
    mapWf s.tiles = true ∧ mapWf s.ctxs = true ∧ mapWf s.streams = true ∧ mapWf s.reqs = true := h

theorem canon_foldl {α : Type} {f : State → α → State} {l : List α} {s : State} (h : CanonicalInv s)
    (hf : ∀ t a, CanonicalInv t → CanonicalInv (f t a)) : CanonicalInv (l.foldl f s) := by
  induction l generalizing s with
  | nil => exact h
  | cons a l ih => exact ih (hf s a h)

theorem canon_foldl_fst {α β : Type} {f : State × β → α → State × β} {l : List α} {x : State × β}
    (h : CanonicalInv x.1) (hf : ∀ t a, CanonicalInv t.1 → CanonicalInv (f t a).1) :
    CanonicalInv (l.foldl f x).1 := by
  induction l generalizing x with
  | nil => exact h
  | cons a l ih => exact ih (hf x a h)

theorem canon_foldl_snd {α β : Type} {f : β × State → α → β × State} {l : List α} {x : β × State}
    (h : CanonicalInv x.2) (hf : ∀ t a, CanonicalInv t.2 → CanonicalInv (f t a).2) :
    CanonicalInv (l.foldl f x).2 := by
  induction l generalizing x with
  | nil => exact h
  | cons a l ih => exact ih (hf x a h)

theorem canon_foldl_bind {α β : Type} {π : β → State} {g : α → β → Option β} {l : List α} {a b : β}
    (e : l.foldl (fun acc r => acc.bind (g r)) (some a) = some b) (h : CanonicalInv (π a))
    (hg : ∀ r a b, g r a = some b → CanonicalInv (π a) → CanonicalInv (π b)) : CanonicalInv (π b) := by
  induction l generalizing a with
  | nil => cases e; exact h
  | cons r l ih =>
    rw [List.foldl_cons, Option.bind_some] at e
    cases hr : g r a with
    | none => rw [hr, List.foldl_fixed' (fun _ => rfl)] at e; cases e
    | some c => rw [hr] at e; exact ih e (hg r a c hr h)

theorem mapWf_foldl {α β : Type} {f : SMap α → β → SMap α} {l : List β} {m : SMap α} (h : mapWf m = true)
    (hf : ∀ m b, mapWf m = true → mapWf (f m b) = true) : mapWf (l.foldl f m) = true := by
  induction l generalizing m with
  | nil => exact h
  | cons b l ih => exact ih (hf m b h)

theorem canon_withPages {s : State} (h : CanonicalInv s) {m : SMap PageUse} (hm : mapWf m = true) :
    CanonicalInv { s with pages := m } := by
  obtain ⟨hmem, hcs, hpoison, -, hrest⟩ := h
  exact ⟨hmem, hcs, hpoison, hm, hrest⟩

theorem canon_withMemory {s : State} (h : CanonicalInv s) {m : Cells} {q : SMap Unit} (hm : cellsWf m = true)
    (hq : mapWf q = true) :
    CanonicalInv { s with mem := m, poison := q } := by
  obtain ⟨-, hcs, -, hrest⟩ := h
  exact ⟨hm, hcs, hq, hrest⟩

theorem canon_withStreams {s : State} (h : CanonicalInv s) {m : SMap Machine.Stream} (hm : mapWf m = true) :
    CanonicalInv { s with streams := m } := by
  obtain ⟨hmem, hcs, hpoison, hpages, htiles, hctxs, -, hreqs⟩ := h
  exact ⟨hmem, hcs, hpoison, hpages, htiles, hctxs, hm, hreqs⟩

theorem canon_withCs {s : State} (h : CanonicalInv s) {x : Stylus} (hx : cellsWf x.cs = true) :
    CanonicalInv { s with stylus := x } := by
  obtain ⟨hmem, -, hrest⟩ := h
  exact ⟨hmem, hx, hrest⟩

theorem memWf {s : State} (h : CanonicalInv s) : cellsWf s.mem = true := by
  obtain ⟨hmem, -⟩ := h
  exact hmem

theorem csWf {s : State} (h : CanonicalInv s) : cellsWf s.stylus.cs = true := by
  obtain ⟨-, hcs, -⟩ := h
  exact hcs

theorem poisonWf {s : State} (h : CanonicalInv s) : mapWf s.poison = true := by
  obtain ⟨-, -, hpoison, -⟩ := h
  exact hpoison

theorem pagesWf {s : State} (h : CanonicalInv s) : mapWf s.pages = true := by
  obtain ⟨-, -, -, hpages, -⟩ := h
  exact hpages

theorem tilesWf {s : State} (h : CanonicalInv s) : mapWf s.tiles = true := by
  obtain ⟨-, -, -, -, htiles, -⟩ := h
  exact htiles

theorem streamsWf {s : State} (h : CanonicalInv s) : mapWf s.streams = true := by
  obtain ⟨-, -, -, -, -, -, hstreams, -⟩ := h
  exact hstreams

-- FEED: its programs, tier reads and their draft paths, scatter, and the feeder's moves.

theorem canon_detected {s stn c n seq a b made} (h : CanonicalInv s) : CanonicalInv (detected s stn c n seq a b made) :=
  canon_of_view h (by simp [dataAreas])

-- The named operations that the meanings share: access to tiles, streams and contexts, free values, error records.

theorem canon_setTile {s x1 t} (h : CanonicalInv s) : CanonicalInv (setTile s x1 t) := by
  unfold setTile
  grind [canonicalInv_mk, canon_parts, mapWf_mapPut]

theorem canon_updTile {s x1 f} (h : CanonicalInv s) : CanonicalInv (updTile s x1 f) := by
  unfold updTile
  grind [canon_setTile]

theorem canon_setCtx {s c x} (h : CanonicalInv s) : CanonicalInv (setCtx s c x) := by
  unfold setCtx
  grind [canonicalInv_mk, canon_parts, mapWf_mapPut]

theorem canon_updCtx {s c f} (h : CanonicalInv s) : CanonicalInv (updCtx s c f) := by
  unfold updCtx
  grind [canon_setCtx]

theorem canon_setStream {s n x} (h : CanonicalInv s) : CanonicalInv (setStream s n x) := by
  unfold setStream
  grind [canonicalInv_mk, canon_parts, mapWf_mapPut]

theorem canon_updStream {s n f} (h : CanonicalInv s) : CanonicalInv (updStream s n f) := by
  unfold updStream
  grind [canonicalInv_mk, canon_parts, mapWf_mapUpd]

theorem canon_updReq {s r f} (h : CanonicalInv s) : CanonicalInv (updReq s r f) := by
  unfold updReq
  grind [canonicalInv_mk, canon_parts, mapWf_mapUpd]

theorem canon_draw {s n} (h : CanonicalInv s) : CanonicalInv (draw s n).2 :=
  canon_of_view h (by simp [dataAreas])

theorem canon_toMembers {s b} (h : CanonicalInv s) : CanonicalInv (toMembers s b) :=
  canon_of_view h (by simp [dataAreas])

theorem canon_toRejoining {s holders b} (h : CanonicalInv s) : CanonicalInv (toRejoining s holders b) :=
  canon_of_view h (by simp [dataAreas])

theorem canon_askMembers {answer s b} (h : CanonicalInv s) : CanonicalInv (askMembers answer s b).2 :=
  canon_of_view h (by simp [dataAreas])

theorem canon_farDraining {s} (h : CanonicalInv s) : CanonicalInv (farDraining s).2 :=
  canon_of_view h (by simp [dataAreas])

theorem canon_sendReply {s c status data poison} (h : CanonicalInv s) :
    CanonicalInv (sendReply s c status data poison) :=
  canon_of_view h (by simp [dataAreas])

theorem canon_raiseEvent {s key lid} (h : CanonicalInv s) : CanonicalInv (raiseEvent s key lid) :=
  canon_of_view h (by simp [dataAreas])

theorem canon_recordErr {s a} (h : CanonicalInv s) : CanonicalInv (recordErr s a) :=
  canon_of_view h (by simp [dataAreas])

theorem canon_usageReg {s offset} (h : CanonicalInv s) : CanonicalInv (usageReg s offset) :=
  canon_of_view h (by simp [dataAreas])

theorem canon_protReg {s offset write} (h : CanonicalInv s) : CanonicalInv (protReg s offset write) :=
  canon_of_view h (by simp [dataAreas])

theorem canon_vendorCpl {s o mask hi dw1} (h : CanonicalInv s) : CanonicalInv (vendorCpl s o mask hi dw1) :=
  canon_of_view h (by simp [dataAreas])

theorem canon_adminDone {s cid hi dw1} (h : CanonicalInv s) : CanonicalInv (adminDone s cid hi dw1) :=
  canon_of_view h (by simp [dataAreas])

theorem canon_adminRefuse {s cid st reason} (h : CanonicalInv s) : CanonicalInv (adminRefuse s cid st reason) :=
  canon_of_view h (by simp [dataAreas])

theorem canon_stdCpl {s o sct sc dnr dw0 data} (h : CanonicalInv s) : CanonicalInv (stdCpl s o sct sc dnr dw0 data) :=
  canon_of_view h (by simp [dataAreas])

theorem canon_noteOverload {s} (h : CanonicalInv s) : CanonicalInv (noteOverload s) :=
  canon_of_view h (by simp [dataAreas])

theorem canon_enqueue3 {s} (h : CanonicalInv s) : CanonicalInv (enqueue3 s) :=
  canon_of_view h (by simp [dataAreas])

theorem canon_takeSq {s q} (h : CanonicalInv s) : CanonicalInv (takeSq s q) :=
  canon_of_view h (by simp [dataAreas])

theorem canon_busyOr {s t cid us} (h : CanonicalInv s) : CanonicalInv (busyOr s t cid us) :=
  canon_of_view h (by simp [dataAreas])

theorem canon_adminCmd {s cid delivery f} (h : CanonicalInv s) (hf : ∀ t, CanonicalInv t → CanonicalInv (f t)) :
    CanonicalInv (adminCmd s cid delivery f) := by
  unfold adminCmd
  grind [canon_takeSq, canon_adminRefuse, canon_enqueue3, canon_busyOr]

theorem canon_onMembers {s cid frame f} (h : CanonicalInv s) (hf : ∀ t, CanonicalInv t → CanonicalInv (f t)) :
    CanonicalInv (onMembers s cid frame f) := by
  unfold onMembers
  grind [canon_askMembers, canon_adminRefuse]

theorem canon_adminCmdAlways {s f} (h : CanonicalInv s) (hf : ∀ t, CanonicalInv t → CanonicalInv (f t)) :
    CanonicalInv (adminCmdAlways s f) := by
  unfold adminCmdAlways
  grind [canon_enqueue3, canon_takeSq]

theorem canon_ioCmd {s sq cid f} (h : CanonicalInv s) (hf : ∀ t, CanonicalInv t → CanonicalInv (f t)) :
    CanonicalInv (ioCmd s sq cid f) := by
  unfold ioCmd
  grind [canon_takeSq, canon_vendorCpl]

theorem canon_enterPhase {s ph} (h : CanonicalInv s) : CanonicalInv (enterPhase s ph) :=
  canon_of_view h (by simp [dataAreas])

-- Credits, sending and routes.

theorem canon_crossBoundary {s b} (h : CanonicalInv s) : CanonicalInv (crossBoundary s b) :=
  canon_of_view h (by simp [dataAreas])

theorem canon_pumpStream {s n} (h : CanonicalInv s) : CanonicalInv (pumpStream s n) := by
  unfold pumpStream
  grind [canon_setStream, canon_crossBoundary]

theorem canon_emitOut {s n sh fresh} (h : CanonicalInv s) : CanonicalInv (emitOut s n sh fresh) := by
  unfold emitOut
  grind [canon_pumpStream, canon_updStream]

theorem canon_emitAll {s n shs} (h : CanonicalInv s) : CanonicalInv (emitAll s n shs) := by
  unfold emitAll
  grind [canon_emitOut, canon_foldl]

theorem canon_freeSlots {s n k} (h : CanonicalInv s) : CanonicalInv (freeSlots s n k) := by
  unfold freeSlots
  grind [canon_updStream]

theorem canon_releaseOwed {s stn c} (h : CanonicalInv s) : CanonicalInv (releaseOwed s stn c) := by
  unfold releaseOwed
  grind [canonicalInv_mk, canon_parts, mapWf_mapAll]

theorem canon_newBatch {s c} (h : CanonicalInv s) : CanonicalInv (newBatch s c).2 := by
  unfold newBatch
  grind [canon_setCtx]

theorem canon_emitLocal {s c l sh fresh} (h : CanonicalInv s) : CanonicalInv (emitLocal s c l sh fresh) := by
  unfold emitLocal
  grind [canon_emitOut]

-- What the strokes share on a tile: the head stroke, the issue rule.

theorem canon_tileRec {s x1 cls op addr a poison} (h : CanonicalInv s) :
    CanonicalInv (tileRec s x1 cls op addr a poison) :=
  canon_of_view h (by simp [dataAreas])

theorem canon_haltTile {s x1 bit cls op addr a} (h : CanonicalInv s) :
    CanonicalInv (haltTile s x1 bit cls op addr a) := by
  unfold haltTile
  grind [canon_tileRec, canon_updTile]

theorem canon_settle {s x1} (h : CanonicalInv s) : CanonicalInv (settle s x1) := by
  unfold settle
  grind [canon_updTile]

theorem canon_releaseSlot {s x1 x} (h : CanonicalInv s) : CanonicalInv (releaseSlot s x1 x) := by
  unfold releaseSlot
  grind [canon_setTile, canon_freeSlots]

theorem canon_releaseUse {s x1 x} (h : CanonicalInv s) : CanonicalInv (releaseUse s x1 x) := by
  unfold releaseUse
  grind [canon_setTile, canon_releaseSlot]

theorem canon_releaseAll {s x1 xs} (h : CanonicalInv s) : CanonicalInv (releaseAll s x1 xs) := by
  unfold releaseAll
  grind [canon_releaseUse, canon_foldl]

theorem canon_writtenSheet {s t buf o flags x5} (h : CanonicalInv s) :
    CanonicalInv (writtenSheet s t buf o flags x5).2 :=
  canon_of_view h (by simp [dataAreas])

theorem canon_onIssue {s q n op run} (h : CanonicalInv s) (hrun : ∀ t i k w, CanonicalInv (run s t i k w)) :
    CanonicalInv (onIssue s q n op run) := by
  unfold onIssue
  grind [canon_setTile, canon_haltTile]

theorem canon_issueVector {s x1 n t i k w o srcs} (h : CanonicalInv s) :
    CanonicalInv (issueVector s x1 n t i k w o srcs) := by
  unfold issueVector
  grind [canon_writtenSheet, canon_setTile]

theorem canon_formatMismatch {s x1 addr cls} (h : CanonicalInv s) : CanonicalInv (formatMismatch s x1 addr cls) := by
  unfold formatMismatch
  grind [canon_haltTile]

-- The strokes.

theorem canon_execNop {x0 n s} {u} (h : CanonicalInv s) (e : execNop x0 n s = .next u) : CanonicalInv u := by
  obtain ⟨-, rfl⟩ := onUnit_cases e
  grind [canon_onIssue, canon_setTile]

theorem canon_runMma {x0 n s t i k w} (h : CanonicalInv s) : CanonicalInv (runMma x0 n s t i k w) := by
  unfold runMma
  grind [canon_formatMismatch, canon_draw, canon_releaseAll, canon_setTile]

theorem canon_execMma {x0 n s} {u} (h : CanonicalInv s) (e : execMma x0 n s = .next u) : CanonicalInv u := by
  obtain ⟨-, rfl⟩ := onUnit_cases e
  grind [canon_onIssue, canon_runMma]

theorem canon_runPreload {x0 n s t i k w} (h : CanonicalInv s) : CanonicalInv (runPreload x0 n s t i k w) := by
  unfold runPreload
  grind [canon_formatMismatch, canon_releaseAll, canon_setTile]

theorem canon_execPreload {x0 n s} {u} (h : CanonicalInv s) (e : execPreload x0 n s = .next u) : CanonicalInv u := by
  obtain ⟨-, rfl⟩ := onUnit_cases e
  grind [canon_onIssue, canon_runPreload]

theorem canon_drainSheets {s t k} (h : CanonicalInv s) : CanonicalInv (drainSheets s t k).2 :=
  canon_of_view h (by simp [dataAreas])

theorem canon_runDrain {x0 n s t i k w} (h : CanonicalInv s) : CanonicalInv (runDrain x0 n s t i k w) := by
  unfold runDrain
  grind [canon_drainSheets, canon_setTile]

theorem canon_execDrain {x0 n s} {u} (h : CanonicalInv s) (e : execDrain x0 n s = .next u) : CanonicalInv u := by
  obtain ⟨-, rfl⟩ := onUnit_cases e
  grind [canon_onIssue, canon_runDrain]

theorem canon_execCtbl {x0 n s} {u} (h : CanonicalInv s) (e : execCtbl x0 n s = .next u) : CanonicalInv u := by
  obtain ⟨-, rfl⟩ := onUnit_cases e
  grind [canon_onIssue, canon_setTile]

theorem canon_runVector {x0 n f s t i k w} (h : CanonicalInv s) : CanonicalInv (runVector x0 n f s t i k w) := by
  unfold runVector
  grind [canon_formatMismatch, canon_issueVector]

theorem canon_execVop {x0 n s} {u} (h : CanonicalInv s) (e : execVop x0 n s = .next u) : CanonicalInv u := by
  obtain ⟨-, rfl⟩ := onUnit_cases e
  grind [canon_onIssue, canon_runVector]

theorem canon_execFunc {x0 n s} {u} (h : CanonicalInv s) (e : execFunc x0 n s = .next u) : CanonicalInv u := by
  obtain ⟨-, rfl⟩ := onUnit_cases e
  grind [canon_onIssue, canon_runVector]

theorem canon_execReduce {x0 n s} {u} (h : CanonicalInv s) (e : execReduce x0 n s = .next u) : CanonicalInv u := by
  obtain ⟨-, rfl⟩ := onUnit_cases e
  grind [canon_onIssue, canon_runVector]

theorem canon_execCvt {x0 n s} {u} (h : CanonicalInv s) (e : execCvt x0 n s = .next u) : CanonicalInv u := by
  obtain ⟨-, rfl⟩ := onUnit_cases e
  grind [canon_onIssue, canon_issueVector, canon_formatMismatch]

theorem canon_execSignpack {x0 n s} {u} (h : CanonicalInv s) (e : execSignpack x0 n s = .next u) : CanonicalInv u := by
  obtain ⟨-, rfl⟩ := onUnit_cases e
  grind [canon_onIssue, canon_runVector]

theorem canon_runEmit {x0 n ce ue s t i k} (h : CanonicalInv s) : CanonicalInv (runEmit x0 n ce ue s t i k) := by
  unfold runEmit
  grind [canon_updStream, canon_setTile, canon_tileRec, canon_foldl, canonicalInv_mk, canon_parts]

theorem canon_execEmit {x0 o s} {u} (h : CanonicalInv s) (e : execEmit x0 o s = .next u) : CanonicalInv u := by
  obtain ⟨-, rfl⟩ := onUnit_cases e
  grind [canon_onIssue, canon_runEmit]

theorem canon_execRelease {x0 n s} {u} (h : CanonicalInv s) (e : execRelease x0 n s = .next u) : CanonicalInv u := by
  obtain ⟨-, rfl⟩ := onUnit_cases e
  grind [canon_onIssue, canon_releaseAll, canon_setTile]

theorem canon_execCopy {x0 n s} {u} (h : CanonicalInv s) (e : execCopy x0 n s = .next u) : CanonicalInv u := by
  obtain ⟨-, rfl⟩ := onUnit_cases e
  grind [canon_onIssue, canon_writtenSheet, canon_setTile]

theorem canon_execInvalidStroke {x0 o s} {u} (h : CanonicalInv s) (e : execInvalidStroke x0 o s = .next u) :
    CanonicalInv u := by
  obtain ⟨-, rfl⟩ := onUnit_cases e
  grind [canon_haltTile, canon_setTile]

theorem canon_rerunDrain {s x1 idx x3 counted} (h : CanonicalInv s) :
    CanonicalInv (rerunDrain s x1 idx x3 counted) := by
  unfold rerunDrain
  grind [canon_draw, canon_drainSheets, canon_setTile]

theorem canon_finishExec {s x1 idx x3} (h : CanonicalInv s) : CanonicalInv (finishExec s x1 idx x3) := by
  unfold finishExec
  grind [canon_setTile, canon_tileRec, canon_releaseAll, canon_settle]

theorem canon_mismatchExec {s x1 idx x3 n} (h : CanonicalInv s) : CanonicalInv (mismatchExec s x1 idx x3 n) := by
  unfold mismatchExec
  grind [canon_finishExec, canon_setTile, canon_updTile, canon_haltTile, canon_rerunDrain]

theorem canon_execStrokeComplete {x0 idx obs s} {u} (h : CanonicalInv s)
    (e : execStrokeComplete x0 idx obs s = .next u) : CanonicalInv u := by
  obtain ⟨-, rfl⟩ := onUnit_cases e
  grind [canon_setTile, canon_tileRec, canon_haltTile, canon_mismatchExec, canon_finishExec]

-- Tiles by role, pages of the device range, and the shares and states of contexts.

theorem canon_checkOvercommit {s} (h : CanonicalInv s) : CanonicalInv (checkOvercommit s) := by
  unfold checkOvercommit
  grind [canon_raiseEvent, canonicalInv_mk, canon_parts, mapWf_mapAll]

theorem canon_clearOvercommit {s} (h : CanonicalInv s) : CanonicalInv (clearOvercommit s) := by
  unfold clearOvercommit
  grind [canonicalInv_mk, canon_parts, mapWf_mapAll]

theorem canon_recordsChanged {s} (h : CanonicalInv s) : CanonicalInv (recordsChanged s) :=
  canon_of_view h (by simp [dataAreas])

theorem canon_writeRoles {s} (h : CanonicalInv s) : CanonicalInv (writeRoles s) :=
  canon_of_view h (by simp [dataAreas])

theorem canon_retireTile {s x1} (h : CanonicalInv s) : CanonicalInv (retireTile s x1) := by
  unfold retireTile
  grind [canon_checkOvercommit, canon_writeRoles, canon_updTile]

theorem canon_freeTiles {s ps} (h : CanonicalInv s) : CanonicalInv (freeTiles s ps) := by
  unfold freeTiles
  grind [canon_setTile, canon_retireTile, canon_foldl]

theorem canon_wakeDomain {s d} (h : CanonicalInv s) : CanonicalInv (wakeDomain s d) := by
  unfold wakeDomain
  grind [canon_updTile, canon_foldl, canonicalInv_mk, canon_parts]

theorem canon_dropDomain {s d} (h : CanonicalInv s) : CanonicalInv (dropDomain s d) := by
  unfold dropDomain
  grind [canon_updTile, canon_foldl, canonicalInv_mk, canon_parts]

theorem canon_dropIdleDomains {s} (h : CanonicalInv s) : CanonicalInv (dropIdleDomains s) := by
  have step {t : State} (ht : CanonicalInv t) (c : Bool) (d : Nat) :
    CanonicalInv (if c then dropDomain t d else t) := by
    split
    · exact canon_dropDomain ht
    · exact ht
  unfold dropIdleDomains
  exact canon_foldl (step (canon_foldl h fun t d ht => step ht _ _) _ _) fun t d ht => step ht _ _

theorem canon_allocGroups {s n x2} {a u} (h : CanonicalInv s) (e : allocGroups s n x2 = some (a, u)) :
    CanonicalInv u := by
  unfold allocGroups at e
  dsimp only at e
  split at e <;> cases e
  exact canon_withPages (s := { s with media.groups := _ }) h (mapWf_foldl_mapPut _ _ _ (pagesWf h))

theorem canon_allocPages {s t n x3} {a u} (h : CanonicalInv s) (e : allocPages s t n x3 = some (a, u)) :
    CanonicalInv u := by
  unfold allocPages at e
  split at e
  · exact canon_allocGroups h e
  · dsimp only at e
    split at e <;> cases e
    exact canon_withPages h (mapWf_foldl_mapPut _ _ _ (pagesWf h))

theorem canon_freePages {s ps} (h : CanonicalInv s) : CanonicalInv (freePages s ps) :=
  canon_withPages h (mapWf_foldl (pagesWf h) fun _ _ => mapWf_mapDrop _)

theorem canon_freeWhere {s q} (h : CanonicalInv s) : CanonicalInv (freeWhere s q) := by
  unfold freeWhere
  grind [canonicalInv_mk, canon_parts, mapWf_filter]

theorem canon_zeroPage {s x1} (h : CanonicalInv s) : CanonicalInv (zeroPage s x1) :=
  canon_withMemory h (zeroPage_wf x1 (memWf h)) (zeroPage_poison x1 (poisonWf h))

theorem canon_memWrite {s a bs mark} (h : CanonicalInv s) : CanonicalInv (memWrite s a bs mark) := by
  unfold memWrite
  dsimp only
  split
  · exact h
  split
  · exact canon_withMemory h (cellsWf_cellsWrite _ _ (memWf h)) (mapWf_foldl_mapPut _ _ _ (poisonWf h))
  · exact canon_withMemory h (cellsWf_cellsWrite _ _ (memWf h)) (mapWf_filter _ (poisonWf h))

theorem canon_setWindow {s m} (h : CanonicalInv s) : CanonicalInv (setWindow s m) := by
  unfold setWindow
  grind [canon_memWrite, canon_foldl, canonicalInv_mk, canon_parts]

theorem canon_dropReq {s rid} (h : CanonicalInv s) : CanonicalInv (dropReq s rid) := by
  unfold dropReq
  grind [canonicalInv_mk, canon_parts, mapWf_mapDrop]

theorem canon_refuseHeld {s c} (h : CanonicalInv s) : CanonicalInv (refuseHeld s c) := by
  unfold refuseHeld
  grind [canon_vendorCpl, canon_dropReq, canon_foldl]

theorem canon_enterCtx {s c st} (h : CanonicalInv s) : CanonicalInv (enterCtx s c st) := by
  unfold enterCtx
  grind [canon_updCtx, canon_refuseHeld, canon_updTile, canon_foldl]

theorem canon_afterReq {s c} (h : CanonicalInv s) : CanonicalInv (afterReq s c) := by
  unfold afterReq
  grind [canon_enterCtx]

theorem canon_healShards {s kind id} (h : CanonicalInv s) : CanonicalInv (healShards s kind id) :=
  canon_of_view h (by simp [dataAreas])

-- The logical user space and the source of a sector.

theorem canon_setBlock {s k b} (h : CanonicalInv s) : CanonicalInv (setBlock s k b) :=
  canon_of_view h (by simp [dataAreas])

theorem canon_updBlock {s k f} (h : CanonicalInv s) : CanonicalInv (updBlock s k f) :=
  canon_of_view h (by simp [dataAreas])

-- Table descriptors, row layout, the path from an index to a row, and where rows lie.

theorem canon_pagesWrite {s pages off bs mark} (h : CanonicalInv s) :
    CanonicalInv (pagesWrite s pages off bs mark) := by
  unfold pagesWrite
  grind [canon_memWrite, canon_foldl]

theorem canon_anyRow {s v r origin} (h : CanonicalInv s) : CanonicalInv (anyRow s v r origin).2 :=
  canon_of_view h (by simp [dataAreas])

-- How a station of a context reads its regions.

theorem canon_readDone {s c r ver pages b} (h : CanonicalInv s) : CanonicalInv (readDone s c r ver pages b) :=
  canon_of_view h (by simp [dataAreas])

theorem canon_openWindows {s c b origin} (h : CanonicalInv s) : CanonicalInv (openWindows s c b origin) := by
  unfold openWindows
  grind [canonicalInv_mk, canon_parts, mapWf_mapAll]

theorem canon_formBatch {s c} (h : CanonicalInv s) : CanonicalInv (formBatch s c).2 := by
  unfold formBatch
  grind [canon_newBatch, canon_openWindows]

theorem canon_newRun {s c k tag origin base n flags} (h : CanonicalInv s) :
    CanonicalInv (newRun s c k tag origin base n flags).2 :=
  canon_of_view h (by simp [dataAreas])

theorem canon_putPart {s run i x3} (h : CanonicalInv s) : CanonicalInv (putPart s run i x3) :=
  canon_of_view h (by simp [dataAreas])

theorem canon_sweepRun {s c k tag origin} (h : CanonicalInv s) : CanonicalInv (sweepRun s c k tag origin) :=
  canon_of_view h (by simp [dataAreas])

theorem canon_startFeeds {s c} (h : CanonicalInv s) : CanonicalInv (startFeeds s c) := by
  unfold startFeeds
  grind [canon_formBatch, canon_sweepRun, canon_foldl]

theorem canon_storeQueued {s x sh} (h : CanonicalInv s) : CanonicalInv (storeQueued s x sh) := by
  unfold storeQueued
  grind [canon_pagesWrite]

-- Events of a tile beside its strokes: NaN trap, handshake, clock, self-test, canary.

theorem canon_execFirstNanTrap {x0 s} {u} (h : CanonicalInv s) (e : execFirstNanTrap x0 s = .next u) :
    CanonicalInv u := by
  obtain ⟨-, rfl⟩ := onUnit_cases e
  grind [canon_setTile, canon_setCtx, canon_raiseEvent]

theorem canon_execHandshakeTimeout {x0 s} {u} (h : CanonicalInv s) (e : execHandshakeTimeout x0 s = .next u) :
    CanonicalInv u := by
  obtain ⟨-, rfl⟩ := onUnit_cases e
  grind [canon_updTile, canon_retireTile]

theorem canon_execClockChange {x0 s} {u} (h : CanonicalInv s) (e : execClockChange x0 s = .next u) :
    CanonicalInv u := by
  obtain ⟨-, rfl⟩ := onUnit_cases e
  grind [canon_updTile, canon_settle]

theorem canon_execQuiesceTimeout {x0 s} {u} (h : CanonicalInv s) (e : execQuiesceTimeout x0 s = .next u) :
    CanonicalInv u := by
  obtain ⟨-, rfl⟩ := onUnit_cases e
  grind [canon_setTile]

theorem canon_clearCounts {s x1} (h : CanonicalInv s) : CanonicalInv (clearCounts s x1) := by
  unfold clearCounts
  grind [canon_updTile]

theorem canon_execCntClr {x0 s} {u} (h : CanonicalInv s) (e : execCntClr x0 s = .next u) : CanonicalInv u := by
  obtain ⟨-, rfl⟩ := onUnit_cases e
  grind [canon_clearCounts]

theorem canon_writeTest {s x1} (h : CanonicalInv s) : CanonicalInv (writeTest s x1) := by
  unfold writeTest
  grind [canon_updTile, canon_protReg]

theorem canon_execTest {x0 s} {u} (h : CanonicalInv s) (e : execTest x0 s = .next u) : CanonicalInv u := by
  obtain ⟨-, rfl⟩ := onUnit_cases e
  grind [canon_writeTest]

theorem canon_endTest {s x1 pass} (h : CanonicalInv s) : CanonicalInv (endTest s x1 pass) := by
  unfold endTest
  grind [canon_setTile, canon_retireTile]

theorem canon_execSelfTestEnd {x0 pass s} {u} (h : CanonicalInv s) (e : execSelfTestEnd x0 pass s = .next u) :
    CanonicalInv u := by
  obtain ⟨-, rfl⟩ := onUnit_cases e
  grind [canon_endTest]

theorem canon_execCanaryFail {x0 s} {u} (h : CanonicalInv s) (e : execCanaryFail x0 s = .next u) : CanonicalInv u := by
  obtain ⟨-, rfl⟩ := onUnit_cases e
  grind [canon_updTile]

-- Clock islands and arbiters.

theorem canon_pumpInto {s boundary} (h : CanonicalInv s) : CanonicalInv (pumpInto s boundary) := by
  unfold pumpInto
  grind [canon_pumpStream, canon_foldl]

theorem canon_execIslandTransferAck {boundary s} {u} (h : CanonicalInv s)
    (e : execIslandTransferAck boundary s = .next u) : CanonicalInv u := by
  cases e
  grind [canon_pumpInto, canonicalInv_mk, canon_parts]

theorem canon_countEscalation {s g} (h : CanonicalInv s) : CanonicalInv (countEscalation s g) := by
  unfold countEscalation
  grind [canon_updCtx]

theorem canon_execResend {n s} {u} (h : CanonicalInv s) (e : execResend n s = .next u) : CanonicalInv u := by
  cases e
  grind [canon_updStream]

-- Plate-image loads and the model cache.

theorem canon_storeImage {s b} {u} (h : CanonicalInv s) (e : storeImage s b = .inr u) : CanonicalInv u :=
  canon_of_view h (by simp [dataAreas, view_storeImage _ e])

theorem canon_writeReport {s c id placement reason w map} (h : CanonicalInv s) :
    CanonicalInv (writeReport s c id placement reason w map) := by
  unfold writeReport
  grind [canon_updCtx]

theorem canon_refuseLoad {s cid st reason} (h : CanonicalInv s) : CanonicalInv (refuseLoad s cid st reason) :=
  canon_of_view h (by simp [dataAreas])

theorem canon_refuseFree {s cid c id} (h : CanonicalInv s) : CanonicalInv (refuseFree s cid c id) := by
  unfold refuseFree
  grind [canon_draw, canon_refuseLoad, canon_writeReport]

theorem canon_askLoad {answer s cid c id} (h : CanonicalInv s) : CanonicalInv (askLoad answer s cid c id).2 :=
  canon_of_view h (by simp [dataAreas])

theorem canon_startLoad {s cid c id} (h : CanonicalInv s) : CanonicalInv (startLoad s cid c id) := by
  unfold startLoad
  cases cid <;>
    grind [canon_askLoad, canon_refuseLoad, canon_writeReport, canon_adminDone, canon_refuseFree, canon_setCtx,
      canonicalInv_mk, canon_parts]

theorem canon_stateRefusal {s cid c id} (h : CanonicalInv s) : CanonicalInv (stateRefusal s cid c id) := by
  unfold stateRefusal
  grind [canon_startLoad, canon_refuseFree]

theorem canon_nextLoads {x0 s x2} (h : CanonicalInv s) : CanonicalInv (nextLoads x0 s x2) := by
  induction x0 generalizing s with
  | zero => exact h
  | succ n ih =>
    unfold nextLoads
    grind [canon_setCtx, canon_startLoad, canon_stateRefusal]

theorem canon_submitLoad {s cid c id} (h : CanonicalInv s) : CanonicalInv (submitLoad s cid c id) := by
  unfold submitLoad
  grind [canon_setCtx, canon_startLoad, canon_stateRefusal]

theorem canon_execImageLoad {cid ctx imageId s} {u} (h : CanonicalInv s)
    (e : execImageLoad cid ctx imageId s = .next u) : CanonicalInv u := by
  obtain ⟨-, rfl⟩ := onUnit_cases e
  grind [canon_adminCmd, canon_submitLoad]

theorem canon_allotRegions {s c im} {a u} (h : CanonicalInv s) (e : allotRegions s c im = some (a, u)) :
    CanonicalInv u := by
  unfold allotRegions at e
  refine canon_foldl_bind (π := Prod.snd) e h fun r a b eb ha => ?_
  obtain ⟨q, hq, rfl⟩ := Option.map_eq_some_iff.1 eb
  exact canon_pagesWrite (canon_foldl (canon_allocPages ha hq) fun _ _ => canon_zeroPage)

theorem canon_dropLoad {s c} (h : CanonicalInv s) : CanonicalInv (dropLoad s c) := by
  unfold dropLoad
  grind [canon_freeTiles, canon_freeWhere, canon_updCtx, canon_dropIdleDomains, canonicalInv_mk, canon_parts,
    mapWf_mapFilter]

theorem canon_endStarts {s c ok} (h : CanonicalInv s) : CanonicalInv (endStarts s c ok) := by
  unfold endStarts
  grind [canon_updCtx, canon_adminDone, canon_adminRefuse, canon_foldl]

theorem canon_failLoad {s c l st reason} (h : CanonicalInv s) : CanonicalInv (failLoad s c l st reason) := by
  unfold failLoad
  grind [canon_writeReport, canon_enterCtx, canon_dropLoad, canon_nextLoads, canon_endStarts, canon_refuseLoad]

theorem canon_execLoadAllocation {ctx s} {u} (h : CanonicalInv s) (e : execLoadAllocation ctx s = .next u) :
    CanonicalInv u := by
  obtain ⟨-, rfl⟩ := onUnit_cases e
  dsimp only
  split
  · exact h
  split
  · exact h
  split
  · exact canon_failLoad h
  split
  · exact canon_failLoad h
  next ha =>
    replace ha := canon_allotRegions h (Option.ite_none_left_eq_some.1 ha).2
    refine canon_updCtx (canon_foldl (canon_foldl ha fun t d ht => ?_) fun t p ht => canon_updTile ht)
    split
    · exact ht
    · exact canon_wakeDomain ht

theorem canon_mapRing {s c pages} (h : CanonicalInv s) : CanonicalInv (mapRing s c pages) := by
  unfold mapRing
  grind [canon_setWindow]

theorem canon_armRings {s c l} (h : CanonicalInv s) : CanonicalInv (armRings s c l) := by
  unfold armRings
  grind [canon_mapRing, canon_pagesWrite, canon_foldl]

theorem canon_finishLoad {s c l} (h : CanonicalInv s) : CanonicalInv (finishLoad s c l) := by
  unfold finishLoad
  extract_lets s₁ streams s₂ s₃ entry loaded s₄ s₅ start s₆ s₇
  have h₁ : CanonicalInv s₁ := canon_foldl h fun t p ht => canon_updTile ht
  have h₂ : CanonicalInv s₂ :=
    canon_withStreams h₁ (mapWf_foldl (mapWf_mapFilter _ (streamsWf h₁)) fun _ _ => mapWf_mapPut _ _)
  have h₅ : CanonicalInv s₅ := canon_writeReport (canon_updCtx (canon_armRings h₂))
  have h₆ : CanonicalInv s₆ := by
    simp only [s₆]
    split
    · exact canon_adminDone h₅
    · exact h₅
  have h₇ : CanonicalInv s₇ := by
    simp only [s₇]
    split
    · exact canon_startFeeds (canon_enterCtx h₆)
    · exact canon_enterCtx h₆
  exact canon_nextLoads (canon_endStarts (canon_dropIdleDomains h₇))

theorem canon_execLoadComplete {ctx faults poisoned s} {u} (h : CanonicalInv s)
    (e : execLoadComplete ctx faults poisoned s = .next u) : CanonicalInv u := by
  obtain ⟨-, rfl⟩ := onUnit_cases e
  grind [canon_updTile, canon_failLoad, canon_finishLoad, canon_dropLoad, canon_updCtx, canon_foldl]

theorem canon_dropImage {s c} (h : CanonicalInv s) : CanonicalInv (dropImage s c) := by
  unfold dropImage
  grind [canon_freeTiles, canon_setWindow, canon_freeWhere, canon_updCtx, canonicalInv_mk, canon_parts, mapWf_mapFilter]

theorem canon_execReplacementDrained {ctx s} {u} (h : CanonicalInv s) (e : execReplacementDrained ctx s = .next u) :
    CanonicalInv u := by
  obtain ⟨-, rfl⟩ := onUnit_cases e
  grind [canon_updTile, canon_updCtx, canon_dropImage, canon_foldl]

-- The commands of contexts.

theorem canon_configureCtx {s r} {u} (h : CanonicalInv s) (e : configureCtx s r = some u) : CanonicalInv u := by
  unfold configureCtx at e
  grind [canon_setCtx, canon_clearOvercommit]

theorem canon_execCtxConfigure {cid record s} {u} (h : CanonicalInv s) (e : execCtxConfigure cid record s = .next u) :
    CanonicalInv u := by
  cases e
  refine canon_adminCmd h fun t ht => ?_
  split
  · exact canon_adminRefuse ht
  · refine canon_onMembers ht fun v hv => canon_adminDone ?_
    cases hc : configureCtx v record with
    | none => exact hv
    | some w => exact canon_configureCtx hv hc

theorem canon_execCtxRelease {cid ctx s} {u} (h : CanonicalInv s) (e : execCtxRelease cid ctx s = .next u) :
    CanonicalInv u := by
  obtain ⟨-, rfl⟩ := onUnit_cases e
  grind [canon_adminCmd, canon_adminRefuse, canon_onMembers, canon_freeWhere, canon_setWindow, canon_adminDone,
    canon_clearOvercommit, canonicalInv_mk, canon_parts, mapWf_mapDrop]

theorem canon_execCtxStart {cid ctx s} {u} (h : CanonicalInv s) (e : execCtxStart cid ctx s = .next u) :
    CanonicalInv u := by
  obtain ⟨-, rfl⟩ := onUnit_cases e
  grind [canon_adminCmd, canon_adminRefuse, canon_onMembers, canon_setCtx, canon_adminDone, canon_startFeeds,
    canon_enterCtx]

theorem canon_execCtxStop {cid ctx s} {u} (h : CanonicalInv s) (e : execCtxStop cid ctx s = .next u) :
    CanonicalInv u := by
  obtain ⟨-, rfl⟩ := onUnit_cases e
  grind [canon_adminCmd, canon_onMembers, canon_adminDone, canon_afterReq, canon_setCtx, canon_adminRefuse]

theorem canon_unloadImage {s c} (h : CanonicalInv s) : CanonicalInv (unloadImage s c) := by
  unfold unloadImage
  grind [canon_enterCtx, canon_dropIdleDomains, canon_dropImage]

theorem canon_endUnloads {s c} (h : CanonicalInv s) : CanonicalInv (endUnloads s c) := by
  unfold endUnloads
  grind [canon_adminRefuse, canon_adminDone, canon_unloadImage, canon_setCtx, canon_foldl]

theorem canon_execCtxUnload {cid ctx s} {u} (h : CanonicalInv s) (e : execCtxUnload cid ctx s = .next u) :
    CanonicalInv u := by
  obtain ⟨-, rfl⟩ := onUnit_cases e
  grind [canon_adminCmd, canon_onMembers, canon_adminDone, canon_unloadImage, canon_setCtx, canon_adminRefuse]

theorem canon_execNanClear {cid ctx s} {u} (h : CanonicalInv s) (e : execNanClear cid ctx s = .next u) :
    CanonicalInv u := by
  obtain ⟨-, rfl⟩ := onUnit_cases e
  grind [canon_adminCmd, canon_adminDone, canon_updCtx]

-- Object loads in common.

theorem canon_endLoad {s cid r} (h : CanonicalInv s) (hr : ∀ t, r = .ok t → CanonicalInv t) :
    CanonicalInv (endLoad s cid r) := by
  cases r with
  | error st => exact canon_adminRefuse h
  | ok t => exact canon_adminDone (hr t rfl)

theorem canon_takeTablePages {s t} {a u} (h : CanonicalInv s) (e : takeTablePages s t = some (a, u)) :
    CanonicalInv u := by
  unfold takeTablePages at e
  extract_lets use n m at e
  split at e
  · cases e
    exact h
  · obtain ⟨a, ha, e⟩ := Option.bind_eq_some_iff.1 (Option.ite_none_left_eq_some.1 e).2
    obtain ⟨b, hb, e⟩ := Option.map_eq_some_iff.1 e
    cases e
    exact canon_allocPages (canon_allocPages h ha) hb

theorem canon_fillTable {s t pages b} (h : CanonicalInv s) : CanonicalInv (fillTable s t pages b) := by
  unfold fillTable
  exact canon_foldl_fst (canon_foldl h fun _ _ => canon_zeroPage) fun _ _ => canon_pagesWrite

theorem canon_freeTableVer {s v} (h : CanonicalInv s) : CanonicalInv (freeTableVer s v) := by
  unfold freeTableVer
  grind [canon_freeWhere, canonicalInv_mk, canon_parts]

theorem canon_takeTable {s raw b} {u} (h : CanonicalInv s) (e : takeTable s raw b = .ok u) : CanonicalInv u := by
  unfold takeTable at e
  grind [canon_freeTableVer, canon_takeTablePages, canon_fillTable, canon_zeroPage, canon_healShards, canon_foldl,
    canonicalInv_mk, canon_parts]

theorem canon_loadTable {s r} {u} (h : CanonicalInv s) (e : loadTable s r = .ok u) : CanonicalInv u := by
  unfold loadTable at e
  grind [canon_takeTable]

theorem canon_execTableLoad {cid record s} {u} (h : CanonicalInv s) (e : execTableLoad cid record s = .next u) :
    CanonicalInv u := by
  cases e
  exact canon_adminCmd h fun t ht => canon_endLoad ht fun v => canon_loadTable ht

theorem canon_updTable {s k f} (h : CanonicalInv s) : CanonicalInv (updTable s k f) :=
  canon_of_view h (by simp [dataAreas])

theorem canon_clearHotFull {s k} (h : CanonicalInv s) : CanonicalInv (clearHotFull s k) :=
  canon_of_view h (by simp [dataAreas])

theorem canon_freeDrainedTable {s k} (h : CanonicalInv s) : CanonicalInv (freeDrainedTable s k) := by
  unfold freeDrainedTable
  grind [canon_clearHotFull, canon_updTable, canon_freeTableVer]

theorem canon_stepTable {s k t stamp blocked} (h : CanonicalInv s) :
    CanonicalInv (stepTable s k t stamp blocked).2 := by
  unfold stepTable
  grind [canon_healShards, canon_freeDrainedTable, canon_clearHotFull, canonicalInv_mk, canon_parts]

theorem canon_switchTable {s k t} (h : CanonicalInv s) : CanonicalInv (switchTable s k t) := by
  unfold switchTable
  grind [canon_farDraining, canon_stepTable, canon_adminDone]

theorem canon_growHot {s k t n} {u} (h : CanonicalInv s) (e : growHot s k t n = some u) : CanonicalInv u := by
  unfold growHot at e
  obtain ⟨a, ha, e⟩ := Option.map_eq_some_iff.1 (Option.ite_none_left_eq_some.1 e).2
  cases e
  exact canon_updTable (canon_foldl (canon_allocPages h ha) fun _ _ => canon_zeroPage)

theorem canon_applyAt {s t pages off x4} (h : CanonicalInv s) : CanonicalInv (applyAt s t pages off x4) := by
  unfold applyAt
  grind [canon_pagesWrite]

theorem canon_startMove {s k n row} {u} (h : CanonicalInv s) (e : startMove s k n row = some u) : CanonicalInv u :=
  canon_of_view h (by simp [dataAreas, view_startMove _ e])

theorem canon_offerUpdate {s w t} (h : CanonicalInv s)
    (e : offerUpdate s w = .applied t ∨ offerUpdate s w = .logWait t) :
    CanonicalInv t := by
  revert e
  fun_cases offerUpdate s w with
  | case1 | case2 | case3 => grind
  | case4 | case5 => grind [canon_updTable, canon_applyAt]
  | case6 => grind [canonicalInv_mk, canon_parts]
  | case7 => grind [canon_startMove, canonicalInv_mk, canon_parts]
  | case8 | case9 => grind

theorem canon_setHotFull {s k} (h : CanonicalInv s) : CanonicalInv (setHotFull s k) :=
  canon_of_view h (by simp [dataAreas])

theorem canon_waitUpdate {s x1 log hot} (h : CanonicalInv s) : CanonicalInv (waitUpdate s x1 log hot) :=
  canon_of_view h (by simp [dataAreas])

theorem canon_takeUpdate {s x1} (h : CanonicalInv s) : CanonicalInv (takeUpdate s x1) := by
  unfold takeUpdate
  grind [canon_waitUpdate, canon_offerUpdate, canon_setHotFull]

theorem canon_retryUpdates {s} (h : CanonicalInv s) : CanonicalInv (retryUpdates s) := by
  unfold retryUpdates
  grind [canon_takeUpdate, canon_foldl, canonicalInv_mk, canon_parts]

theorem canon_sendUpdate {s t x2} (h : CanonicalInv s) : CanonicalInv (sendUpdate s t x2) := by
  unfold sendUpdate
  grind [canon_takeUpdate, canon_toRejoining, canon_toMembers]

theorem canon_flushGroup {s c x tbl} (h : CanonicalInv s) : CanonicalInv (flushGroup s c x tbl) := by
  unfold flushGroup
  grind [canon_updTable, canon_updReq, canon_sendUpdate, canon_foldl]

theorem canon_retryPromotions {s} (h : CanonicalInv s) : CanonicalInv (retryPromotions s) :=
  canon_of_view h (by simp [dataAreas])

theorem canon_countRead {s k n row origin d} (h : CanonicalInv s) : CanonicalInv (countRead s k n row origin d) :=
  canon_of_view h (by simp [dataAreas])

-- Vocabularies, normalisation tables and grammars: their loads and unloads.

theorem canon_takeObjectPages {s kind id b} {a u} (h : CanonicalInv s) (e : takeObjectPages s kind id b = some (a,
    u)) : CanonicalInv u := by
  unfold takeObjectPages at e
  obtain ⟨a, ha, e⟩ := Option.map_eq_some_iff.1 (Option.ite_none_left_eq_some.1 e).2
  cases e
  exact canon_pagesWrite (canon_foldl (canon_allocPages h ha) fun _ _ => canon_zeroPage)

theorem canon_takeVocab {s b} {u} (h : CanonicalInv s) (e : takeVocab s b = .ok u) : CanonicalInv u := by
  unfold takeVocab at e
  grind [canon_takeObjectPages, canonicalInv_mk, canon_parts]

theorem canon_takeNorm {s b} {u} (h : CanonicalInv s) (e : takeNorm s b = .ok u) : CanonicalInv u := by
  unfold takeNorm at e
  grind [canon_takeObjectPages, canonicalInv_mk, canon_parts]

theorem canon_takeGrammar {s b} {u} (h : CanonicalInv s) (e : takeGrammar s b = .ok u) : CanonicalInv u := by
  unfold takeGrammar at e
  grind [canon_takeObjectPages, canonicalInv_mk, canon_parts]

theorem canon_loadLexical {s r kind} {u} (h : CanonicalInv s) (e : loadLexical s r kind = .ok u) : CanonicalInv u := by
  unfold loadLexical at e
  grind [canon_takeVocab, canon_takeNorm, canon_takeGrammar]

theorem canon_execVocabularyLoad {cid record s} {u} (h : CanonicalInv s)
    (e : execVocabularyLoad cid record s = .next u) : CanonicalInv u := by
  cases e
  exact canon_adminCmd h fun t ht => canon_endLoad ht fun v => canon_loadLexical ht

theorem canon_execNormalisationLoad {cid record s} {u} (h : CanonicalInv s)
    (e : execNormalisationLoad cid record s = .next u) : CanonicalInv u := by
  cases e
  exact canon_adminCmd h fun t ht => canon_endLoad ht fun v => canon_loadLexical ht

theorem canon_execGrammarLoad {cid record s} {u} (h : CanonicalInv s) (e : execGrammarLoad cid record s = .next u) :
    CanonicalInv u := by
  cases e
  exact canon_adminCmd h fun t ht => canon_endLoad ht fun v => canon_loadLexical ht

theorem canon_unloadObject {s kind id} {u} (h : CanonicalInv s) (e : unloadObject s kind id = some u) :
    CanonicalInv u := by
  unfold unloadObject at e
  extract_lets freed at e
  have hf : CanonicalInv (freed s) := canon_freeWhere h
  replace e := (Option.ite_none_left_eq_some.1 e).2
  split at e
  · obtain ⟨q, -, e⟩ := Option.bind_eq_some_iff.1 e
    cases (Option.ite_none_left_eq_some.1 e).2
    exact hf
  · obtain ⟨q, -, e⟩ := Option.bind_eq_some_iff.1 e
    cases (Option.ite_none_left_eq_some.1 e).2
    exact hf
  · obtain ⟨q, -, e⟩ := Option.bind_eq_some_iff.1 e
    cases (Option.ite_none_left_eq_some.1 e).2
    exact hf
  · obtain ⟨q, -, rfl⟩ := Option.map_eq_some_iff.1 e
    exact hf
  · obtain ⟨q, -, rfl⟩ := Option.map_eq_some_iff.1 e
    exact hf
  · cases e

theorem canon_execObjectUnload {cid kind id s} {u} (h : CanonicalInv s)
    (e : execObjectUnload cid kind id s = .next u) : CanonicalInv u := by
  cases e
  grind [canon_adminCmd, canon_unloadObject, canon_adminDone, canon_adminRefuse]

-- ENCODE pipelines.

theorem canon_emitTokens {s c x2 out tag origin} (h : CanonicalInv s) :
    CanonicalInv (emitTokens s c x2 out tag origin) := by
  unfold emitTokens
  grind [canon_emitLocal, canon_foldl]

theorem canon_letterSheet {s n x sh} (h : CanonicalInv s) : CanonicalInv (letterSheet s n x sh) := by
  unfold letterSheet
  grind [canon_emitTokens, canon_updCtx, canonicalInv_mk, canon_parts]

theorem canon_windowWrite {s off bs poison rid} (h : CanonicalInv s) : CanonicalInv (windowWrite s off bs poison rid) :=
  canon_of_view h (by simp [dataAreas])

-- Index objects: descriptors, contents, key directories, margin lists, visibility and search.

theorem canon_updIndex {s k f} (h : CanonicalInv s) : CanonicalInv (updIndex s k f) :=
  canon_of_view h (by simp [dataAreas])

-- Index loads, version steps, commits and fair copies.

theorem canon_takeAreas {s x1 x2} {a u} (h : CanonicalInv s) (e : takeAreas s x1 x2 = some (a, u)) :
    CanonicalInv u := by
  induction x2 generalizing s a u with
  | nil => cases e; exact h
  | cons w ws ih =>
    unfold takeAreas at e
    obtain ⟨a', ha, e⟩ := Option.bind_eq_some_iff.1 (Option.ite_none_left_eq_some.1 e).2
    obtain ⟨b, hb, e⟩ := Option.map_eq_some_iff.1 e
    cases e
    exact ih (canon_allocPages h ha) hb

theorem canon_newIndexVer {s d ls} {a u} (h : CanonicalInv s) (e : newIndexVer s d ls = some (a, u)) :
    CanonicalInv u := by
  obtain ⟨b, hb, e⟩ := Option.map_eq_some_iff.1 e
  cases e
  exact canon_takeAreas h hb

theorem canon_freeIndexVer {s v} (h : CanonicalInv s) : CanonicalInv (freeIndexVer s v) := by
  unfold freeIndexVer
  grind [canon_freeWhere]

theorem canon_takeIndex {s raw b} {u} (h : CanonicalInv s) (e : takeIndex s raw b = .ok u) : CanonicalInv u := by
  revert e
  fun_cases takeIndex s raw b
  case case1 => exact fun e => nomatch e
  case case2 => exact fun e => nomatch e
  case case3 => exact fun e => nomatch e
  all_goals
    rename_i s₁ _ _ hn _ _ _ _ _
    have hs : CanonicalInv s₁ := by
      simp only [s₁]
      split
      · exact canon_freeIndexVer h
      · exact h
    have hv := canon_newIndexVer hs hn
    intro e
    injection e with e
    subst e
  · exact hv
  · exact canon_healShards (kind := 1) (id := (indexDescOf raw).indexId) hv

theorem canon_loadIndex {s r} {u} (h : CanonicalInv s) (e : loadIndex s r = .ok u) : CanonicalInv u := by
  unfold loadIndex at e
  grind [canon_takeIndex]

theorem canon_execIndexLoad {cid record s} {u} (h : CanonicalInv s) (e : execIndexLoad cid record s = .next u) :
    CanonicalInv u := by
  cases e
  exact canon_adminCmd h fun t ht => canon_endLoad ht fun v => canon_loadIndex ht

theorem canon_freeDrainedIndex {s k} (h : CanonicalInv s) : CanonicalInv (freeDrainedIndex s k) := by
  unfold freeDrainedIndex
  grind [canon_updIndex, canon_freeIndexVer]

theorem canon_stepIndex {s k x stamp blocked} (h : CanonicalInv s) :
    CanonicalInv (stepIndex s k x stamp blocked).2 := by
  unfold stepIndex
  grind [canon_healShards, canon_freeDrainedIndex, canonicalInv_mk, canon_parts]

theorem canon_switchIndex {s k x} (h : CanonicalInv s) : CanonicalInv (switchIndex s k x) := by
  unfold switchIndex
  grind [canon_farDraining, canon_stepIndex, canon_adminDone]

theorem canon_execVersionSwitch {index id s} {u} (h : CanonicalInv s) (e : execVersionSwitch index id s = .next u) :
    CanonicalInv u := by
  cases e
  grind [canon_switchIndex, canon_switchTable]

theorem canon_commitRefusal {s id ops b} {u} (h : CanonicalInv s) (e : commitRefusal s id ops b = some u) :
    CanonicalInv u :=
  canon_of_view h (by simp [dataAreas, view_commitRefusal _ e])

theorem canon_startCommit {s rid id b} (h : CanonicalInv s) : CanonicalInv (startCommit s rid id b) :=
  canon_of_view h (by simp [dataAreas])

theorem canon_execCommitEpoch {id s} {u} (h : CanonicalInv s) (e : execCommitEpoch id s = .next u) :
    CanonicalInv u := by
  cases e
  grind [canon_updIndex, canon_updReq]

theorem canon_copyRoom {s x} (h : CanonicalInv s) : CanonicalInv (copyRoom s x) := by
  unfold copyRoom
  grind [canon_freeIndexVer, canonicalInv_mk, canon_parts]

theorem canon_execFairCopyEnd {id poisoned s} {u} (h : CanonicalInv s) (e : execFairCopyEnd id poisoned s = .next u) :
    CanonicalInv u := by
  cases e
  split
  · exact h
  split
  · exact h
  split
  · exact h
  extract_lets stop ls d
  have hstop (st : Status) : CanonicalInv (stop st) := canon_adminRefuse (canon_updIndex h)
  split
  · exact hstop _
  split
  · exact hstop _
  next hw => exact canon_adminDone (canon_updIndex (canon_newIndexVer (canon_copyRoom h) hw))

-- The Stylus ROM: descriptors, their checks, the order on a die, completions, the code store and the rollback
-- counters.

theorem canon_finishOp {s o status bucket ew level} (h : CanonicalInv s) :
    CanonicalInv (finishOp s o status bucket ew level) := by
  unfold finishOp
  grind [canonicalInv_mk, canon_parts]

theorem canon_setDie {s k d} (h : CanonicalInv s) : CanonicalInv (setDie s k d) := by
  unfold setDie
  grind [canonicalInv_mk, canon_parts]

theorem canon_submitDesc {s r c d prio} (h : CanonicalInv s) : CanonicalInv (submitDesc s r c d prio) := by
  unfold submitDesc
  grind [canon_finishOp, canon_recordErr, canon_setDie, canonicalInv_mk, canon_parts]

theorem canon_submitRaw {s c b prio} (h : CanonicalInv s) : CanonicalInv (submitRaw s c b prio) := by
  unfold submitRaw
  grind [canon_submitDesc, canon_finishOp, canonicalInv_mk, canon_parts]

theorem canon_offerDesc {s c f} (h : CanonicalInv s) (hf : ∀ c, CanonicalInv (f c)) :
    CanonicalInv (offerDesc s c f) := by
  unfold offerDesc
  grind [canon_usageReg]

theorem canon_execRead {c d prio s} {u} (h : CanonicalInv s) (e : execRead c d prio s = .next u) : CanonicalInv u := by
  cases e
  exact canon_offerDesc h fun _ => canon_submitDesc h

theorem canon_execProgram {c d prio s} {u} (h : CanonicalInv s) (e : execProgram c d prio s = .next u) :
    CanonicalInv u := by
  cases e
  exact canon_offerDesc h fun _ => canon_submitDesc h

theorem canon_execErase {c d prio s} {u} (h : CanonicalInv s) (e : execErase c d prio s = .next u) :
    CanonicalInv u := by
  cases e
  exact canon_offerDesc h fun _ => canon_submitDesc h

theorem canon_execProbe {c d prio s} {u} (h : CanonicalInv s) (e : execProbe c d prio s = .next u) :
    CanonicalInv u := by
  cases e
  exact canon_offerDesc h fun _ => canon_submitDesc h

theorem canon_execCalRead {c d prio s} {u} (h : CanonicalInv s) (e : execCalRead c d prio s = .next u) :
    CanonicalInv u := by
  cases e
  exact canon_offerDesc h fun _ => canon_submitDesc h

theorem canon_execCsRead {c d prio s} {u} (h : CanonicalInv s) (e : execCsRead c d prio s = .next u) :
    CanonicalInv u := by
  cases e
  exact canon_offerDesc h fun _ => canon_submitDesc h

theorem canon_execCsProgram {c d prio s} {u} (h : CanonicalInv s) (e : execCsProgram c d prio s = .next u) :
    CanonicalInv u := by
  cases e
  exact canon_offerDesc h fun _ => canon_submitDesc h

theorem canon_execCsErase {c d prio s} {u} (h : CanonicalInv s) (e : execCsErase c d prio s = .next u) :
    CanonicalInv u := by
  cases e
  exact canon_offerDesc h fun _ => canon_submitDesc h

theorem canon_execCsFetch {c d prio s} {u} (h : CanonicalInv s) (e : execCsFetch c d prio s = .next u) :
    CanonicalInv u := by
  cases e
  exact canon_offerDesc h fun _ => canon_submitDesc h

theorem canon_execRbRead {c d prio s} {u} (h : CanonicalInv s) (e : execRbRead c d prio s = .next u) :
    CanonicalInv u := by
  cases e
  exact canon_offerDesc h fun _ => canon_submitDesc h

theorem canon_execRbAdvance {c d prio s} {u} (h : CanonicalInv s) (e : execRbAdvance c d prio s = .next u) :
    CanonicalInv u := by
  cases e
  exact canon_offerDesc h fun _ => canon_submitDesc h

theorem canon_execBadDescriptor {c raw s} {u} (h : CanonicalInv s) (e : execBadDescriptor c raw s = .next u) :
    CanonicalInv u := by
  cases e
  exact canon_offerDesc h fun _ => canon_submitRaw h

theorem canon_trackRead {s d bucket ew n1 n0} (h : CanonicalInv s) : CanonicalInv (trackRead s d bucket ew n1 n0) :=
  canon_of_view h (by simp [dataAreas])

theorem canon_countBulkRead {s die ew level failed} (h : CanonicalInv s) :
    CanonicalInv (countBulkRead s die ew level failed) :=
  canon_of_view h (by simp [dataAreas])

theorem canon_refreshBlock {s k} (h : CanonicalInv s) : CanonicalInv (refreshBlock s k) :=
  canon_of_view h (by simp [dataAreas])

theorem canon_poisonSector {s phys} (h : CanonicalInv s) : CanonicalInv (poisonSector s phys) :=
  canon_of_view h (by simp [dataAreas])

theorem canon_readDone' {s o obs} (h : CanonicalInv s) : CanonicalInv (readDone' s o obs) := by
  fun_cases readDone' s o obs with
  | _ d secs bucket ew failed level k unread lost rebuilt s₁ s₂ s₃ s₄ s₅ s₆ =>
    have h₄ : CanonicalInv s₄ := by grind [canon_trackRead, canon_countBulkRead, canon_refreshBlock, canon_recordErr]
    have h₅ : CanonicalInv s₅ := by
      simp only [s₅]
      split
      · exact h₄
      split
      · exact canon_refreshBlock (canon_updBlock (canon_foldl h₄ fun _ _ => canon_poisonSector))
      · exact canon_foldl h₄ fun t i ht => canon_withMemory ht (memWf ht) (mapWf_foldl_mapPut _ _ _ (poisonWf ht))
    exact canon_finishOp (canon_foldl h₅ fun _ _ => canon_memWrite)

theorem canon_mediaRec {s die block op status wear} (h : CanonicalInv s) :
    CanonicalInv (mediaRec s die block op status wear) :=
  canon_of_view h (by simp [dataAreas])

theorem canon_retireBlock {s k op status} (h : CanonicalInv s) : CanonicalInv (retireBlock s k op status) :=
  canon_of_view h (by simp [dataAreas])

theorem canon_ledger {s kind die block slc wear sentinels} (h : CanonicalInv s) :
    CanonicalInv (ledger s kind die block slc wear sentinels) :=
  canon_of_view h (by simp [dataAreas])

theorem canon_blankBlock {s k} (h : CanonicalInv s) : CanonicalInv (blankBlock s k) :=
  canon_of_view h (by simp [dataAreas])

theorem canon_failFast {s die block op status} (h : CanonicalInv s) : CanonicalInv (failFast s die block op status) :=
  canon_of_view h (by simp [dataAreas])

theorem canon_eraseDone {s o good} (h : CanonicalInv s) : CanonicalInv (eraseDone s o good) := by
  unfold eraseDone
  grind [canon_setBlock, canon_blankBlock, canon_ledger, canon_updBlock, canon_retireBlock, canon_memWrite,
    canon_failFast, canon_finishOp, canon_foldl, canonicalInv_mk, canon_parts]

theorem canon_programDone {s o good} (h : CanonicalInv s) : CanonicalInv (programDone s o good) := by
  unfold programDone
  grind [canon_retireBlock, canon_memWrite, canon_failFast, canon_finishOp, canon_foldl, canonicalInv_mk, canon_parts]

theorem canon_setCounter {s n v} (h : CanonicalInv s) : CanonicalInv (setCounter s n v) := by
  unfold setCounter
  grind [canonicalInv_mk, canon_parts]

theorem canon_csReadDone {s o obs} (h : CanonicalInv s) : CanonicalInv (csReadDone s o obs) := by
  unfold csReadDone
  grind [canon_memWrite, canon_recordErr, canon_finishOp]

theorem canon_csWriteDone {s o good} (h : CanonicalInv s) : CanonicalInv (csWriteDone s o good) := by
  unfold csWriteDone
  grind [canon_finishOp, canon_recordsChanged, canon_recordErr, canon_setDie, canonicalInv_mk, canon_parts,
    cellsWf_cellsWrite, cellsWf_filter]

theorem canon_probeDone {s o obs} (h : CanonicalInv s) : CanonicalInv (probeDone s o obs) := by
  unfold probeDone
  grind [canon_ledger, canon_mediaRec, canon_setBlock, canon_submitDesc, canonicalInv_mk, canon_parts, mapWf_filter]

theorem canon_opDone {s o obs} (h : CanonicalInv s) : CanonicalInv (opDone s o obs) := by
  unfold opDone
  dsimp only
  split
  · exact canon_readDone' h
  · exact canon_programDone h
  · exact canon_eraseDone h
  · exact canon_probeDone (canon_finishOp (canon_memWrite h))
  · exact canon_finishOp h
  · exact canon_csReadDone h
  · exact canon_csReadDone h
  · exact canon_csWriteDone h
  · exact canon_csWriteDone h
  · exact canon_finishOp (canon_memWrite h)
  · split
    · exact canon_finishOp h
    · exact canon_finishOp (canon_setCounter h)

theorem canon_execDescriptorComplete {id obs s} {u} (h : CanonicalInv s)
    (e : execDescriptorComplete id obs s = .next u) : CanonicalInv u := by
  cases e
  grind [canon_opDone, canon_setDie]

-- Flash media management: staging, the log, parity, folds, the erase ledger, wear and the media stage.

theorem canon_makeDirty {s k} (h : CanonicalInv s) : CanonicalInv (makeDirty s k) :=
  canon_of_view h (by simp [dataAreas])

theorem canon_intendErase {s die block slc} (h : CanonicalInv s) : CanonicalInv (intendErase s die block slc) := by
  unfold intendErase
  grind [canon_ledger, canon_updBlock, canon_submitDesc]

theorem canon_execEraseIntent {die block slc s} {u} (h : CanonicalInv s)
    (e : execEraseIntent die block slc s = .next u) : CanonicalInv u := by
  cases e
  grind [canon_intendErase]

-- The media part of the commit sequence.

theorem canon_abortWrites {s} (h : CanonicalInv s) : CanonicalInv (abortWrites s) := by
  unfold abortWrites
  grind [canon_setDie, canon_finishOp, canon_foldl, canonicalInv_mk, canon_parts, mapWf_filter]

theorem canon_commitBegin {s} (h : CanonicalInv s) : CanonicalInv (commitBegin s) := by
  unfold commitBegin
  grind [canon_abortWrites, canon_makeDirty, canonicalInv_mk, canon_parts]

theorem canon_commitEnd {s} (h : CanonicalInv s) : CanonicalInv (commitEnd s) :=
  canon_of_view h (by simp [dataAreas])

theorem canon_mediaCommit {s} (h : CanonicalInv s) : CanonicalInv (mediaCommit s) := by
  unfold mediaCommit
  grind [canon_commitEnd, canon_commitBegin]

-- Integrity: containment, uncorrectable lines, correctable errors, the patrol, and the persistent log.

theorem canon_structureLost {s x1} (h : CanonicalInv s) : CanonicalInv (structureLost s x1) :=
  canon_of_view h (by simp [dataAreas])

theorem canon_lineLost {s op a hit} (h : CanonicalInv s) : CanonicalInv (lineLost s op a hit) := by
  unfold lineLost
  grind [canon_recordErr, canon_structureLost, canonicalInv_mk, canon_parts, mapWf_mapPut]

theorem canon_patrolNext {s m} (h : CanonicalInv s) : CanonicalInv (patrolNext s m) :=
  canon_of_view h (by simp [dataAreas])

theorem canon_patrolPage {s i} (h : CanonicalInv s) : CanonicalInv (patrolPage s i) := by
  unfold patrolPage
  grind [canon_submitDesc]

theorem canon_execPatrolRead {m obs s} {u} (h : CanonicalInv s) (e : execPatrolRead m obs s = .next u) :
    CanonicalInv u := by
  cases e
  grind [canon_patrolNext, canon_patrolPage, canon_tileRec, canon_updTile, canon_lineLost]

theorem canon_persist {s x1} (h : CanonicalInv s) : CanonicalInv (persist s x1) :=
  canon_of_view h (by simp [dataAreas])

-- FEED: its programs, tier reads and their draft paths, scatter, and the feeder's moves.

theorem canon_exitCheck {s stn c n sh} (h : CanonicalInv s) : CanonicalInv (exitCheck s stn c n sh).2 :=
  canon_of_view h (by simp [dataAreas])

theorem canon_usageStn {s stn c n seq a} (h : CanonicalInv s) : CanonicalInv (usageStn s stn c n seq a) :=
  canon_of_view h (by simp [dataAreas])

theorem canon_setFeed {s c k x} (h : CanonicalInv s) : CanonicalInv (setFeed s c k x) := by
  unfold setFeed
  grind [canon_updCtx]

theorem canon_emitRuns {s c k x3} (h : CanonicalInv s) : CanonicalInv (emitRuns s c k x3) := by
  induction x3 generalizing s with
  | zero => exact h
  | succ n ih =>
    unfold emitRuns
    grind [canon_emitAll, canonicalInv_mk, canon_parts]

theorem canon_pumpRuns {s c k} (h : CanonicalInv s) : CanonicalInv (pumpRuns s c k) := by
  unfold pumpRuns
  grind [canon_emitRuns]

theorem canon_sweepPart {s r reg x run} (h : CanonicalInv s) : CanonicalInv (sweepPart s r reg x run).2 :=
  canon_of_view h (by simp [dataAreas])

theorem canon_rowPart {s r reg x origin i} (h : CanonicalInv s) : CanonicalInv (rowPart s r reg x origin i).2 :=
  canon_of_view h (by simp [dataAreas])

theorem canon_lateRead {s r} (h : CanonicalInv s) : CanonicalInv (lateRead s r).1 := by
  unfold lateRead
  dsimp only
  repeat' split
  all_goals grind [canon_updCtx, canon_putPart, canon_updReq, canon_pumpRuns, canonicalInv_mk, canon_parts]

theorem canon_issueRead {s r} (h : CanonicalInv s) : CanonicalInv (issueRead s r) := by
  unfold issueRead
  grind [canon_lateRead, canonicalInv_mk, canon_parts]

theorem canon_execStationDeadline {ctx station batch s} {u} (h : CanonicalInv s)
    (e : execStationDeadline ctx station batch s = .next u) : CanonicalInv u := by
  cases e
  grind [canon_lateRead, canon_foldl, canonicalInv_mk, canon_parts, mapWf_filter]

theorem canon_pumpStore {s c k x3} (h : CanonicalInv s) : CanonicalInv (pumpStore s c k x3) := by
  induction x3 generalizing s with
  | zero => exact h
  | succ n ih =>
    unfold pumpStore
    grind [canon_freeSlots, canon_setFeed, canon_pagesWrite, canon_exitCheck]

theorem canon_ringRead {s c region off n} (h : CanonicalInv s) : CanonicalInv (ringRead s c region off n) := by
  unfold ringRead
  grind [canon_setFeed, canon_pumpStore, canon_foldl, canonicalInv_mk, canon_parts, mapWf_filter]

theorem canon_setScatter {s x} (h : CanonicalInv s) : CanonicalInv (setScatter s x) :=
  canon_of_view h (by simp [dataAreas])

theorem canon_scatterRun {s tbl c x n idx vs} (h : CanonicalInv s) :
    CanonicalInv (scatterRun s tbl c x n idx vs).2 := by
  fun_cases scatterRun s tbl c x n idx vs with
  | case1 => exact h
  | case2 _ t _ _ _ _ _ _ _ s₁ hr s₂ =>
    have h₁ : CanonicalInv s₁ := by
      have := congrArg Prod.snd hr
      subst this
      exact canon_foldl_snd h fun a sh ha => canon_exitCheck ha
    have h₂ : CanonicalInv s₂ := by grind [canon_detected]
    refine canon_foldl_snd h₂ fun a q ha => ?_
    dsimp only
    grind [canon_flushGroup, canon_usageStn]

theorem canon_pumpScatter {s c k x3} (h : CanonicalInv s) : CanonicalInv (pumpScatter s c k x3) := by
  induction x3 generalizing s with
  | zero => exact h
  | succ n ih =>
    unfold pumpScatter
    grind [canon_freeSlots, canon_setScatter, canon_scatterRun]

theorem canon_closeScatter {s c b} (h : CanonicalInv s) : CanonicalInv (closeScatter s c b) := by
  unfold closeScatter
  grind [canon_setScatter, canon_flushGroup, canon_foldl, canonicalInv_mk, canon_parts, mapWf_filter]

theorem canon_closeIdle {s} (h : CanonicalInv s) : CanonicalInv (closeIdle s) := by
  unfold closeIdle
  grind [canon_closeScatter, canon_foldl, canonicalInv_mk, canon_parts]

theorem canon_drainScatter {s} (h : CanonicalInv s) : CanonicalInv (drainScatter s) := by
  unfold drainScatter
  grind [canon_closeIdle, canon_pumpScatter, canon_foldl, canonicalInv_mk, canon_parts]

theorem canon_settleTables {s} (h : CanonicalInv s) : CanonicalInv (settleTables s) := by
  unfold settleTables
  grind [canon_drainScatter, canon_freeDrainedTable, canon_foldl]

theorem canon_readReplica {s r reg origin} (h : CanonicalInv s) : CanonicalInv (readReplica s r reg origin) :=
  canon_of_view h (by simp [dataAreas])

theorem canon_readPart {s r x2 checkFailed} (h : CanonicalInv s) : CanonicalInv (readPart s r x2 checkFailed) :=
  canon_of_view h (by simp [dataAreas])

theorem canon_execTierReadReturn {k obs s} {u} (h : CanonicalInv s) (e : execTierReadReturn k obs s = .next u) :
    CanonicalInv u := by
  cases e
  split
  · exact h
  split
  · exact h
  extract_lets s₁
  have h₁ : CanonicalInv s₁ := canon_foldl (show CanonicalInv { s with reads := _ } from h) fun _ _ => canon_lineLost
  grind [canon_lateRead, canon_settleTables, canon_updCtx, canon_pumpRuns, canon_readPart, canon_rowPart,
    canon_sweepPart, canon_readDone, canon_readReplica, canon_ringRead]

theorem canon_rowsRun {s c k n sh} (h : CanonicalInv s) : CanonicalInv (rowsRun s c k n sh) := by
  fun_cases rowsRun s c k n sh with
  | case1 => exact h
  | case2 f _ x _ _ reg _ b origin ver idx st base live s₁ run s₂ hr len stn s₃ =>
    have h₁ : CanonicalInv s₁ := canon_setFeed h
    have h₂ : CanonicalInv s₂ := by
      have := congrArg Prod.snd hr
      subst this
      exact canon_newRun h₁
    have h₃ : CanonicalInv s₃ := by
      refine canon_foldl h₂ fun t q ht => ?_
      dsimp only
      repeat' split
      all_goals grind [canon_putPart, canon_usageStn, canon_detected, canon_issueRead, canon_countRead]
    exact canon_pumpRuns h₃
  | case3 => exact h

theorem canon_blocksRun {s c k sh} (h : CanonicalInv s) : CanonicalInv (blocksRun s c k sh) := by
  unfold blocksRun
  grind [canon_formBatch, canon_newRun, canon_putPart, canon_pumpRuns, canon_foldl, canonicalInv_mk, canon_parts]

theorem canon_execHotRowCopyEnd {table version row s} {u} (h : CanonicalInv s)
    (e : execHotRowCopyEnd table version row s = .next u) :
    CanonicalInv u := by
  cases e
  split
  · exact h
  split
  · exact h
  split
  · exact h
  split
  · exact h
  extract_lets dst bad s₁ mine log s₂ s₃
  have h₂ : CanonicalInv s₂ := canon_foldl (canon_pagesWrite h) fun _ _ => canon_applyAt
  exact canon_settleTables (canon_retryPromotions (canon_retryUpdates (canon_updTable
    (show CanonicalInv { s₂ with migLog := _ } from h₂))))

theorem canon_execHotGrow {cid pages id s} {u} (h : CanonicalInv s) (e : execHotGrow cid pages id s = .next u) :
    CanonicalInv u := by
  cases e
  refine canon_adminCmd h fun t ht => ?_
  split
  next hg =>
    obtain ⟨q, -, hq⟩ := Option.bind_eq_some_iff.1 hg
    exact canon_adminDone (canon_drainScatter (canon_retryUpdates (canon_growHot ht hq)))
  · exact canon_adminRefuse ht

theorem canon_feedSheet {s n x sh} (h : CanonicalInv s) : CanonicalInv (feedSheet s n x sh) := by
  unfold feedSheet
  grind [canon_pumpScatter, canon_setScatter, canon_pumpStore, canon_setFeed, canon_sweepRun, canon_rowsRun,
    canon_blocksRun, canon_freeSlots, canon_foldl, canonicalInv_mk, canon_parts]

theorem canon_bumpTier {s c f} (h : CanonicalInv s) : CanonicalInv (bumpTier s c f) := by
  unfold bumpTier
  grind [canon_updCtx]

theorem canon_firePage {s c k x3 batch origin page prio} (h : CanonicalInv s) :
    CanonicalInv (firePage s c k x3 batch origin page prio) := by
  unfold firePage
  grind [canon_bumpTier, canonicalInv_mk, canon_parts]

theorem canon_firePrefetch {s x sh} (h : CanonicalInv s) : CanonicalInv (firePrefetch s x sh) := by
  unfold firePrefetch
  grind [canon_firePage, canon_foldl, canonicalInv_mk, canon_parts]

theorem canon_stagingPage {s c t} {a u} (h : CanonicalInv s) (e : stagingPage s c t = some (a, u)) :
    CanonicalInv u := by
  unfold stagingPage at e
  split at e
  · obtain ⟨a, ha, e⟩ := Option.bind_eq_some_iff.1 e
    obtain ⟨q, -, e⟩ := Option.map_eq_some_iff.1 e
    cases e
    exact canon_allocPages h ha
  · obtain ⟨a, ha, e⟩ := Option.map_eq_some_iff.1 e
    cases e
    exact h

theorem canon_execMoveIssue {s} {u} (h : CanonicalInv s) (e : execMoveIssue s = .next u) : CanonicalInv u := by
  cases e
  grind [canon_stagingPage, canon_bumpTier, canonicalInv_mk, canon_parts, mapWf_filter]

theorem canon_execMoveDeadline {s} {u} (h : CanonicalInv s) (e : execMoveDeadline s = .next u) : CanonicalInv u := by
  cases e
  grind [canon_bumpTier, canon_foldl, canonicalInv_mk, canon_parts, mapWf_filter]

theorem canon_execMoveComplete {k s} {u} (h : CanonicalInv s) (e : execMoveComplete k s = .next u) :
    CanonicalInv u := by
  cases e
  split
  · exact h
  split
  · exact h
  extract_lets s₁ late s₂ mine
  have h₂ : CanonicalInv s₂ := canon_bumpTier h
  split
  · extract_lets src lo dst s₃ cells marks poison
    have h₃ : CanonicalInv s₃ := canon_zeroPage h₂
    exact canon_withMemory (s := { s₃ with copies := _ }) h₃ (cellsWf_foldl _ _ _ _ (memWf h₃))
      (mapWf_foldl (poisonWf h₃) fun _ _ => mapWf_mapPut _ _)
  · exact h₂

theorem canon_unpinBatch {s c b} (h : CanonicalInv s) : CanonicalInv (unpinBatch s c b) :=
  canon_of_view h (by simp [dataAreas])

-- Front-end sequences: grammar steps, detokenisation and holdback.

theorem canon_writeStep {s v slot r src stopTok opening} (h : CanonicalInv s) :
    CanonicalInv (writeStep s v slot r src stopTok opening) := by
  unfold writeStep
  grind [canon_windowWrite, canon_updReq, canonicalInv_mk, canon_parts, mapWf_mapPut, mapWf_mapDrop]

theorem canon_frontStep {s v slot q t src} (h : CanonicalInv s) : CanonicalInv (frontStep s v slot q t src) := by
  fun_cases frontStep s v slot q t src
  all_goals exact canon_writeStep (canon_updCtx h)

theorem canon_refuseStep {s c src st} (h : CanonicalInv s) : CanonicalInv (refuseStep s c src st) := by
  unfold refuseStep
  grind [canon_vendorCpl, canon_updCtx]

theorem canon_submitStep {s src c handle t} (h : CanonicalInv s) : CanonicalInv (submitStep s src c handle t) := by
  unfold submitStep
  grind [canon_refuseStep, canon_frontStep]

theorem canon_submitClose {s src c handle} (h : CanonicalInv s) : CanonicalInv (submitClose s src c handle) := by
  unfold submitClose
  grind [canon_vendorCpl, canon_writeStep, canon_updCtx]

theorem canon_openFront {s q} (h : CanonicalInv s) : CanonicalInv (openFront s q) := by
  unfold openFront
  grind [canon_writeStep, canonicalInv_mk, canon_parts, mapWf_mapPut]

-- Requests on their way to admission, the checks of R267, R307, R412 and R414, and what ADMIT sends for each kind of
-- request.

theorem canon_sendBytes {s c l flags tag origin b} (h : CanonicalInv s) :
    CanonicalInv (sendBytes s c l flags tag origin b) := by
  unfold sendBytes
  grind [canon_emitAll]

theorem canon_offerReq {s c kind src record payload id} (h : CanonicalInv s) :
    CanonicalInv (offerReq s c kind src record payload id) := by
  unfold offerReq
  grind [canon_vendorCpl, canonicalInv_mk, canon_parts, mapWf_mapPut]

theorem canon_useVersions {s q up} (h : CanonicalInv s) : CanonicalInv (useVersions s q up) := by
  unfold useVersions
  grind [canon_freeDrainedTable, canon_updTable, canon_freeDrainedIndex, canon_updIndex, canon_foldl,
    canonicalInv_mk, canon_parts]

theorem canon_sendQuery {s q} (h : CanonicalInv s) : CanonicalInv (sendQuery s q) := by
  unfold sendQuery
  grind [canon_sendBytes]

theorem canon_startDelivery {s q} (h : CanonicalInv s) : CanonicalInv (startDelivery s q) := by
  unfold startDelivery
  grind [canon_updCtx]

theorem canon_beginReq {s q} (h : CanonicalInv s) : CanonicalInv (beginReq s q) := by
  unfold beginReq
  grind [canon_sendQuery, canon_emitAll, canon_updReq, canon_startDelivery, canon_startCommit, canon_openFront]

theorem canon_admitReq {s q} (h : CanonicalInv s) : CanonicalInv (admitReq s q) := by
  unfold admitReq
  grind [canon_formBatch, canon_updCtx, canon_beginReq, canon_useVersions, canonicalInv_mk, canon_parts, mapWf_mapPut]

theorem canon_refuseReq {s q st} (h : CanonicalInv s) : CanonicalInv (refuseReq s q st) := by
  unfold refuseReq
  grind [canon_vendorCpl, canon_dropReq]

theorem canon_countRefused {s q st} (h : CanonicalInv s) : CanonicalInv (countRefused s q st) :=
  canon_of_view h (by simp [dataAreas])

theorem canon_takeEntry {s r} (h : CanonicalInv s) : CanonicalInv (takeEntry s r) :=
  canon_of_view h (by simp [dataAreas])

theorem canon_grantReq {s q} (h : CanonicalInv s) : CanonicalInv (grantReq s q) := by
  unfold grantReq
  grind [canon_takeEntry, canon_refuseReq, canon_countRefused, canon_admitReq, canon_commitRefusal]

-- The vendor I/O commands, query rings, and the admission arbiter.

theorem canon_takeRing {s r step} (h : CanonicalInv s) : CanonicalInv (takeRing s r step) := by
  unfold takeRing
  grind [canon_vendorCpl, canon_takeEntry, canon_offerReq, canon_submitStep]

theorem canon_execQuery {src ctx record s} {u} (h : CanonicalInv s) (e : execQuery src ctx record s = .next u) :
    CanonicalInv u := by
  obtain ⟨-, rfl⟩ := onUnit_cases e
  grind [canon_ioCmd, canon_offerReq, canon_takeRing]

theorem canon_execFrontOpen {sq cid ctx record s} {u} (h : CanonicalInv s)
    (e : execFrontOpen sq cid ctx record s = .next u) : CanonicalInv u := by
  obtain ⟨-, rfl⟩ := onUnit_cases e
  grind [canon_ioCmd, canon_offerReq]

theorem canon_execFrontStep {src ctx handle token s} {u} (h : CanonicalInv s)
    (e : execFrontStep src ctx handle token s = .next u) : CanonicalInv u := by
  obtain ⟨-, rfl⟩ := onUnit_cases e
  grind [canon_ioCmd, canon_submitStep, canon_vendorCpl, canon_takeRing]

theorem canon_execFrontClose {sq cid ctx handle s} {u} (h : CanonicalInv s)
    (e : execFrontClose sq cid ctx handle s = .next u) : CanonicalInv u := by
  obtain ⟨-, rfl⟩ := onUnit_cases e
  grind [canon_ioCmd, canon_submitClose, canon_vendorCpl]

theorem canon_execDeliveryJob {sq cid ctx record s} {u} (h : CanonicalInv s)
    (e : execDeliveryJob sq cid ctx record s = .next u) : CanonicalInv u := by
  obtain ⟨-, rfl⟩ := onUnit_cases e
  grind [canon_ioCmd, canon_offerReq]

theorem canon_execBatchJob {sq cid ctx record s} {u} (h : CanonicalInv s)
    (e : execBatchJob sq cid ctx record s = .next u) : CanonicalInv u := by
  obtain ⟨-, rfl⟩ := onUnit_cases e
  grind [canon_ioCmd, canon_offerReq]

theorem canon_execIndexCommit {sq cid ctx ops id data s} {u} (h : CanonicalInv s)
    (e : execIndexCommit sq cid ctx ops id data s = .next u) : CanonicalInv u := by
  obtain ⟨-, rfl⟩ := onUnit_cases e
  grind [canon_ioCmd, canon_offerReq]

theorem canon_execAdmissionGrant {s} {u} (h : CanonicalInv s) (e : execAdmissionGrant s = .next u) :
    CanonicalInv u := by
  unfold execAdmissionGrant at e
  grind [canon_grantReq, canonicalInv_mk, canon_parts]

theorem canon_execRingDelete {cid ring s} {u} (h : CanonicalInv s) (e : execRingDelete cid ring s = .next u) :
    CanonicalInv u := by
  cases e
  grind [canon_adminCmd, canon_adminRefuse, canonicalInv_mk, canon_parts, mapWf_mapPut, mapWf_filter]

-- Hatch ports and routes.

theorem canon_updPort {s x1 f} (h : CanonicalInv s) : CanonicalInv (updPort s x1 f) :=
  canon_of_view h (by simp [dataAreas])

theorem canon_sendPort {s x1 n sh} (h : CanonicalInv s) : CanonicalInv (sendPort s x1 n sh) :=
  canon_of_view h (by simp [dataAreas])

theorem canon_sendHatch {s n} (h : CanonicalInv s) : CanonicalInv (sendHatch s n) := by
  unfold sendHatch
  grind [canon_exitCheck, canon_sendPort, canon_setStream]

theorem canon_ackHatch {s n} (h : CanonicalInv s) : CanonicalInv (ackHatch s n) := by
  unfold ackHatch
  grind [canon_updStream, canon_updPort]

-- Power: the hold-up bank, the commit sequence, power-up, throttling and thermal stops.

theorem canon_eventRec {s unit} (h : CanonicalInv s) : CanonicalInv (eventRec s unit) :=
  canon_of_view h (by simp [dataAreas])

theorem canon_sendMembership {s faulted} (h : CanonicalInv s) : CanonicalInv (sendMembership s faulted) :=
  canon_of_view h (by simp [dataAreas])

theorem canon_onlyDomains {s ds} (h : CanonicalInv s) : CanonicalInv (onlyDomains s ds) := by
  unfold onlyDomains
  grind [canon_dropDomain, canon_foldl, canonicalInv_mk, canon_parts, mapWf_filter]

theorem canon_holdThermal {s} (h : CanonicalInv s) : CanonicalInv (holdThermal s) := by
  unfold holdThermal
  grind [canon_eventRec, canon_onlyDomains, canonicalInv_mk, canon_parts]

theorem canon_shed {s} (h : CanonicalInv s) : CanonicalInv (shed s) := by
  unfold shed
  grind [canon_sendMembership, canon_dropDomain, canon_foldl, canonicalInv_mk, canon_parts, mapWf_mapAll, mapWf_filter]

theorem canon_beginCommit {s} (h : CanonicalInv s) : CanonicalInv (beginCommit s) := by
  unfold beginCommit
  grind [canon_commitBegin, canon_shed, canonicalInv_mk, canon_parts]

theorem canon_execInputFailure {cause s} {u} (h : CanonicalInv s) (e : execInputFailure cause s = .next u) :
    CanonicalInv u := by
  unfold execInputFailure at e
  grind [canon_beginCommit, canon_onlyDomains, canonicalInv_mk, canon_parts]

theorem canon_execBankExhausted {s} {u} (h : CanonicalInv s) (e : execBankExhausted s = .next u) : CanonicalInv u := by
  cases e
  grind [canon_onlyDomains, canonicalInv_mk, canon_parts]

theorem canon_thermalStop {s} (h : CanonicalInv s) : CanonicalInv (thermalStop s) := by
  unfold thermalStop
  grind [canon_beginCommit, canon_holdThermal, canonicalInv_mk, canon_parts]

theorem canon_readSensor {s n reading} (h : CanonicalInv s) : CanonicalInv (readSensor s n reading) :=
  canon_of_view h (by simp [dataAreas])

theorem canon_execThermalStop {sensor reading s} {u} (h : CanonicalInv s)
    (e : execThermalStop sensor reading s = .next u) : CanonicalInv u := by
  obtain ⟨-, rfl⟩ := onUnit_cases e
  grind [canon_readSensor, canon_thermalStop]

theorem canon_execPowerUpStep {flow s} {u} (h : CanonicalInv s) (e : execPowerUpStep flow s = .next u) :
    CanonicalInv u := by
  cases e
  grind [canon_thermalStop, canon_wakeDomain, canon_foldl, canonicalInv_mk, canon_parts]

theorem canon_execDomainGoodTimeout {domain s} {u} (h : CanonicalInv s)
    (e : execDomainGoodTimeout domain s = .next u) : CanonicalInv u := by
  obtain ⟨-, rfl⟩ := onUnit_cases e
  grind [canon_eventRec, canon_onlyDomains, canonicalInv_mk, canon_parts]

theorem canon_startMeasurement {s} (h : CanonicalInv s) : CanonicalInv (startMeasurement s) :=
  canon_of_view h (by simp [dataAreas])

-- Easel: dispatch, overload, telemetry, the watchdog and the health snapshot.

theorem canon_countNs {s} (h : CanonicalInv s) : CanonicalInv (countNs s) :=
  canon_of_view h (by simp [dataAreas])

theorem canon_execWatchdogExpiry {s} {u} (h : CanonicalInv s) (e : execWatchdogExpiry s = .next u) :
    CanonicalInv u := by
  cases e
  grind [canon_persist, canon_noteOverload, canon_beginCommit, canonicalInv_mk, canon_parts, mapWf_filter]

-- PROBE's passes, the merge of a query's records, and PACK.

theorem canon_addCond {s rid m} (h : CanonicalInv s) : CanonicalInv (addCond s rid m) := by
  unfold addCond
  grind [canon_updReq]

theorem canon_joinQuery {s rid} (h : CanonicalInv s) : CanonicalInv (joinQuery s rid) := by
  unfold joinQuery
  grind [canon_updCtx]

theorem canon_probeSheet {s n x sh} (h : CanonicalInv s) : CanonicalInv (probeSheet s n x sh) := by
  unfold probeSheet
  grind [canon_freeSlots, canon_addCond, canon_joinQuery, canon_updReq]

theorem canon_searchQuery {s rid} (h : CanonicalInv s) : CanonicalInv (searchQuery s rid) := by
  unfold searchQuery
  grind [canon_updReq]

theorem canon_spoilFound {s rid} (h : CanonicalInv s) : CanonicalInv (spoilFound s rid) := by
  unfold spoilFound
  grind [canon_updReq]

theorem canon_execProbePass {on s} {u} (h : CanonicalInv s) (e : execProbePass on s = .next u) : CanonicalInv u := by
  obtain ⟨-, rfl⟩ := onUnit_cases e
  grind [canon_searchQuery, canon_detected, canon_spoilFound, canon_updIndex, canon_updCtx, canon_freeSlots,
    canon_foldl, canonicalInv_mk, canon_parts, mapWf_filter]

theorem canon_emitMerged {s q rs} (h : CanonicalInv s) : CanonicalInv (emitMerged s q rs) := by
  unfold emitMerged
  grind [canon_sendBytes, canon_emitAll, canon_foldl, canonicalInv_mk, canon_parts, mapWf_filter]

theorem canon_writeResult {s q header body bad} (h : CanonicalInv s) : CanonicalInv (writeResult s q header body bad) :=
  canon_of_view h (by simp [dataAreas])

theorem canon_resultMarks {s c b} (h : CanonicalInv s) : CanonicalInv (resultMarks s c b).2 :=
  canon_of_view h (by simp [dataAreas])

theorem canon_packResult {s q x2 k v rs} (h : CanonicalInv s) : CanonicalInv (packResult s q x2 k v rs) := by
  unfold packResult
  grind [canon_resultMarks, canon_writeResult, canon_updIndex, canon_updReq]

theorem canon_tryPack {s rid} (h : CanonicalInv s) : CanonicalInv (tryPack s rid) := by
  unfold tryPack
  grind [canon_packResult]

theorem canon_packSheet {s n x sh} (h : CanonicalInv s) : CanonicalInv (packSheet s n x sh) := by
  unfold packSheet
  grind [canon_tryPack, canon_updReq, canon_addCond, canon_freeSlots]

theorem canon_execFolioMerge {rid remote s} {u} (h : CanonicalInv s) (e : execFolioMerge rid remote s = .next u) :
    CanonicalInv u := by
  cases e
  grind [canon_updReq, canon_tryPack, canon_emitMerged]

-- The training path: the shuffled order.

theorem canon_bumpDec {s c f} (h : CanonicalInv s) : CanonicalInv (bumpDec s c f) := by
  unfold bumpDec
  grind [canon_updCtx]

-- SHUFFLE, DECODE, deduplication and DELIVER.

theorem canon_setEnd {s c x2} (h : CanonicalInv s) : CanonicalInv (setEnd s c x2) := by
  unfold setEnd
  grind [canon_updCtx]

theorem canon_emptyPosition {s c d flags x4 r} (h : CanonicalInv s) :
    CanonicalInv (emptyPosition s c d flags x4 r) := by
  unfold emptyPosition
  grind [canon_setEnd]

theorem canon_execShuffleIssue {on s} {u} (h : CanonicalInv s) (e : execShuffleIssue on s = .next u) :
    CanonicalInv u := by
  obtain ⟨-, rfl⟩ := onUnit_cases e
  grind [canon_anyRow, canon_setCtx, canon_bumpDec, canon_emptyPosition, canon_draw, canon_detected, canon_sendBytes]

theorem canon_takeUnit {s n k x3} (h : CanonicalInv s) : CanonicalInv (takeUnit s n k x3) := by
  induction x3 generalizing s with
  | zero => exact h
  | succ n ih =>
    unfold takeUnit
    split
    · split
      · exact h
      · exact ih (canon_freeSlots (canon_updStream (show CanonicalInv { s with engines := _ } from h)))
    · exact h

theorem canon_pumpUnit {s n} (h : CanonicalInv s) : CanonicalInv (pumpUnit s n) := by
  unfold pumpUnit
  grind [canon_takeUnit]

theorem canon_decodeSheet {s n sh} (h : CanonicalInv s) : CanonicalInv (decodeSheet s n sh) := by
  unfold decodeSheet
  grind [canon_pumpUnit, canon_updStream]

theorem canon_execDecodeEngineGrant {engine s} {u} (h : CanonicalInv s)
    (e : execDecodeEngineGrant engine s = .next u) : CanonicalInv u := by
  obtain ⟨-, rfl⟩ := onUnit_cases e
  grind [canon_pumpUnit, canon_countEscalation, canon_foldl, canonicalInv_mk, canon_parts, mapWf_mapPut,
    mapWf_mapAll, mapWf_mapDrop, mapWf_mapFilter]

theorem canon_emitSample {s c d hdr f poison n time} (h : CanonicalInv s) :
    CanonicalInv (emitSample s c d hdr f poison n time) := by
  unfold emitSample
  grind [canon_formBatch, canon_emitAll, canon_emitLocal]

theorem canon_execDecodeUnitEnd {engine obs s} {u} (h : CanonicalInv s)
    (e : execDecodeUnitEnd engine obs s = .next u) : CanonicalInv u := by
  obtain ⟨-, rfl⟩ := onUnit_cases e
  grind [canon_bumpDec, canon_emitSample, canon_formBatch, canon_detected, canon_sendBytes, canon_emitLocal,
    canon_foldl, canonicalInv_mk, canon_parts, mapWf_mapDrop, mapWf_filter]

theorem canon_dedupSheet {s n x sh} (h : CanonicalInv s) : CanonicalInv (dedupSheet s n x sh) := by
  unfold dedupSheet
  grind [canon_freeSlots, canon_setCtx, canon_emitLocal]

theorem canon_releaseSample {s c d y} (h : CanonicalInv s) : CanonicalInv (releaseSample s c d y) := by
  unfold releaseSample
  grind [canon_freeSlots, canon_updCtx]

theorem canon_discardDropped {s c b} (h : CanonicalInv s) : CanonicalInv (discardDropped s c b) := by
  unfold discardDropped
  grind [canon_setEnd, canon_releaseSample, canon_bumpDec]

theorem canon_deliverSheet {s n x sh} (h : CanonicalInv s) : CanonicalInv (deliverSheet s n x sh) := by
  unfold deliverSheet
  grind [canon_freeSlots, canon_setEnd, canon_discardDropped, canon_setCtx]

theorem canon_ringLines {s pages off parts} (h : CanonicalInv s) : CanonicalInv (ringLines s pages off parts) :=
  canon_of_view h (by simp [dataAreas])

theorem canon_writeSlot {s c port x3 pages k parts} (h : CanonicalInv s) :
    CanonicalInv (writeSlot s c port x3 pages k parts) := by
  unfold writeSlot
  grind [canon_updCtx, canon_sendReply, canon_ringLines, canonicalInv_mk, canon_parts, mapWf_mapPut]

theorem canon_biteRecord {s c stn} (h : CanonicalInv s) : CanonicalInv (biteRecord s c stn) :=
  canon_of_view h (by simp [dataAreas])

theorem canon_putSample {s c port x3 pages k d y} (h : CanonicalInv s) :
    CanonicalInv (putSample s c port x3 pages k d y) := by
  unfold putSample
  extract_lets rep n
  have hs : CanonicalInv (y.sheets.foldl (fun (a : List (Sheet × Bool) × State) sh =>
      let (bad, s) := exitCheck a.2 stnDeliver c n sh
      (a.1 ++ [(sh, bad)], s)) ([], s)).2 := canon_foldl_snd h fun _ _ => canon_exitCheck
  split
  next hc =>
    rw [hc] at hs
    refine canon_writeSlot (canon_updCtx (canon_setEnd (canon_releaseSample ?_)))
    split
    · exact canon_biteRecord hs
    · exact hs

theorem canon_putEnd {s c port x3 pages k x6 tokens} (h : CanonicalInv s) :
    CanonicalInv (putEnd s c port x3 pages k x6 tokens) := by
  unfold putEnd
  grind [canon_biteRecord, canon_updCtx, canon_writeSlot]

theorem canon_execDeliverWrite {ctx port s} {u} (h : CanonicalInv s) (e : execDeliverWrite ctx port s = .next u) :
    CanonicalInv u := by
  obtain ⟨-, rfl⟩ := onUnit_cases e
  grind [canon_usageStn, canon_putSample, canon_putEnd]

-- The standard admin commands.

theorem canon_adminStd {s cid sct sc dw0 data} (h : CanonicalInv s) : CanonicalInv (adminStd s cid sct sc dw0 data) :=
  canon_of_view h (by simp [dataAreas])

theorem canon_execDeleteIoSubmissionQueue {cid qid s} {u} (h : CanonicalInv s)
    (e : execDeleteIoSubmissionQueue cid qid s = .next u) : CanonicalInv u := by
  cases e
  grind [canon_adminCmdAlways, canon_adminStd, canon_stdCpl, canon_dropReq, canon_foldl, canonicalInv_mk,
    canon_parts, mapWf_mapDrop, mapWf_filter]

theorem canon_execAbortCommand {cid sq target s} {u} (h : CanonicalInv s)
    (e : execAbortCommand cid sq target s = .next u) : CanonicalInv u := by
  cases e
  grind [canon_adminCmdAlways, canon_adminStd, canon_stdCpl, canon_dropReq]

theorem canon_execShutdownNotification {s} {u} (h : CanonicalInv s) (e : execShutdownNotification s = .next u) :
    CanonicalInv u := by
  cases e
  grind [canon_mediaCommit, canonicalInv_mk, canon_parts]

-- What the code store holds for the boot: firmware images and configuration records.

theorem canon_countBoot {s kind slot b} (h : CanonicalInv s) : CanonicalInv (countBoot s kind slot b) :=
  canon_of_view h (by simp [dataAreas])

-- Writes of BAR2 registers.

theorem canon_selTier {s v} (h : CanonicalInv s) : CanonicalInv (selTier s v) :=
  canon_of_view h (by simp [dataAreas])

theorem canon_selTbl {s v} (h : CanonicalInv s) : CanonicalInv (selTbl s v) :=
  canon_of_view h (by simp [dataAreas])

theorem canon_selIdx {s v} (h : CanonicalInv s) : CanonicalInv (selIdx s v) :=
  canon_of_view h (by simp [dataAreas])

theorem canon_selVoc {s v} (h : CanonicalInv s) : CanonicalInv (selVoc s v) :=
  canon_of_view h (by simp [dataAreas])

theorem canon_selLtr {s v} (h : CanonicalInv s) : CanonicalInv (selLtr s v) :=
  canon_of_view h (by simp [dataAreas])

theorem canon_selDec {s v} (h : CanonicalInv s) : CanonicalInv (selDec s v) :=
  canon_of_view h (by simp [dataAreas])

theorem canon_selHlk {s v} (h : CanonicalInv s) : CanonicalInv (selHlk s v) :=
  canon_of_view h (by simp [dataAreas])

theorem canon_scrubLost {s q} (h : CanonicalInv s) : CanonicalInv (scrubLost s q) :=
  canon_recordErr (canon_withMemory h (memWf h) (mapWf_foldl_mapPut _ _ _ (poisonWf h)))

theorem canon_execScrubPassEnd {codewords s} {u} (h : CanonicalInv s) (e : execScrubPassEnd codewords s = .next u) :
    CanonicalInv u := by
  cases e
  grind [canon_scrubLost, canon_foldl, canonicalInv_mk, canon_parts, mapWf_filter]

theorem canon_writeRwb {s w off f} (h : CanonicalInv s) (hf : ∀ t, CanonicalInv t → CanonicalInv (f t)) :
    CanonicalInv (writeRwb s w off f) := by
  unfold writeRwb
  grind [canon_protReg]

theorem canon_writeLock {s w v} (h : CanonicalInv s) : CanonicalInv (writeLock s w v) := by
  unfold writeLock
  grind [canon_writeRwb, canonicalInv_mk, canon_parts]

theorem canon_execLock {w s} {u} (h : CanonicalInv s) (e : execLock w s = .next u) : CanonicalInv u := by
  cases e
  grind [canon_writeLock]

theorem canon_writeRegion {s w v} (h : CanonicalInv s) : CanonicalInv (writeRegion s w v) := by
  unfold writeRegion
  grind [canon_protReg, canon_writeRwb, canonicalInv_mk, canon_parts, mapWf_mapPut]

theorem canon_execCsRegionWrite {w v s} {u} (h : CanonicalInv s) (e : execCsRegionWrite w v s = .next u) :
    CanonicalInv u := by
  cases e
  grind [canon_writeRegion]

theorem canon_mailboxGo {s w} (h : CanonicalInv s) : CanonicalInv (mailboxGo s w) := by
  unfold mailboxGo
  cases w with
  | host => exact canon_protReg h
  | bootCode => exact canon_offerDesc h fun _ => canon_submitRaw h
  | easel => exact canon_offerDesc h fun _ => canon_submitRaw h

theorem canon_execMailboxGo {w s} {u} (h : CanonicalInv s) (e : execMailboxGo w s = .next u) : CanonicalInv u := by
  cases e
  grind [canon_mailboxGo]

theorem canon_writeWp {s w v} (h : CanonicalInv s) : CanonicalInv (writeWp s w v) := by
  unfold writeWp
  grind [canon_writeRwb, canonicalInv_mk, canon_parts, mapWf_mapPut, mapWf_mapDrop]

theorem canon_usageIf {s bad off} (h : CanonicalInv s) : CanonicalInv (usageIf s bad off) :=
  canon_of_view h (by simp [dataAreas])

theorem canon_writeEw {s v} (h : CanonicalInv s) : CanonicalInv (writeEw s v) := by
  unfold writeEw
  grind [canon_usageIf, canonicalInv_mk, canon_parts]

theorem canon_writeGlb {s off v} (h : CanonicalInv s) : CanonicalInv (writeGlb s off v) :=
  canon_of_view h (by simp [dataAreas])

theorem canon_writePrt {s w off v} (h : CanonicalInv s) : CanonicalInv (writePrt s w off v) := by
  unfold writePrt
  grind [canon_writeLock, canon_writeEw, canon_writeWp, canon_writeRegion, canon_protReg, canon_mailboxGo,
    canonicalInv_mk, canon_parts, mapWf_mapPut]

theorem canon_writeInt {s off v} (h : CanonicalInv s) : CanonicalInv (writeInt s off v) :=
  canon_of_view h (by simp [dataAreas])

theorem canon_writeCal {s off v} (h : CanonicalInv s) : CanonicalInv (writeCal s off v) :=
  canon_of_view h (by simp [dataAreas])

theorem canon_writePwr {s off v} (h : CanonicalInv s) : CanonicalInv (writePwr s off v) :=
  canon_of_view h (by simp [dataAreas])

theorem canon_writeWindow {s x1 off v} (h : CanonicalInv s) : CanonicalInv (writeWindow s x1 off v) := by
  unfold writeWindow
  grind [canon_clearCounts, canon_writeTest, canon_updTile]

theorem canon_writeReg {s w off v} (h : CanonicalInv s) : CanonicalInv (writeReg s w off v) := by
  unfold writeReg
  grind [canon_writeWindow, canon_writeGlb, canon_writePrt, canon_writeInt, canon_selTier, canon_selTbl,
    canon_selIdx, canon_selVoc, canon_selLtr, canon_selDec, canon_selHlk, canon_writeCal, canon_writePwr]

theorem canon_execRegisterWrite {w offset size v s} {u} (h : CanonicalInv s)
    (e : execRegisterWrite w offset size v s = .next u) : CanonicalInv u := by
  cases e
  grind [canon_writeReg]

-- Boot: the boot ROM, stage 1, the start of Easel firmware, restore, and firmware updates.

theorem canon_bootStop {s} (h : CanonicalInv s) : CanonicalInv (bootStop s) :=
  canon_of_view h (by simp [dataAreas])

theorem canon_romIdentity {s} (h : CanonicalInv s) : CanonicalInv (romIdentity s) := by
  unfold romIdentity
  simp only [canonicalInv_mk]
  exact canon_parts h

theorem canon_execBootRom {s} {u} (h : CanonicalInv s) (e : execBootRom s = .next u) : CanonicalInv u := by
  unfold execBootRom at e
  grind [canon_romIdentity, canon_bootStop, canonicalInv_mk, canon_parts]

theorem canon_resumeTime {s} (h : CanonicalInv s) : CanonicalInv (resumeTime s) :=
  canon_of_view h (by simp [dataAreas])

theorem canon_applyLayout {s body} {u} (h : CanonicalInv s) (e : applyLayout s body = some u) : CanonicalInv u := by
  unfold applyLayout at e
  refine canon_foldl_bind (π := id) e h fun r a b eb ha => ?_
  cases (Option.ite_none_left_eq_some.1 eb).2
  exact canon_withCs ha (csWf ha)

theorem canon_protectRun {s first count} (h : CanonicalInv s) : CanonicalInv (protectRun s first count) := by
  unfold protectRun
  grind [canon_foldl, canonicalInv_mk, canon_parts, mapWf_mapPut]

theorem canon_raiseFloors {s} (h : CanonicalInv s) : CanonicalInv (raiseFloors s) := by
  unfold raiseFloors
  grind [canon_setCounter, canon_foldl, canonicalInv_mk, canon_parts]

theorem canon_applyRoles {s} (h : CanonicalInv s) : CanonicalInv (applyRoles s) := by
  unfold applyRoles
  grind [canon_setCounter, canonicalInv_mk, canon_parts, mapWf_mapAll]

theorem canon_applyFolio {s b} (h : CanonicalInv s) : CanonicalInv (applyFolio s b) :=
  canon_of_view h (by simp [dataAreas])

theorem canon_applyRecords {s rs} (h : CanonicalInv s) : CanonicalInv (applyRecords s rs) := by
  unfold applyRecords
  extract_lets own ownRecs s₁ s₂ _ s₃
  have h₂ : CanonicalInv s₂ := canon_raiseFloors (canon_foldl h fun _ _ => canon_protectRun)
  refine (canon_applyFolio (canon_applyRoles ?_) :)
  simp only [s₃]
  clear_value own
  split
  · split
    · exact canon_setCounter h₂
    · exact h₂
  · exact h₂

theorem canon_startFirmware {s slot img} (h : CanonicalInv s) : CanonicalInv (startFirmware s slot img) := by
  unfold startFirmware
  grind [canon_countBoot, canonicalInv_mk, canon_parts]

theorem canon_execStage1 {s} {u} (h : CanonicalInv s) (e : execStage1 s = .next u) : CanonicalInv u := by
  cases e
  grind [canon_resumeTime, canon_applyLayout, canon_bootStop, canon_applyRecords, canon_startFirmware]

theorem canon_promote {s x1} (h : CanonicalInv s) : CanonicalInv (promote s x1) := by
  unfold promote
  grind [canon_writeRoles, canon_updTile]

theorem canon_testAll {s failed} (h : CanonicalInv s) : CanonicalInv (testAll s failed) := by
  unfold testAll
  grind [canon_wakeDomain, canon_endTest, canon_updTile, canon_promote, canon_dropIdleDomains, canon_writeRoles,
    canon_foldl, canonicalInv_mk, canon_parts, mapWf_filter]

theorem canon_recoverCommit {s} (h : CanonicalInv s) : CanonicalInv (recoverCommit s) :=
  canon_of_view h (by simp [dataAreas])

theorem canon_probeCut {s} (h : CanonicalInv s) : CanonicalInv (probeCut s) := by
  unfold probeCut
  grind [canon_submitDesc, canon_foldl, canonicalInv_mk, canon_parts, mapWf_filter]

theorem canon_trainPorts {s} (h : CanonicalInv s) : CanonicalInv (trainPorts s) := by
  unfold trainPorts
  grind [canon_wakeDomain, canon_updPort, canon_foldl, canonicalInv_mk, canon_parts]

theorem canon_execEaselFirmwareStart {failed s} {u} (h : CanonicalInv s)
    (e : execEaselFirmwareStart failed s = .next u) : CanonicalInv u := by
  cases e
  grind [canon_probeCut, canon_recoverCommit, canon_testAll, canon_trainPorts, canon_enterPhase, canonicalInv_mk,
    canon_parts]

theorem canon_restoreObject {s r} (h : CanonicalInv s) : CanonicalInv (restoreObject s r) := by
  unfold restoreObject
  grind [canon_loadTable, canon_loadIndex, canon_storeImage, canon_loadLexical]

theorem canon_restoreContext {s r id} (h : CanonicalInv s) : CanonicalInv (restoreContext s r id) := by
  unfold restoreContext
  grind [canon_configureCtx, canon_submitLoad, canon_draw, canon_writeReport]

theorem canon_execRestore {s} {u} (h : CanonicalInv s) (e : execRestore s = .next u) : CanonicalInv u := by
  cases e
  grind [canon_restoreContext, canon_restoreObject, canon_foldl, canonicalInv_mk, canon_parts]

theorem canon_writeFirmware {s kind slot b} (h : CanonicalInv s) : CanonicalInv (writeFirmware s kind slot b) :=
  canon_withCs (s := { s with boot.tries := _, host.download := [], host.downloadLen := 0 }) h
    (cellsWf_cellsWrite _ _ (cellsWf_filter _ (csWf h)))

theorem canon_execFirmwareCommit {cid slot action s} {u} (h : CanonicalInv s)
    (e : execFirmwareCommit cid slot action s = .next u) : CanonicalInv u := by
  cases e
  grind [canon_adminCmd, canon_stdCpl, canon_writeFirmware, canonicalInv_mk, canon_parts]

-- Calibration on live traffic.

theorem canon_calLog {s kind unit cause oldA newA oldB newB} (h : CanonicalInv s) :
    CanonicalInv (calLog s kind unit cause oldA newA oldB newB) :=
  canon_of_view h (by simp [dataAreas])

theorem canon_countHeld {s} (h : CanonicalInv s) : CanonicalInv (countHeld s) :=
  canon_of_view h (by simp [dataAreas])

theorem canon_askPoint {s x1 f v} (h : CanonicalInv s) : CanonicalInv (askPoint s x1 f v) := by
  unfold askPoint
  grind [canon_updTile]

theorem canon_stepUp {s x1 cause} (h : CanonicalInv s) : CanonicalInv (stepUp s x1 cause) := by
  unfold stepUp
  grind [canon_updTile, canon_calLog, canon_askPoint]

theorem canon_stepDown {s x1} (h : CanonicalInv s) : CanonicalInv (stepDown s x1) := by
  unfold stepDown
  grind [canon_updTile, canon_calLog, canon_askPoint]

theorem canon_execTileCalInterval {x0 s} {u} (h : CanonicalInv s) (e : execTileCalInterval x0 s = .next u) :
    CanonicalInv u := by
  obtain ⟨-, rfl⟩ := onUnit_cases e
  grind [canon_setTile, canon_countHeld, canon_updTile, canon_stepUp, canon_stepDown]

theorem canon_setDieCal {s k x} (h : CanonicalInv s) : CanonicalInv (setDieCal s k x) :=
  canon_of_view h (by simp [dataAreas])

theorem canon_execLevelSweep {unit slc s} {u} (h : CanonicalInv s) (e : execLevelSweep unit slc s = .next u) :
    CanonicalInv u := by
  obtain ⟨-, rfl⟩ := onUnit_cases e
  grind [canon_countHeld, canon_setDieCal, canon_submitDesc, canon_foldl, canonicalInv_mk, canon_parts]

-- Ingress.

theorem canon_tileSheet {s x x2 sh} (h : CanonicalInv s) : CanonicalInv (tileSheet s x x2 sh) := by
  unfold tileSheet
  grind [canon_updTile]

theorem canon_countAccepted {s x sh} (h : CanonicalInv s) : CanonicalInv (countAccepted s x sh) := by
  unfold countAccepted
  grind [canon_updReq]

theorem canon_releaseResults {s c b} (h : CanonicalInv s) : CanonicalInv (releaseResults s c b) := by
  unfold releaseResults
  grind [canon_freeSlots, canon_updStream, canon_foldl, canonicalInv_mk, canon_parts, mapWf_filter]

theorem canon_resultSheet {s x sh} (h : CanonicalInv s) : CanonicalInv (resultSheet s x sh) := by
  unfold resultSheet
  grind [canon_addCond, canon_releaseResults]

theorem canon_consume {s n x sh} (h : CanonicalInv s) : CanonicalInv (consume s n x sh) := by
  unfold consume
  grind [canon_freeSlots, canon_letterSheet, canon_dedupSheet, canon_probeSheet, canon_packSheet, canon_feedSheet,
    canon_deliverSheet]

theorem canon_placeSheet {s n x sh} (h : CanonicalInv s) : CanonicalInv (placeSheet s n x sh) := by
  unfold placeSheet
  grind [canon_tileSheet, canon_storeQueued, canon_decodeSheet, canon_updStream, canon_resultSheet]

theorem canon_releaseHold {s x1} (h : CanonicalInv s) : CanonicalInv (releaseHold s x1) := by
  unfold releaseHold
  grind [canon_releaseSlot]

theorem canon_acceptSheet {s n x sh sub} (h : CanonicalInv s) : CanonicalInv (acceptSheet s n x sh sub) := by
  unfold acceptSheet
  grind [canon_pumpStream, canon_setStream, canon_releaseHold, canon_firePrefetch, canon_countAccepted,
    canon_placeSheet, canon_releaseOwed]

theorem canon_ingressRec {s n x a made} (h : CanonicalInv s) : CanonicalInv (ingressRec s n x a made) :=
  canon_of_view h (by simp [dataAreas])

theorem canon_ingress {s n x a checkFailed} (h : CanonicalInv s) : CanonicalInv (ingress s n x a checkFailed) := by
  unfold ingress
  grind [canon_ingressRec, canon_setStream, canon_acceptSheet, canon_detected]

theorem canon_farArrival {s n x port a checkFailed} (h : CanonicalInv s) :
    CanonicalInv (farArrival s n x port a checkFailed) := by
  unfold farArrival
  grind [canon_updPort, canon_ingress]

theorem canon_execSheetIngress {n err checkFailed far s} {u} (h : CanonicalInv s)
    (e : execSheetIngress n err checkFailed far s = .next u) : CanonicalInv u := by
  cases e
  grind [canon_farArrival, canon_ingress]

theorem canon_execCreditReturn {n s} {u} (h : CanonicalInv s) (e : execCreditReturn n s = .next u) :
    CanonicalInv u := by
  unfold execCreditReturn at e
  grind [canon_ackHatch, canon_pumpStream, canon_setStream, canon_releaseOwed]

-- Completions of admitted requests.

theorem canon_endDelivery {s q} (h : CanonicalInv s) : CanonicalInv (endDelivery s q) := by
  unfold endDelivery
  grind [canon_updReq]

theorem canon_endReq {s q} (h : CanonicalInv s) : CanonicalInv (endReq s q) := by
  unfold endReq
  grind [canon_unpinBatch, canon_useVersions, canon_updCtx, canon_afterReq, canon_dropReq]

theorem canon_postOne {s q x2} (h : CanonicalInv s) : CanonicalInv (postOne s q x2) := by
  unfold postOne
  grind [canon_releaseResults, canon_biteRecord, canon_vendorCpl, canon_endReq, canon_updReq]

theorem canon_execCompletionPost {rid s} {u} (h : CanonicalInv s) (e : execCompletionPost rid s = .next u) :
    CanonicalInv u := by
  cases e
  grind [canon_endDelivery, canon_postOne, canon_closeScatter, canon_endUnloads, canon_settleTables]

-- Grants of the arbiters and what they decide.

theorem canon_takeArrived {s n} (h : CanonicalInv s) : CanonicalInv (takeArrived s n) := by
  unfold takeArrived
  grind [canon_consume, canon_updStream]

theorem canon_granted {s resource n} (h : CanonicalInv s) : CanonicalInv (granted s resource n) := by
  unfold granted
  grind [canon_takeArrived, canon_sendHatch]

theorem canon_execArbiterGrant {resource ports reqs s} {u} (h : CanonicalInv s)
    (e : execArbiterGrant resource ports reqs s = .next u) : CanonicalInv u := by
  unfold execArbiterGrant at e
  grind [canon_granted, canon_countEscalation, canon_updTile, canonicalInv_mk, canon_parts, mapWf_mapPut,
    mapWf_mapAll, mapWf_mapDrop, mapWf_filter]

-- The CXL.mem window: mapping, host accesses, back-invalidate snoops.

theorem canon_unmapPage {s c w} (h : CanonicalInv s) : CanonicalInv (unmapPage s c w) := by
  unfold unmapPage
  grind [canon_freePages, canon_setWindow, canonicalInv_mk, canon_parts, mapWf_mapDrop, mapWf_filter]

theorem canon_mapEntry {cid s x2} {u} (h : CanonicalInv s) (e : mapEntry cid s x2 = some u) : CanonicalInv u := by
  unfold mapEntry at e
  extract_lets ws at e
  replace e := (Option.ite_none_left_eq_some.1 e).2
  split at e
  · obtain ⟨a, ha, e⟩ := Option.map_eq_some_iff.1 (Option.ite_none_left_eq_some.1 e).2
    cases e
    exact canon_setWindow (canon_foldl (canon_allocPages h ha) fun _ _ => canon_zeroPage)
  · replace e := (Option.ite_none_left_eq_some.1 e).2
    split at e <;> cases e
    · exact canon_foldl h fun _ _ => canon_unmapPage
    · exact h

theorem canon_windowEntries {cid x1 s} {u} (h : CanonicalInv s) (e : windowEntries cid x1 s = some u) :
    CanonicalInv u := by
  induction x1 generalizing s with
  | nil => cases e; exact h
  | cons w ws ih =>
    unfold windowEntries at e
    split at e
    · obtain ⟨t, ht, e⟩ := Option.bind_eq_some_iff.1 e
      exact ih (canon_mapEntry h ht) e
    · cases e

theorem canon_windowCommand {s cid data} (h : CanonicalInv s) : CanonicalInv (windowCommand s cid data) := by
  unfold windowCommand
  grind [canon_adminCmd, canon_adminRefuse, canon_windowEntries, canon_adminDone]

theorem canon_execWindowMap {cid entries s} {u} (h : CanonicalInv s) (e : execWindowMap cid entries s = .next u) :
    CanonicalInv u := by
  cases e
  grind [canon_windowCommand]

theorem canon_execWindowUnmap {cid entries s} {u} (h : CanonicalInv s) (e : execWindowUnmap cid entries s = .next u) :
    CanonicalInv u := by
  cases e
  grind [canon_windowCommand]

theorem canon_execDeferredUnmap {k s} {u} (h : CanonicalInv s) (e : execDeferredUnmap k s = .next u) :
    CanonicalInv u := by
  cases e
  grind [canon_unmapPage, canon_adminDone, canon_foldl, canonicalInv_mk, canon_parts]

theorem canon_clearWindow {s} (h : CanonicalInv s) : CanonicalInv (clearWindow s) := by
  unfold clearWindow
  grind [canon_unmapPage, canon_adminDone, canon_setWindow, canon_foldl, canonicalInv_mk, canon_parts]

theorem canon_execDecoderCommit {base bytes s} {u} (h : CanonicalInv s)
    (e : execDecoderCommit base bytes s = .next u) : CanonicalInv u := by
  cases e
  grind [canon_sendReply, canon_clearWindow, canonicalInv_mk, canon_parts]

theorem canon_protWindow {s off write} (h : CanonicalInv s) : CanonicalInv (protWindow s off write) :=
  canon_of_view h (by simp [dataAreas])

theorem canon_execHostWindowWrite {offset data s} {u} (h : CanonicalInv s)
    (e : execHostWindowWrite offset data s = .next u) : CanonicalInv u := by
  cases e
  grind [canon_sendReply, canon_memWrite, canon_protWindow, canon_foldl, canonicalInv_mk, canon_parts]

theorem canon_execBackInvalidateResponse {line s} {u} (h : CanonicalInv s)
    (e : execBackInvalidateResponse line s = .next u) : CanonicalInv u := by
  cases e
  grind [canon_memWrite, canonicalInv_mk, canon_parts]

-- Resets of the host interface and the state of its link.

theorem canon_orphanAll {s} (h : CanonicalInv s) : CanonicalInv (orphanAll s) := by
  unfold orphanAll
  grind [canonicalInv_mk, canon_parts, mapWf_mapAll, mapWf_filter]

theorem canon_resetController {s} (h : CanonicalInv s) : CanonicalInv (resetController s) := by
  unfold resetController
  grind [canon_orphanAll, canon_submitClose, canon_foldl, canonicalInv_mk, canon_parts]

theorem canon_execControllerReset {s} {u} (h : CanonicalInv s) (e : execControllerReset s = .next u) :
    CanonicalInv u := by
  cases e
  grind [canon_resetController]

theorem canon_execFunctionLevelReset {s} {u} (h : CanonicalInv s) (e : execFunctionLevelReset s = .next u) :
    CanonicalInv u := by
  cases e
  grind [canon_resetController]

theorem canon_linkDown {s} (h : CanonicalInv s) : CanonicalInv (linkDown s) :=
  canon_of_view h (by simp [dataAreas])

theorem canon_execPerst {low s} {u} (h : CanonicalInv s) (e : execPerst low s = .next u) : CanonicalInv u := by
  cases e
  grind [canon_resetController, canon_linkDown, canonicalInv_mk, canon_parts]

theorem canon_execHotReset {s} {u} (h : CanonicalInv s) (e : execHotReset s = .next u) : CanonicalInv u := by
  cases e
  grind [canon_resetController, canon_linkDown]

-- Recovery: replay of a context, re-stencil, takeover, rejoining.

theorem canon_discardFlight {s c} (h : CanonicalInv s) : CanonicalInv (discardFlight s c) := by
  unfold discardFlight
  grind [canon_updCtx, canonicalInv_mk, canon_parts, mapWf_mapAll, mapWf_mapFilter, mapWf_filter]

theorem canon_readmit {s rid} (h : CanonicalInv s) : CanonicalInv (readmit s rid) := by
  unfold readmit
  grind [canon_beginReq, canon_openWindows, canon_updReq, canonicalInv_mk, canon_parts, mapWf_mapPut]

theorem canon_replayCtx {s c} (h : CanonicalInv s) : CanonicalInv (replayCtx s c) := by
  unfold replayCtx
  grind [canon_readmit, canon_discardFlight, canon_foldl]

theorem canon_recoveryRec {s kind stage ctx b unit address} (h : CanonicalInv s) :
    CanonicalInv (recoveryRec s kind stage ctx b unit address) :=
  canon_of_view h (by simp [dataAreas])

theorem canon_beginRecovery {s kind} (h : CanonicalInv s) : CanonicalInv (beginRecovery s kind) :=
  canon_of_view h (by simp [dataAreas])

theorem canon_endRecovery {s} (h : CanonicalInv s) : CanonicalInv (endRecovery s) :=
  canon_of_view h (by simp [dataAreas])

theorem canon_unabsorbed {s kind ctx b unit address} (h : CanonicalInv s) :
    CanonicalInv (unabsorbed s kind ctx b unit address) :=
  canon_of_view h (by simp [dataAreas])

theorem canon_takeSpare {s q r n l} (h : CanonicalInv s) : CanonicalInv (takeSpare s q r n l).2 := by
  induction n generalizing s l with
  | zero => exact h
  | succ n ih =>
    unfold takeSpare
    grind [canon_wakeDomain, canon_endTest, canon_updTile]

theorem canon_placeLogical {s c l k x4} (h : CanonicalInv s) : CanonicalInv (placeLogical s c l k x4) := by
  unfold placeLogical
  grind [canon_updTile]

theorem canon_moveEndpoint {s c x2 q} (h : CanonicalInv s) : CanonicalInv (moveEndpoint s c x2 q) := by
  unfold moveEndpoint
  grind [canonicalInv_mk, canon_parts, mapWf_mapAll]

theorem canon_reloadOn {s c l ps k} (h : CanonicalInv s) : CanonicalInv (reloadOn s c l ps k) := by
  unfold reloadOn
  grind [canon_wakeDomain, canon_updCtx, canon_placeLogical, canon_foldl, canonicalInv_mk, canon_parts, mapWf_mapAll]

theorem canon_loseContext {s c} (h : CanonicalInv s) : CanonicalInv (loseContext s c) := by
  unfold loseContext
  grind [canon_discardFlight, canon_endReq, canon_vendorCpl, canon_enterCtx, canon_dropIdleDomains, canon_dropImage,
    canon_foldl, canonicalInv_mk, canon_parts]

theorem canon_execReStencil {x0 selfTests s} {u} (h : CanonicalInv s) (e : execReStencil x0 selfTests s = .next u) :
    CanonicalInv u := by
  obtain ⟨-, rfl⟩ := onUnit_cases e
  grind [canon_recoveryRec, canon_beginRecovery, canon_takeSpare, canon_writeRoles, canon_updTile, canon_retireTile,
    canon_updCtx, canon_placeLogical, canon_moveEndpoint, canon_replayCtx, canon_endRecovery, canon_dropIdleDomains,
      canon_freeTiles, canon_unabsorbed, canon_reloadOn, canon_loseContext, canonicalInv_mk, canon_parts]

theorem canon_testSpares {s failed} (h : CanonicalInv s) : CanonicalInv (testSpares s failed) := by
  unfold testSpares
  grind [canon_endTest, canon_updTile, canon_foldl, canonicalInv_mk, canon_parts, mapWf_filter]

theorem canon_execSpareDailyTest {failed s} {u} (h : CanonicalInv s) (e : execSpareDailyTest failed s = .next u) :
    CanonicalInv u := by
  cases e
  grind [canon_testSpares, canon_retireTile, canon_foldl, canonicalInv_mk, canon_parts, mapWf_filter]

theorem canon_redirect {s} (h : CanonicalInv s) : CanonicalInv (redirect s) := by
  unfold redirect
  grind [canonicalInv_mk, canon_parts, mapWf_mapAll]

theorem canon_rescan {s} (h : CanonicalInv s) : CanonicalInv (rescan s) := by
  unfold rescan
  grind [canon_searchQuery, canon_foldl, canonicalInv_mk, canon_parts, mapWf_filter]

theorem canon_loseShards {s} (h : CanonicalInv s) : CanonicalInv (loseShards s) :=
  canon_of_view h (by simp [dataAreas])

theorem canon_execMemberLoss {member s} {u} (h : CanonicalInv s) (e : execMemberLoss member s = .next u) :
    CanonicalInv u := by
  cases e
  grind [canon_recoveryRec, canon_beginRecovery, canon_rescan, canon_redirect, canon_loseShards, canon_replayCtx,
    canon_endRecovery, canon_foldl, canonicalInv_mk, canon_parts, mapWf_mapUpd]

theorem canon_discardAll {s} (h : CanonicalInv s) : CanonicalInv (discardAll s) := by
  have hd := canon_setWindow (m := []) (canon_foldl (f := dropImage) (l := s.ctxs.map
    (·.1)) h fun _ _ => canon_dropImage)
  exact ⟨(memWf hd :), (csWf hd :), (poisonWf hd :), rfl, (tilesWf hd :), rfl, rfl, rfl⟩

theorem canon_execSelfFence {s} {u} (h : CanonicalInv s) (e : execSelfFence s = .next u) : CanonicalInv u := by
  cases e
  grind [canon_recoveryRec, canon_dropIdleDomains, canon_discardAll, canonicalInv_mk, canon_parts, mapWf_mapUpd]

theorem canon_execRemirrorEnd {member s} {u} (h : CanonicalInv s) (e : execRemirrorEnd member s = .next u) :
    CanonicalInv u := by
  cases e
  grind [canon_endRecovery, canon_recoveryRec, canon_redirect, canonicalInv_mk, canon_parts, mapWf_mapUpd]

-- Events of the hatch ports and of the management ring.

theorem canon_ringSend {s payload} (h : CanonicalInv s) : CanonicalInv (ringSend s payload) :=
  canon_of_view h (by simp [dataAreas])

-- The sideband: NVMe-MI and the vendor commands.

theorem canon_miInvalid {s} (h : CanonicalInv s) : CanonicalInv (miInvalid s) :=
  canon_of_view h (by simp [dataAreas])

theorem canon_miLater {s us} (h : CanonicalInv s) : CanonicalInv (miLater s us) :=
  canon_of_view h (by simp [dataAreas])

theorem canon_miAnswer {s accepted} (h : CanonicalInv s) : CanonicalInv (miAnswer s accepted) :=
  canon_of_view h (by simp [dataAreas])

theorem canon_miClass3 {s f} (h : CanonicalInv s) (hf : ∀ t, CanonicalInv t → CanonicalInv (f t)) :
    CanonicalInv (miClass3 s f) := by
  unfold miClass3
  grind [canon_miLater, canon_enqueue3]

theorem canon_miRequest {s f} {u} (h : CanonicalInv s) (hf : ∀ t, CanonicalInv t → CanonicalInv (f t))
    (e : miRequest s f = .next u) : CanonicalInv u := by
  unfold miRequest at e
  grind

theorem canon_miVendor {s opcode member args f} {u} (h : CanonicalInv s) (hf : ∀ t, CanonicalInv t → CanonicalInv
    (f t)) (e : miVendor s opcode member args f = .next u) : CanonicalInv u := by
  unfold miVendor at e
  grind [canon_miRequest, canon_ringSend, canon_miInvalid]

theorem canon_beginTest {s kind} (h : CanonicalInv s) : CanonicalInv (beginTest s kind) := by
  unfold beginTest
  grind [canon_enterPhase, canon_updTile, canon_startMeasurement, canon_foldl, canonicalInv_mk, canon_parts,
    mapWf_filter]

theorem canon_execTestStart {member kind s} {u} (h : CanonicalInv s) (e : execTestStart member kind s = .next u) :
    CanonicalInv u := by
  refine canon_miVendor h (fun t ht => ?_) e
  split
  · exact canon_miInvalid ht
  · refine canon_miClass3 ht fun v hv => ?_
    dsimp only
    split
    · exact canon_miAnswer hv
    · exact canon_beginTest (canon_miAnswer hv)

theorem canon_execTestEnd {failed s} {u} (h : CanonicalInv s) (e : execTestEnd failed s = .next u) :
    CanonicalInv u := by
  cases e
  grind [canon_endTest, canon_persist, canon_enterPhase, canon_foldl, canonicalInv_mk, canon_parts, mapWf_filter]

-- Power: the hold-up bank, the commit sequence, power-up, throttling and thermal stops.

theorem canon_powerReset {s : State} (h : CanonicalInv s) : CanonicalInv (powerReset s) := by
  unfold powerReset
  extract_lets kept s₁
  have h₁ : CanonicalInv s₁ := by
    simp only [s₁]
    split
    · exact canon_makeDirty h
    · exact h
  exact ⟨rfl, (csWf h₁ :), rfl, rfl, (mapWf_mapAll _ (tilesWf h₁) :), rfl, rfl, rfl⟩

/-- A command that is listed for none of the areas. -/
theorem canon_of_unchanged {c : Instr} {s u : State} (h : CanonicalInv s) (e : exec c s = .next u)
    (hu : powersUp c = false)
    (hc : (dataAreas.all fun p => !changes p c) = true) : CanonicalInv u :=
  canon_of_view h fun p hp => exec_view e hu (by simpa using List.all_eq_true.1 hc p hp)

theorem canon_powerUp {s : State} (h : CanonicalInv s) : CanonicalInv (powerUp s) :=
  canon_wakeDomain (canon_powerReset h)

theorem canon_leaveHold {s : State} (h : CanonicalInv s) : CanonicalInv (leaveHold s) := by
  unfold leaveHold
  grind [canon_powerUp, canonicalInv_mk, canon_parts]

theorem canon_afterCommit {s : State} (h : CanonicalInv s) : CanonicalInv (afterCommit s) := by
  unfold afterCommit
  grind [canon_powerUp, canon_holdThermal, canonicalInv_mk, canon_parts]

theorem canon_persistNewest {s : State} (h : CanonicalInv s) : CanonicalInv (persistNewest s) := by
  unfold persistNewest
  split
  · exact h
  · exact h

theorem canon_sampleTemps {s : State} {ts : List Int} (h : CanonicalInv s) : CanonicalInv (sampleTemps s ts) := by
  refine canon_foldl h fun t p ht => ?_
  extract_lets t₁ x
  have h₁ : CanonicalInv t₁ := canon_readSensor ht
  split <;> exact h₁

theorem canon_sampleWindow {s : State} {o : PowerObs} (h : CanonicalInv s) : CanonicalInv (sampleWindow s o) := by
  unfold sampleWindow
  exact canon_sampleTemps h

theorem canon_throttle {s : State} (h : CanonicalInv s) : CanonicalInv (throttle s) := by
  unfold throttle
  exact h

theorem canon_execCommitComplete {s u : State} (h : CanonicalInv s) (e : execCommitComplete s = .next u) :
    CanonicalInv u := by
  cases e
  split
  · exact h
  extract_lets s₁ _ s₂
  split
  · exact canon_commitEnd h
  have h₂ : CanonicalInv s₂ := canon_foldl
    (show CanonicalInv { s₁ with power.done := true } from canon_commitEnd h) fun _ _ => canon_dropDomain
  exact canon_afterCommit (canon_persistNewest (canon_eventRec h₂))

theorem canon_execInputReturn {s u : State} (h : CanonicalInv s) (e : execInputReturn s = .next u) :
    CanonicalInv u := by
  cases e
  grind [canon_powerUp, canon_leaveHold, canonicalInv_mk, canon_parts]

theorem canon_execInsertion {a : Nat} {s u : State} (h : CanonicalInv s) (e : execInsertion a s = .next u) :
    CanonicalInv u := by
  cases e
  grind [canon_powerUp, canonicalInv_mk, canon_parts]

theorem canon_execThrottleWindow {obs s} {u : State} (h : CanonicalInv s) (e : execThrottleWindow obs s = .next u) :
    CanonicalInv u := by
  cases e
  split
  · exact h
  extract_lets s₁ _ s₂
  have h₂ : CanonicalInv s₂ := (canon_throttle (canon_sampleWindow h) : CanonicalInv s₁)
  split
  · exact canon_leaveHold h₂
  split
  · exact canon_thermalStop h₂
  · exact h₂

-- The sideband: NVMe-MI and the vendor commands.

theorem canon_execPowerOn {m : Nat} {s u : State} (h : CanonicalInv s) (e : execPowerOn m s = .next u) :
    CanonicalInv u := by
  refine canon_miVendor h (fun t ht => ?_) e
  grind [canon_powerUp, canon_miAnswer, canonicalInv_mk, canon_parts]

-- The passing of time: what a nanosecond changes when no command waits.

theorem canon_tick {s : State} (h : CanonicalInv s) : CanonicalInv (tick s) := by
  unfold tick
  grind [canon_noteOverload, canon_countNs, canonicalInv_mk, canon_parts, mapWf_mapAll]

-- The command dispatch: one arm per constructor of `Instr`, in the opcode table's order.

theorem canon_exec {c : Instr} {s u : State} (h : CanonicalInv s) (e : exec c s = .next u) : CanonicalInv u := by
  cases c with
  | nop => exact canon_execNop h e
  | mma => exact canon_execMma h e
  | preload => exact canon_execPreload h e
  | drain => exact canon_execDrain h e
  | ctbl => exact canon_execCtbl h e
  | vop => exact canon_execVop h e
  | func => exact canon_execFunc h e
  | reduce => exact canon_execReduce h e
  | cvt => exact canon_execCvt h e
  | signpack => exact canon_execSignpack h e
  | emit => exact canon_execEmit h e
  | release => exact canon_execRelease h e
  | copy => exact canon_execCopy h e
  | invalidStroke => exact canon_execInvalidStroke h e
  | strokeComplete => exact canon_execStrokeComplete h e
  | firstNanTrap => exact canon_execFirstNanTrap h e
  | handshakeTimeout => exact canon_execHandshakeTimeout h e
  | clockChange => exact canon_execClockChange h e
  | quiesceTimeout => exact canon_execQuiesceTimeout h e
  | cntClr => exact canon_execCntClr h e
  | test => exact canon_execTest h e
  | selfTestEnd => exact canon_execSelfTestEnd h e
  | islandTransferAck => exact canon_execIslandTransferAck h e
  | arbiterGrant => exact canon_execArbiterGrant h e
  | sheetIngress => exact canon_execSheetIngress h e
  | resend => exact canon_execResend h e
  | creditReturn => exact canon_execCreditReturn h e
  | scrubPassEnd => exact canon_execScrubPassEnd h e
  | lock => exact canon_execLock h e
  | csRegionWrite => exact canon_execCsRegionWrite h e
  | mailboxGo => exact canon_execMailboxGo h e
  | registerWrite => exact canon_execRegisterWrite h e
  | read => exact canon_execRead h e
  | program => exact canon_execProgram h e
  | erase => exact canon_execErase h e
  | probe => exact canon_execProbe h e
  | calRead => exact canon_execCalRead h e
  | csRead => exact canon_execCsRead h e
  | csProgram => exact canon_execCsProgram h e
  | csErase => exact canon_execCsErase h e
  | csFetch => exact canon_execCsFetch h e
  | rbRead => exact canon_execRbRead h e
  | rbAdvance => exact canon_execRbAdvance h e
  | badDescriptor => exact canon_execBadDescriptor h e
  | descriptorComplete => exact canon_execDescriptorComplete h e
  | imageLoad => exact canon_execImageLoad h e
  | loadAllocation => exact canon_execLoadAllocation h e
  | loadComplete => exact canon_execLoadComplete h e
  | replacementDrained => exact canon_execReplacementDrained h e
  | ctxConfigure => exact canon_execCtxConfigure h e
  | ctxRelease => exact canon_execCtxRelease h e
  | ctxStart => exact canon_execCtxStart h e
  | ctxStop => exact canon_execCtxStop h e
  | ctxUnload => exact canon_execCtxUnload h e
  | tableLoad => exact canon_execTableLoad h e
  | indexLoad => exact canon_execIndexLoad h e
  | vocabularyLoad => exact canon_execVocabularyLoad h e
  | normalisationLoad => exact canon_execNormalisationLoad h e
  | grammarLoad => exact canon_execGrammarLoad h e
  | objectUnload => exact canon_execObjectUnload h e
  | windowMap => exact canon_execWindowMap h e
  | windowUnmap => exact canon_execWindowUnmap h e
  | deferredUnmap => exact canon_execDeferredUnmap h e
  | versionSwitch => exact canon_execVersionSwitch h e
  | hotGrow => exact canon_execHotGrow h e
  | nanClear => exact canon_execNanClear h e
  | fairCopyEnd => exact canon_execFairCopyEnd h e
  | ringDelete => exact canon_execRingDelete h e
  | indexCommit => exact canon_execIndexCommit h e
  | commitEpoch => exact canon_execCommitEpoch h e
  | query => exact canon_execQuery h e
  | frontOpen => exact canon_execFrontOpen h e
  | frontStep => exact canon_execFrontStep h e
  | frontClose => exact canon_execFrontClose h e
  | deliveryJob => exact canon_execDeliveryJob h e
  | batchJob => exact canon_execBatchJob h e
  | admissionGrant => exact canon_execAdmissionGrant h e
  | completionPost => exact canon_execCompletionPost h e
  | deleteIoSubmissionQueue => exact canon_execDeleteIoSubmissionQueue h e
  | abortCommand => exact canon_execAbortCommand h e
  | firmwareCommit => exact canon_execFirmwareCommit h e
  | shutdownNotification => exact canon_execShutdownNotification h e
  | controllerReset => exact canon_execControllerReset h e
  | functionLevelReset => exact canon_execFunctionLevelReset h e
  | decoderCommit => exact canon_execDecoderCommit h e
  | hostWindowWrite => exact canon_execHostWindowWrite h e
  | perst => exact canon_execPerst h e
  | moveIssue => exact canon_execMoveIssue h e
  | moveDeadline => exact canon_execMoveDeadline h e
  | moveComplete => exact canon_execMoveComplete h e
  | stationDeadline => exact canon_execStationDeadline h e
  | tierReadReturn => exact canon_execTierReadReturn h e
  | hotRowCopyEnd => exact canon_execHotRowCopyEnd h e
  | probePass => exact canon_execProbePass h e
  | folioMerge => exact canon_execFolioMerge h e
  | decodeEngineGrant => exact canon_execDecodeEngineGrant h e
  | decodeUnitEnd => exact canon_execDecodeUnitEnd h e
  | shuffleIssue => exact canon_execShuffleIssue h e
  | deliverWrite => exact canon_execDeliverWrite h e
  | eraseIntent => exact canon_execEraseIntent h e
  | patrolRead => exact canon_execPatrolRead h e
  | reStencil => exact canon_execReStencil h e
  | spareDailyTest => exact canon_execSpareDailyTest h e
  | memberLoss => exact canon_execMemberLoss h e
  | selfFence => exact canon_execSelfFence h e
  | remirrorEnd => exact canon_execRemirrorEnd h e
  | tileCalInterval => exact canon_execTileCalInterval h e
  | levelSweep => exact canon_execLevelSweep h e
  | inputFailure => exact canon_execInputFailure h e
  | commitComplete => exact canon_execCommitComplete h e
  | bankExhausted => exact canon_execBankExhausted h e
  | inputReturn => exact canon_execInputReturn h e
  | insertion => exact canon_execInsertion h e
  | powerUpStep => exact canon_execPowerUpStep h e
  | domainGoodTimeout => exact canon_execDomainGoodTimeout h e
  | bootRom => exact canon_execBootRom h e
  | stage1 => exact canon_execStage1 h e
  | easelFirmwareStart => exact canon_execEaselFirmwareStart h e
  | restore => exact canon_execRestore h e
  | throttleWindow => exact canon_execThrottleWindow h e
  | thermalStop => exact canon_execThermalStop h e
  | watchdogExpiry => exact canon_execWatchdogExpiry h e
  | powerOn => exact canon_execPowerOn h e
  | testStart => exact canon_execTestStart h e
  | testEnd => exact canon_execTestEnd h e
  | canaryFail => exact canon_execCanaryFail h e
  | backInvalidateResponse => exact canon_execBackInvalidateResponse h e
  | hotReset => exact canon_execHotReset h e
  -- Every other command is listed for none of the areas.
  | _ => exact canon_of_unchanged h e rfl rfl

/-- Settles O5: the command at the front of the queue keeps the form, and so does a nanosecond that passes. -/
theorem stepKeepsTheCanonicalForm : Obligations.StepKeepsTheCanonicalForm := by
  intro s u h e
  cases hq : s.pending with
  | nil =>
    rw [step_of_nil hq] at e
    cases e
    exact canon_tick h
  | cons c rest =>
    rw [step_of_cons hq] at e
    exact canon_exec (s := { s with pending := rest }) h e

end Sys2Proof.Proofs

namespace Sys2Proof.Proofs
open Sys2Proof Sys2Proof.Machine Sys2Proof.Safety

/-! ## Strokes on slots, and their ends (R56 to R63, R128, R131, R132)

Each command is first reduced to one equation (`execEmit_goes`, `execRelease_goes`, `execStrokeComplete_clean`); what the statement
asks is then read off it by the lemmas about its parts. First the fields of a tile in the cycle of an issue, and after it. -/

theorem issueTile_rest (s : State) (p n : Nat) :
    { issueTile s p n with counts := (tileOf s p).counts, turn := (tileOf s p).turn } = tileOf s p :=
  congrArg (fun t : Tile => { t with turn := (tileOf s p).turn }) (countStall_rest s p (tileOf s p) _)

@[simp] theorem issueTile_buffers (s : State) (p n : Nat) : (issueTile s p n).buffers = (tileOf s p).buffers :=
  (congrArg Tile.buffers (issueTile_rest s p n) :)
@[simp] theorem issueTile_banks (s : State) (p n : Nat) : (issueTile s p n).banks = (tileOf s p).banks :=
  (congrArg Tile.banks (issueTile_rest s p n) :)
@[simp] theorem issueTile_routes (s : State) (p n : Nat) : (issueTile s p n).routes = (tileOf s p).routes :=
  (congrArg Tile.routes (issueTile_rest s p n) :)
@[simp] theorem issueTile_faults (s : State) (p n : Nat) : (issueTile s p n).faults = (tileOf s p).faults :=
  (congrArg Tile.faults (issueTile_rest s p n) :)
@[simp] theorem issueTile_st (s : State) (p n : Nat) : (issueTile s p n).st = (tileOf s p).st :=
  (congrArg Tile.st (issueTile_rest s p n) :)

@[simp] theorem issueTile_lists (s : State) (p n : Nat) : (issueTile s p n).lists = (tileOf s p).lists :=
  (congrArg Tile.lists (issueTile_rest s p n) :)
@[simp] theorem issueTile_islots (s : State) (p n : Nat) : (issueTile s p n).islots = (tileOf s p).islots :=
  (congrArg Tile.islots (issueTile_rest s p n) :)

@[simp] theorem issueTile_storeCe (s : State) (p n : Nat) :
    (issueTile s p n).counts.storeCe = (tileOf s p).counts.storeCe := by
  unfold issueTile countStall
  split_ifs <;> rfl
@[simp] theorem issueTile_storeUe (s : State) (p n : Nat) :
    (issueTile s p n).counts.storeUe = (tileOf s p).counts.storeUe := by
  unfold issueTile countStall
  split_ifs <;> rfl

@[simp] theorem issued_buffers (t : Tile) (n : Nat) (i : IssueSlot) : (issued t n i).buffers = t.buffers :=
  (congrArg Tile.buffers (issued_rest t n i) :)
@[simp] theorem issued_banks (t : Tile) (n : Nat) (i : IssueSlot) : (issued t n i).banks = t.banks :=
  (congrArg Tile.banks (issued_rest t n i) :)
@[simp] theorem issued_routes (t : Tile) (n : Nat) (i : IssueSlot) : (issued t n i).routes = t.routes :=
  (congrArg Tile.routes (issued_rest t n i) :)
@[simp] theorem issued_faults (t : Tile) (n : Nat) (i : IssueSlot) : (issued t n i).faults = t.faults :=
  (congrArg Tile.faults (issued_rest t n i) :)
@[simp] theorem issued_st (t : Tile) (n : Nat) (i : IssueSlot) : (issued t n i).st = t.st :=
  (congrArg Tile.st (issued_rest t n i) :)

/-- An issue in the tile's cycle, with or without a change of its routes. -/
theorem issued_issueTile (s : State) (p n : Nat) (i : IssueSlot) (rs : SMap Route) :
    Issued (tileOf s p) (issued { issueTile s p n with routes := rs } n i) n i :=
  issued_Issued i (issueTile_lists s p n) (issueTile_islots s p n) (countStall_issued s p (tileOf s p) _) rfl

theorem reach_of_buffers {t v : Tile} (h : v.buffers = t.buffers) (o : Operand) (d : Nat) : reach v o d = reach t o d := by
  simp only [reach, h]

theorem slotOf_of_buffers {t v : Tile} (h : v.buffers = t.buffers) (x : Nat × Nat) : slotOf v x = slotOf t x := by
  simp only [slotOf, h]

theorem sheetAt_of_buffers {t v : Tile} (h : v.buffers = t.buffers) (x : Nat × Nat) : sheetAt v x = sheetAt t x := by
  simp only [sheetAt, presentSheet, slotOf_of_buffers h]

theorem tileRec_frame (s : State) (p : Nat) (cls : ErrClass) (op addr a : Nat) (poison : Bool) :
    SameButReports s (tileRec s p cls op addr a poison) := recordErr_frame s _

theorem tileOf_tileRec (s : State) (p q : Nat) (cls : ErrClass) (op addr a : Nat) (poison : Bool) :
    tileOf (tileRec s p cls op addr a poison) q = tileOf s q :=
  (congrArg (fun u : State => tileOf u q) (tileRec_frame s p cls op addr a poison) :)

theorem tileFault_running {t : Tile} (bit : Nat) (h : t.st = .running ∨ t.st = .quiescing) :
    tileFault t bit true =
      { t with st := .fault, faults := t.faults ||| BitVec.ofNat 7 (2 ^ bit), testBusy := false } := by
  obtain h | h := h <;> simp [tileFault, h]

/-! EMIT. -/

/-- The head of a slot that goes for EMIT finds its egress free and its streams able to take the sheet. -/
theorem emitFree_of_goes {s : State} {p n : Nat} {i : IssueSlot} {k : Stroke} {w : BitVec 128}
    (h : Goes s p n opEmit i k w) : emitFree s p (tileOf s p) k = true := by
  obtain ⟨hi, hf⟩ := h
  obtain ⟨hh, -, hk, -⟩ := issueState_ready hi
  have hr : headReady s p (tileOf s p) n = true := List.find?_some hf
  simp only [headReady, hh, hk, hi] at hr
  simpa using (Bool.and_eq_true_iff.1 hr).2

theorem ready_of_goes {s : State} {p n : Nat} {i : IssueSlot} {k : Stroke} {w : BitVec 128} {r : Route}
    (h : Goes s p n opEmit i k w) (hr : mapFind (tileOf s p).routes k.imm = some r) {m : Nat}
    (hm : m ∈ (routeTargets r (tagBatch (srcOf s p k.srcA).tag)).1) {x : Machine.Stream} (hx : streamOf s m = some x) :
    x.ready = true := by
  have hf := emitFree_of_goes h
  simp only [emitFree, hr, Bool.and_eq_true, List.all_eq_true] at hf
  simpa [hx] using hf.2 m hm

/-- What a stream that is ready sends: one sheet under its own number and next SEQ, with one credit spent (R127, R131). -/
theorem send_ready {x : Machine.Stream} (hx : x.ready = true) (n : Nat) (a : Sheet) (fresh : Bool)
    (hold : Option (Nat × Nat × Nat)) :
    ∃ sh, (x.send n a fresh hold).inflight = [sh] ∧ (x.send n a fresh hold).credits + 1 = x.credits ∧
      (x.send n a fresh hold).nextSend = x.nextSend + 1 ∧ sh.stream = BitVec.ofNat 16 n ∧ sh.seq = x.nextSend ∧
      sh.data = a.data ∧ sh.scales = a.scales ∧ sh.tag = a.tag ∧ sh.origin = a.origin ∧ sh.flags = a.flags &&& 0xB := by
  simp only [Stream.ready, Bool.and_eq_true, List.isEmpty_iff, decide_eq_true_eq] at hx
  obtain ⟨⟨hi, -⟩, hc⟩ := hx
  have hcr : (x.send n a fresh hold).credits + 1 = x.credits := Nat.sub_add_cancel hc
  cases fresh
  · exact ⟨forward a (BitVec.ofNat 16 n) x.nextSend (a.flags &&& 0xB), by simp [Stream.send, hi], hcr, rfl, rfl, rfl, rfl,
      rfl, rfl, rfl, rfl⟩
  · exact ⟨sealSheet { a with stream := BitVec.ofNat 16 n, seq := x.nextSend, flags := a.flags &&& 0xB },
      by simp [Stream.send, hi], hcr, rfl, rfl, rfl, rfl, rfl, rfl, rfl, rfl⟩

/-- Streams of a list without repetition, each passed through its own function. -/
theorem streamOf_foldl_updStream (f : Nat → Machine.Stream → Machine.Stream) {l : List Nat} (hl : l.Nodup) (s : State)
    (m : Nat) : streamOf (l.foldl (fun s a => updStream s a (f a)) s) m =
      if m ∈ l then (streamOf s m).map (f m) else streamOf s m := by
  induction l generalizing s with
  | nil => rfl
  | cons a l ih =>
    obtain ⟨ha, hl⟩ := List.nodup_cons.1 hl
    rw [List.foldl_cons, ih hl]
    by_cases hma : m = a
    · subst hma; simp [ha]
    · simp [hma, streamOf_updStream_ne s (f a) hma]

theorem foldl_updStream_frame (f : Nat → Machine.Stream → Machine.Stream) (l : List Nat) (s : State) :
    { l.foldl (fun s a => updStream s a (f a)) s with streams := s.streams } = s := by
  induction l generalizing s with
  | nil => rfl
  | cons a l ih => exact congrArg (fun u : State => { u with streams := s.streams }) (ih (updStream s a (f a)))

/-- What an EMIT sends: the sheet of its slot, marked when a word of it read poisoned (R57). -/
def emitSheet (s : State) (p : Nat) (k : Stroke) (ue : Nat) : Sheet :=
  if ue = 0 then srcOf s p k.srcA else reflag (srcOf s p k.srcA) ((srcOf s p k.srcA).flags ||| flagPoison)

/-- What an EMIT does to stream `m` of its route. -/
def emitOn (s : State) (p : Nat) (k : Stroke) (a : Sheet) (m : Nat) (y : Machine.Stream) : Machine.Stream :=
  let x := reach (tileOf s p) k.srcA 0
  y.send m a (((slotOf (tileOf s p) x).map fun y => !y.arrived).getD true)
    (if k.srcA.rel then some (p, x.1, x.2) else none)

/-- The module once the streams of a route have the sheet and the egress of tile `p` holds the transfer. -/
def emitSent (s : State) (p : Nat) (k : Stroke) (a : Sheet) (targets : List Nat) : State :=
  crossBoundary (targets.foldl (fun u m => updStream u m (emitOn s p k a m)) s) p

/-- The tile after an EMIT. -/
def emitTile (s : State) (p n : Nat) (i : IssueSlot) (k : Stroke) (r : Route) (ce ue : Nat) : Tile :=
  let t := issued { issueTile s p n with routes := mapPut (tileOf s p).routes k.imm r } n i
  { t with
    counts.storeCe := satAdd (ones 32) t.counts.storeCe ce, counts.storeUe := satAdd (ones 16) t.counts.storeUe ue
    faults := if ue = 0 then t.faults else t.faults ||| 16 }

/-- An EMIT that goes, but for the record of a store error (R57). -/
theorem execEmit_goes {s : State} {p n : Nat} (ce ue : Nat) {i : IssueSlot} {k : Stroke} {w : BitVec 128} {r : Route}
    (hp : p < Config.tiles) (h : Goes s p n opEmit i k w) (hr : mapFind (tileOf s p).routes k.imm = some r)
    {x : List Nat × Route}
    (hx : routeTargets r (tagBatch (srcOf s p k.srcA).tag) = x) :
    ∃ u, exec (.emit p ⟨n, ce, ue⟩) s = .next u ∧
      SameButReports (setTile (emitSent s p k (emitSheet s p k ue) x.1) p (emitTile s p n i k x.2 ce ue)) u ∧
      (ue = 0 → u = setTile (emitSent s p k (emitSheet s p k ue) x.1) p (emitTile s p n i k x.2 ce ue)) := by
  subst hx
  have hrun : exec (.emit p ⟨n, ce, ue⟩) s = .next (runEmit p n ce ue s (issueTile s p n) i k) := by
    rw [← onIssue_ready (run := fun s t i k _ => runEmit p n ce ue s t i k) h]
    exact onUnit_tile hp _
  refine ⟨_, hrun, ?_⟩
  unfold runEmit
  simp only [reach_of_buffers (issueTile_buffers s p n), sheetAt_of_buffers (issueTile_buffers s p n),
    slotOf_of_buffers (issueTile_buffers s p n), issueTile_routes, hr]
  by_cases hu : ue = 0
  · simp only [emitSheet, hu, if_true]
    exact ⟨rfl, fun _ => rfl⟩
  · simp only [hu, if_false, false_imp_iff, and_true]
    refine (congrArg (SameButReports · _) ?_).mpr (tileRec_frame _ p .uncorrected 0 i.pc 0 true)
    simp only [emitSheet, emitTile, hu, if_false]
    rfl

theorem emitSent_frame (s : State) (p : Nat) (k : Stroke) (a : Sheet) (l : List Nat) :
    { emitSent s p k a l with streams := s.streams, boundaries := s.boundaries } = s :=
  congrArg (fun u : State => { u with boundaries := s.boundaries }) (foldl_updStream_frame (emitOn s p k a) l s)

@[simp] theorem tileOf_emitSent (s : State) (p : Nat) (k : Stroke) (a : Sheet) (l : List Nat) (q : Nat) :
    tileOf (emitSent s p k a l) q = tileOf s q :=
  (congrArg (fun u : State => tileOf u q) (emitSent_frame s p k a l) :)

theorem streamOf_emitSent (s : State) (p : Nat) (k : Stroke) (a : Sheet) {l : List Nat} (hl : l.Nodup) (m : Nat) :
    streamOf (emitSent s p k a l) m = if m ∈ l then (streamOf s m).map (emitOn s p k a m) else streamOf s m :=
  streamOf_foldl_updStream (emitOn s p k a) hl s m

theorem emitSheet_flags (s : State) (p : Nat) (k : Stroke) (ue : Nat) :
    (emitSheet s p k ue).flags = (srcOf s p k.srcA).flags ||| if ue = 0 then 0 else flagPoison := by
  unfold emitSheet
  split_ifs
  · simp
  · rfl

/-- The sheet that an EMIT sends has the contents of its slot. -/
theorem emitSheet_contents (s : State) (p : Nat) (k : Stroke) (ue : Nat) :
    (emitSheet s p k ue).data = (srcOf s p k.srcA).data ∧ (emitSheet s p k ue).scales = (srcOf s p k.srcA).scales ∧
    (emitSheet s p k ue).tag = (srcOf s p k.srcA).tag ∧ (emitSheet s p k ue).origin = (srcOf s p k.srcA).origin := by
  unfold emitSheet
  split_ifs
  · exact ⟨rfl, rfl, rfl, rfl⟩
  · exact ⟨rfl, rfl, rfl, rfl⟩

theorem emitTile_issued (s : State) (p n : Nat) (i : IssueSlot) (k : Stroke) (r : Route) (ce ue : Nat) :
    Issued (tileOf s p) (emitTile s p n i k r ce ue) n i :=
  Issued.of (issued_issueTile s p n i _) rfl rfl rfl

/-- EMIT: every stream of the route has the sheet, and the tile has counted and moved on. -/
theorem emit_completes {s : State} {p n : Nat} {i : IssueSlot} {k : Stroke} {w : BitVec 128} (hp : p < Config.tiles) (ce ue : Nat)
    (r : Route) (h : Goes s p n opEmit i k w) (hr : mapFind (tileOf s p).routes k.imm = some r)
    (hl : (routeTargets r (tagBatch (srcOf s p k.srcA).tag)).1.Nodup) :
    ∃ u, exec (.emit p ⟨n, ce, ue⟩) s = .next u ∧
      { u with tiles := s.tiles, streams := s.streams, boundaries := s.boundaries, integ := s.integ, host := s.host, easel := s.easel,
               freeCtr := s.freeCtr } = s ∧
      (ue = 0 → { u with tiles := s.tiles, streams := s.streams, boundaries := s.boundaries } = s ∧
        (tileOf u p).faults = (tileOf s p).faults) ∧
      (ue ≠ 0 → (tileOf u p).faults = (tileOf s p).faults ||| 16) ∧ (tileOf u p).st = (tileOf s p).st ∧
      (tileOf u p).counts.storeCe = satAdd (ones 32) (tileOf s p).counts.storeCe ce ∧
      (tileOf u p).counts.storeUe = satAdd (ones 16) (tileOf s p).counts.storeUe ue ∧
      (∀ q, q ≠ p → tileOf u q = tileOf s q) ∧ Issued (tileOf s p) (tileOf u p) n i ∧
      (tileOf u p).buffers = (tileOf s p).buffers ∧
      mapFind (tileOf u p).routes k.imm = some (routeTargets r (tagBatch (srcOf s p k.srcA).tag)).2 ∧
      (mapGet u.boundaries p ⟨false, 0⟩).outstanding = true ∧
      (∀ m ∈ (routeTargets r (tagBatch (srcOf s p k.srcA).tag)).1, ∀ x, streamOf s m = some x →
        ∃ y sh, streamOf u m = some y ∧ y.credits + 1 = x.credits ∧ y.nextSend = x.nextSend + 1 ∧ y.inflight = [sh] ∧
          sh.stream = BitVec.ofNat 16 m ∧ sh.seq = x.nextSend ∧ sh.data = (srcOf s p k.srcA).data ∧
          sh.scales = (srcOf s p k.srcA).scales ∧ sh.tag = (srcOf s p k.srcA).tag ∧
          sh.origin = (srcOf s p k.srcA).origin ∧
          sh.flags = ((srcOf s p k.srcA).flags ||| if ue = 0 then 0 else flagPoison) &&& 0xB) ∧
      ∀ m, m ∉ (routeTargets r (tagBatch (srcOf s p k.srcA).tag)).1 → streamOf u m = streamOf s m := by
  have hready := fun m hm x hx => ready_of_goes (m := m) (x := x) h hr hm hx
  obtain ⟨u, hu, hrep, h0⟩ := execEmit_goes ce ue hp h hr rfl
  generalize routeTargets r (tagBatch (srcOf s p k.srcA).tag) = x at *
  set t := emitTile s p n i k x.2 ce ue with ht
  set v := setTile (emitSent s p k (emitSheet s p k ue) x.1) p t with hv
  have hvs : { v with tiles := s.tiles, streams := s.streams, boundaries := s.boundaries } = s :=
    congrArg (fun u : State => { u with tiles := s.tiles }) (emitSent_frame s p k (emitSheet s p k ue) x.1)
  have htile : ∀ q, tileOf u q = tileOf v q := fun q => (congrArg (fun u : State => tileOf u q) hrep :)
  have hstream : ∀ m, streamOf u m = streamOf v m := fun m => (congrArg (fun u : State => streamOf u m) hrep :)
  have hown : tileOf u p = t := (htile p).trans (tileOf_setTile _ p t)
  refine ⟨u, hu, ?_, fun hz => ⟨h0 hz ▸ hvs, ?_⟩, fun hz => ?_, ?_, ?_, ?_, fun q hq => ?_, ?_, ?_, ?_, ?_, fun m hm y hy => ?_,
    fun m hm => ?_⟩
  · have hvu := congrArg (fun u : State => { u with tiles := s.tiles, streams := s.streams, boundaries := s.boundaries }) hrep
    exact (congrArg (fun u : State =>
      { u with integ := s.integ, host := s.host, easel := s.easel, freeCtr := s.freeCtr }) (hvu.trans hvs) :)
  · simp [hown, ht, emitTile, hz]
  · simp [hown, ht, emitTile, hz]
  · simp [hown, ht, emitTile]
  · simp [hown, ht, emitTile, issued_counts]
  · simp [hown, ht, emitTile, issued_counts]
  · rw [htile, hv, tileOf_setTile_ne _ _ hq, tileOf_emitSent]
  · exact hown ▸ emitTile_issued s p n i k x.2 ce ue
  · simp [hown, ht, emitTile]
  · simp [hown, ht, emitTile]
  · rw [(congrArg State.boundaries hrep :)]
    simp [hv, emitSent, crossBoundary]
  · obtain ⟨sh, hsh, hc, hn, hst, hseq, hd, hsc, htag, ho, hfl⟩ := send_ready (hready m hm y hy) m (emitSheet s p k ue)
      (((slotOf (tileOf s p) (reach (tileOf s p) k.srcA 0)).map fun y => !y.arrived).getD true)
      (if k.srcA.rel then some (p, (reach (tileOf s p) k.srcA 0).1, (reach (tileOf s p) k.srcA 0).2) else none)
    have hy' : streamOf u m = some (emitOn s p k (emitSheet s p k ue) m y) := by
      rw [hstream]
      exact (streamOf_emitSent s p k _ hl m).trans (by simp [hm, hy])
    obtain ⟨hd', hsc', htag', ho'⟩ := emitSheet_contents s p k ue
    exact ⟨_, sh, hy', hc, hn, hsh, hst, hseq, hd.trans hd', hsc.trans hsc', htag.trans htag', ho.trans ho',
      hfl.trans (by rw [emitSheet_flags])⟩
  · rw [hstream]
    exact (streamOf_emitSent s p k _ hl m).trans (if_neg hm)

/-! RELEASE. -/

theorem mapPut_of_mapFind {α : Type} {m : SMap α} {k : Nat} {a : α} (h : mapFind m k = some a) : mapPut m k a = m := by
  induction m with
  | nil => cases h
  | cons x m ih =>
    obtain ⟨j, b⟩ := x
    simp only [mapFind] at h
    split_ifs at h with hj hk
    · cases h; subst hj; simp [mapPut]
    · simp [mapPut, hk, Ne.symm hj, ih h]

theorem relSlots_release {t : Tile} {k : Stroke} (h : k.op = opRelease) :
    relSlots t k = if k.srcA.rel then [reach t k.srcA 0] else [] := by
  have hA : k.usesA = true := by simp [Stroke.usesA, h]
  have hB : k.usesB = false := by simp [Stroke.usesB, Stroke.rescale, h, opRelease, opMma, opDrain, opVop]
  have hM : k.op ≠ opMma := by simp [h, opRelease, opMma]
  simp [relSlots, slotsA, slotsB, hA, hB, hM]

theorem relSlots_of_buffers {t v : Tile} {k : Stroke} (hk : k.op = opRelease) (h : v.buffers = t.buffers) :
    relSlots v k = relSlots t k := by
  rw [relSlots_release hk, relSlots_release hk, reach_of_buffers h]

theorem tileOf_freeSlots (s : State) (n k q : Nat) : tileOf (freeSlots s n k) q = tileOf s q := by
  have h : (freeSlots s n k).tiles = s.tiles := field_of_view State.tiles .tiles (by simp)
  simp only [tileOf, h]

theorem releaseSlot_buffers {s : State} {p : Nat} {x : Nat × Nat} {b : Buffer} (h : mapFind (tileOf s p).buffers x.1 = some b) :
    (tileOf (releaseSlot s p x) p).buffers = mapPut (tileOf s p).buffers x.1 (releaseIn b x.2).1 := by
  simp only [releaseSlot, h]
  split_ifs
  · rw [tileOf_setTile]
  · rw [tileOf_freeSlots, tileOf_setTile]

/-- What `releaseUse` asks of the open chains of a tile. -/
theorem inChain_iff (t : Tile) (x : Nat × Nat) :
    (t.banks.any fun b => (b.2.chain.map fun c => c.used.contains x).getD false) = true ↔ InChain t x := by
  simp only [List.any_eq_true, InChain]
  refine exists_congr fun b => and_congr_right fun _ => ?_
  cases hc : b.2.chain <;> simp

theorem releaseUse_inChain {s : State} {p : Nat} {x : Nat × Nat} (h : InChain (tileOf s p) x) :
    (tileOf (releaseUse s p x) p).buffers = (tileOf s p).buffers := by
  simp only [releaseUse, (inChain_iff _ x).2 h, if_true, tileOf_setTile]

theorem releaseUse_free {s : State} {p : Nat} {x : Nat × Nat} (h : ¬ InChain (tileOf s p) x) :
    releaseUse s p x = releaseSlot s p x :=
  if_neg (mt (inChain_iff _ x).1 h)

theorem releaseUse_resident {s : State} {p : Nat} {x : Nat × Nat} {b : Buffer}
    (hb : mapFind (tileOf s p).buffers x.1 = some b) (hr : b.resident = true) :
    (tileOf (releaseUse s p x) p).buffers = (tileOf s p).buffers := by
  by_cases h : InChain (tileOf s p) x
  · exact releaseUse_inChain h
  · rw [releaseUse_free h, releaseSlot_buffers hb]
    simp only [releaseIn, hr, if_true]
    exact mapPut_of_mapFind hb

/-- The head that moves past released slots changes no slot that it leaves listed. -/
theorem advanceHead_find {fuel : Nat} {b : Buffer} (hw : mapWf b.ring = true) {i : Nat} {y : TSlot}
    (h : mapFind (advanceHead fuel b).1.ring i = some y) : mapFind b.ring i = some y := by
  induction fuel generalizing b with
  | zero => exact h
  | succ fuel ih =>
    unfold advanceHead at h
    split at h
    · have hi := ih (b := { b with ring := mapDrop b.ring b.head, head := (b.head + 1) % max 1 b.slots }) (mapWf_mapDrop _ hw) h
      rw [mapFind_mapDrop _ _ hw] at hi
      split_ifs at hi
      exact hi
    · exact h

/-- A released slot of a streaming buffer is no longer present. -/
theorem releaseIn_not_present {b : Buffer} (hr : b.resident = false) (hw : mapWf b.ring = true) {i : Nat} {y : TSlot}
    (h : mapFind (releaseIn b i).1.ring i = some y) : y.st ≠ .present := by
  simp only [releaseIn, hr, Bool.false_eq_true, if_false] at h
  split at h
  · have hy := advanceHead_find (mapWf_mapPut _ _ hw) h
    cases (mapFind_mapPut_same _ _ _).symm.trans hy
    simp
  · rename_i hn
    intro hp
    exact hn y.arrived y.sheet (by rw [← hp]; exact h)

theorem releaseUse_streaming {s : State} {p : Nat} {x : Nat × Nat} {b : Buffer}
    (hb : mapFind (tileOf s p).buffers x.1 = some b) (hr : b.resident = false) (hw : mapWf b.ring = true)
    (hc : ¬ InChain (tileOf s p) x) : presentSheet (tileOf (releaseUse s p x) p) x = none := by
  simp only [releaseUse_free hc, presentSheet, slotOf, releaseSlot_buffers hb, mapFind_mapPut_same, Option.bind_some,
    Option.bind_eq_none_iff]
  intro y hy
  exact if_neg (releaseIn_not_present hr hw hy)

theorem execRelease_goes {s : State} {p n : Nat} {i : IssueSlot} {k : Stroke} {w : BitVec 128} (hp : p < Config.tiles)
    (h : Goes s p n opRelease i k w) :
    exec (.release p n) s = .next
      (releaseAll (setTile s p (issued (issueTile s p n) n i)) p
        (if k.srcA.rel then [reach (tileOf s p) k.srcA 0] else [])) := by
  have hk : k.op = opRelease := (issueState_ready h.1).2.2.1
  rw [← relSlots_release hk, ← relSlots_of_buffers hk (issueTile_buffers s p n)]
  exact (onUnit_tile hp _).trans
    (congrArg _ (onIssue_ready (run := fun s t i k _ => releaseAll (setTile s p (issued t n i)) p (relSlots t k)) h))

theorem release_completes {s : State} {p n : Nat} {i : IssueSlot} {k : Stroke} {w : BitVec 128} (hp : p < Config.tiles)
    (h : Goes s p n opRelease i k w) :
    ∃ u, exec (.release p n) s = .next u ∧ { u with tiles := s.tiles, streams := s.streams } = s ∧
      (∀ q, q ≠ p → tileOf u q = tileOf s q) ∧ Issued (tileOf s p) (tileOf u p) n i ∧
      (k.srcA.rel = false → OnlyTile s u p ∧ (tileOf u p).buffers = (tileOf s p).buffers) ∧
      (∀ b, k.srcA.rel = true → mapFind (tileOf s p).buffers k.srcA.buf = some b → b.resident = true →
        (tileOf u p).buffers = (tileOf s p).buffers) ∧
      (k.srcA.rel = true → InChain (tileOf s p) (reach (tileOf s p) k.srcA 0) → (tileOf u p).buffers = (tileOf s p).buffers) ∧
      (∀ b, k.srcA.rel = true → mapFind (tileOf s p).buffers k.srcA.buf = some b → b.resident = false →
        mapWf b.ring = true → ¬ InChain (tileOf s p) (reach (tileOf s p) k.srcA 0) →
        presentSheet (tileOf u p) (reach (tileOf s p) k.srcA 0) = none) := by
  set v := setTile s p (issued (issueTile s p n) n i) with hv
  have hbuf : (tileOf v p).buffers = (tileOf s p).buffers := by simp [hv]
  have hchain : ∀ x, InChain (tileOf v p) x ↔ InChain (tileOf s p) x := fun x => by simp [hv, InChain]
  refine ⟨_, execRelease_goes hp h, ?_, fun q hq => ?_, ?_, fun hr => ?_, fun b hr hb hres => ?_, fun hr hc => ?_,
    fun b hr hb hres hw hc => ?_⟩
  · exact (congrArg (fun u : State => { u with tiles := s.tiles, streams := s.streams }) (releaseAll_frame v p _) :)
  · rw [releaseAll_other _ _ hq, tileOf_setTile_ne _ _ hq]
  · have hi : Issued (tileOf s p) (tileOf v p) n i := by
      rw [hv, tileOf_setTile]
      exact issued_issueTile s p n i (issueTile s p n).routes
    have ht := releaseAll_tile v p (if k.srcA.rel then [reach (tileOf s p) k.srcA 0] else [])
    exact Issued.of hi (congrArg (fun t : Tile => t.counts.issued) ht :) (congrArg Tile.islots ht :) (congrArg Tile.turn ht :)
  · simp only [hr, Bool.false_eq_true, if_false]
    exact ⟨⟨rfl, fun q hq => tileOf_setTile_ne _ _ hq⟩, hbuf⟩
  · simp only [hr, if_true]
    exact (releaseUse_resident (hbuf ▸ hb) hres).trans hbuf
  · simp only [hr, if_true]
    exact (releaseUse_inChain ((hchain _).2 hc)).trans hbuf
  · simp only [hr, if_true]
    exact releaseUse_streaming (hbuf ▸ hb) hres hw (mt (hchain _).1 hc)

/-! INVALID_STROKE. -/

theorem execInvalidStroke_head {s : State} {p n : Nat} {z : IssueSlot × Stroke × BitVec 128} (ue : Bool) (hp : p < Config.tiles)
    (hz : headStroke (tileOf s p) n = some z) (hr : (tileOf s p).st = .running) :
    exec (.invalidStroke p ⟨n, ue⟩) s = .next
      (if ue then haltTile s p faultStrokeUe .uncorrected 9 z.1.pc 0
       else if strokeBad (tileOf s p) z.2.1 then setTile s p (tileFault (tileOf s p) faultBadStroke true) else s) := by
  refine (onUnit_tile hp _).trans (congrArg _ ?_)
  simp only [hz, hr]
  rfl

theorem haltTile_frame (s : State) (p bit : Nat) (cls : ErrClass) (op addr a : Nat) :
    { haltTile s p bit cls op addr a with
      tiles := s.tiles, integ := s.integ, host := s.host, easel := s.easel, freeCtr := s.freeCtr } = s :=
  (congrArg (fun u : State => { u with tiles := s.tiles })
    (tileRec_frame (updTile s p fun t => tileFault t bit true) p cls op addr a false) :)

theorem tileOf_haltTile (s : State) (p bit : Nat) (cls : ErrClass) (op addr a : Nat) :
    tileOf (haltTile s p bit cls op addr a) p = tileFault (tileOf s p) bit true := by
  simp only [haltTile, tileOf_tileRec, tileOf_updTile]

theorem tileOf_haltTile_ne (s : State) {p q : Nat} (bit : Nat) (cls : ErrClass) (op addr a : Nat) (hq : q ≠ p) :
    tileOf (haltTile s p bit cls op addr a) q = tileOf s q := by
  simp only [haltTile, tileOf_tileRec, tileOf_updTile_ne _ _ hq]

theorem invalidStroke_completes {s : State} {p n : Nat} {z : IssueSlot × Stroke × BitVec 128} (hp : p < Config.tiles)
    (hz : headStroke (tileOf s p) n = some z) (hr : (tileOf s p).st = .running) :
    (strokeBad (tileOf s p) z.2.1 = true → ∃ u, exec (.invalidStroke p ⟨n, false⟩) s = .next u ∧ OnlyTile s u p ∧
      tileOf u p = { tileOf s p with st := .fault, faults := (tileOf s p).faults ||| 8, testBusy := false }) ∧
    (∃ u, exec (.invalidStroke p ⟨n, true⟩) s = .next u ∧
      { u with tiles := s.tiles, integ := s.integ, host := s.host, easel := s.easel, freeCtr := s.freeCtr } = s ∧
      (∀ q, q ≠ p → tileOf u q = tileOf s q) ∧
      tileOf u p = { tileOf s p with st := .fault, faults := (tileOf s p).faults ||| 2, testBusy := false }) := by
  refine ⟨fun hb => ⟨_, execInvalidStroke_head false hp hz hr, ?_⟩, _, execInvalidStroke_head true hp hz hr, ?_⟩
  · simp only [Bool.false_eq_true, if_false, hb, if_true]
    exact ⟨⟨rfl, fun q hq => tileOf_setTile_ne _ _ hq⟩, (tileOf_setTile _ _ _).trans (tileFault_running _ (.inl hr))⟩
  · simp only [if_true]
    exact ⟨haltTile_frame s p _ _ _ _ _, fun q hq => tileOf_haltTile_ne s _ _ _ _ _ hq,
      (tileOf_haltTile s p _ _ _ _ _).trans (tileFault_running _ (.inl hr))⟩

/-! STROKE_COMPLETE: the pieces of `finishExec`. -/

/-- The written slots of a stroke become present (R56). -/
def presentWrites (t : Tile) (xs : List (Nat × Nat)) : Tile :=
  xs.foldl (fun t x => match slotOf t x with
    | some v => putSlot t x { v with st := .present }
    | none => t) t

/-- The chains of banks end (R62). -/
def endChains (m : SMap Bank) (bs : List Nat) : SMap Bank :=
  bs.foldl (fun m b => mapUpd m b fun bk => { bk with chain := none }) m

/-- The tile when its `idx`-th executing stroke has completed, its slots not yet released. -/
def completed (t : Tile) (idx : Nat) (e : Exec) : Tile :=
  let t := presentWrites t e.writes
  let t := if (strokeOf e.stroke).op == opDrain then { t with banks := endChains t.banks e.banks } else t
  let t := noteNan { t with exec := listDrop t.exec idx, counts.checks := t.counts.checks + e.checks } e
  if t.st = .quiescing ∧ t.exec = [] then { t with st := if t.replacing then .ready else .running } else t

/-- The slots that a completing stroke releases: of a DRAIN those of its chains too (R62). -/
def completedRels (t : Tile) (e : Exec) : List (Nat × Nat) :=
  e.rels ++ (if (strokeOf e.stroke).op == opDrain then
    (e.banks.flatMap fun b => ((bankOf t b).chain.map (·.rels)).getD []).dedup else [])

theorem presentWrites_rest (t : Tile) (xs : List (Nat × Nat)) : { presentWrites t xs with buffers := t.buffers } = t :=
  foldl_tile_rest _ (fun t x => by cases h : slotOf t x <;> rfl) xs t

theorem slotOf_putSlot {t : Tile} {x : Nat × Nat} {w : TSlot} (hx : slotOf t x = some w) (v : TSlot) (y : Nat × Nat) :
    slotOf (putSlot t x v) y = if y = x then some v else slotOf t y := by
  obtain ⟨a, j⟩ := x
  obtain ⟨c, l⟩ := y
  obtain ⟨b, hb, -⟩ := Option.bind_eq_some_iff.1 hx
  by_cases hc : c = a
  · subst hc
    by_cases hl : l = j
    · simp [slotOf, putSlot, mapFind_mapUpd, hb, hl]
    · simp [slotOf, putSlot, mapFind_mapUpd, hb, hl, mapFind_mapPut_other _ _ hl]
  · simp [slotOf, putSlot, mapFind_mapUpd_ne _ _ hc, hc]

theorem slotOf_presentWrites (t : Tile) (xs : List (Nat × Nat)) (x : Nat × Nat) :
    slotOf (presentWrites t xs) x = if x ∈ xs then (slotOf t x).map fun v => { v with st := .present } else slotOf t x := by
  induction xs generalizing t with
  | nil => rfl
  | cons y xs ih =>
    have hstep : presentWrites t (y :: xs) = presentWrites (match slotOf t y with
      | some v => putSlot t y { v with st := .present }
      | none => t) xs := rfl
    rw [hstep, ih]
    cases hy : slotOf t y with
    | none =>
      by_cases h : x = y
      · subst h; simp [hy]
      · simp [h]
    | some v =>
      simp only [slotOf_putSlot hy]
      by_cases h : x = y
      · subst h; simp [hy]
      · simp [h]

theorem mapFind_endChains (m : SMap Bank) (bs : List Nat) (b : Nat) :
    mapFind (endChains m bs) b = if b ∈ bs then (mapFind m b).map fun bk => { bk with chain := none } else mapFind m b := by
  induction bs generalizing m with
  | nil => rfl
  | cons a bs ih =>
    have hstep : endChains m (a :: bs) = endChains (mapUpd m a fun bk => { bk with chain := none }) bs := rfl
    rw [hstep, ih]
    by_cases h : b = a
    · subst h; simp [mapFind_mapUpd, Function.comp_def]
    · simp [h, mapFind_mapUpd_ne _ _ h]

theorem endChains_chain (m : SMap Bank) {bs : List Nat} {b : Nat} (h : b ∈ bs) :
    (mapGet (endChains m bs) b Bank.cleared).chain = none := by
  unfold mapGet
  rw [mapFind_endChains, if_pos h]
  cases mapFind m b <;> rfl

@[simp] theorem presentWrites_exec (t : Tile) (xs : List (Nat × Nat)) : (presentWrites t xs).exec = t.exec :=
  (congrArg Tile.exec (presentWrites_rest t xs) :)
@[simp] theorem presentWrites_counts (t : Tile) (xs : List (Nat × Nat)) : (presentWrites t xs).counts = t.counts :=
  (congrArg Tile.counts (presentWrites_rest t xs) :)
@[simp] theorem presentWrites_banks (t : Tile) (xs : List (Nat × Nat)) : (presentWrites t xs).banks = t.banks :=
  (congrArg Tile.banks (presentWrites_rest t xs) :)

theorem noteNan_rest (t : Tile) (e : Exec) : { noteNan t e with nan := t.nan } = t := by
  unfold noteNan
  split <;> rfl

@[simp] theorem noteNan_exec (t : Tile) (e : Exec) : (noteNan t e).exec = t.exec := (congrArg Tile.exec (noteNan_rest t e) :)
@[simp] theorem noteNan_counts (t : Tile) (e : Exec) : (noteNan t e).counts = t.counts :=
  (congrArg Tile.counts (noteNan_rest t e) :)
@[simp] theorem noteNan_banks (t : Tile) (e : Exec) : (noteNan t e).banks = t.banks :=
  (congrArg Tile.banks (noteNan_rest t e) :)
@[simp] theorem noteNan_buffers (t : Tile) (e : Exec) : (noteNan t e).buffers = t.buffers :=
  (congrArg Tile.buffers (noteNan_rest t e) :)

@[simp] theorem completed_exec (t : Tile) (idx : Nat) (e : Exec) : (completed t idx e).exec = listDrop t.exec idx := by
  unfold completed
  dsimp only
  split_ifs <;> simp
@[simp] theorem completed_counts (t : Tile) (idx : Nat) (e : Exec) :
    (completed t idx e).counts = { t.counts with checks := t.counts.checks + e.checks } := by
  unfold completed
  dsimp only
  split_ifs <;> simp
@[simp] theorem completed_banks (t : Tile) (idx : Nat) (e : Exec) :
    (completed t idx e).banks = if (strokeOf e.stroke).op = opDrain then endChains t.banks e.banks else t.banks := by
  unfold completed
  dsimp only
  split_ifs <;> simp_all
@[simp] theorem completed_buffers (t : Tile) (idx : Nat) (e : Exec) :
    (completed t idx e).buffers = (presentWrites t e.writes).buffers := by
  unfold completed
  dsimp only
  split_ifs <;> simp

/-- The cells of every bank and the strokes of every open chain stand. -/
def SameSums (t v : Tile) : Prop :=
  ∀ b, (bankOf v b).cells = (bankOf t b).cells ∧ (bankOf v b).chain.map (·.steps) = (bankOf t b).chain.map (·.steps)

theorem SameSums.of_banks {t v : Tile} (h : v.banks = t.banks) : SameSums t v := fun b => by simp [bankOf, h]

theorem SameSums.trans {t v w : Tile} (h : SameSums t v) (h' : SameSums v w) : SameSums t w :=
  fun b => ⟨(h' b).1.trans (h b).1, (h' b).2.trans (h b).2⟩

theorem SameSums.chain_none {t v : Tile} (h : SameSums t v) {b : Nat} (hb : (bankOf t b).chain = none) :
    (bankOf v b).chain = none := by
  obtain ⟨-, hs⟩ := h b
  simpa [hb] using hs

theorem mapFind_mapAll {α β : Type} (m : SMap α) (f : Nat → α → β) (k : Nat) :
    mapFind (mapAll m f) k = (mapFind m k).map (f k) := by
  induction m with
  | nil => rfl
  | cons x m ih =>
    obtain ⟨j, a⟩ := x
    simp only [mapAll, List.map_cons, mapFind]
    split_ifs with h h'
    · subst h; rfl
    · rfl
    · exact ih

/-- A release that waits for a chain adds to what the chain owes and nothing else. -/
theorem sameSums_releaseUse (s : State) (p : Nat) (x : Nat × Nat) : SameSums (tileOf s p) (tileOf (releaseUse s p x) p) := by
  by_cases h : InChain (tileOf s p) x
  · intro b
    simp only [releaseUse, (inChain_iff _ x).2 h, if_true, tileOf_setTile, bankOf, mapGet, mapFind_mapAll]
    cases mapFind (tileOf s p).banks b with
    | none => exact ⟨rfl, rfl⟩
    | some bk =>
      refine ⟨rfl, ?_⟩
      cases hc : bk.chain with
      | none => simp [hc]
      | some c => simp only [Option.map_some, Option.getD_some, hc]; split_ifs <;> rfl
  · rw [releaseUse_free h]
    exact .of_banks (congrArg Tile.banks (releaseSlot_tile s p x) :)

theorem sameSums_releaseAll (s : State) (p : Nat) (xs : List (Nat × Nat)) :
    SameSums (tileOf s p) (tileOf (releaseAll s p xs) p) := by
  induction xs generalizing s with
  | nil => exact .of_banks rfl
  | cons x xs ih => exact (sameSums_releaseUse s p x).trans (ih (releaseUse s p x))

/-- What waited for a stroke boundary. -/
def settled (s : State) (p : Nat) : State := if atBoundary (tileOf s p) then settle s p else s

theorem settled_tile (s : State) (p : Nat) :
    { tileOf (settled s p) p with
      freq := (tileOf s p).freq, vofs := (tileOf s p).vofs, change := (tileOf s p).change, runFreq := (tileOf s p).runFreq } =
      tileOf s p := by
  unfold settled settle
  split_ifs
  · rw [tileOf_updTile]
    unfold applyChange
    split <;> rfl
  · rfl

theorem settled_frame (s : State) (p : Nat) : { settled s p with tiles := s.tiles } = s := by
  unfold settled
  split_ifs <;> rfl

theorem settled_other (s : State) {p q : Nat} (hq : q ≠ p) : tileOf (settled s p) q = tileOf s q := by
  unfold settled settle
  split_ifs
  · exact tileOf_updTile_ne s _ hq
  · rfl

/-- The module when an executing stroke has completed, before its releases. -/
def completedIn (s : State) (p idx : Nat) (e : Exec) : State :=
  let v := setTile s p (completed (tileOf s p) idx e)
  if e.repeated then tileRec v p .detected 4 e.addr 0 else v

theorem finishExec_eq (s : State) (p idx : Nat) (e : Exec) :
    finishExec s p idx e = settled (releaseAll (completedIn s p idx e) p (completedRels (tileOf s p) e)) p := rfl

theorem completedIn_frame (s : State) (p idx : Nat) (e : Exec) :
    { completedIn s p idx e with
      tiles := s.tiles, integ := s.integ, host := s.host, easel := s.easel, freeCtr := s.freeCtr } = s := by
  unfold completedIn
  dsimp only
  split_ifs
  · exact (congrArg (fun u : State => { u with tiles := s.tiles }) (tileRec_frame _ p .detected 4 e.addr 0 false) :)
  · rfl

@[simp] theorem tileOf_completedIn (s : State) (p idx : Nat) (e : Exec) :
    tileOf (completedIn s p idx e) p = completed (tileOf s p) idx e := by
  unfold completedIn
  dsimp only
  split_ifs <;> simp [tileOf_tileRec]

theorem tileOf_completedIn_ne (s : State) {p q : Nat} (idx : Nat) (e : Exec) (hq : q ≠ p) :
    tileOf (completedIn s p idx e) q = tileOf s q := by
  unfold completedIn
  dsimp only
  split_ifs
  · rw [tileOf_tileRec, tileOf_setTile_ne _ _ hq]
  · exact tileOf_setTile_ne _ _ hq

theorem finishExec_frame (s : State) (p idx : Nat) (e : Exec) :
    { finishExec s p idx e with
      tiles := s.tiles, streams := s.streams, integ := s.integ, host := s.host, easel := s.easel, freeCtr := s.freeCtr } = s := by
  rw [finishExec_eq]
  generalize hv : completedIn s p idx e = v
  have hvs := completedIn_frame s p idx e
  rw [hv] at hvs
  have hr := releaseAll_frame v p (completedRels (tileOf s p) e)
  generalize releaseAll v p (completedRels (tileOf s p) e) = w at *
  have hs := settled_frame w p
  generalize settled w p = u at *
  have hwv := congrArg (fun x : State => { x with tiles := v.tiles, streams := v.streams }) hs
  have huv := hwv.trans hr
  exact (congrArg (fun x : State => { x with
    tiles := s.tiles, streams := s.streams, integ := s.integ, host := s.host, easel := s.easel, freeCtr := s.freeCtr }) huv).trans
    (congrArg (fun x : State => { x with streams := s.streams }) hvs)

theorem tileOf_finishExec_ne (s : State) {p q : Nat} (idx : Nat) (e : Exec) (hq : q ≠ p) :
    tileOf (finishExec s p idx e) q = tileOf s q := by
  rw [finishExec_eq, settled_other _ hq, releaseAll_other _ _ hq, tileOf_completedIn_ne s idx e hq]

theorem finishExec_exec (s : State) (p idx : Nat) (e : Exec) :
    (tileOf (finishExec s p idx e) p).exec = listDrop (tileOf s p).exec idx := by
  rw [finishExec_eq, (congrArg Tile.exec (settled_tile _ p) :), (congrArg Tile.exec (releaseAll_tile _ p _) :), tileOf_completedIn,
    completed_exec]

theorem finishExec_counts (s : State) (p idx : Nat) (e : Exec) :
    (tileOf (finishExec s p idx e) p).counts =
      { (tileOf s p).counts with checks := (tileOf s p).counts.checks + e.checks } := by
  rw [finishExec_eq, (congrArg Tile.counts (settled_tile _ p) :), (congrArg Tile.counts (releaseAll_tile _ p _) :),
    tileOf_completedIn, completed_counts]

/-- A completion that releases nothing. -/
theorem finishExec_no_rels {s : State} {p idx : Nat} {e : Exec} (hr : e.rels = []) (hk : (strokeOf e.stroke).op ≠ opDrain) :
    (tileOf (finishExec s p idx e) p).banks = (tileOf s p).banks ∧
    (tileOf (finishExec s p idx e) p).buffers = (presentWrites (tileOf s p) e.writes).buffers := by
  have hn : completedRels (tileOf s p) e = [] := by simp [completedRels, hr, hk]
  rw [finishExec_eq, hn, (congrArg Tile.banks (settled_tile _ p) :), (congrArg Tile.buffers (settled_tile _ p) :)]
  simp [releaseAll, hk]

theorem finishExec_sums (s : State) (p idx : Nat) (e : Exec) :
    SameSums (completed (tileOf s p) idx e) (tileOf (finishExec s p idx e) p) := by
  rw [finishExec_eq, ← tileOf_completedIn]
  exact (sameSums_releaseAll _ p _).trans (.of_banks (congrArg Tile.banks (settled_tile _ p) :))

/-! STROKE_COMPLETE: its monitors and its upsets. -/

/-- The tile with the errors of its store and stroke memory that the monitors of a completing stroke report. -/
def monitored (t : Tile) (obs : StrokeObs) : Tile :=
  { t with
    counts.storeCe := satAdd (ones 32) t.counts.storeCe obs.storeCe
    counts.storeUe := satAdd (ones 16) t.counts.storeUe obs.storeUe
    counts.strokeCe := satAdd (ones 16) t.counts.strokeCe obs.strokeCe }

/-- The residue mismatches of a completing stroke that its upsets do not count (R63, R443). -/
def mismatches (t : Tile) (e : Exec) (obs : StrokeObs) : Nat :=
  b2n obs.mismatch + b2n ((strokeOf e.stroke).op == opDrain && e.banks.any fun b => chainBad (bankOf t b))

/-- The module when the monitors have reported and the upsets that no check has seen stand. -/
def upsetIn (s : State) (p : Nat) (e : Exec) (obs : StrokeObs) : State :=
  let k := strokeOf e.stroke
  let x := applyUpsets (monitored (tileOf s p) obs) e k obs.upsets
  let v := setTile s p (monitored (tileOf s p) obs)
  if 0 < x.2 && k.op != opMma && k.op != opPreload then v else setTile v p x.1

theorem execStrokeComplete_clean {s : State} {p idx : Nat} {e : Exec} {obs : StrokeObs} (hp : p < Config.tiles)
    (he : (tileOf s p).exec[idx]? = some e) (hs : (tileOf s p).st = .running ∨ (tileOf s p).st = .quiescing)
    (hue : obs.storeUe = 0) (hsu : obs.strokeUe = false) :
    exec (.strokeComplete p idx obs) s = .next
      (let n := (applyUpsets (monitored (tileOf s p) obs) e (strokeOf e.stroke) obs.upsets).2 + mismatches (tileOf s p) e obs
       if 0 < n && residueStroke (strokeOf e.stroke) then mismatchExec (upsetIn s p e obs) p idx e n
       else finishExec (upsetIn s p e obs) p idx e) := by
  refine (onUnit_tile hp _).trans (congrArg _ ?_)
  have hst : ((tileOf s p).st != .running && (tileOf s p).st != .quiescing) = false := by
    obtain h | h := hs <;> simp [h]
  simp only [he, hst, Bool.false_eq_true, if_false, hue, if_true, hsu, tileOf_setTile, upsetIn, mismatches, monitored, Nat.add_assoc]
  rfl

theorem residueStroke_drain {k : Stroke} (h : k.op = opDrain) : residueStroke k = true := by
  simp [residueStroke, h]

theorem upsetIn_frame (s : State) (p : Nat) (e : Exec) (obs : StrokeObs) :
    { upsetIn s p e obs with tiles := s.tiles } = s := by
  unfold upsetIn
  dsimp only
  split_ifs <;> rfl

theorem tileOf_upsetIn_ne (s : State) {p q : Nat} (e : Exec) (obs : StrokeObs) (hq : q ≠ p) :
    tileOf (upsetIn s p e obs) q = tileOf s q := by
  unfold upsetIn
  dsimp only
  split_ifs
  · rw [tileOf_setTile_ne _ _ hq]
  · rw [tileOf_setTile_ne _ _ hq, tileOf_setTile_ne _ _ hq]

/-- With no upset the tile is as the monitors leave it. -/
theorem tileOf_upsetIn_nil {s : State} {p : Nat} {e : Exec} {obs : StrokeObs} (h : obs.upsets = []) :
    tileOf (upsetIn s p e obs) p = monitored (tileOf s p) obs := by
  simp [upsetIn, h, applyUpsets]

/-- Upsets of a stroke that writes no bank change the buffers of the tile and nothing else. -/
theorem applyUpsets_rest {k : Stroke} (hm : k.op ≠ opMma) (hp : k.op ≠ opPreload) (t : Tile) (e : Exec) (us : List Upset) :
    { (applyUpsets t e k us).1 with buffers := t.buffers } = t := by
  unfold applyUpsets
  generalize 0 = n
  induction us generalizing t n with
  | nil => rfl
  | cons u us ih =>
    rw [List.foldl_cons]
    simp only [hm, hp, or_self, if_false] at ih ⊢
    split
    · exact ih _ _
    · split
      · exact ih _ _
      · exact (congrArg (fun v : Tile => { v with buffers := t.buffers }) (ih _ _) :)

theorem tileOf_upsetIn_rest {s : State} {p : Nat} {e : Exec} (hm : (strokeOf e.stroke).op ≠ opMma)
    (hp : (strokeOf e.stroke).op ≠ opPreload) (obs : StrokeObs) :
    { tileOf (upsetIn s p e obs) p with buffers := (tileOf s p).buffers } = monitored (tileOf s p) obs := by
  unfold upsetIn
  dsimp only
  split_ifs
  · rw [tileOf_setTile]; rfl
  · rw [tileOf_setTile]
    exact applyUpsets_rest hm hp (monitored (tileOf s p) obs) e obs.upsets

/-- STROKE_COMPLETE with no error and no mismatch. -/
theorem strokeComplete_ends {s : State} {p idx : Nat} {e : Exec} {obs : StrokeObs} (hp : p < Config.tiles)
    (he : (tileOf s p).exec[idx]? = some e) (hs : (tileOf s p).st = .running ∨ (tileOf s p).st = .quiescing)
    (hm : obs.mismatch = false) (hu : obs.upsets = []) (hue : obs.storeUe = 0) (hsu : obs.strokeUe = false)
    (hb : (strokeOf e.stroke).op = opDrain → ∀ b ∈ e.banks, chainBad (bankOf (tileOf s p) b) = false) :
    ∃ u, exec (.strokeComplete p idx obs) s = .next u ∧
      { u with tiles := s.tiles, streams := s.streams, integ := s.integ, host := s.host, easel := s.easel,
               freeCtr := s.freeCtr } = s ∧
      (∀ q, q ≠ p → tileOf u q = tileOf s q) ∧ (tileOf u p).exec = listDrop (tileOf s p).exec idx ∧
      (tileOf u p).counts.checks = (tileOf s p).counts.checks + e.checks ∧
      (tileOf u p).counts.storeCe = satAdd (ones 32) (tileOf s p).counts.storeCe obs.storeCe ∧
      ((strokeOf e.stroke).op ≠ opDrain → e.rels = [] → (tileOf u p).banks = (tileOf s p).banks) ∧
      ((strokeOf e.stroke).op ≠ opDrain → ∀ b, (bankOf (tileOf u p) b).cells = (bankOf (tileOf s p) b).cells ∧
        (bankOf (tileOf u p) b).chain.map (·.steps) = (bankOf (tileOf s p) b).chain.map (·.steps)) ∧
      ((strokeOf e.stroke).op = opDrain → ∀ b ∈ e.banks, (bankOf (tileOf u p) b).chain = none) ∧
      (e.rels = [] → (strokeOf e.stroke).op ≠ opDrain → ∀ x ∈ e.writes, ∀ v, slotOf (tileOf s p) x = some v →
        slotOf (tileOf u p) x = some { v with st := .present }) := by
  have hn : (applyUpsets (monitored (tileOf s p) obs) e (strokeOf e.stroke) obs.upsets).2 + mismatches (tileOf s p) e obs = 0 := by
    have hbad : ((strokeOf e.stroke).op == opDrain && e.banks.any fun b => chainBad (bankOf (tileOf s p) b)) = false := by
      by_cases hk : (strokeOf e.stroke).op = opDrain
      · simpa [hk] using hb hk
      · simp [hk]
    simp [hu, applyUpsets, mismatches, hm, hbad, b2n]
  have hx := execStrokeComplete_clean hp he hs hue hsu
  simp only [hn, Nat.lt_irrefl, decide_false, Bool.false_and, Bool.false_eq_true, if_false] at hx
  have ht := tileOf_upsetIn_nil (s := s) (p := p) (e := e) hu
  have hf := upsetIn_frame s p e obs
  have ho := fun q (hq : q ≠ p) => tileOf_upsetIn_ne s e obs hq
  generalize upsetIn s p e obs = v at *
  have hsums := finishExec_sums v p idx e
  refine ⟨_, hx, ?_, fun q hq => (tileOf_finishExec_ne v idx e hq).trans (ho q hq), ?_, ?_, ?_, fun hk hr => ?_, fun hk b => ?_,
    fun hk b hb => ?_, fun hr hk x hx v' hv => ?_⟩
  · have hv := finishExec_frame v p idx e
    exact (congrArg (fun x : State => { x with
      tiles := s.tiles, streams := s.streams, integ := s.integ, host := s.host, easel := s.easel, freeCtr := s.freeCtr })
      hv).trans (congrArg (fun x : State => { x with
        streams := s.streams, integ := s.integ, host := s.host, easel := s.easel, freeCtr := s.freeCtr }) hf)
  · rw [finishExec_exec, ht]; rfl
  · rw [finishExec_counts, ht]; rfl
  · rw [finishExec_counts, ht]; rfl
  · rw [(finishExec_no_rels hr hk).1, ht]; rfl
  · have hc : SameSums (tileOf s p) (completed (tileOf v p) idx e) := .of_banks (by simp [hk, ht, monitored])
    exact (hc.trans hsums) b
  · refine hsums.chain_none ?_
    simpa [bankOf, hk] using endChains_chain _ hb
  · rw [slotOf_of_buffers (finishExec_no_rels hr hk).2, slotOf_presentWrites, if_pos hx, ht]
    exact congrArg _ hv

theorem rerunDrain_streams (s : State) (p idx : Nat) (e : Exec) (c : Bool) : (rerunDrain s p idx e c).streams = s.streams :=
  field_of_view State.streams .streams (by simp)

theorem tileOf_drainSheets (s : State) (t : Tile) (k : Stroke) (q : Nat) : tileOf (drainSheets s t k).2 q = tileOf s q := by
  have h : (drainSheets s t k).2.tiles = s.tiles := field_of_view State.tiles .tiles (by simp)
  simp only [tileOf, h]

theorem tileOf_rerunDrain_ne (s : State) {p q : Nat} (idx : Nat) (e : Exec) (c : Bool) (hq : q ≠ p) :
    tileOf (rerunDrain s p idx e c) q = tileOf s q := by
  unfold rerunDrain
  dsimp only
  rw [tileOf_setTile_ne _ _ hq, tileOf_drainSheets]
  rfl

theorem getElem?_listUpd {α : Type} {l : List α} {i : Nat} {a : α} (h : l[i]? = some a) (f : α → α) :
    (listUpd l i f)[i]? = some (f a) := by
  induction l generalizing i with
  | nil => simp at h
  | cons b l ih =>
    cases i with
    | zero => cases h; rfl
    | succ i => exact ih (by simpa using h)

/-- Output put into reserved slots touches the buffers only. -/
theorem foldl_putReserved_rest (l : List (Nat × Nat × Sheet)) (t : Tile) :
    { l.foldl (fun t o => putSlot t (o.1, o.2.1) ⟨.reserved, false, o.2.2⟩) t with buffers := t.buffers } = t :=
  foldl_tile_rest (fun t o => putSlot t (o.1, o.2.1) ⟨.reserved, false, o.2.2⟩) (fun _ _ => rfl) l t

/-- A DRAIN that repeats (R63): its output is new, its slots are the same and still reserved. -/
theorem rerunDrain_tile {s : State} {p idx : Nat} {e : Exec} (c : Bool) (he : (tileOf s p).exec[idx]? = some e) :
    (∃ e', (tileOf (rerunDrain s p idx e c) p).exec[idx]? = some e' ∧ e'.repeated = true ∧ e'.writes = e.writes) ∧
    (tileOf (rerunDrain s p idx e c) p).st = (tileOf s p).st ∧
    (tileOf (rerunDrain s p idx e c) p).faults = (tileOf s p).faults := by
  unfold rerunDrain
  dsimp only
  rw [tileOf_setTile]
  refine ⟨⟨_, getElem?_listUpd (a := e) ?_ _, rfl, rfl⟩, ?_, ?_⟩
  · rw [(congrArg Tile.exec (foldl_putReserved_rest _ _) :)]
    exact he
  · exact (congrArg Tile.st (foldl_putReserved_rest _ _) :)
  · exact (congrArg Tile.faults (foldl_putReserved_rest _ _) :)

/-- A DRAIN's mismatch: the first repeats it, the second halts the tile (R63). -/
theorem mismatchExec_drain {s : State} {p idx : Nat} {e : Exec} (n : Nat) (hk : (strokeOf e.stroke).op = opDrain) :
    mismatchExec s p idx e n =
      if e.repeated then
        haltTile (updTile s p fun t => { t with counts.repeats := satAdd (ones 32) t.counts.repeats 1 }) p faultResidue .detected
          4 e.addr 1
      else rerunDrain s p idx e (e.banks.any fun b => ((bankOf (tileOf s p) b).chain.map (·.bad)).getD false) := by
  have hb : ¬ (opDrain = opMma ∨ opDrain = opPreload) := by decide
  simp only [mismatchExec, hk, hb, if_false, if_true]

/-- STROKE_COMPLETE of a DRAIN whose residues do not agree (R63). -/
theorem strokeComplete_repeats {s : State} {p idx : Nat} {e : Exec} {obs : StrokeObs} (hp : p < Config.tiles)
    (he : (tileOf s p).exec[idx]? = some e) (hs : (tileOf s p).st = .running ∨ (tileOf s p).st = .quiescing)
    (hk : (strokeOf e.stroke).op = opDrain) (hue : obs.storeUe = 0) (hsu : obs.strokeUe = false)
    (hb : obs.mismatch = true ∨ ∃ b ∈ e.banks, chainBad (bankOf (tileOf s p) b) = true) :
    (e.repeated = false → ∃ u e', exec (.strokeComplete p idx obs) s = .next u ∧ (tileOf u p).exec[idx]? = some e' ∧
      e'.repeated = true ∧ e'.writes = e.writes ∧ (tileOf u p).st = (tileOf s p).st ∧ (tileOf u p).faults = (tileOf s p).faults ∧
      u.streams = s.streams ∧ ∀ q, q ≠ p → tileOf u q = tileOf s q) ∧
    (e.repeated = true → ∃ u, exec (.strokeComplete p idx obs) s = .next u ∧ (tileOf u p).st = .fault ∧
      (tileOf u p).faults = (tileOf s p).faults ||| 1 ∧ u.streams = s.streams) := by
  have hn : 0 < mismatches (tileOf s p) e obs := by
    unfold mismatches
    obtain hm | hc := hb
    · simp [hm, b2n]
    · have hany : (e.banks.any fun b => chainBad (bankOf (tileOf s p) b)) = true := by simpa using hc
      simp [hk, hany, b2n]
  have hM : (strokeOf e.stroke).op ≠ opMma := by simp [hk, opDrain, opMma]
  have hP : (strokeOf e.stroke).op ≠ opPreload := by simp [hk, opDrain, opPreload]
  have hx := execStrokeComplete_clean hp he hs hue hsu
  simp only [Nat.add_pos_right _ hn, decide_true, residueStroke_drain hk, Bool.and_self, if_true,
    mismatchExec_drain _ hk] at hx
  have hv := tileOf_upsetIn_rest (s := s) (p := p) hM hP obs
  have hf := upsetIn_frame s p e obs
  have ho := fun q (hq : q ≠ p) => tileOf_upsetIn_ne s e obs hq
  generalize upsetIn s p e obs = v at *
  have hexec : (tileOf v p).exec = (tileOf s p).exec := (congrArg Tile.exec hv :)
  have hst : (tileOf v p).st = (tileOf s p).st := (congrArg Tile.st hv :)
  have hfault : (tileOf v p).faults = (tileOf s p).faults := (congrArg Tile.faults hv :)
  have hstreams : v.streams = s.streams := (congrArg State.streams hf :)
  refine ⟨fun hr => ?_, fun hr => ?_⟩
  · simp only [hr, Bool.false_eq_true, if_false] at hx
    obtain ⟨⟨e', he', hrep, hw⟩, hst', hfault'⟩ := rerunDrain_tile (idx := idx)
      (e.banks.any fun b => ((bankOf (tileOf v p) b).chain.map (·.bad)).getD false) (hexec ▸ he)
    exact ⟨_, e', hx, he', hrep, hw, hst'.trans hst, hfault'.trans hfault, (rerunDrain_streams v p idx e _).trans hstreams,
      fun q hq => (tileOf_rerunDrain_ne v idx e _ hq).trans (ho q hq)⟩
  · simp only [hr, if_true] at hx
    refine ⟨_, hx, ?_⟩
    rw [tileOf_haltTile, tileOf_updTile, tileFault_running _ (hst ▸ hs)]
    refine ⟨rfl, congrArg (· ||| _) hfault, Eq.trans ?_ hstreams⟩
    exact (congrArg State.streams (haltTile_frame (updTile v p _) p _ _ _ _ _) :)

/-- Settles O14: the clauses of EMIT, RELEASE, INVALID_STROKE and STROKE_COMPLETE. -/
theorem slotStrokesAndEndsOfStrokes : Obligations.SlotStrokesAndEndsOfStrokes :=
  fun _ _ _ _ _ _ hp =>
    ⟨fun ce ue r h hr hl => emit_completes hp ce ue r h hr hl, release_completes hp,
      fun _ hz hr => invalidStroke_completes hp hz hr,
      fun _ _ _ he hs hm hu hue hsu hb => strokeComplete_ends hp he hs hm hu hue hsu hb,
      fun _ _ _ he hs hk hue hsu hb => strokeComplete_repeats hp he hs hk hue hsu hb⟩

end Sys2Proof.Proofs

namespace Sys2Proof.Proofs
open Sys2Proof Sys2Proof.Machine Sys2Proof.Safety

/-! ## The events of a tile beside its strokes (R64, R71, R77 to R79, R113 to R115) -/

/-- A record at the head of the ring is about the unit and the operation that it was written for. -/
theorem recordErr_head_unit (s : State) (a : RecArgs) :
    ∃ r rs, (recordErr s a).integ.recs = r :: rs ∧ r.cls = a.cls ∧ r.unitKind = a.unitKind ∧ r.op = a.op := by
  unfold recordErr
  dsimp only
  split
  next rs h =>
    cases hr : s.integ.recs with
    | nil => simp [hr] at h
    | cons n rest =>
      simp only [hr] at h
      split at h
      next hm =>
        cases h
        simp only [recMerges, Bool.and_eq_true, beq_iff_eq] at hm
        obtain ⟨⟨⟨⟨⟨⟨hc, hk⟩, -⟩, ho⟩, -⟩, -⟩, -⟩ := hm
        exact ⟨_, _, rfl, hc, hk, ho⟩
      · cases h
  · exact ⟨_, _, reportRec_recs _ _, rfl, rfl, rfl⟩

theorem tileOf_retire (s : State) (p q : Nat) : tileOf (retireTile s p) q =
    tileOf (updTile s p fun t => { t with role := .retired, st := .retired, testBusy := false }) q := by
  have h : (retireTile s p).tiles =
      (updTile s p fun t => { t with role := .retired, st := .retired, testBusy := false }).tiles :=
    field_of_view State.tiles .tiles (by simp [retireTile])
  simp only [tileOf, h]

theorem tileOf_retireTile (s : State) (p : Nat) :
    tileOf (retireTile s p) p = { tileOf s p with role := .retired, st := .retired, testBusy := false } :=
  (tileOf_retire s p p).trans (tileOf_updTile s p _)

theorem tileOf_retireTile_ne (s : State) {p q : Nat} (hq : q ≠ p) : tileOf (retireTile s p) q = tileOf s q :=
  (tileOf_retire s p q).trans (tileOf_updTile_ne s _ hq)

theorem retireTile_mem (s : State) (p : Nat) : (retireTile s p).mem = s.mem := field_of_view State.mem .memory (by simp)

theorem retireTile_streams (s : State) (p : Nat) : (retireTile s p).streams = s.streams :=
  field_of_view State.streams .streams (by simp)

theorem tileFault_halts {t : Tile} (bit : Nat) (ho : t.st ≠ .off) (hr : t.st ≠ .retired) :
    tileFault t bit true = { t with st := .fault, faults := t.faults ||| BitVec.ofNat 7 (2 ^ bit), testBusy := false } := by
  simp [tileFault, ho, hr]

theorem execHandshakeTimeout_halts {s : State} {p : Nat} (hp : p < Config.tiles) (ho : (tileOf s p).st ≠ .off)
    (hr : (tileOf s p).st ≠ .retired) :
    exec (.handshakeTimeout p) s = .next
      (let v := updTile s p fun t => tileFault t faultHandshake true
       if (tileOf s p).placed then v else retireTile v p) := by
  refine (onUnit_tile hp _).trans (congrArg _ ?_)
  simp only [tileOf_updTile, tileFault_halts _ ho hr, true_and, Bool.not_eq_true']
  cases (tileOf s p).placed <;> rfl

theorem clockChange_completes {s : State} {p : Nat} {f : Nat} {v : Int} (hp : p < Config.tiles) (hb : atBoundary (tileOf s p) = true)
    (hc : (tileOf s p).change = some (f, v)) :
    ∃ u, exec (.clockChange p) s = .next u ∧ OnlyTile s u p ∧ (tileOf u p).freq = f ∧ (tileOf u p).vofs = v ∧
      (tileOf u p).change = none ∧ (tileOf u p).runFreq = min f s.power.freqCap ∧
      ((tileOf s p).st = .quiescing → (tileOf s p).replacing = false → (tileOf u p).st = .running) := by
  refine ⟨_, onUnit_tile hp _, ?_⟩
  have ht : tileOf (settle s p) p = { tileOf s p with freq := f, vofs := v, change := none, runFreq := min f s.power.freqCap } := by
    simp only [settle, tileOf_updTile, applyChange, hc]
  simp only [hb, if_true, tileOf_updTile, ht]
  refine ⟨⟨rfl, fun q hq => (tileOf_updTile_ne _ _ hq).trans (tileOf_updTile_ne s _ hq)⟩, ?_⟩
  split_ifs with hst
  · simp
  · exact ⟨rfl, rfl, rfl, rfl, fun hq hr => absurd ⟨hq, by simp [hr]⟩ hst⟩

theorem selfTestEnd_passes {s : State} {p : Nat} (hp : p < Config.tiles) (ht : (tileOf s p).st = .testing) :
    ∃ u, exec (.selfTestEnd p true) s = .next u ∧ OnlyTile s u p ∧ (tileOf u p).testBusy = false ∧
      (tileOf u p).lastPass = true ∧ (tileOf u p).testRuns = satAdd 0xFFFF (tileOf s p).testRuns 1 ∧
      (tileOf u p).testFails = satAdd 0xFFFF (tileOf s p).testFails 0 ∧
      (tileOf u p).st = if (tileOf s p).role = .spare then .spareIdle else .ready := by
  refine ⟨_, onUnit_tile hp _, ?_⟩
  simp only [endTest, ht, bne_self_eq_false, Bool.false_eq_true, if_false, if_true, tileOf_setTile]
  exact ⟨⟨rfl, fun q hq => tileOf_setTile_ne _ _ hq⟩, by simp [setPoint, b2n]⟩

theorem selfTestEnd_fails {s : State} {p : Nat} (hp : p < Config.tiles) (ht : (tileOf s p).st = .testing) :
    ∃ u, exec (.selfTestEnd p false) s = .next u ∧ (∀ q, q ≠ p → tileOf u q = tileOf s q) ∧ u.mem = s.mem ∧
      (tileOf u p).st = .retired ∧ (tileOf u p).role = .retired ∧ (tileOf u p).lastPass = false ∧
      (tileOf u p).testRuns = satAdd 0xFFFF (tileOf s p).testRuns 1 ∧
      (tileOf u p).testFails = satAdd 0xFFFF (tileOf s p).testFails 1 := by
  refine ⟨_, onUnit_tile hp _, ?_⟩
  simp only [endTest, ht, bne_self_eq_false, Bool.false_eq_true, if_false, tileOf_retireTile, tileOf_setTile]
  exact ⟨fun q hq => (tileOf_retireTile_ne _ hq).trans (tileOf_setTile_ne _ _ hq), retireTile_mem _ p, by simp [b2n]⟩

theorem test_starts {s : State} {p : Nat} (hp : p < Config.tiles) (h : (tileOf s p).st = .spareIdle) :
    ∃ u, exec (.test p) s = .next u ∧ OnlyTile s u p ∧ (tileOf u p).st = .testing ∧ (tileOf u p).testBusy = true ∧
      (tileOf u p).buffers = (tileOf s p).buffers ∧ (tileOf u p).counts = (tileOf s p).counts := by
  refine ⟨_, onUnit_tile hp _, ?_⟩
  simp only [writeTest, h, if_true, tileOf_updTile]
  exact ⟨updTile_onlyTile s p _, by simp [startTest, setPoint]⟩

theorem test_refused {s : State} {p : Nat} (hp : p < Config.tiles) (h : (tileOf s p).st ≠ .spareIdle) :
    ∃ u, exec (.test p) s = .next u ∧ SameButReports s u ∧ ∃ r rest, u.integ.recs = r :: rest ∧ r.cls = .protection ∧
      r.unitKind = 11 ∧ r.op = 1 := by
  refine ⟨_, onUnit_tile hp _, ?_⟩
  simp only [writeTest, h, if_false]
  exact ⟨recordErr_frame s _, recordErr_head_unit s _⟩

/-- The record of a context's first NaN (R113, R115). -/
def firstNan (s : State) (p : Nat) (r : TileNan) (trap : Bool) : CtxNan :=
  ⟨s.time, r.seq, r.stream, r.station, trap, p, r.list, r.stroke⟩

/-- The module once the spine has the NaN record of tile `p`. -/
def nanSent (s : State) (p : Nat) (r : TileNan) : State :=
  setTile s p { tileOf s p with nan := some { r with sent := true } }

/-- Whether the image of context `c` has the NaN trap (R114). -/
def hasTrap (s : State) (c : Nat) : Bool := ((ctxOf s c).loaded.map fun l => l.image.nanTrap).getD false

/-- The module with a NaN record in the context of tile `p`. -/
def nanStamped (s : State) (p : Nat) (r : TileNan) (trap : Bool) : State :=
  updCtx (nanSent s p r) (tileOf s p).context fun x => { x with nan := some (firstNan s p r trap) }

section
variable {s : State} {p : Nat} {r : TileNan} (hp : p < Config.tiles) (hn : (tileOf s p).nan = some r) (hs : r.sent = false)
  (hpl : (tileOf s p).placed = true)
include hp hn hs hpl

/-- The first record of a context is stamped, and the trap fires if the image has it. -/
theorem execFirstNanTrap_first (hx : (ctxOf s (tileOf s p).context).nan = none) :
    exec (.firstNanTrap p) s = .next
      (if hasTrap s (tileOf s p).context then
        raiseEvent (nanStamped s p r (hasTrap s (tileOf s p).context)) (evVendor 3) 0xC1
       else nanStamped s p r (hasTrap s (tileOf s p).context)) := by
  refine (onUnit_tile hp _).trans (congrArg _ ?_)
  have hc : (ctxOf (nanSent s p r) (tileOf s p).context).nan = none := hx
  unfold nanSent at hc
  have hgo : (r.sent || !(tileOf s p).placed) = false := by simp [hs, hpl]
  simp only [hn, hgo, Bool.false_eq_true, if_false, hc]
  rfl

/-- A later record replaces the first only when it has the same stamp and a lower tile. -/
theorem execFirstNanTrap_later {o : CtxNan} (hx : (ctxOf s (tileOf s p).context).nan = some o) :
    exec (.firstNanTrap p) s = .next
      (if o.stamp = s.time ∧ p < o.tile then nanStamped s p r o.trapped else nanSent s p r) := by
  refine (onUnit_tile hp _).trans (congrArg _ ?_)
  have hc : (ctxOf (nanSent s p r) (tileOf s p).context).nan = some o := hx
  unfold nanSent at hc
  have hgo : (r.sent || !(tileOf s p).placed) = false := by simp [hs, hpl]
  simp only [hn, hgo, Bool.false_eq_true, if_false, hc]
  rfl

end

theorem nanStamped_frame (s : State) (p : Nat) (r : TileNan) (trap : Bool) :
    { nanStamped s p r trap with tiles := s.tiles, ctxs := s.ctxs } = s := rfl

theorem ctxOf_nanStamped (s : State) (p : Nat) (r : TileNan) (trap : Bool) :
    (ctxOf (nanStamped s p r trap) (tileOf s p).context).nan = some (firstNan s p r trap) := by
  simp [nanStamped]

theorem tileOf_nanSent (s : State) (p : Nat) (r : TileNan) :
    tileOf (nanSent s p r) p = { tileOf s p with nan := some { r with sent := true } } := tileOf_setTile s p _

theorem tileOf_nanSent_ne (s : State) {p q : Nat} (r : TileNan) (hq : q ≠ p) : tileOf (nanSent s p r) q = tileOf s q :=
  tileOf_setTile_ne s _ hq

/-- FIRST_NAN_TRAP (R113 to R115). -/
theorem firstNanTrap_completes {s : State} {p : Nat} {r : TileNan} (hp : p < Config.tiles) (hn : (tileOf s p).nan = some r)
    (hs : r.sent = false) (hpl : (tileOf s p).placed = true) :
    ∃ u, exec (.firstNanTrap p) s = .next u ∧ { u with tiles := s.tiles, ctxs := s.ctxs, host := s.host } = s ∧
      (∀ q, q ≠ p → tileOf u q = tileOf s q) ∧ tileOf u p = { tileOf s p with nan := some { r with sent := true } } ∧
      ((ctxOf s (tileOf s p).context).nan = none →
        ∃ z, (ctxOf u (tileOf s p).context).nan = some z ∧ z.stamp = s.time ∧ z.seq = r.seq ∧ z.tile = p ∧
          z.stroke = r.stroke) ∧
      (∀ o, (ctxOf s (tileOf s p).context).nan = some o → u.host = s.host ∧
        (o.stamp = s.time → p < o.tile → ∃ z, (ctxOf u (tileOf s p).context).nan = some z ∧ z.stamp = s.time ∧ z.seq = r.seq ∧
          z.tile = p ∧ z.stroke = r.stroke ∧ z.trapped = o.trapped) ∧
        ((o.stamp = s.time ∧ p < o.tile) ∨ u.ctxs = s.ctxs)) := by
  cases hx : (ctxOf s (tileOf s p).context).nan with
  | none =>
    refine ⟨_, execFirstNanTrap_first hp hn hs hpl hx, ?_⟩
    generalize hasTrap s (tileOf s p).context = trap
    have hf : { (if trap then raiseEvent (nanStamped s p r trap) (evVendor 3) 0xC1 else nanStamped s p r trap) with host := s.host } =
        nanStamped s p r trap := by
      split
      · exact raiseEvent_frame _ _ _
      · rfl
    generalize (if trap then raiseEvent (nanStamped s p r trap) (evVendor 3) 0xC1 else nanStamped s p r trap) = u at *
    have htile : ∀ q, tileOf u q = tileOf (nanSent s p r) q := fun q => (congrArg (fun v : State => tileOf v q) hf :)
    have hctx : ctxOf u (tileOf s p).context = ctxOf (nanStamped s p r trap) (tileOf s p).context :=
      (congrArg (fun v : State => ctxOf v (tileOf s p).context) hf :)
    refine ⟨(congrArg (fun v : State => { v with tiles := s.tiles, ctxs := s.ctxs }) hf).trans (nanStamped_frame s p r trap),
      fun q hq => (htile q).trans (tileOf_nanSent_ne s r hq), (htile p).trans (tileOf_nanSent s p r), fun _ => ?_,
      fun _ ho => nomatch ho⟩
    exact ⟨_, hctx ▸ ctxOf_nanStamped s p r trap, rfl, rfl, rfl, rfl⟩
  | some o =>
    refine ⟨_, execFirstNanTrap_later hp hn hs hpl hx, ?_⟩
    split_ifs with hw
    · refine ⟨nanStamped_frame s p r _, fun q hq => tileOf_nanSent_ne s r hq, tileOf_nanSent s p r, fun h => (nomatch h), ?_⟩
      rintro _ ⟨⟩
      exact ⟨rfl, fun _ _ => ⟨_, ctxOf_nanStamped s p r _, rfl, rfl, rfl, rfl, rfl⟩, .inl hw⟩
    · refine ⟨rfl, fun q hq => tileOf_nanSent_ne s r hq, tileOf_nanSent s p r, fun h => (nomatch h), ?_⟩
      rintro _ ⟨⟩
      exact ⟨rfl, fun h₁ h₂ => absurd ⟨h₁, h₂⟩ hw, .inr rfl⟩

/-- Settles O15, clause by clause. -/
theorem tileEventsComplete : Obligations.TileEventsComplete := by
  intro s p hp
  refine ⟨⟨_, onUnit_tile hp _, updTile_onlyTile s p _, tileOf_updTile s p _⟩,
    ⟨_, onUnit_tile hp _, updTile_onlyTile s p _, tileOf_updTile s p _⟩, fun ho hr hpl => ?_, fun ho hr hpl => ?_,
    fun _ _ hb hc => clockChange_completes hp hb hc, fun hb => ?_, fun hc hr hb => ?_, test_starts hp, test_refused hp,
    fun ht => ⟨selfTestEnd_passes hp ht, selfTestEnd_fails hp ht⟩, fun _ hn hs hpl => firstNanTrap_completes hp hn hs hpl⟩
  case refine_1 =>
    have hx := execHandshakeTimeout_halts hp ho hr
    simp only [hpl, if_true] at hx
    exact ⟨_, hx, updTile_onlyTile s p _, (tileOf_updTile s p _).trans (tileFault_halts _ ho hr)⟩
  case refine_2 =>
    have hx := execHandshakeTimeout_halts hp ho hr
    simp only [hpl, Bool.false_eq_true, if_false] at hx
    refine ⟨_, hx, ?_⟩
    rw [tileOf_retireTile, tileOf_updTile, tileFault_halts _ ho hr]
    exact ⟨rfl, rfl, rfl, fun q hq => (tileOf_retireTile_ne _ hq).trans (tileOf_updTile_ne s _ hq), retireTile_mem _ p,
      retireTile_streams _ p⟩
  case refine_3 =>
    refine (onUnit_tile hp _).trans (congrArg _ ?_)
    simp only [hb, Bool.false_eq_true, if_false]
  case refine_4 =>
    refine ⟨_, onUnit_tile hp _, ?_⟩
    simp only [hc, hr, hb, beq_self_eq_true, Bool.not_false, Bool.and_self, if_true]
    exact ⟨⟨rfl, fun q hq => tileOf_setTile_ne _ _ hq⟩, tileOf_setTile s p _⟩

end Sys2Proof.Proofs

namespace Sys2Proof.Proofs
open Sys2Proof Sys2Proof.Machine Sys2Proof.Safety

/-! ## The fabric: a listing of the streams that is not canonical -/

/-- A stream of a hard station to tile `p` that holds one sheet and has a credit to send it. -/
def holding (p : Nat) : Machine.Stream :=
  { ctx := 0, localNo := 0, format := 0, shape := 0, srcFmt := 0, grid := none, prod := stnFeed, cons := 0, prodTile := none,
    consTile := some p, consBuf := 0, slots := 1, region := 0, hatchModule := 0, hatchStream := 0, credits := 1, returning := 0,
    inflight := [], holds := [], resendAsked := false, resent := false, nextSend := 0, nextAccept := 0, present := 0,
    accepted := 0, resends := 0, substitutes := 0, zeroNs := 0, lastTag := 0, lastOrigin := 0, queue := [(Sheet.none, true)],
    owed := 0, inbox := [], arrived := [] }

/-- Stream 5 stands twice in the listing: for tile 1, which is what is found, and for tile 0, whose boundary holds a transfer. -/
def twiceListed : State :=
  { State.reset with streams := [(5, holding 1), (5, holding 0)], boundaries := [(tileBoundary 0, ⟨true, 0⟩)] }

/-- Refutes O16: the statement speaks of every state, and where the listing of the streams is not canonical the acknowledge at
the boundary of tile 0 sends what stream 5 holds for tile 1, so that the boundary of tile 1 changes too. (No step reaches such a
listing from the reset state: `stepKeepsTheCanonicalForm`.) -/
theorem not_fabricCompletes : ¬ Obligations.FabricCompletes := by
  intro h
  obtain ⟨hack, -⟩ := h twiceListed
  obtain ⟨u, hu, -, -, -, hother⟩ := hack (tileBoundary 0) (by decide)
  cases hu
  have hsame := congrArg Boundary.outstanding (hother (tileBoundary 1) (by decide))
  exact absurd hsame (by decide)

end Sys2Proof.Proofs

namespace Sys2Proof.Proofs
open Sys2Proof Sys2Proof.Machine Sys2Proof.Safety

/-! ## A descriptor that completes (R384, R391 to R393): what `finishOp` and `setDie` leave, and the four routines -/

theorem finishOp_frame (s : State) (o : Op) (status bucket : Nat) (ew : Bool) (level : Nat) :
    { finishOp s o status bucket ew level with stylus := s.stylus } = s := by
  unfold finishOp
  dsimp only
  split <;> rfl

/-- The completion that a descriptor leaves stands first. -/
theorem finishOp_completes (s : State) (o : Op) (status bucket : Nat) (ew : Bool) (level : Nat) :
    ∃ c, (finishOp s o status bucket ew level).stylus.cpls = c :: s.stylus.cpls ∧ c.status = status ∧ c.tag = o.desc.tag ∧
      c.bucket = bucket := by
  unfold finishOp
  dsimp only
  split <;> exact ⟨_, rfl, rfl, rfl, rfl⟩

@[simp] theorem finishOp_counters (s : State) (o : Op) (status bucket : Nat) (ew : Bool) (level : Nat) :
    (finishOp s o status bucket ew level).stylus.counters = s.stylus.counters :=
  (congrArg (fun u : State => u.stylus.counters) (finishOp_sameButOps s o status bucket ew level) :)

@[simp] theorem finishOp_cs (s : State) (o : Op) (status bucket : Nat) (ew : Bool) (level : Nat) :
    (finishOp s o status bucket ew level).stylus.cs = s.stylus.cs :=
  (congrArg (fun u : State => u.stylus.cs) (finishOp_sameButOps s o status bucket ew level) :)

@[simp] theorem finishOp_mem (s : State) (o : Op) (status bucket : Nat) (ew : Bool) (level : Nat) :
    (finishOp s o status bucket ew level).mem = s.mem := (congrArg State.mem (finishOp_frame s o status bucket ew level) :)

@[simp] theorem finishOp_dies (s : State) (o : Op) (status bucket : Nat) (ew : Bool) (level : Nat) :
    (finishOp s o status bucket ew level).stylus.dies = s.stylus.dies := by
  unfold finishOp
  dsimp only
  split <;> rfl

theorem setDie_frame (s : State) (k : Nat) (d : Die) :
    { setDie s k d with stylus.dies := s.stylus.dies } = s := by
  unfold setDie
  split <;> rfl

theorem dieOf_setDie {s : State} (k : Nat) (d : Die) (h : mapWf s.stylus.dies = true) : dieOf (setDie s k d) k = d := by
  unfold setDie dieOf
  split_ifs with hd
  · simp only [Bool.and_eq_true, Option.isNone_iff_eq_none, List.isEmpty_iff] at hd
    obtain ⟨⟨hr, hs⟩, hw⟩ := hd
    obtain ⟨_, _, _⟩ := d
    cases hr
    cases hs
    cases hw
    simp [mapGet, mapFind_mapDrop _ _ h]
  · exact mapGet_mapPut_same _ _ _ _

/-- The module when the operation that ran on die `k` has ended and the die has gone on. -/
def dieEnded (s : State) (k : Nat) (x : Die) : State := setDie s k (nextOnDie { x with running := none })

theorem dieEnded_frame (s : State) (k : Nat) (x : Die) : { dieEnded s k x with stylus.dies := s.stylus.dies } = s :=
  setDie_frame s k _

theorem dieOf_dieEnded {s : State} (k : Nat) (x : Die) (h : mapWf s.stylus.dies = true) :
    dieOf (dieEnded s k x) k = nextOnDie { x with running := none } := dieOf_setDie k _ h

section
variable {s : State} {k : Nat} {x : Die} {o : Op} (obs : FlashObs)
  (hf : (s.stylus.dies.find? fun p => (p.2.running.map (·.id)) == some o.id) = some (k, x)) (hx : x.running = some o)
include hf hx

theorem execDescriptorComplete_runs (hp : diePowered s k = true) :
    exec (.descriptorComplete o.id obs) s = .next (opDone (dieEnded s k x) o obs) := by
  refine congrArg Host.Outcome.next ?_
  simp only [hf, hx, hp, if_true]
  rfl

theorem execDescriptorComplete_unpowered (hp : diePowered s k = false) :
    exec (.descriptorComplete o.id obs) s = .next s := by
  refine congrArg Host.Outcome.next ?_
  simp only [hf, hx, hp, Bool.false_eq_true, if_false]

end

theorem counterOf_setCounter (s : State) (n v : Nat) : counterOf (setCounter s n v) n = v := by
  simp [counterOf, setCounter]

theorem counterOf_setCounter_ne (s : State) {n m : Nat} (v : Nat) (h : m ≠ n) : counterOf (setCounter s n v) m = counterOf s m := by
  simp [counterOf, setCounter, mapGet_mapPut_other _ _ _ h]

theorem counterOf_of_counters {s u : State} (h : u.stylus.counters = s.stylus.counters) (n : Nat) : counterOf u n = counterOf s n := by
  simp only [counterOf, h]

theorem cellsRead_length (m : Cells) (a n : Nat) : (cellsRead m a n).length = n := by
  induction n generalizing a with
  | zero => rfl
  | succ n ih => simp [cellsRead, ih]

theorem leBytes_length (n v : Nat) : (leBytes n v).length = n := by
  induction n generalizing v with
  | zero => rfl
  | succ n ih => simp [leBytes, ih]

/-- Whether a block of the code store lies in region 2, which holds the configuration records (R244). -/
def inRecords (s : State) (b : Nat) : Bool := ((mapFind s.stylus.regions 2).map fun r => regionHas r b).getD false

/-- The code store when a page has been programmed (R392). -/
def csProgrammed (s : State) (o : Op) (data : Bytes) : State :=
  { s with
    stylus.cs := cellsWrite s.stylus.cs (csBase o.desc.die o.desc.page) data
    stylus.csBad := s.stylus.csBad.filter (· != o.desc.die * 1024 + o.desc.page) }

theorem csProgrammed_frame (s : State) (o : Op) (data : Bytes) : { csProgrammed s o data with stylus := s.stylus } = s := rfl

theorem recordsChanged_frame (s : State) : { recordsChanged s with cache := s.cache } = s := rfl

/-- The module when a page has been programmed: one of a configuration record makes every cached image be validated again (R244). -/
def csWritten (s : State) (o : Op) (data : Bytes) : State :=
  if inRecords s o.desc.die then recordsChanged (csProgrammed s o data) else csProgrammed s o data

theorem csWriteDone_programs {s : State} {o : Op} (hr : o.routine = .csProgram)
    (hw : s.stylus.csUnwritable.contains o.desc.die = false) :
    csWriteDone s o true =
      finishOp (csWritten s o (cellsRead s.mem o.desc.buffer 16384)) o 0 0 false 0 := by
  simp only [csWriteDone, hr, hw, Bool.not_false, Bool.and_self, if_true]
  rfl

theorem csWritten_frame (s : State) (o : Op) (data : Bytes) :
    { csWritten s o data with stylus := s.stylus, cache := s.cache } = s := by
  unfold csWritten
  split
  · exact (congrArg (fun u : State => { u with stylus := s.stylus, cache := s.cache })
      (recordsChanged_frame (csProgrammed s o data)) :)
  · exact (congrArg (fun u : State => { u with cache := s.cache }) (csProgrammed_frame s o data) :)

theorem csWritten_stylus (s : State) (o : Op) (data : Bytes) :
    (csWritten s o data).stylus = (csProgrammed s o data).stylus := by
  unfold csWritten
  split <;> rfl

theorem csWritten_cpls (s : State) (o : Op) (data : Bytes) : (csWritten s o data).stylus.cpls = s.stylus.cpls := by
  rw [csWritten_stylus]
  rfl

theorem csWritten_counters (s : State) (o : Op) (data : Bytes) : (csWritten s o data).stylus.counters = s.stylus.counters := by
  rw [csWritten_stylus]
  rfl

theorem csWritten_cs (s : State) (o : Op) (data : Bytes) :
    (csWritten s o data).stylus.cs = cellsWrite s.stylus.cs (csBase o.desc.die o.desc.page) data := by
  rw [csWritten_stylus]
  rfl

theorem csWritten_cache {s : State} {o : Op} {data : Bytes} (h : inRecords s o.desc.die = false) :
    (csWritten s o data).cache = s.cache := by
  unfold csWritten
  rw [h]
  rfl

theorem csWritten_validated {s : State} {o : Op} {data : Bytes} (h : inRecords s o.desc.die = true) :
    ∀ e ∈ (csWritten s o data).cache, e.2.validated = false := by
  intro e he
  rw [csWritten, if_pos h] at he
  obtain ⟨a, -, rfl⟩ := List.mem_map.1 he
  rfl

section
variable {s : State} {k : Nat} {x : Die} {o : Op} (obs : FlashObs) (hd : mapWf s.stylus.dies = true)
  (hf : (s.stylus.dies.find? fun p => (p.2.running.map (·.id)) == some o.id) = some (k, x)) (hx : x.running = some o)
  (hp : diePowered s k = true)
include hf hx hp

include hd in
theorem rbRead_completes (hm : cellsWf s.mem = true) (hr : o.routine = .rbRead) :
    ∃ u c, exec (.descriptorComplete o.id obs) s = .next u ∧ u.stylus.cpls = c :: s.stylus.cpls ∧ c.status = 0 ∧
      c.tag = o.desc.tag ∧ cellsRead u.mem o.desc.buffer 8 = leBytes 8 (counterOf s o.desc.die) ∧
      (∀ a, (a < o.desc.buffer ∨ o.desc.buffer + 8 ≤ a) → cellRead u.mem a = cellRead s.mem a) ∧
      u.stylus.counters = s.stylus.counters ∧ dieOf u k = nextOnDie { x with running := none } := by
  have hrun := execDescriptorComplete_runs obs hf hx hp
  have hv := dieEnded_frame s k x
  have hdie := dieOf_dieEnded k x hd
  generalize dieEnded s k x = v at *
  have hvm : v.mem = s.mem := (congrArg State.mem hv :)
  have hvc : v.stylus.counters = s.stylus.counters := (congrArg (fun u : State => u.stylus.counters) hv :)
  have hvp : v.stylus.cpls = s.stylus.cpls := (congrArg (fun u : State => u.stylus.cpls) hv :)
  simp only [opDone, hr] at hrun
  set w := memWrite v o.desc.buffer (leBytes 8 (counterOf v o.desc.die)) false with hw
  have hws : w.stylus = v.stylus :=
    (congrArg State.stylus (memWrite_frame v o.desc.buffer (leBytes 8 (counterOf v o.desc.die)) false) :)
  obtain ⟨c, hc, hst, htag, -⟩ := finishOp_completes w o 0 0 false 0
  obtain ⟨hin, hout⟩ := memWrite_read (s := v) o.desc.buffer (leBytes 8 (counterOf v o.desc.die)) false (hvm ▸ hm)
  rw [leBytes_length] at hin hout
  refine ⟨_, c, hrun, ?_, hst, htag, ?_, fun a ha => ?_, ?_, ?_⟩
  · rw [hc, hws, hvp]
  · rw [finishOp_mem, hw, hin, counterOf_of_counters hvc]
  · rw [finishOp_mem, hw, hout a ha, hvm]
  · rw [finishOp_counters, hws, hvc]
  · rw [← hdie]
    simp only [dieOf, finishOp_dies, hws]

include hd in
theorem rbAdvance_completes (hr : o.routine = .rbAdvance) :
    ∃ u c, exec (.descriptorComplete o.id obs) s = .next u ∧ u.stylus.cpls = c :: s.stylus.cpls ∧
      { u with stylus := s.stylus } = s ∧
      (counterOf s o.desc.die < o.desc.value → c.status = 0 ∧ counterOf u o.desc.die = o.desc.value) ∧
      (o.desc.value ≤ counterOf s o.desc.die → c.status = 4 ∧ counterOf u o.desc.die = counterOf s o.desc.die) ∧
      (∀ n, n ≠ o.desc.die → counterOf u n = counterOf s n) ∧ dieOf u k = nextOnDie { x with running := none } := by
  have hrun := execDescriptorComplete_runs obs hf hx hp
  have hv := dieEnded_frame s k x
  have hdie := dieOf_dieEnded k x hd
  generalize dieEnded s k x = v at *
  have hcs : v.stylus.counters = s.stylus.counters := (congrArg (fun u : State => u.stylus.counters) hv :)
  have hvc := counterOf_of_counters hcs
  have hvp : v.stylus.cpls = s.stylus.cpls := (congrArg (fun u : State => u.stylus.cpls) hv :)
  have hvs : { v with stylus := s.stylus } = s := (congrArg (fun u : State => { u with stylus := s.stylus }) hv :)
  simp only [opDone, hr, hvc] at hrun
  split_ifs at hrun with hle
  · obtain ⟨c, hc, hst, -⟩ := finishOp_completes v o 4 0 false 0
    have hcount := counterOf_of_counters (finishOp_counters v o 4 0 false 0)
    refine ⟨_, c, hrun, by rw [hc, hvp], ?_, fun h => absurd h (Nat.not_lt.2 hle), fun _ => ⟨hst, (hcount _).trans (hvc _)⟩,
      fun n _ => (hcount n).trans (hvc n), ?_⟩
    · exact (congrArg (fun u : State => { u with stylus := s.stylus }) (finishOp_frame v o 4 0 false 0)).trans hvs
    · simpa only [dieOf, finishOp_dies] using hdie
  · set w := setCounter v o.desc.die o.desc.value with hw
    obtain ⟨c, hc, hst, -⟩ := finishOp_completes w o 0 0 false 0
    have hcount := counterOf_of_counters (finishOp_counters w o 0 0 false 0)
    refine ⟨_, c, hrun, hc.trans (congrArg (List.cons c) hvp), ?_, fun _ => ⟨hst, (hcount _).trans (counterOf_setCounter _ _ _)⟩,
      fun h => absurd h hle, fun n hn => ((hcount n).trans (counterOf_setCounter_ne v _ hn)).trans (hvc n), ?_⟩
    · exact (congrArg (fun u : State => { u with stylus := s.stylus }) (finishOp_frame w o 0 0 false 0)).trans hvs
    · simp only [dieOf, finishOp_dies]
      exact hdie

theorem calRead_completes (hr : o.routine = .calRead) :
    ∃ u c, exec (.descriptorComplete o.id obs) s = .next u ∧ u.stylus.cpls = c :: s.stylus.cpls ∧ c.status = 0 ∧
      c.bucket = maxBucket obs.corrected ∧ { u with stylus := s.stylus } = s := by
  have hrun := execDescriptorComplete_runs obs hf hx hp
  have hv := dieEnded_frame s k x
  generalize dieEnded s k x = v at *
  simp only [opDone, hr] at hrun
  obtain ⟨c, hc, hst, -, hb⟩ := finishOp_completes v o 0 (maxBucket obs.corrected)
    (decide (ewThreshold v o.desc.space (descSlc o.desc) ≤ maxBucket obs.corrected)) 0
  refine ⟨_, c, hrun, hc.trans (congrArg _ (congrArg (fun u : State => u.stylus.cpls) hv :)), hst, hb, ?_⟩
  exact (congrArg (fun u : State => { u with stylus := s.stylus }) (finishOp_frame v o _ _ _ _)).trans
    (congrArg (fun u : State => { u with stylus := s.stylus }) hv)

/-- CS_PROGRAM (R392): the page takes BUFFER's data, and a page of region 2 makes every cached image be validated again (R244). -/
theorem csProgram_completes (hcs : cellsWf s.stylus.cs = true) (hr : o.routine = .csProgram) (hg : obs.good = true)
    (hw : s.stylus.csUnwritable.contains o.desc.die = false) :
    ∃ u c, exec (.descriptorComplete o.id obs) s = .next u ∧ u.stylus.cpls = c :: s.stylus.cpls ∧ c.status = 0 ∧
      { u with stylus := s.stylus, cache := s.cache } = s ∧
      (((mapFind s.stylus.regions 2).map fun r => regionHas r o.desc.die).getD false = false → u.cache = s.cache) ∧
      (((mapFind s.stylus.regions 2).map fun r => regionHas r o.desc.die).getD false = true →
        ∀ e ∈ u.cache, e.2.validated = false) ∧
      cellsRead u.stylus.cs (csBase o.desc.die o.desc.page) 16384 = cellsRead s.mem o.desc.buffer 16384 ∧
      (∀ a, (a < csBase o.desc.die o.desc.page ∨ csBase o.desc.die o.desc.page + 16384 ≤ a) →
        cellRead u.stylus.cs a = cellRead s.stylus.cs a) ∧ u.stylus.counters = s.stylus.counters := by
  have hrun := execDescriptorComplete_runs obs hf hx hp
  have hv := dieEnded_frame s k x
  generalize dieEnded s k x = v at *
  have hvm : v.mem = s.mem := (congrArg State.mem hv :)
  have hvcs : v.stylus.cs = s.stylus.cs := (congrArg (fun u : State => u.stylus.cs) hv :)
  have hvu : v.stylus.csUnwritable = s.stylus.csUnwritable := (congrArg (fun u : State => u.stylus.csUnwritable) hv :)
  have hvr : inRecords v o.desc.die = inRecords s o.desc.die :=
    (congrArg (fun u : State => inRecords u o.desc.die) hv :)
  have hvp : v.stylus.cpls = s.stylus.cpls := (congrArg (fun u : State => u.stylus.cpls) hv :)
  simp only [opDone, hr, hg, csWriteDone_programs hr (hvu ▸ hw), hvm] at hrun
  have hlen := cellsRead_length s.mem o.desc.buffer 16384
  generalize cellsRead s.mem o.desc.buffer 16384 = data at *
  have hcache : (finishOp (csWritten v o data) o 0 0 false 0).cache = (csWritten v o data).cache :=
    (congrArg State.cache (finishOp_frame _ o 0 0 false 0) :)
  obtain ⟨c, hc, hstatus, -⟩ := finishOp_completes (csWritten v o data) o 0 0 false 0
  refine ⟨_, c, hrun, ?_, hstatus, ?_, fun hn => ?_, fun hn => ?_, ?_, fun a ha => ?_, ?_⟩
  · rw [hc, csWritten_cpls, hvp]
  · have hfin := congrArg (fun u : State => { u with stylus := s.stylus, cache := s.cache })
      (finishOp_frame (csWritten v o data) o 0 0 false 0)
    have hwrit := congrArg (fun u : State => { u with stylus := s.stylus, cache := s.cache }) (csWritten_frame v o data)
    exact hfin.trans (hwrit.trans (congrArg (fun u : State => { u with stylus := s.stylus, cache := s.cache }) hv))
  · rw [hcache, csWritten_cache (hvr.trans hn)]
    exact (congrArg State.cache hv :)
  · rw [hcache]
    exact csWritten_validated (hvr.trans hn)
  · rw [finishOp_cs, csWritten_cs, ← hlen]
    exact cellsRead_cellsWrite _ data (hvcs ▸ hcs)
  · rw [finishOp_cs, csWritten_cs, ← hvcs]
    exact cellRead_cellsWrite_other _ (hvcs ▸ hcs) (by rw [hlen]; exact ha)
  · rw [finishOp_counters, csWritten_counters]
    exact (congrArg (fun u : State => u.stylus.counters) hv :)

end

/-- Settles O23, routine by routine. -/
theorem descriptorsComplete : Obligations.DescriptorsComplete := by
  intro s k x o obs hd hm hcs hf hx
  exact ⟨execDescriptorComplete_unpowered obs hf hx, fun hp =>
    ⟨rbRead_completes obs hd hf hx hp hm, rbAdvance_completes obs hd hf hx hp, csProgram_completes obs hf hx hp hcs,
      calRead_completes obs hf hx hp⟩⟩

end Sys2Proof.Proofs

namespace Sys2Proof.Proofs
open Sys2Proof Sys2Proof.Machine Sys2Proof.Safety

/-! ## Registers after reset, by the block of BAR2 in which they stand (R11) -/

theorem reset_protectionRegisters : readReg State.reset 0x100000 = 2 ∧ readReg State.reset 0x100008 = 0x668 ∧
    readReg State.reset 0x100018 = 0 ∧ readReg State.reset 0x100028 = 0 := by decide +kernel

theorem reset_integrityRegisters : readReg State.reset 0x200000 = 0 ∧ readReg State.reset 0x200010 = 0x0000_2710_0020_0004 ∧
    readReg State.reset 0x200040 = 0x02D0_0004_0018_0018 := by decide +kernel

theorem reset_calibrationRegisters : readReg State.reset 0x900000 = 7 ∧ readReg State.reset 0x900008 = 0x0084_5008_F404_03E8 ∧
    readReg State.reset 0x900010 = 0x0000_07D0_1000_3C0A := by decide +kernel

theorem reset_powerRegisters : readReg State.reset 0xA00008 = 0x0384_0384 ∧ readReg State.reset 0xA00020 = 132 := by decide +kernel

/-- TELEM_MS of the global block, the member counts of the hatch block and the pages of the tiers (R202, R439, R557). -/
theorem reset_sharedRegisters : bitsAt (readReg State.reset 0x508).toNat 0 16 = 100 ∧
    bitsAt (readReg State.reset 0x800008).toNat 32 16 = 0x0101 ∧
    readReg State.reset 0x300000 = BitVec.ofNat 64 (1572864 * 2 ^ 37 + 393216 * 2 ^ 18 + 131072) := by decide +kernel

/-- The roles of the first spare and of the last service tile before it, and the operating point and the self-test of tile 0
(R83, R463). -/
theorem reset_tileRegisters : bitsAt (readReg State.reset (0x1000000 + 67 * 0x4000)).toNat 22 2 = 1 ∧
    bitsAt (readReg State.reset (0x1000000 + 63 * 0x4000)).toNat 22 2 = 0 ∧
    bitsAt (readReg State.reset 0x1000008).toNat 0 16 = 0x1414 ∧ bitsAt (readReg State.reset 0x1000030).toNat 0 2 = 1 := by
  decide +kernel

/-- Settles O2, block by block; the last four are fields of the reset state itself. -/
theorem registersAfterReset : Obligations.RegistersAfterReset := by
  obtain ⟨p0, p1, p2, p3⟩ := reset_protectionRegisters
  obtain ⟨i0, i1, i2⟩ := reset_integrityRegisters
  obtain ⟨c0, c1, c2⟩ := reset_calibrationRegisters
  obtain ⟨w0, w1⟩ := reset_powerRegisters
  obtain ⟨telem, members, pages⟩ := reset_sharedRegisters
  obtain ⟨spare, service, point, test⟩ := reset_tileRegisters
  exact ⟨p0, p1, p2, p3, i0, i1, i2, c0, c1, c2, w0, w1, telem, members, pages, spare, service, point, test, rfl, rfl, rfl, rfl⟩

end Sys2Proof.Proofs

namespace Sys2Proof.Proofs
open Sys2Proof Sys2Proof.Machine Sys2Proof.Safety

/-! ## COPY of a slot that holds more data than its format (R68) -/

/-- A sheet of format 0x30, whose data take 128 bytes (R54), with one byte more. -/
def overlongSheet : Sheet := { Sheet.none with format := 0x30, data := List.replicate 129 1 }

/-- COPY from slot 0 of buffer 0 to slot 0 of buffer 2 (R66). -/
def copyWord : BitVec 128 :=
  BitVec.ofNat 128 (opCopy * 2 ^ 120 + 0xF800 * 2 ^ 80 + 2 * 2048 * 2 ^ 64)

/-- Tile 0 runs a list of this one COPY; the slot that it reads holds the overlong sheet, the one that it writes is free. -/
def copying : State :=
  { State.reset with tiles := [(0,
      { Tile.shipped 0 with
        st := .running, nlists := 1, lists := [(0, ⟨0, 0, 0⟩)], islots := [(0, ⟨0, 0⟩)], strokes := [copyWord]
        buffers := [(0, ⟨false, 0, 0, 3, 1, 0, [(0, ⟨.present, true, overlongSheet⟩)]⟩), (2, ⟨false, 0, 0, 3, 1, 0, []⟩)] })] }

theorem copying_goes : Goes copying 0 0 opCopy ⟨0, 0⟩ (strokeOf copyWord) copyWord := by
  unfold Goes
  decide +kernel

/-- The source has 129 bytes of data. -/
theorem copying_source : (srcOf copying 0 (strokeOf copyWord).srcA).data.length = 129 := by decide +kernel

/-- The module after the COPY. -/
def copied : State := match exec (.copy 0 0) copying with
  | .next u => u
  | _ => copying

theorem exec_copying : exec (.copy 0 0) copying = .next copied := rfl

/-- What COPY writes ends with the data of the format. -/
theorem copied_destination : ∀ y, slotOf (tileOf copied 0) (reach (tileOf copying 0) (strokeOf copyWord).dst 0) = some y →
    y.sheet.data.length = 128 := by
  have h : (slotOf (tileOf copied 0) (reach (tileOf copying 0) (strokeOf copyWord).dst 0)).map (·.sheet.data.length) = some 128 := by
    decide +kernel
  intro y hy
  simpa [hy] using h

/-- Refutes O13: the statement speaks of every state, and its last clause has COPY write all of the data that stand in the source's
slot. The model's COPY writes the lines that the source's format has (R54), so that where a slot holds a byte more than its format,
that byte is not copied. -/
theorem not_vectorStrokesIssue : ¬ Obligations.VectorStrokesIssue := by
  intro h
  obtain ⟨-, -, -, -, -, hcopy⟩ := h copying 0 0 ⟨0, 0⟩ (strokeOf copyWord) copyWord (by decide)
  obtain ⟨u, o, hu, hwrites, hdata, -⟩ := hcopy copying_goes
  obtain rfl : copied = u := Host.Outcome.next.inj (exec_copying.symm.trans hu)
  obtain ⟨-, -, -, ⟨y, hy, -, -, -, -, -, hyo, -⟩, -⟩ := hwrites
  have hlong : y.sheet.data.length = 129 := by rw [hyo, hdata, copying_source]
  exact absurd (hlong.symm.trans (copied_destination y hy)) (by decide)

end Sys2Proof.Proofs

namespace Sys2Proof.Proofs
open Sys2Proof Sys2Proof.Machine Sys2Proof.Safety

/-! ## The patrol, correctable errors and the persistent log (R448, R449, R453 to R457, R462) -/

/-! What a record leaves of the integrity unit, and what it says. -/

theorem forwardRecs_integ (s : State) : { (forwardRecs s).integ with unsent := s.integ.unsent } = s.integ := by
  unfold forwardRecs
  split_ifs <;> rfl

theorem reportRec_integ (s : State) (r : ErrRec) :
    { (reportRec s r).integ with deferred := s.integ.deferred, unsent := s.integ.unsent } = s.integ := by
  unfold reportRec
  split
  · dsimp only
    rw [raiseEvent_integ]
    split_ifs
    · exact congrArg (fun x : Integrity => { x with deferred := s.integ.deferred, unsent := s.integ.unsent })
        (forwardRecs_integ { s with integ.unsent := s.integ.unsent ++ [r] })
    · rfl
  · rfl

/-- A record leaves the patrol, the sources of correctable errors and their settings. -/
theorem recordErr_integ (s : State) (a : RecArgs) :
    { (recordErr s a).integ with
      recs := s.integ.recs, written := s.integ.written, lost := s.integ.lost, nextSeq := s.integ.nextSeq
      deferred := s.integ.deferred, unsent := s.integ.unsent } = s.integ := by
  unfold recordErr
  dsimp only
  split
  · rfl
  · exact congrArg (fun x : Integrity => { x with
      recs := s.integ.recs, written := s.integ.written, lost := s.integ.lost, nextSeq := s.integ.nextSeq
      deferred := s.integ.deferred, unsent := s.integ.unsent }) (reportRec_integ _ _)

theorem recordErr_patrolPos (s : State) (a : RecArgs) : (recordErr s a).integ.patrolPos = s.integ.patrolPos :=
  (congrArg Integrity.patrolPos (recordErr_integ s a) :)

/-- A record names its unit, whether it is new or merges into the newest (R462). -/
theorem recordErr_head_named (s : State) (a : RecArgs) :
    ∃ r rs, (recordErr s a).integ.recs = r :: rs ∧ r.cls = a.cls ∧ r.unitKind = a.unitKind ∧ r.unit = a.unit := by
  unfold recordErr
  dsimp only
  split
  next rs h =>
    split at h
    · cases h
    · split_ifs at h with hm
      cases h
      simp only [recMerges, Bool.and_eq_true, beq_iff_eq] at hm
      obtain ⟨⟨⟨⟨⟨⟨hc, hk⟩, hu⟩, -⟩, -⟩, -⟩, -⟩ := hm
      exact ⟨_, _, rfl, hc, hk, hu⟩
  · exact ⟨_, _, reportRec_recs _ _, rfl, rfl, rfl⟩

/-! The patrol (R456, R457). -/

/-- The patrol of medium `k` has gone on from line `i` to the next. -/
def patrolled (s : State) (k i : Nat) : State :=
  { s with integ.patrolPos := listUpd s.integ.patrolPos k fun _ => i + 1 }

theorem patrolPos_getD {s : State} {k i : Nat} (hi : s.integ.patrolPos[k]? = some i) : s.integ.patrolPos.getD k 0 = i := by
  simp [List.getD_eq_getElem?_getD, hi]

theorem patrolNext_within {s : State} {m : PatrolMedium} {i : Nat} (hi : s.integ.patrolPos[patrolPlace m]? = some i)
    (h : i + 1 < patrolSpan m) : patrolNext s m = patrolled s (patrolPlace m) i := by
  simp only [patrolNext, patrolled, patrolPos_getD hi, if_pos h]

theorem execPatrolRead_off {s : State} {m : PatrolMedium} (h : bitsAt s.integ.patrol.toNat (16 * patrolPlace m) 16 = 0)
    (obs : PatrolObs) : execPatrolRead m obs s = .next s := by
  simp [execPatrolRead, h]

/-- The address of line `i` of the memory that patrol `k` walks. -/
def patrolAddr (k i : Nat) : Nat := (if k = 0 then 0 else Config.t0End) + 64 * i

section
variable {s : State} {m : PatrolMedium} {k i : Nat} (hm : m = .t0 ∧ k = 0 ∨ m = .t1 ∧ k = 1)
  (hp : bitsAt s.integ.patrol.toNat (16 * k) 16 ≠ 0) (hi : s.integ.patrolPos[k]? = some i) (hn : i + 1 < patrolSpan m)
include hm hp hi hn

theorem execPatrolRead_readable {obs : PatrolObs} (ho : obs = .clean ∨ obs = .corrected ∨ obs = .rewrittenSince) :
    execPatrolRead m obs s = .next (patrolled s k i) := by
  rcases hm with ⟨rfl, rfl⟩ | ⟨rfl, rfl⟩ <;>
    rcases ho with rfl | rfl | rfl <;>
      simp only [execPatrolRead, if_neg hp, patrolPlace, patrolNext_within hi hn]

theorem execPatrolRead_lost (hit : Option Structure451) :
    execPatrolRead m (.uncorrectable hit) s = .next (lineLost (patrolled s k i) 2 (patrolAddr k i) hit) := by
  rcases hm with ⟨rfl, rfl⟩ | ⟨rfl, rfl⟩ <;>
    simp only [execPatrolRead, if_neg hp, patrolPlace, patrolNext_within hi hn, patrolPos_getD hi] <;> rfl

end

theorem lineUnit_kind (a : Nat) : (lineUnit a).1 = if a < Config.t0End then 1 else 2 := by
  unfold lineUnit
  split_ifs <;> rfl

theorem patrolAddr_t0 {i : Nat} (hn : i + 1 < patrolSpan .t0) :
    patrolAddr 0 i < Config.t0End ∧ patrolAddr 0 i / 64 = 0 / 64 + i := by
  have hn' : i + 1 < Config.t0End / 64 := hn
  simp only [patrolAddr, if_true]
  omega

theorem patrolAddr_t1 {i : Nat} (hn : i + 1 < patrolSpan .t1) :
    Config.t0End ≤ patrolAddr 1 i ∧ patrolAddr 1 i < Config.t1End ∧ patrolAddr 1 i / 64 = Config.t0End / 64 + i := by
  have hn' : i + 1 < (Config.t1End - Config.t0End) / 64 := hn
  have h0 : Config.t0End = 0x040_0000_0000 := rfl
  simp only [patrolAddr, Nat.one_ne_zero, if_false]
  omega

/-- A line of the patrol lies in T0 or in T1. -/
theorem patrolAddr_unit {m : PatrolMedium} {k i : Nat} (hm : m = .t0 ∧ k = 0 ∨ m = .t1 ∧ k = 1) (hn : i + 1 < patrolSpan m) :
    patrolAddr k i < Config.t1End ∧ (lineUnit (patrolAddr k i)).1 = k + 1 ∧
    patrolAddr k i / 64 = (if k = 0 then 0 else Config.t0End) / 64 + i := by
  rw [lineUnit_kind]
  rcases hm with ⟨rfl, rfl⟩ | ⟨rfl, rfl⟩
  · obtain ⟨hlt, hline⟩ := patrolAddr_t0 hn
    exact ⟨hlt.trans (by decide), if_pos hlt, hline⟩
  · obtain ⟨hle, hlt, hline⟩ := patrolAddr_t1 hn
    exact ⟨hlt, if_neg (Nat.not_lt.2 hle), hline⟩

/-- A line that cannot be corrected and is no part of a structure is marked and recorded (R448, R449). -/
theorem lineLost_marks {s : State} {a : Nat} (ha : a < Config.t1End) (op : Nat) :
    (lineLost s op a none).integ.patrolPos = s.integ.patrolPos ∧ mapFind (lineLost s op a none).poison (a / 64) = some () ∧
    (lineLost s op a none).mem = s.mem ∧
    ∃ r rs, (lineLost s op a none).integ.recs = r :: rs ∧ r.cls = .uncorrected ∧ r.unitKind = (lineUnit a).1 := by
  unfold lineLost
  rw [if_neg (Nat.not_le.2 ha)]
  dsimp only
  refine ⟨recordErr_patrolPos .., ?_, (congrArg State.mem (recordErr_frame _ _) :), ?_⟩
  · rw [(congrArg State.poison (recordErr_frame _ _) :)]
    exact mapFind_mapPut_same ..
  · obtain ⟨r, rs, hr, hc, hk, -⟩ := recordErr_head_named { s with poison := mapPut s.poison (a / 64) () }
      { cls := .uncorrected, unitKind := (lineUnit a).1, unit := (lineUnit a).2, op := op, address := a / 64 * 64, poisonMade := true }
    exact ⟨r, rs, hr, hc, hk⟩

/-- A tile whose store has a line that cannot be corrected (R57, R81). -/
def storeLost (line : Nat) (t : Tile) : Tile :=
  { tileFault (poisonStoreLine t line) faultStoreUe false with counts.storeUe := satAdd (ones 16) t.counts.storeUe 1 }

theorem storeLost_fields (line : Nat) (t : Tile) :
    (storeLost line t).counts.storeUe = satAdd (ones 16) t.counts.storeUe 1 ∧
    (storeLost line t).faults = t.faults ||| BitVec.ofNat 7 (2 ^ faultStoreUe) ∧ (storeLost line t).st = t.st := ⟨rfl, rfl, rfl⟩

/-- The patrol's record of a line of tile `p`'s store. -/
def storeRecord (s : State) (p line : Nat) : State :=
  tileRec (updTile s p (storeLost line)) p .uncorrected 2 line 0 true

/-- What the patrol's read of that line leaves, by what it found. -/
def storePatrolled (s : State) (p line : Nat) : PatrolObs → State
  | .uncorrectable _ => storeRecord s p line
  | .corrected => updTile s p fun t => { t with counts.storeCe := satAdd (ones 32) t.counts.storeCe 1 }
  | .clean | .rewrittenSince => s

theorem storeRecord_marks (s : State) (p line : Nat) :
    (storeRecord s p line).integ.patrolPos = s.integ.patrolPos ∧ tileOf (storeRecord s p line) p = storeLost line (tileOf s p) ∧
    (∀ q, q ≠ p → tileOf (storeRecord s p line) q = tileOf s q) ∧ (storeRecord s p line).mem = s.mem ∧
    ∃ r rs, (storeRecord s p line).integ.recs = r :: rs ∧ r.cls = .uncorrected ∧ r.unitKind = 0 ∧ r.unit = p := by
  refine ⟨recordErr_patrolPos .., ?_, fun q hq => ?_, (congrArg State.mem (tileRec_frame ..) :), recordErr_head_named ..⟩
  · exact (tileOf_tileRec ..).trans (tileOf_updTile ..)
  · exact (tileOf_tileRec ..).trans (tileOf_updTile_ne _ _ hq)

section
variable {s : State} {i : Nat} (hp : bitsAt s.integ.patrol.toNat 32 16 ≠ 0) (hi : s.integ.patrolPos[2]? = some i)
  (hn : i + 1 < patrolSpan .tileStore) (hw : protectedTile s (tileOf s (i / 32768)) = false)
include hp hi hn hw

theorem execPatrolRead_store (obs : PatrolObs) : execPatrolRead .tileStore obs s =
    .next (storePatrolled (patrolled s 2 i) (i / 32768) (i % 32768) obs) := by
  cases obs <;>
    (simp only [execPatrolRead, if_neg hp, patrolPlace, patrolNext_within hi hn, patrolPos_getD hi, hw, Bool.false_eq_true, if_false]
     rfl)

end

theorem execPatrolRead_storeProtected {s : State} {i : Nat} (hi : s.integ.patrolPos[2]? = some i)
    (hw : protectedTile s (tileOf s (i / 32768)) = true) (obs : PatrolObs) : execPatrolRead .tileStore obs s = .next s := by
  simp only [execPatrolRead, patrolPlace, patrolPos_getD hi, hw, if_true, ite_self]

theorem submitDesc_patrolPos (s : State) (r : Routine) (c : Caller) (d : Desc) (prio : Nat) :
    (submitDesc s r c d prio).integ.patrolPos = s.integ.patrolPos := by
  have finish (t : State) (o : Op) (n : Nat) : (finishOp t o n 0 false 0).integ.patrolPos = t.integ.patrolPos :=
    (congrArg (fun u : State => u.integ.patrolPos) (finishOp_frame t o n 0 false 0) :)
  unfold submitDesc
  extract_lets o stylus s1 stylus' s2 protect k x
  have h2 : s2.integ.patrolPos = s.integ.patrolPos := by unfold s2; split <;> rfl
  have refuse : (protect s2).integ.patrolPos = s2.integ.patrolPos := (finish ..).trans (recordErr_patrolPos ..)
  split_ifs
  · exact (finish ..).trans h2
  · exact refuse.trans h2
  · split
    · exact (finish ..).trans h2
    · exact refuse.trans h2
    · exact (congrArg (fun u : State => u.integ.patrolPos) (setDie_frame s2 k _) :).trans h2

/-- The patrol of bulk flash submits a READ at most (R457). -/
theorem patrolPage_keeps (s : State) (i : Nat) : (patrolPage s i).integ.patrolPos = s.integ.patrolPos ∧
    (patrolPage s i).mem = s.mem ∧ (patrolPage s i).tiles = s.tiles := by
  refine ⟨?_, (congrArg State.mem (view_patrolPage (p := .memory) (by decide)) :),
    (congrArg State.tiles (view_patrolPage (p := .tiles) (by decide)) :)⟩
  unfold patrolPage
  dsimp only
  split_ifs
  · exact submitDesc_patrolPos ..
  · rfl

theorem execPatrolRead_bulk {s : State} {i : Nat} (hp : bitsAt s.integ.patrol.toNat 48 16 ≠ 0)
    (hi : s.integ.patrolPos[3]? = some i) (hn : i + 1 < patrolSpan .bulk) (hw : protectedBulk s = false)
    (hh : s.power.flashHold = false) (obs : PatrolObs) :
    execPatrolRead .bulk obs s = .next (patrolled (patrolPage s i) 3 i) := by
  have hi' : (patrolPage s i).integ.patrolPos[3]? = some i := by rw [(patrolPage_keeps s i).1, hi]
  simp only [execPatrolRead, if_neg hp, patrolPlace, patrolPos_getD hi, hw, hh, Bool.or_self, Bool.false_eq_true, if_false,
    patrolNext_within (m := .bulk) hi' hn]

theorem execPatrolRead_bulkHeld {s : State} (h : protectedBulk s = true ∨ s.power.flashHold = true) (obs : PatrolObs) :
    execPatrolRead .bulk obs s = .next s := by
  obtain h | h := h <;> simp [execPatrolRead, h]

/-! Levels of correctable errors (R454). -/

/-- The settings of the correctable-error counters, and the window whose end the levels last leaked for, are as before. -/
def SameCeSettings (s u : State) : Prop :=
  u.integ.ceLog = s.integ.ceLog ∧ u.integ.ceWindow = s.integ.ceWindow ∧ u.integ.ceCapacity = s.integ.ceCapacity ∧
  u.integ.ceWin = s.integ.ceWin

theorem SameCeSettings.trans {s t u : State} (h : SameCeSettings s t) (h' : SameCeSettings t u) : SameCeSettings s u := by
  obtain ⟨h1, h2, h3, h4⟩ := h
  obtain ⟨h1', h2', h3', h4'⟩ := h'
  exact ⟨h1'.trans h1, h2'.trans h2, h3'.trans h3, h4'.trans h4⟩

theorem recordErr_ceSettings (s : State) (a : RecArgs) : SameCeSettings s (recordErr s a) :=
  ⟨(congrArg Integrity.ceLog (recordErr_integ s a) :), (congrArg Integrity.ceWindow (recordErr_integ s a) :),
    (congrArg Integrity.ceCapacity (recordErr_integ s a) :), (congrArg Integrity.ceWin (recordErr_integ s a) :)⟩

theorem recordErr_ce (s : State) (a : RecArgs) : (recordErr s a).integ.ce = s.integ.ce :=
  (congrArg Integrity.ce (recordErr_integ s a) :)

/-- Source `src` counts as `x`. -/
def withSource (s : State) (src : Nat) (x : CeSource) : State := { s with integ.ce := mapPut s.integ.ce src x }

@[simp] theorem ceOf_withSource (s : State) (src : Nat) (x : CeSource) : ceOf (withSource s src x) src = x :=
  mapGet_mapPut_same ..

theorem ceOf_withSource_ne (s : State) {src j : Nat} (x : CeSource) (h : j ≠ src) : ceOf (withSource s src x) j = ceOf s j :=
  mapGet_mapPut_other _ _ _ h

theorem ceOf_recordErr (s : State) (a : RecArgs) (j : Nat) : ceOf (recordErr s a) j = ceOf s j := by
  simp only [ceOf, recordErr_ce]

/-- A level that has overflowed starts again (R454). -/
def ceOverflowed (x : CeSource) : CeSource := { x with level := 0, overflows := satAdd 0xFF x.overflows 1 }

theorem ceStorm_below {s : State} {src : Nat} (h : (ceOf s src).level < s.integ.ceCapacity.toNat) (a : Nat) :
    ceStorm s src a = s := if_neg (Nat.not_le.2 h)

/-- A level that has reached CAPACITY is recorded, and starts again. -/
theorem ceStorm_reached {s : State} {src : Nat} (h : s.integ.ceCapacity.toNat ≤ (ceOf s src).level) (a : Nat) :
    ∃ args : RecArgs, args.cls = .storm ∧
      ceStorm s src a = withSource (recordErr s args) src (ceOverflowed (ceOf s src)) :=
  ⟨{ cls := .storm, unitKind := (ceUnit src).1, unit := (ceUnit src).2, address := a
     detailA := (ceOf s src).level, detailB := (ceOf s src).overflows }, rfl, if_pos h⟩

theorem ceStorm_frame (s : State) (src a : Nat) :
    SameButReports s (ceStorm s src a) ∧ SameCeSettings s (ceStorm s src a) ∧
    ∀ j, j ≠ src → ceOf (ceStorm s src a) j = ceOf s j := by
  obtain h | h := lt_or_ge (ceOf s src).level s.integ.ceCapacity.toNat
  · rw [ceStorm_below h]
    exact ⟨rfl, ⟨rfl, rfl, rfl, rfl⟩, fun _ _ => rfl⟩
  · obtain ⟨args, -, he⟩ := ceStorm_reached h a
    rw [he]
    exact ⟨recordErr_frame s args, recordErr_ceSettings s args,
      fun j hj => (ceOf_withSource_ne _ _ hj).trans (ceOf_recordErr s args j)⟩

/-- The levels of several sources that may have reached CAPACITY. -/
def ceStorms (s : State) (srcs : List Nat) : State := srcs.foldl (fun s src => ceStorm s src 0) s

theorem ceStorms_frame (s : State) (srcs : List Nat) :
    SameButReports s (ceStorms s srcs) ∧ SameCeSettings s (ceStorms s srcs) := by
  induction srcs generalizing s with
  | nil => exact ⟨rfl, rfl, rfl, rfl, rfl⟩
  | cons a l ih =>
    obtain ⟨hr, hc, -⟩ := ceStorm_frame s a 0
    obtain ⟨hr', hc'⟩ := ih (ceStorm s a 0)
    exact ⟨SameButReports.trans hr hr', hc.trans hc'⟩

/-- A level below CAPACITY stays, whichever other sources overflow. -/
theorem ceStorms_below {s : State} {src : Nat} (h : (ceOf s src).level < s.integ.ceCapacity.toNat) (srcs : List Nat) :
    ceOf (ceStorms s srcs) src = ceOf s src := by
  induction srcs generalizing s with
  | nil => rfl
  | cons a l ih =>
    have hstep : ceOf (ceStorm s a 0) src = ceOf s src := by
      by_cases ha : src = a
      · subst ha; rw [ceStorm_below h]
      · exact (ceStorm_frame s a 0).2.2 src ha
    obtain ⟨-, -, hcap, -⟩ := (ceStorm_frame s a 0).2.1
    exact (ih (by rw [hstep, hcap]; exact h)).trans hstep

/-- No end of a window has come since the levels last leaked. -/
def CeSettled (s : State) : Prop :=
  s.integ.ceLog = false → s.time / (s.integ.ceWindow.toNat * 1_000_000) ≤ s.integ.ceWin

theorem ceSettle_settled {s : State} (h : CeSettled s) : ceSettle s = s := by
  cases hl : s.integ.ceLog with
  | true => simp [ceSettle, hl]
  | false => simp [ceSettle, hl, h hl]

/-- Every level has fallen by `k` leaks. -/
def ceLeaked (s : State) (k : Nat) : State :=
  { s with
    integ.ce := mapAll s.integ.ce fun _ x => { x with level := x.level - min x.level (k * s.integ.ceLeak.toNat) }
    integ.ceWin := s.integ.ceWin + k }

theorem ceOf_of_find {s : State} {src : Nat} {x : CeSource} (h : mapFind s.integ.ce src = some x) : ceOf s src = x := by
  simp [ceOf, mapGet, h]

section
variable {s : State} {k : Nat} (hl : s.integ.ceLog = false)
  (hk : s.time / (s.integ.ceWindow.toNat * 1_000_000) = s.integ.ceWin + k) (h0 : 0 < k)
include hl hk h0

theorem ceSettle_due :
    ceSettle s = ceStorms (ceLeaked s k) ((ceLeaked s k).integ.ce.map (·.1)) := by
  unfold ceSettle
  dsimp only
  rw [if_neg (by simp [hl, hk, h0.ne']), hk, Nat.add_sub_cancel_left]
  rfl

theorem ceSettle_frame :
    SameButReports s (ceSettle s) ∧ SameCeSettings (ceLeaked s k) (ceSettle s) := by
  rw [ceSettle_due hl hk h0]
  obtain ⟨hr, hc⟩ := ceStorms_frame (ceLeaked s k) ((ceLeaked s k).integ.ce.map (·.1))
  exact ⟨SameButReports.trans (t := ceLeaked s k) rfl hr, hc⟩

theorem ceSettle_level {src : Nat} {x : CeSource} (hx : mapFind s.integ.ce src = some x)
    (hc : x.level - k * s.integ.ceLeak.toNat < s.integ.ceCapacity.toNat) :
    ceOf (ceSettle s) src = { x with level := x.level - k * s.integ.ceLeak.toNat } := by
  have hleak : ceOf (ceLeaked s k) src = { x with level := x.level - k * s.integ.ceLeak.toNat } := by
    refine ceOf_of_find ?_
    simp only [ceLeaked, mapFind_mapAll, hx, Option.map_some, tsub_min]
  rw [ceSettle_due hl hk h0, ceStorms_below (by rw [hleak]; exact hc), hleak]

end

theorem ceSettled_ceSettle (s : State) : CeSettled (ceSettle s) := by
  by_cases h : CeSettled s
  · rwa [ceSettle_settled h]
  · simp only [CeSettled, Classical.not_imp, not_le] at h
    obtain ⟨hl, hlt⟩ := h
    obtain ⟨k, hk⟩ := Nat.exists_eq_add_of_lt hlt
    obtain ⟨hr, -, hw, -, hwin⟩ := ceSettle_frame (k := k + 1) hl hk (Nat.succ_pos k)
    intro _
    rw [hwin, hw, (congrArg State.time hr :)]
    exact hk.le

/-! An error of a source (R453 to R455). -/

/-- An error has been counted. -/
def ceCounted (s : State) (src : Nat) : CeSource := { ceOf s src with count := satAdd (ones 32) (ceOf s src).count 1 }

/-- Its source's level has risen. -/
def ceRaised (s : State) (src : Nat) : State := withSource s src { ceCounted s src with level := (ceOf s src).level + 1 }

theorem ceOf_ceRaised (s : State) (src : Nat) :
    ceOf (ceRaised s src) src = { ceCounted s src with level := (ceOf s src).level + 1 } := ceOf_withSource ..

theorem execCorrectableError_leaks {s : State} {src : Nat} (h : src < 573) (a : Nat) (hs : CeSettled s)
    (hl : s.integ.ceLog = false) : execCorrectableError src a s = .next (ceStorm (ceRaised s src) src a) := by
  unfold execCorrectableError
  rw [onUnit_next (decide_eq_true h), ceSettle_settled hs]
  exact congrArg _ (if_neg (by simp [hl]))

theorem execCorrectableError_logs {s : State} {src : Nat} (h : src < 573) (a : Nat) (hl : s.integ.ceLog = true) :
    execCorrectableError src a s =
      .next (withSource s src (ceLogEntry (ceCounted s src) a (s.time / 1000000 % 2 ^ 32))) := by
  have hs : CeSettled s := fun hf => absurd hf (by simp [hl])
  unfold execCorrectableError
  rw [onUnit_next (decide_eq_true h), ceSettle_settled hs]
  exact congrArg _ (if_pos hl)

/-- An error counts as if the leaks that are due had come first. -/
theorem execCorrectableError_settles (s : State) (src a : Nat) :
    execCorrectableError src a s = execCorrectableError src a (ceSettle s) := by
  unfold execCorrectableError
  rw [ceSettle_settled (ceSettled_ceSettle s)]

theorem ceLogEntry_new {x : CeSource} {a : Nat} (ha : ∀ e ∈ x.table, e.1 ≠ a) (hx : x.table.length < 64) (ms : Nat) :
    ceLogEntry x a ms = { x with table := x.table ++ [(a, ms, 1)] } := by
  have hnone : x.table.any (fun e => e.1 == a) = false := by simpa using ha
  simp [ceLogEntry, hnone, hx]

theorem correctableError_storms {s : State} {src : Nat} (h : src < 573) (a : Nat) (hs : CeSettled s)
    (hl : s.integ.ceLog = false) (hc : s.integ.ceCapacity.toNat ≤ (ceOf s src).level + 1) :
    ∃ u, exec (.correctableError src a) s = .next u ∧ SameButReports s u ∧ (ceOf u src).level = 0 ∧
      (ceOf u src).count = satAdd (ones 32) (ceOf s src).count 1 ∧
      (ceOf u src).overflows = satAdd 0xFF (ceOf s src).overflows 1 ∧ ∃ r rs, u.integ.recs = r :: rs ∧ r.cls = .storm := by
  have hraised := ceOf_ceRaised s src
  obtain ⟨args, hcls, hu⟩ := ceStorm_reached (s := ceRaised s src) (src := src) (by rw [hraised]; exact hc) a
  obtain ⟨hsame, r, rs, hrec, hr⟩ := recordErr_records (ceRaised s src) args
  refine ⟨_, (execCorrectableError_leaks h a hs hl).trans (congrArg Host.Outcome.next hu), ?_, ?_⟩
  · exact SameButReports.trans (t := ceRaised s src) rfl (SameButReports.trans hsame rfl)
  rw [ceOf_withSource, hraised]
  exact ⟨rfl, rfl, rfl, r, rs, hrec, hr.trans hcls⟩

/-! The persistent log (R462). -/

theorem recordPersist_copies {s : State} {r : ErrRec} {rest : List ErrRec} (h : s.easel.unpersisted = r :: rest) :
    ∃ u x, exec .recordPersist s = .next u ∧ u.easel.unpersisted = rest ∧ u.easel.log.head? = some (.errRec x) ∧
      x.persisted = true ∧ u.integ.recs.length = s.integ.recs.length ∧
      (∀ y ∈ u.integ.recs, y.seq = r.seq → y.persisted = true) ∧ u.mem = s.mem ∧ u.host = s.host := by
  refine ⟨persistRecord s, { (s.integ.recs.find? fun x => x.seq == r.seq).getD r with persisted := true }, rfl, ?_⟩
  simp only [persistRecord, h, persist, List.head?_cons, List.length_map, List.mem_map, true_and]
  refine ⟨?_, trivial⟩
  rintro y ⟨x, -, rfl⟩ hy
  split_ifs at hy ⊢ with hx
  · rfl
  · exact absurd hy hx

theorem recordPersist_none {s : State} (h : s.easel.unpersisted = []) : exec .recordPersist s = .next s := by
  refine congrArg Host.Outcome.next ?_
  rw [persistRecord, h]

/-- Settles O45: the patrol by medium, errors and leaks by whether a window's end is due, and the persistent log. -/
theorem integrityEventsComplete : Obligations.IntegrityEventsComplete := by
  intro s
  refine ⟨fun m k i obs hm hp hi hn => ⟨fun ho => execPatrolRead_readable hm hp hi hn ho, ?_⟩, ?_,
    fun i obs hi hw => execPatrolRead_storeProtected hi hw obs, fun m obs h => execPatrolRead_off h obs,
    fun i obs hp hi hn hw hh => ?_, fun obs h => execPatrolRead_bulkHeld h obs, ?_, fun src a hsrc hs => ⟨?_, ?_, ?_⟩,
    fun hl => ?_, fun hl hk => ?_, fun k hl _ hk h0 => ?_, fun r rest => recordPersist_copies, recordPersist_none⟩
  · rintro rfl
    obtain ⟨hlt, hunit, hline⟩ := patrolAddr_unit hm hn
    obtain ⟨hpos, hpoison, hmem, r, rs, hr, hc, hk⟩ := lineLost_marks (s := patrolled s k i) hlt 2
    rw [hline] at hpoison
    exact ⟨_, execPatrolRead_lost hm hp hi hn none, hpos, hpoison, hmem, r, rs, hr, hc, hk.trans hunit⟩
  · rintro i p hp hi hn rfl hw
    have run := execPatrolRead_store hp hi hn hw
    refine ⟨?_, run .corrected, fun hit => ?_⟩
    · rintro obs (rfl | rfl)
      · exact run .clean
      · exact run .rewrittenSince
    · obtain ⟨hpos, hown, hother, hmem, hrec⟩ := storeRecord_marks (patrolled s 2 i) (i / 32768) (i % 32768)
      obtain ⟨hue, hfaults, hst⟩ := storeLost_fields (i % 32768) (tileOf s (i / 32768))
      refine ⟨_, run (.uncorrectable hit), hpos, ?_, ?_, ?_, hother, hmem, hrec⟩
      · exact (congrArg (fun t : Tile => t.counts.storeUe) hown).trans hue
      · exact (congrArg Tile.faults hown).trans hfaults
      · exact (congrArg Tile.st hown).trans hst
  · obtain ⟨hpos, hmem, htiles⟩ := patrolPage_keeps s i
    exact ⟨_, execPatrolRead_bulk hp hi hn hw hh obs, by rw [← hpos]; rfl, hmem, htiles⟩
  · intro src a t hsrc ht
    obtain rfl : ceSettle s = t := Host.Outcome.next.inj ht
    exact execCorrectableError_settles s src a
  · intro hl hlt
    have hbelow : (ceOf (ceRaised s src) src).level < (ceRaised s src).integ.ceCapacity.toNat := by
      rw [ceOf_ceRaised]; exact hlt
    exact ⟨_, (execCorrectableError_leaks hsrc a hs hl).trans (congrArg _ (ceStorm_below hbelow a)), rfl, ceOf_ceRaised s src,
      fun j hj => ceOf_withSource_ne _ _ hj⟩
  · exact correctableError_storms hsrc a hs
  · intro hl ha hx
    exact ⟨_, execCorrectableError_logs hsrc a hl, rfl,
      (ceOf_withSource ..).trans (ceLogEntry_new (x := ceCounted s src) ha hx _)⟩
  · exact congrArg _ (ceSettle_settled fun hf => absurd hf (by simp [hl]))
  · exact congrArg _ (ceSettle_settled fun _ => hk)
  · obtain ⟨hr, -, -, -, hwin⟩ := ceSettle_frame hl hk h0
    exact ⟨_, rfl, hr, hwin, fun src x hx hc => ceSettle_level hl hk h0 hx hc⟩

end Sys2Proof.Proofs

namespace Sys2Proof.Proofs
open Sys2Proof Sys2Proof.Machine Sys2Proof.Safety

/-! ## The commands of a context: a listing of the window that is not canonical -/

/-- Context 0 is CONFIGURED and owns window page 5. Page 3, which context 1 owns, is listed after page 5, so that a search of the
listing does not reach it. -/
def hiddenPage : State :=
  { State.reset with
    host.ready := true
    host.window := [(5, ⟨false, 0, 0⟩), (3, ⟨false, 0, 1⟩)]
    ctxs := [(0, { Ctx.empty with st := .configured })] }

theorem hiddenPage_adminReady : AdminReady hiddenPage 0 := by
  unfold AdminReady
  decide +kernel

/-- No other member is in service, so that none refuses. -/
theorem hiddenPage_membersAgree : MembersAgree hiddenPage := fun h => absurd h (by decide)

/-- The module once context 0 is released. -/
def pageFound : State := match exec (.ctxRelease 0 0) hiddenPage with
  | .next u => u
  | _ => hiddenPage

theorem exec_hiddenPage : exec (.ctxRelease 0 0) hiddenPage = .next pageFound := rfl

/-- The last byte of the map entry of page 3 (R198): the release writes VALID there. -/
theorem pageFound_entry : cellRead pageFound.mem 31 = 0x80 ∧ cellRead hiddenPage.mem 31 = 0 := by decide +kernel

/-- Refutes O25: the statement speaks of every state, and its clause of CTX_RELEASE has memory kept but for the map entries of the
context's own window pages. It asks for a canonical listing of the contexts and not of the window. Where the window's listing is not
canonical, dropping the context's page 5 lets a search find page 3 of another context, whose map entry is then written. -/
theorem not_contextCommandsComplete : ¬ Obligations.ContextCommandsComplete := by
  intro h
  obtain ⟨-, -, hrelease, -⟩ := h hiddenPage 0 0 (by decide) hiddenPage_adminReady
  obtain ⟨u, hu, -, -, ⟨hkept, -⟩, -⟩ := hrelease hiddenPage_membersAgree rfl rfl rfl rfl
  obtain rfl : pageFound = u := Host.Outcome.next.inj (exec_hiddenPage.symm.trans hu)
  obtain ⟨hafter, hbefore⟩ := pageFound_entry
  have houtside : ∀ w ∈ hiddenPage.host.window, w.2.owner = 0 → 31 < 8 * w.1 ∨ 8 * w.1 + 8 ≤ 31 := by decide
  have hsame : cellRead pageFound.mem 31 = cellRead hiddenPage.mem 31 := hkept rfl 31 houtside
  exact absurd (hafter.symm.trans (hsame.trans hbefore)) (by decide)

end Sys2Proof.Proofs

namespace Sys2Proof.Proofs
open Sys2Proof Sys2Proof.Machine Sys2Proof.Safety

/-! ## Sheet ingress (R135 to R137)

An accepted sheet is acknowledged before it is put into its slot: the stream counts it, its producer may send, the slot that an EMIT
held is released. None of that touches the counts of acceptance again, nor how many slots a buffer has; so the slot that the stream's
own count names is the one that the tile's ingress fills. -/

/-! ### A field of an area that is left -/

theorem streams_of_view {s u : State} (h : view .streams u = view .streams s) : u.streams = s.streams :=
  field_of_view State.streams .streams h fun _ => rfl

theorem tiles_of_view {s u : State} (h : view .tiles u = view .tiles s) : u.tiles = s.tiles :=
  field_of_view State.tiles .tiles h fun _ => rfl

theorem mem_of_view {s u : State} (h : view .memory u = view .memory s) : u.mem = s.mem :=
  field_of_view State.mem .memory h fun _ => rfl

theorem integ_of_view {s u : State} (h : view .integrity u = view .integrity s) : u.integ = s.integ :=
  field_of_view State.integ .integrity h fun _ => rfl

/-! ### The counts of acceptance -/

/-- What a stream counts of the sheets it has accepted: how many, the next SEQ, and how many substitutes. -/
def streamCounts (x : Stream) : Nat × BitVec 32 × Nat := (x.accepted, x.nextAccept, x.substitutes)

/-- The same of stream `n` of the module. -/
def acceptCounts (s : State) (n : Nat) : Option (Nat × BitVec 32 × Nat) := (streamOf s n).map streamCounts

theorem acceptCounts_of_streams {s u : State} (h : u.streams = s.streams) (n : Nat) : acceptCounts u n = acceptCounts s n := by
  simp only [acceptCounts, streamOf, h]

theorem acceptCounts_setStream {s : State} {k : Nat} {x y : Stream} (h : streamOf s k = some x)
    (hy : streamCounts y = streamCounts x) (n : Nat) : acceptCounts (setStream s k y) n = acceptCounts s n := by
  by_cases hn : n = k
  · subst hn; simp [acceptCounts, h, hy]
  · simp [acceptCounts, streamOf, mapFind_mapPut_other _ _ hn]

theorem acceptCounts_updStream (s : State) (k : Nat) {f : Stream → Stream} (hf : ∀ x, streamCounts (f x) = streamCounts x)
    (n : Nat) : acceptCounts (updStream s k f) n = acceptCounts s n := by
  by_cases hn : n = k
  · subst hn; simp [acceptCounts, Function.comp_def, hf]
  · simp [acceptCounts, streamOf_updStream_ne s f hn]

/-- A sheet that goes out is not one that is accepted (R131). -/
theorem acceptCounts_pumpStream (s : State) (k n : Nat) : acceptCounts (pumpStream s k) n = acceptCounts s n := by
  unfold pumpStream
  split
  · rfl
  next x hx =>
    split
    · rfl
    next sh fresh rest _ =>
      have hsent : acceptCounts (setStream s k ({ x with queue := rest }.send k sh fresh none)) n = acceptCounts s n :=
        acceptCounts_setStream hx (by rfl) n
      dsimp only
      split_ifs
      · split <;> exact hsent
      · rfl

theorem acceptCounts_freeSlots (s : State) (m k n : Nat) : acceptCounts (freeSlots s m k) n = acceptCounts s n := by
  unfold freeSlots
  split
  · rfl
  · exact acceptCounts_updStream s m (fun x => by split_ifs <;> rfl) n

theorem acceptCounts_releaseSlot (s : State) (p : Nat) (x : Nat × Nat) (n : Nat) :
    acceptCounts (releaseSlot s p x) n = acceptCounts s n := by
  unfold releaseSlot
  dsimp only
  split
  · rfl
  · split_ifs
    · rfl
    · exact acceptCounts_freeSlots _ _ _ n

theorem acceptCounts_releaseHold (s : State) (h : Nat × Nat × Nat) (n : Nat) :
    acceptCounts (releaseHold s h) n = acceptCounts s n := by
  unfold releaseHold
  split_ifs
  · rfl
  · exact acceptCounts_releaseSlot s h.1 h.2 n

/-- Credits that go back late are no new sheets (R133). -/
theorem acceptCounts_releaseOwed (s : State) (stn c n : Nat) : acceptCounts (releaseOwed s stn c) n = acceptCounts s n := by
  unfold releaseOwed
  split_ifs
  · rfl
  · simp only [acceptCounts, streamOf, mapFind_mapAll, Option.map_map]
    congr 1
    funext x
    simp only [Function.comp_apply]
    split_ifs <;> rfl

/-! ### How many slots a buffer has -/

/-- The slots of buffer `k` of a tile, if the image defines it. -/
def bufferSlots (t : Tile) (k : Nat) : Option Nat := (mapFind t.buffers k).map (·.slots)

theorem bufferSlots_of_tiles {s u : State} (h : u.tiles = s.tiles) (p k : Nat) :
    bufferSlots (tileOf u p) k = bufferSlots (tileOf s p) k := by
  simp only [tileOf, h]

theorem advanceHead_slots (fuel : Nat) (b : Buffer) : (advanceHead fuel b).1.slots = b.slots := by
  induction fuel generalizing b with
  | zero => rfl
  | succ fuel ih =>
    unfold advanceHead
    split
    · exact ih _
    · rfl

theorem releaseIn_slots (b : Buffer) (i : Nat) : (releaseIn b i).1.slots = b.slots := by
  unfold releaseIn
  split_ifs
  · rfl
  · split
    · exact advanceHead_slots _ _
    · rfl

theorem bufferSlots_releaseSlot (s : State) (q : Nat) (x : Nat × Nat) (p k : Nat) :
    bufferSlots (tileOf (releaseSlot s q x) p) k = bufferSlots (tileOf s p) k := by
  by_cases hp : p = q
  · subst hp
    cases hb : mapFind (tileOf s p).buffers x.1 with
    | none => simp only [releaseSlot, hb]
    | some b =>
      simp only [bufferSlots, releaseSlot_buffers hb]
      by_cases hk : k = x.1
      · subst hk
        simp [hb, releaseIn_slots]
      · rw [mapFind_mapPut_other _ _ hk]
  · rw [releaseSlot_other s x hp]

theorem bufferSlots_releaseHold (s : State) (h : Nat × Nat × Nat) (p k : Nat) :
    bufferSlots (tileOf (releaseHold s h) p) k = bufferSlots (tileOf s p) k := by
  unfold releaseHold
  split_ifs
  · rfl
  · exact bufferSlots_releaseSlot s h.1 h.2 p k

/-- A tile's ingress fills the slot that the stream's count names (R55, R135). -/
theorem slotOf_tileSheet {s : State} {x : Stream} {p k : Nat} (hk : bufferSlots (tileOf s p) x.consBuf = some k) (sh : Sheet) :
    slotOf (tileOf (tileSheet s x p sh) p) (x.consBuf, x.accepted % max 1 k) = some ⟨.present, true, sh⟩ := by
  obtain ⟨b, hb, rfl⟩ := Option.map_eq_some_iff.1 hk
  simp [tileSheet, hb, slotOf, putSlot, mapFind_mapUpd]

/-! ### An accepted sheet -/

/-- The acknowledge of a sheet releases the slot that an EMIT held for it, if one did (R132). -/
def holdsReleased (s : State) (x : Stream) : State :=
  match x.holds.head?.bind id with
  | some h => releaseHold s h
  | none => s

theorem acceptCounts_holdsReleased (s : State) (x : Stream) (n : Nat) :
    acceptCounts (holdsReleased s x) n = acceptCounts s n := by
  unfold holdsReleased
  split
  · exact acceptCounts_releaseHold ..
  · rfl

theorem bufferSlots_holdsReleased (s : State) (x : Stream) (p k : Nat) :
    bufferSlots (tileOf (holdsReleased s x) p) k = bufferSlots (tileOf s p) k := by
  unfold holdsReleased
  split
  · exact bufferSlots_releaseHold ..
  · rfl

theorem holdsReleased_mem (s : State) (x : Stream) : (holdsReleased s x).mem = s.mem := by
  unfold holdsReleased
  split
  · exact mem_of_view (by simp)
  · rfl

/-- The module once stream `n` has counted an accepted sheet and may send the next (R131, R135). -/
def counted (s : State) (n : Nat) (x : Stream) (sh : Sheet) (sub : Bool) : State := pumpStream (setStream s n (x.accept sh sub)) n

theorem acceptCounts_counted (s : State) (n : Nat) (x : Stream) (sh : Sheet) (sub : Bool) :
    acceptCounts (counted s n x sh sub) n = some (streamCounts (x.accept sh sub)) := by
  unfold counted
  rw [acceptCounts_pumpStream]
  simp [acceptCounts]

theorem counted_tiles (s : State) (n : Nat) (x : Stream) (sh : Sheet) (sub : Bool) : (counted s n x sh sub).tiles = s.tiles :=
  tiles_of_view (by simp [counted])

theorem counted_mem (s : State) (n : Nat) (x : Stream) (sh : Sheet) (sub : Bool) : (counted s n x sh sub).mem = s.mem :=
  mem_of_view (by simp [counted])

/-- The module once an accepted sheet is acknowledged too, before it is put into its slot (R132, R136, R186). -/
def acknowledged (s : State) (n : Nat) (x : Stream) (sh : Sheet) (sub : Bool) : State :=
  firePrefetch (countAccepted (holdsReleased (counted s n x sh sub) x) x sh) x sh

theorem acceptSheet_eq (s : State) (n : Nat) (x : Stream) (sh : Sheet) (sub : Bool) :
    acceptSheet s n x sh sub =
      if 0xE0 ≤ x.prod then releaseOwed (placeSheet (acknowledged s n x sh sub) n x sh) x.prod x.ctx
      else placeSheet (acknowledged s n x sh sub) n x sh := rfl

/-- What a sheet sets off beside its stream leaves the area of the state. -/
theorem view_acknowledged {q : Area} (h : q ∉ [.moves, .contexts, .requests]) (s : State) (n : Nat) (x : Stream) (sh : Sheet)
    (sub : Bool) : view q (acknowledged s n x sh sub) = view q (holdsReleased (counted s n x sh sub) x) := by
  simp_all [acknowledged]

theorem acceptCounts_acknowledged (s : State) (n : Nat) (x : Stream) (sh : Sheet) (sub : Bool) :
    acceptCounts (acknowledged s n x sh sub) n = some (streamCounts (x.accept sh sub)) := by
  have hstreams := streams_of_view (view_acknowledged (by decide) s n x sh sub)
  rw [acceptCounts_of_streams hstreams, acceptCounts_holdsReleased, acceptCounts_counted]

theorem bufferSlots_acknowledged (s : State) (n : Nat) (x : Stream) (sh : Sheet) (sub : Bool) (p k : Nat) :
    bufferSlots (tileOf (acknowledged s n x sh sub) p) k = bufferSlots (tileOf s p) k := by
  have htiles := tiles_of_view (view_acknowledged (by decide) s n x sh sub)
  rw [bufferSlots_of_tiles htiles, bufferSlots_holdsReleased, bufferSlots_of_tiles (counted_tiles s n x sh sub)]

theorem acknowledged_mem (s : State) (n : Nat) (x : Stream) (sh : Sheet) (sub : Bool) :
    (acknowledged s n x sh sub).mem = s.mem := by
  rw [mem_of_view (view_acknowledged (by decide) s n x sh sub), holdsReleased_mem, counted_mem]

theorem acceptSheet_integ (s : State) (n : Nat) (x : Stream) (sh : Sheet) (sub : Bool) :
    (acceptSheet s n x sh sub).integ = s.integ := integ_of_view (by simp)

/-- A sheet accepted at a tile: its stream counts it, it is present in its slot, and memory stands. -/
theorem acceptSheet_atTile {s : State} {x : Stream} {p k : Nat} (hp : x.consTile = some p)
    (hk : bufferSlots (tileOf s p) x.consBuf = some k) (n : Nat) (sh : Sheet) (sub : Bool) :
    acceptCounts (acceptSheet s n x sh sub) n = some (streamCounts (x.accept sh sub)) ∧
      slotOf (tileOf (acceptSheet s n x sh sub) p) (x.consBuf, x.accepted % max 1 k) = some ⟨.present, true, sh⟩ ∧
      (acceptSheet s n x sh sub).mem = s.mem := by
  have hplace : placeSheet (acknowledged s n x sh sub) n x sh = tileSheet (acknowledged s n x sh sub) x p sh := by
    simp only [placeSheet, hp]
  have hcounts : acceptCounts (tileSheet (acknowledged s n x sh sub) x p sh) n = some (streamCounts (x.accept sh sub)) :=
    acceptCounts_acknowledged s n x sh sub
  have hslot := slotOf_tileSheet ((bufferSlots_acknowledged s n x sh sub p x.consBuf).trans hk) sh
  have hmem := acknowledged_mem s n x sh sub
  rw [acceptSheet_eq, hplace]
  split_ifs
  · have htiles (t : State) : (releaseOwed t x.prod x.ctx).tiles = t.tiles := tiles_of_view (by simp)
    have howed (t : State) : (releaseOwed t x.prod x.ctx).mem = t.mem := mem_of_view (by simp)
    refine ⟨(acceptCounts_releaseOwed ..).trans hcounts, ?_, (howed _).trans hmem⟩
    simp only [tileOf, htiles]
    exact hslot
  · exact ⟨hcounts, hslot, hmem⟩

/-- The counts of a stream that has accepted one more sheet. -/
theorem accepted_of_acceptCounts {u : State} {n : Nat} {x : Stream} {sh : Sheet} {sub : Bool}
    (h : acceptCounts u n = some (streamCounts (x.accept sh sub))) :
    ∃ y, streamOf u n = some y ∧ y.accepted = satAdd (ones 64) x.accepted 1 ∧ y.nextAccept = x.nextAccept + 1 ∧
      y.substitutes = satAdd (ones 32) x.substitutes (b2n sub) := by
  obtain ⟨y, hy, hc⟩ := Option.map_eq_some_iff.1 h
  simp only [streamCounts, Stream.accept, Prod.mk.injEq] at hc
  exact ⟨y, hy, hc⟩

/-! ### The checks -/

/-- A failed check is a DETECTED record, at a tile's ingress as at a station's (R137, R460). -/
theorem ingressRec_records (s : State) (n : Nat) (x : Stream) (a : Arrival) (made : Bool) :
    Records s (ingressRec s n x a made) .detected := by
  unfold ingressRec
  split <;> exact recordErr_records _ _

theorem ingress_askedAgain {x : Stream} {a : Arrival} (ha : a.ok = false) (hx : x.resent = false) (s : State) (n : Nat) (cf : Bool) :
    ingress s n x a cf = ingressRec (setStream s n { x with resendAsked := true }) n x a false := by
  simp [ingress, ha, hx]

theorem ingress_substituted {x : Stream} {a : Arrival} (ha : a.ok = false) (hx : x.resent = true) (s : State) (n : Nat) (cf : Bool) :
    ingress s n x a cf = acceptSheet (ingressRec s n x a true) n x (substitute n x) true := by
  simp [ingress, ha, hx]

/-- A sheet that passes is taken as it came where no hard station's own check of it fails (R447). -/
theorem ingress_passes {s : State} {n : Nat} {x : Stream} {a : Arrival} {cf : Bool} (ha : a.ok = true)
    (hok : ingressOk s n x a.sheet = true) (hcf : cf = true → x.cons < 0xE0) :
    ingress s n x a cf = acceptSheet s n x a.sheet false := by
  have hno : ¬ (cf = true ∧ 0xE0 ≤ x.cons ∧ x.cons ≤ 0xE7) := fun ⟨hc, hlo, _⟩ => Nat.not_le.2 (hcf hc) hlo
  simp only [ingress, ha, hok]
  simp [and_assoc, hno]

/-- What arrives on a stream of this module goes to the checks. -/
theorem execSheetIngress_arrives {s : State} {n : Nat} {x : Stream} {sh : Sheet} {rest : List Sheet} (hx : streamOf s n = some x)
    (hprod : x.prod ≠ stnHatch) (hfly : x.inflight = sh :: rest) (hask : x.resendAsked = false) (err : WireError) (cf : Bool)
    (far : Option (Nat × Bytes)) :
    exec (.sheetIngress n err cf far) s = .next (ingress s n x (arrivalOf (wireBytes err (sheetSlot sh))) cf) := by
  refine congrArg Host.Outcome.next ?_
  simp only [hx, hprod, if_false, hfly, hask, Bool.false_eq_true]

/-- Settles O17: the three outcomes of the checks, by the CHECK and by whether the sheet was sent again. -/
theorem sheetIngressCompletes : Obligations.SheetIngressCompletes := by
  intro s n x sh rest err far hx hprod hfly hask
  have harrives := execSheetIngress_arrives hx hprod hfly hask err (far := far)
  generalize arrivalOf (wireBytes err (sheetSlot sh)) = a at harrives ⊢
  refine ⟨fun ha hresent cf => ?_, fun p b hp hb => ⟨fun ha hok cf hcf => ?_, fun ha hresent cf => ?_⟩⟩
  · obtain ⟨hsame, hrec⟩ := ingressRec_records (setStream s n { x with resendAsked := true }) n x a false
    have hstreams : (ingressRec (setStream s n { x with resendAsked := true }) n x a false).streams =
        mapPut s.streams n { x with resendAsked := true } := (congrArg State.streams hsame :)
    refine ⟨_, (harrives cf).trans (congrArg Host.Outcome.next (ingress_askedAgain ha hresent s n cf)), ?_, fun m hm => ?_, ?_, hrec⟩
    · rw [streamOf, hstreams, mapFind_mapPut_same]
    · rw [streamOf, hstreams, mapFind_mapPut_other _ _ hm]; rfl
    · exact (congrArg (fun u : State => { u with streams := s.streams }) hsame :)
  · have hk : bufferSlots (tileOf s p) x.consBuf = some b.slots := congrArg (Option.map _) hb
    obtain ⟨hcounts, hslot, hmem⟩ := acceptSheet_atTile hp hk n a.sheet false
    obtain ⟨y, hy, hacc, hnext, hsubs⟩ := accepted_of_acceptCounts hcounts
    exact ⟨_, y, (harrives cf).trans (congrArg Host.Outcome.next (ingress_passes ha hok hcf)), hy, hacc, hnext, hsubs, hslot, hmem⟩
  · obtain ⟨hsame, hrec⟩ := ingressRec_records s n x a true
    have htiles : (ingressRec s n x a true).tiles = s.tiles := (congrArg State.tiles hsame :)
    have hk : bufferSlots (tileOf (ingressRec s n x a true) p) x.consBuf = some b.slots :=
      (bufferSlots_of_tiles htiles ..).trans (congrArg (Option.map _) hb)
    obtain ⟨hcounts, hslot, hmem⟩ := acceptSheet_atTile hp hk n (substitute n x) true
    obtain ⟨y, hy, hacc, hnext, hsubs⟩ := accepted_of_acceptCounts hcounts
    refine ⟨_, y, (harrives cf).trans (congrArg Host.Outcome.next (ingress_substituted ha hresent s n cf)), hy, hacc, hnext, hsubs,
      hslot, rfl, ?_, hmem.trans (congrArg State.mem hsame :)⟩
    rw [acceptSheet_integ]
    exact hrec

end Sys2Proof.Proofs

namespace Sys2Proof.Proofs
open Sys2Proof Sys2Proof.Machine Sys2Proof.Safety

/-! ## Selector registers (R147 to R149, R203, R233, R250, R284, R318, R339, R439, R467, R501, R520) -/

/-! ### The words of the registers -/

/-- INT_CE_SEL's word (R467). -/
theorem regOf_ceSel {src e : Nat} (hsrc : src < 2 ^ 10) (he : e < 2 ^ 6) :
    (regOf [(16, 6, e), (0, 10, src)]).toNat = src + 65536 * e := by
  simp [regOf]
  omega

theorem bitsAt_ceSel {src e : Nat} (hsrc : src < 2 ^ 10) (he : e < 2 ^ 6) :
    bitsAt (regOf [(16, 6, e), (0, 10, src)]).toNat 0 10 = src := by
  rw [regOf_ceSel hsrc he]
  simp [bitsAt]
  omega

/-- GLB_SMON_CRED's word (R148). -/
theorem regOf_smonCred {slots credits present : Nat} (hs : slots < 65536) (hc : credits < 65536) (hp : present < 65536) :
    (regOf [(32, 16, slots), (16, 16, credits), (0, 16, present)]).toNat = present + 65536 * credits + 2 ^ 32 * slots := by
  simp [regOf]
  omega

/-- GLB_SMON_SEQ's word (R148). -/
theorem regOf_smonSeq (send accept : BitVec 32) :
    (regOf [(32, 32, send.toNat), (0, 32, accept.toNat)]).toNat = accept.toNat + 2 ^ 32 * send.toNat := by
  have := send.isLt
  have := accept.isLt
  simp [regOf]
  omega

/-- A 64-bit count that fits stands as it is. -/
theorem regOf_sat64 {n : Nat} (h : n < 2 ^ 64) : (regOf [(0, 64, sat 64 n)]).toNat = n := by
  simp [regOf, sat, ones]
  omega

/-! ### The two selectors that keep a number that exists -/

theorem selCe_exists {v : BitVec 64} (h : bitsAt v.toNat 0 10 < 573) (s : State) :
    selCe s v = { s with mon.ceSel := regOf [(16, 6, bitsAt v.toNat 16 6), (0, 10, bitsAt v.toNat 0 10)]
                         mon.ce := snapCe s (bitsAt v.toNat 0 10) (bitsAt v.toNat 16 6) } := by
  simp [selCe, Nat.not_le.2 h]

/-- INT_CE_SEL with the source that it names already, and the entry that is written. -/
def ceSelKept (s : State) (v : BitVec 64) : State :=
  { s with mon.ceSel := regOf [(16, 6, bitsAt v.toNat 16 6), (0, 10, bitsAt s.mon.ceSel.toNat 0 10)]
           mon.ce := snapCe s (bitsAt s.mon.ceSel.toNat 0 10) (bitsAt v.toNat 16 6) }

theorem selCe_missing {v : BitVec 64} (h : 573 ≤ bitsAt v.toNat 0 10) (s : State) :
    selCe s v = usageReg (ceSelKept s v) 0x020_0018 := by
  simp [selCe, h, ceSelKept]

theorem selTemp_exists {v : BitVec 64} (h : bitsAt v.toNat 0 5 < 24) (s : State) :
    selTemp s v = { s with mon.tempSel := BitVec.ofNat 64 (bitsAt v.toNat 0 5), mon.temp := snapTemp s (bitsAt v.toNat 0 5) } := by
  simp [selTemp, Nat.not_le.2 h]

/-- PWR_TEMP_SEL as it stands, its sensor latched anew. -/
def tempSelKept (s : State) : State := { s with mon.temp := snapTemp s s.mon.tempSel.toNat }

theorem selTemp_missing {v : BitVec 64} (h : 24 ≤ bitsAt v.toNat 0 5) (s : State) :
    selTemp s v = usageReg (tempSelKept s) 0x0A0_0028 := by
  simp [selTemp, h, tempSelKept]

theorem usageReg_mon (s : State) (off : Nat) : (usageReg s off).mon = s.mon :=
  (congrArg State.mon (recordErr_frame s _) :)

/-- A refused selector write: a USAGE record of a register access beside what the instruments latched. -/
theorem usageReg_latched {s t : State} (ht : t = { s with mon := t.mon }) (off : Nat) :
    SameButReports { s with mon := (usageReg t off).mon } (usageReg t off) ∧
      ∃ r rs, (usageReg t off).integ.recs = r :: rs ∧ r.cls = .usage ∧ r.unitKind = 11 := by
  refine ⟨?_, ?_⟩
  · rw [usageReg_mon, ← ht]
    exact recordErr_frame t _
  · obtain ⟨r, rs, hrecs, hcls, hkind, -⟩ := recordErr_head_unit t { cls := .usage, unitKind := 11, op := 11, address := off }
    exact ⟨r, rs, hrecs, hcls, hkind⟩

/-! ### What a latched instrument reads -/

/-- The six instruments of a stream read what was latched (R147, R148). -/
theorem readReg_smon {k : Nat} (hk : k ≤ 5) (s : State) : readReg s (0x108 + 8 * k) = s.mon.smon.getD k 0 := by
  interval_cases k <;> rfl

theorem selSmon_smon (s : State) (v : BitVec 64) : (selSmon s v).mon.smon = snapStream s (v &&& 0xFFFF).toNat := rfl

/-- GLB_SMON_CRED, GLB_SMON_SEQ and GLB_SMON_SHEETS of a stream (R148). -/
theorem snapStream_words {s : State} {n : Nat} {x : Stream} (hx : streamOf s n = some x) :
    (snapStream s n).getD 1 0 = regOf [(32, 16, x.slots), (16, 16, x.credits), (0, 16, x.present)] ∧
      (snapStream s n).getD 2 0 = regOf [(32, 32, x.nextSend.toNat), (0, 32, x.nextAccept.toNat)] ∧
      (snapStream s n).getD 3 0 = regOf [(0, 64, sat 64 x.accepted)] := by
  simp [snapStream, hx]

/-- Settles O18: a selector without numbers that do not exist latches at once; INT_CE_SEL and PWR_TEMP_SEL by whether the number
exists; and the instruments of a stream read what was latched whatever becomes of the stream. -/
theorem selectorsLatch : Obligations.SelectorsLatch := by
  intro s v
  refine ⟨⟨_, rfl, rfl, rfl, rfl⟩, ⟨_, rfl, rfl, rfl, rfl⟩, ⟨_, rfl, rfl, rfl, rfl⟩, ⟨_, rfl, rfl, rfl, rfl⟩,
    ⟨_, rfl, rfl, rfl, rfl⟩, ⟨_, rfl, rfl, rfl, rfl⟩, ⟨_, rfl, rfl, rfl, rfl⟩, ⟨_, rfl, rfl, rfl, rfl⟩,
    ⟨_, rfl, rfl, rfl, rfl⟩, ⟨_, rfl, rfl, rfl, rfl⟩, ⟨_, rfl, rfl, rfl, rfl⟩, ⟨_, rfl, rfl, rfl, rfl⟩,
    ⟨_, rfl, rfl, rfl, rfl⟩, fun h => ?_, fun h => ?_, fun h => ?_, fun h => ?_, fun x hx => ?_⟩
  · exact ⟨_, congrArg Host.Outcome.next (selCe_exists h s), rfl, regOf_ceSel (bitsAt_lt ..) (bitsAt_lt ..), rfl⟩
  · obtain ⟨hsame, hrec⟩ := usageReg_latched (s := s) (t := ceSelKept s v) rfl 0x020_0018
    refine ⟨_, congrArg Host.Outcome.next (selCe_missing h s), hsame, ?_, hrec⟩
    rw [usageReg_mon]
    exact bitsAt_ceSel (bitsAt_lt ..) (bitsAt_lt ..)
  · have hlt : bitsAt v.toNat 0 5 < 2 ^ 64 := h.trans (by decide)
    exact ⟨_, congrArg Host.Outcome.next (selTemp_exists h s), rfl, BitVec.toNat_ofNat .. |>.trans (Nat.mod_eq_of_lt hlt), rfl⟩
  · obtain ⟨hsame, hrec⟩ := usageReg_latched (s := s) (t := tempSelKept s) rfl 0x0A0_0028
    refine ⟨_, congrArg Host.Outcome.next (selTemp_missing h s), hsame, ?_, hrec⟩
    rw [usageReg_mon]
    rfl
  · have hread {k : Nat} (hk : k ≤ 5) :
        readReg (selSmon s v) (0x108 + 8 * k) = (snapStream s (v &&& 0xFFFF).toNat).getD k 0 := by
      rw [readReg_smon hk, selSmon_smon]
    obtain ⟨hcred, hseq, hsheets⟩ := snapStream_words hx
    refine ⟨selSmon s v, rfl, fun hc hp hs => ?_, ?_, fun ha => ?_, ?_⟩
    · exact (congrArg BitVec.toNat ((hread (k := 1) (by decide)).trans hcred)).trans (regOf_smonCred hs hc hp)
    · exact (congrArg BitVec.toNat ((hread (k := 2) (by decide)).trans hseq)).trans (regOf_smonSeq ..)
    · exact (congrArg BitVec.toNat ((hread (k := 3) (by decide)).trans hsheets)).trans (regOf_sat64 ha)
    · rintro w m f rfl k hk
      rw [readReg_smon hk, readReg_smon hk, updStream_mon]

end Sys2Proof.Proofs

namespace Sys2Proof.Proofs
open Sys2Proof Sys2Proof.Machine Sys2Proof.Safety

/-! ## The drain of a replacement: a listing of the window that is not canonical -/

/-- The load that replaces the image of a context and waits for that image's drain (R174). -/
def replacingLoad : Load :=
  { cid := none, imageId := 0, image := imageOf [], phase := .draining, order := 0, placement := 0, tileMap := [],
    stationMap := [], regionPages := [], excluded := [], retried := false }

/-- Context 0 is REPLACING, with nothing left to drain, and the window is listed as in `hiddenPage`: a search finds page 5 of
context 0 and does not reach page 3 of context 1. -/
def hiddenPageReplacing : State :=
  { hiddenPage with ctxs := [(0, { Ctx.empty with st := .replacing, load := some replacingLoad })] }

/-- Nothing admitted, no move, no batch and no re-stencil holds the drain back, and no tile is placed (R174). -/
theorem hiddenPageReplacing_drained :
    stillDrains hiddenPageReplacing 0 = false ∧ placedTiles hiddenPageReplacing 0 = [] := by decide

/-- The module once the image of context 0 has left. -/
def imageGone : State := match exec (.replacementDrained 0) hiddenPageReplacing with
  | .next u => u
  | _ => hiddenPageReplacing

theorem exec_hiddenPageReplacing : exec (.replacementDrained 0) hiddenPageReplacing = .next imageGone := rfl

/-- The last byte of the map entry of page 3 (R198): the drain writes VALID there. -/
theorem imageGone_entry : cellRead imageGone.mem 31 = 0x80 := by decide +kernel

/-- With the window and the memory of `hiddenPage`, a step that marks the entry of context 1's page 3 VALID does not keep memory but
for the entries of context 0's pages. -/
theorem not_keptButMap_of_hiddenPage {s u : State} (hwindow : s.host.window = hiddenPage.host.window)
    (hmem : s.mem = hiddenPage.mem) (hentry : cellRead u.mem 31 = 0x80) : ¬ KeptButMap s u 0 := by
  rintro ⟨hkept, -⟩
  rw [hwindow, hmem] at hkept
  have houtside : ∀ w ∈ hiddenPage.host.window, w.2.owner = 0 → 31 < 8 * w.1 ∨ 8 * w.1 + 8 ≤ 31 := by decide
  have hsame : cellRead u.mem 31 = cellRead hiddenPage.mem 31 := hkept rfl 31 houtside
  exact absurd (hentry.symm.trans hsame) (by decide)

/-- Refutes O24: the statement speaks of every state, and its clause of REPLACEMENT_DRAINED has memory kept but for the map entries
of the context's own window pages. Where the window's listing is not canonical, dropping the context's page 5 with its image lets a
search find page 3 of another context, whose map entry is then written. -/
theorem not_imagesAndLoadsComplete : ¬ Obligations.ImagesAndLoadsComplete := by
  intro h
  obtain ⟨-, -, -, -, -, -, -, -, -, hdrained⟩ := h hiddenPageReplacing 0 0 0 (by decide)
  obtain ⟨hidle, hnoTiles⟩ := hiddenPageReplacing_drained
  obtain ⟨hleaves, -⟩ := hdrained replacingLoad rfl rfl hidle
  have hnoStroke : ∀ p ∈ placedTiles hiddenPageReplacing 0, (tileOf hiddenPageReplacing p).exec = [] := by simp [hnoTiles]
  obtain ⟨u, m, hu, -, -, -, -, -, hkept⟩ := hleaves hnoStroke
  obtain rfl : imageGone = u := Host.Outcome.next.inj (exec_hiddenPageReplacing.symm.trans hu)
  exact not_keptButMap_of_hiddenPage rfl rfl imageGone_entry hkept

end Sys2Proof.Proofs

namespace Sys2Proof.Proofs
open Sys2Proof Sys2Proof.Machine Sys2Proof.Safety

/-! ## A fair copy of a version whose number is the last (R253, R263) -/

/-- The descriptor of an index of one empty list in HOME 1 on this module, with VERSION all ones (R253). -/
def lastVersionRaw : Bytes :=
  leBytes 8 9 ++ leBytes 4 0xFFFF_FFFF ++ leBytes 4 1 ++ leBytes 2 256 ++ [1, 0, 0, 1] ++ zeros 10 ++ leBytes 8 1 ++ zeros 8 ++
    leBytes 8 1 ++ zeros 8 ++ 0 :: List.replicate 63 0xFF ++ zeros 128

/-- The descriptor meets the rules of R253, so that INDEX_LOAD takes it. -/
theorem lastVersionRaw_ok : indexDescOk lastVersionRaw = true ∧ (indexDescOf lastVersionRaw).version = 2 ^ 32 - 1 := by decide +kernel

/-- The index as its load leaves it, with a fair copy under way: F = E_commit + 1 = 1, accepted as command 2 (R264). -/
def lastVersionIndex : Index :=
  { id := 9, first := indexDescOf lastVersionRaw, cur := ⟨indexDescOf lastVersionRaw, [⟨0, []⟩], [], [], [], [], 0, []⟩
    pend := none, drain := none, stepN := 0, steps := [], since := 0, eCommit := 0, cStamp := 0, ePrev := 0, commit := none
    marginFull := false, copying := some (1, 2), copyBuilt := false, passes := 0, queries := 0, short := 0, space := 0, stale := 0
    reranked := 0, drafted := 0 }

/-- A module in service with that index. -/
def lastVersionCopied : State := { State.reset with host.ready := true, indexes := [(0, lastVersionIndex)] }

theorem lastVersionCopied_adminReady : AdminReady lastVersionCopied 0 := by
  unfold AdminReady
  decide +kernel

/-- The lists and the descriptor of the fair copy. -/
def copiedLists : List IList := copyLists lastVersionCopied lastVersionIndex.cur 1
def copiedDesc : IndexDesc := copyDesc lastVersionIndex 1 copiedLists

set_option maxRecDepth 100000 in
/-- The pools hold the pages of the copy. -/
theorem copied_fits : (newIndexVer (copyRoom lastVersionCopied lastVersionIndex) copiedDesc copiedLists).isSome = true := by
  decide +kernel

/-- The number after the last one is cut to the 32 bits of VERSION. -/
theorem copiedDesc_version : copiedDesc.version = 0 := by decide +kernel

theorem newIndexVer_desc {s t : State} {d : IndexDesc} {ls : List IList} {w : IndexVer}
    (h : newIndexVer s d ls = some (w, t)) : w.desc = d := by
  unfold newIndexVer at h
  obtain ⟨p, -, hp⟩ := Option.map_eq_some_iff.1 h
  cases hp
  rfl

/-- Refutes O27: the statement speaks of every state, and its clause of FAIR_COPY_END has the copy carry a greater version number than
the version it was made from. The number of a version whose VERSION is all ones has no successor in the descriptor's 32 bits: the copy
carries 0. -/
theorem not_windowAndVersionCommandsComplete : ¬ Obligations.WindowAndVersionCommandsComplete := by
  intro h
  obtain ⟨-, hready⟩ := h lastVersionCopied 0 9 rfl rfl rfl
  obtain ⟨-, -, -, -, -, -, -, -, -, -, -, hcopy, -⟩ := hready lastVersionCopied_adminReady
  obtain ⟨hbuilt, -⟩ := hcopy 0 lastVersionIndex 1 2 (by decide +kernel) rfl rfl rfl (by decide) (by decide)
  obtain ⟨⟨w, t⟩, hnew⟩ := Option.isSome_iff_exists.1 copied_fits
  obtain ⟨u, -, -, -, -, -, -, -, -, hgreater, -⟩ := hbuilt w t hnew
  rw [newIndexVer_desc hnew] at hgreater
  exact absurd (copiedDesc_version ▸ hgreater : _ < 0) (Nat.not_lt_zero _)

end Sys2Proof.Proofs

namespace Sys2Proof.Proofs
open Sys2Proof Sys2Proof.Machine Sys2Proof.Safety

/-! ## Memory whose addresses rise: what a read finds after a write

The laws of memory speak of its canonical form. A read after a write rests on less: that the listed addresses rise. -/

theorem mapWf_cellWrite {m : Cells} (a : Nat) (b : Byte) (h : mapWf m = true) : mapWf (cellWrite m a b) = true := by
  unfold cellWrite
  split_ifs
  · exact mapWf_mapDrop a h
  · exact mapWf_mapPut a b h

theorem cellRead_cellWrite {m : Cells} (h : mapWf m = true) (a : Nat) (b : Byte) (c : Nat) :
    cellRead (cellWrite m a b) c = if c = a then b else cellRead m c := by
  unfold cellRead mapGet cellWrite
  split_ifs with hb hc hc
  · simp [mapFind_mapDrop _ _ h, hc, hb]
  · simp [mapFind_mapDrop _ _ h, hc]
  · simp [hc]
  · rw [mapFind_mapPut_other _ _ hc]

theorem cellRead_of_mapFind {m : Cells} {a : Nat} {b : Byte} (h : mapFind m a = some b) : cellRead m a = b := by
  simp [cellRead, mapGet, h]

theorem cellRead_of_mapFind_none {m : Cells} {a : Nat} (h : mapFind m a = none) : cellRead m a = blankByte := by
  simp [cellRead, mapGet, h]

/-! ## The feeder's moves (R183 to R189) -/

/-- The cells of a page. -/
def pageCells (m : Cells) (p : Nat) : Cells :=
  m.filter fun b => decide (p * Config.pageBytes ≤ b.1) && decide (b.1 < p * Config.pageBytes + Config.pageBytes)

theorem mem_pageCells {m : Cells} {p : Nat} {b : Host.Cell} :
    b ∈ pageCells m p ↔ b ∈ m ∧ p * 2097152 ≤ b.1 ∧ b.1 < p * 2097152 + 2097152 := by
  simp only [pageCells, List.mem_filter, Bool.and_eq_true, decide_eq_true_eq]
  exact Iff.rfl

/-- The place in page `dst` of the byte of page `src` at `k`. -/
def movedAddr (src dst k : Nat) : Nat := k - src * Config.pageBytes + dst * Config.pageBytes

theorem movedAddr_eq (src dst k : Nat) : movedAddr src dst k = k - src * 2097152 + dst * 2097152 := rfl

/-- A memory with the cells of page `src` written over page `dst` one by one. -/
def pageCopied (m : Cells) (src dst : Nat) : Cells :=
  (pageCells m src).foldl (fun mm b => cellWrite mm (movedAddr src dst b.1) b.2) m

section
variable {f : Nat → Nat}

/-- Cells written to other addresses than `a`. -/
theorem cellRead_foldl_cellWrite_of_ne {l m : Cells} {a : Nat} (hm : mapWf m = true) (h : ∀ b ∈ l, f b.1 ≠ a) :
    cellRead (l.foldl (fun mm b => cellWrite mm (f b.1) b.2) m) a = cellRead m a := by
  induction l generalizing m with
  | nil => rfl
  | cons b l ih =>
    obtain ⟨hb, hl⟩ := List.forall_mem_cons.1 h
    rw [List.foldl_cons, ih (mapWf_cellWrite _ _ hm) hl, cellRead_cellWrite hm, if_neg (Ne.symm hb)]

/-- Of cells written to distinct addresses, each is read where it was written. -/
theorem cellRead_foldl_cellWrite_of_mem {l m : Cells} {c : Host.Cell} (hm : mapWf m = true)
    (hl : l.Pairwise fun b d => f b.1 ≠ f d.1) (hc : c ∈ l) :
    cellRead (l.foldl (fun mm b => cellWrite mm (f b.1) b.2) m) (f c.1) = c.2 := by
  induction l generalizing m with
  | nil => cases hc
  | cons b l ih =>
    obtain ⟨hb, hl⟩ := List.pairwise_cons.1 hl
    rw [List.foldl_cons]
    rcases List.mem_cons.1 hc with rfl | hc
    · rw [cellRead_foldl_cellWrite_of_ne (mapWf_cellWrite _ _ hm) fun d hd => (hb d hd).symm, cellRead_cellWrite hm, if_pos rfl]
    · exact ih (mapWf_cellWrite _ _ hm) hl hc

end

/-- The copy leaves the bytes outside its page. -/
theorem cellRead_pageCopied_outside {m : Cells} {src dst a : Nat} (hm : mapWf m = true) (ha : a / 2097152 ≠ dst) :
    cellRead (pageCopied m src dst) a = cellRead m a := by
  refine cellRead_foldl_cellWrite_of_ne hm fun b hb => ?_
  obtain ⟨-, hlo, hhi⟩ := mem_pageCells.1 hb
  rw [movedAddr_eq]
  omega

/-- A copy over a blank page leaves the bytes of its source there. -/
theorem cellRead_pageCopied {m : Cells} {src dst i : Nat} (hm : mapWf m = true) (hi : i < 2097152)
    (hblank : cellRead m (dst * 2097152 + i) = blankByte) :
    cellRead (pageCopied m src dst) (dst * 2097152 + i) = cellRead m (src * 2097152 + i) := by
  by_cases hlisted : ∃ b ∈ m, b.1 = src * 2097152 + i
  · obtain ⟨b, hb, hk⟩ := hlisted
    have hin : b ∈ pageCells m src := mem_pageCells.2 ⟨hb, by omega, by omega⟩
    have hdistinct : (pageCells m src).Pairwise fun b d => movedAddr src dst b.1 ≠ movedAddr src dst d.1 := by
      have hrise : (pageCells m src).Pairwise fun b d => b.1 < d.1 :=
        (List.pairwise_map.1 ((mapWf_iff m).1 hm)).sublist List.filter_sublist
      refine hrise.imp_of_mem fun {b d} hb hd hlt => ?_
      obtain ⟨-, hlo, -⟩ := mem_pageCells.1 hb
      rw [movedAddr_eq, movedAddr_eq]
      omega
    have haddr : dst * 2097152 + i = movedAddr src dst b.1 := by rw [movedAddr_eq]; omega
    rw [haddr, ← hk, cellRead_of_mapFind (mapFind_of_mem hm hb)]
    exact cellRead_foldl_cellWrite_of_mem hm hdistinct hin
  · have hnone : mapFind m (src * 2097152 + i) = none := mapFind_none fun hk => hlisted (List.mem_map.1 hk)
    rw [cellRead_of_mapFind_none hnone, ← hblank]
    refine cellRead_foldl_cellWrite_of_ne hm fun b hb => ?_
    obtain ⟨hmem, hlo, -⟩ := mem_pageCells.1 hb
    have hne : b.1 ≠ src * 2097152 + i := fun hk => hlisted ⟨b, hmem, hk⟩
    rw [movedAddr_eq]
    omega

/-- A page cleared for a copy of another page holds that page's bytes once the copy is made. -/
theorem cellRead_zeroPage_pageCopied {s : State} {src dst i : Nat} (hm : mapWf s.mem = true) (hi : i < 2097152)
    (hne : src ≠ dst) :
    cellRead (pageCopied (zeroPage s dst).mem src dst) (dst * 2097152 + i) = cellRead s.mem (src * 2097152 + i) := by
  have hz : mapWf (zeroPage s dst).mem = true := mapWf_filter _ hm
  rw [cellRead_pageCopied hz hi, zeroPage_read _ _ _ hm, if_pos]
  · rw [Config.pageBytes]; omega
  · rw [zeroPage_read _ _ _ hm, if_neg]
    rw [Config.pageBytes]; omega

theorem cellRead_zeroPage_pageCopied_outside {s : State} {src dst a : Nat} (hm : mapWf s.mem = true) (ha : a / 2097152 ≠ dst) :
    cellRead (pageCopied (zeroPage s dst).mem src dst) a = cellRead s.mem a := by
  have hz : mapWf (zeroPage s dst).mem = true := mapWf_filter _ hm
  rw [cellRead_pageCopied_outside hz ha, zeroPage_read _ _ _ hm, if_pos]
  rw [Config.pageBytes]; omega

/-! ### Moves that begin, or are dropped -/

/-- The first move whose time has come (R189). -/
def firstDue (s : State) : Option Move :=
  (sortBy Move.before (s.queued.filter fun m => decide (m.issueAt ≤ s.time) && decide (s.time < m.deadline))).head?

/-- The copy that a move makes: of its page, at its version, in DEST. -/
def madeBy (m : Move) (x : Copy) : Bool :=
  x.ctx == m.ctx && x.region == m.region && x.ver == m.ver && x.page == m.page && x.tier == m.dest

theorem madeBy_iff {m : Move} {x : Copy} :
    madeBy m x = true ↔ x.ctx = m.ctx ∧ x.region = m.region ∧ x.ver = m.ver ∧ x.page = m.page ∧ x.tier = m.dest := by
  simp [madeBy, and_assoc]

theorem execMoveIssue_copied {s : State} {m : Move} (hm : firstDue s = some m) (hroom : s.inflight.length < 64)
    (hcopy : ∃ x ∈ s.copies, madeBy m x = true) : execMoveIssue s = .next { s with queued := s.queued.erase m } := by
  have hany : s.copies.any (madeBy m) = true := List.any_eq_true.2 hcopy
  unfold firstDue at hm
  unfold madeBy at hany
  simp only [execMoveIssue, hm, if_neg (Nat.not_le.2 hroom), hany, if_true]

theorem execMoveIssue_begins {s t : State} {m : Move} {p : Nat} (hm : firstDue s = some m) (hroom : s.inflight.length < 64)
    (hcopy : ∀ x ∈ s.copies, madeBy m x = false) (hp : stagingPage s m.ctx m.dest = some (p, t)) :
    execMoveIssue s = .next (bumpTier
      { t with
        queued := t.queued.erase m, inflight := t.inflight ++ [m]
        copies := t.copies ++ [⟨m.ctx, m.region, m.page, m.ver, m.dest, p, false, [m.batch], t.time⟩] }
      m.ctx fun x => { x with issued := satAdd (ones 32) x.issued 1 }) := by
  have hany : ¬ s.copies.any (madeBy m) = true := by simpa using hcopy
  unfold firstDue at hm
  unfold madeBy at hany
  simp only [execMoveIssue, hm, if_neg (Nat.not_le.2 hroom), if_neg hany, hp]

/-- Pages that are taken change the pages held alone, and T2's wear. -/
theorem allocPages_frame {s t : State} {tier n : Nat} {use : PageUse} {ps : List Nat}
    (h : allocPages s tier n use = some (ps, t)) : { t with pages := s.pages, media := s.media } = s := by
  unfold allocPages at h
  split at h
  · unfold allocGroups at h
    dsimp only at h
    split at h
    · cases h
    · obtain ⟨-, rfl⟩ := Prod.mk.inj (Option.some.inj h)
      rfl
  · dsimp only at h
    split at h
    · obtain ⟨-, rfl⟩ := Prod.mk.inj (Option.some.inj h)
      rfl
    · cases h

/-- A staging page changes the pages held and the copies alone, and T2's wear. -/
theorem stagingPage_frame {s t : State} {c tier p : Nat} (h : stagingPage s c tier = some (p, t)) :
    { t with pages := s.pages, copies := s.copies, media := s.media } = s := by
  unfold stagingPage at h
  split at h
  · obtain ⟨⟨ps, u⟩, ha, h⟩ := Option.bind_eq_some_iff.1 h
    obtain ⟨q, -, h⟩ := Option.map_eq_some_iff.1 h
    cases h
    exact congrArg (fun u : State => { u with copies := s.copies }) (allocPages_frame ha)
  · obtain ⟨x, -, h⟩ := Option.map_eq_some_iff.1 h
    cases h
    rfl

@[simp] theorem ctxOf_bumpTier (s : State) (c : Nat) (f : TierMon → TierMon) :
    ctxOf (bumpTier s c f) c = { ctxOf s c with tier := f (ctxOf s c).tier } := ctxOf_updCtx ..

theorem ctxOf_bumpTier_ne (s : State) {c d : Nat} (f : TierMon → TierMon) (h : d ≠ c) :
    ctxOf (bumpTier s c f) d = ctxOf s d := ctxOf_updCtx_ne s _ h

/-- Moves that are dropped count for their contexts (R188). -/
def dropMoves (s : State) (ms : List Move) : State :=
  ms.foldl (fun s m => bumpTier s m.ctx fun t => { t with dropped := satAdd (ones 32) t.dropped 1 }) s

theorem dropMoves_cons (s : State) (m : Move) (ms : List Move) : dropMoves s (m :: ms) =
    dropMoves (bumpTier s m.ctx fun t => { t with dropped := satAdd (ones 32) t.dropped 1 }) ms := rfl

theorem execMoveDeadline_eq (s : State) : execMoveDeadline s = .next (dropMoves
    { s with queued := s.queued.filter fun m => decide (s.time < m.deadline) }
    (s.queued.filter fun m => decide (m.deadline ≤ s.time))) := rfl

theorem dropMoves_frame (s : State) (ms : List Move) : { dropMoves s ms with ctxs := s.ctxs } = s := by
  induction ms generalizing s with
  | nil => rfl
  | cons m ms ih =>
    rw [dropMoves_cons]
    exact (congrArg (fun u : State => { u with ctxs := s.ctxs }) (ih (bumpTier s m.ctx _)) :)

theorem satAdd_satAdd (m a b c : Nat) : satAdd m (satAdd m a b) c = satAdd m a (b + c) := by
  unfold satAdd
  omega

/-- A context's count of dropped moves rises by the moves of its own that are dropped. A count that no move of the context meets is
left, and not brought below its bound. -/
theorem dropMoves_dropped (s : State) (ms : List Move) (c : Nat) :
    (ctxOf (dropMoves s ms) c).tier.dropped =
      if (ms.filter fun m => m.ctx == c).length = 0 then (ctxOf s c).tier.dropped
      else satAdd (ones 32) (ctxOf s c).tier.dropped (ms.filter fun m => m.ctx == c).length := by
  induction ms generalizing s with
  | nil => rfl
  | cons m ms ih =>
    rw [dropMoves_cons, ih]
    by_cases hc : m.ctx = c
    · subst hc
      have hcons : ((m :: ms).filter fun x => x.ctx == m.ctx).length = 1 + (ms.filter fun x => x.ctx == m.ctx).length := by
        simp [Nat.add_comm]
      rw [hcons, ctxOf_bumpTier]
      generalize (ms.filter fun x => x.ctx == m.ctx).length = n
      rw [if_neg (show ¬ 1 + n = 0 by omega), satAdd_satAdd]
      split
      next hzero => rw [hzero]
      · rfl
    · have hcons : (m :: ms).filter (fun x => x.ctx == c) = ms.filter fun x => x.ctx == c := by simp [hc]
      rw [hcons, ctxOf_bumpTier_ne _ _ (Ne.symm hc)]

/-! ### Moves that are complete -/

/-- A copy of the page that a move takes, at its version, in any tier. -/
def samePage (m : Move) (x : Copy) : Bool := x.ctx == m.ctx && x.region == m.region && x.ver == m.ver && x.page == m.page

/-- The page that a move reads (R184): that of a VALID copy in a slower tier, or the region's at the move's version. -/
def moveSource (s : State) (m : Move) (r : RegionEntry) : Nat :=
  match s.copies.find? fun y => samePage m y && y.valid && decide (m.dest < y.tier) with
  | some y => y.dst
  | none => (sourcePages s m.ctx r m.ver).getD m.page 0

theorem moveSource_eq (s : State) (m : Move) (r : RegionEntry) : moveSource s m r =
    ((s.copies.find? fun y => samePage m y && y.valid && decide (m.dest < y.tier)).map (·.dst)).getD
      ((sourcePages s m.ctx r m.ver).getD m.page 0) := by
  unfold moveSource
  cases s.copies.find? _ <;> rfl

theorem sourcePages_bumpTier (s : State) (c : Nat) (f : TierMon → TierMon) (r : RegionEntry) (ver : Nat) :
    sourcePages (bumpTier s c f) c r ver = sourcePages s c r ver := by
  unfold sourcePages regionPages
  rw [ctxOf_bumpTier]
  rfl

theorem regionOf_bumpTier (s : State) (c k : Nat) (f : TierMon → TierMon) : regionOf (bumpTier s c f) c k = regionOf s c k := by
  unfold regionOf
  rw [ctxOf_bumpTier]

/-- The state in which a move has left those under way and its lateness is counted (R188). -/
def moveEnded (s : State) (k : Nat) (m : Move) : State :=
  bumpTier { s with inflight := listDrop s.inflight k } m.ctx fun t =>
    { t with late := satAdd (ones 32) t.late (b2n (decide (m.deadline ≤ s.time))) }

theorem moveEnded_late (s : State) (k : Nat) (m : Move) : (ctxOf (moveEnded s k m) m.ctx).tier.late =
    satAdd (ones 32) (ctxOf s m.ctx).tier.late (if m.deadline ≤ s.time then 1 else 0) := by
  rw [moveEnded, ctxOf_bumpTier]
  simp only [b2n, decide_eq_true_eq]
  rfl

/-- The copy of a move that is complete is VALID. -/
theorem valid_of_madeBy {m : Move} {y : Copy} {l : List Copy}
    (hy : y ∈ l.map fun z => if madeBy m z then { z with valid := true } else z) (hm : madeBy m y = true) : y.valid = true := by
  obtain ⟨z, -, rfl⟩ := List.mem_map.1 hy
  by_cases hz : madeBy m z = true
  · rw [if_pos hz]
  · rw [if_neg hz] at hm
    exact absurd hm hz

/-- A move that completes writes its source's bytes over its copy's page and leaves the copy VALID (R184, R187). -/
theorem execMoveComplete_copies {s : State} {k : Nat} {m : Move} {x : Copy} {r : RegionEntry} (hm : s.inflight[k]? = some m)
    (hgrant : tierHeld s (moveStation s m) m.ctx = false) (hx : s.copies.find? (madeBy m) = some x)
    (hr : regionOf s m.ctx m.region = some r) :
    ∃ poison, execMoveComplete k s = .next { moveEnded s k m with
      mem := pageCopied (zeroPage s x.dst).mem (moveSource s m r) x.dst
      poison := poison
      copies := s.copies.map fun y => if madeBy m y then { y with valid := true } else y } := by
  have hr' : regionOf (moveEnded s k m) m.ctx m.region = some r := (regionOf_bumpTier ..).trans hr
  have hsrc : sourcePages (moveEnded s k m) m.ctx r m.ver = sourcePages s m.ctx r m.ver := sourcePages_bumpTier ..
  have hx' : (moveEnded s k m).copies.find? (madeBy m) = some x := hx
  unfold execMoveComplete
  unfold moveEnded madeBy at *
  simp only [hm, hgrant, Bool.false_eq_true, if_false, hx', hr', hsrc]
  exact ⟨_, rfl⟩

theorem execMoveComplete_held {s : State} {k : Nat} {m : Move} (hm : s.inflight[k]? = some m)
    (hwaits : tierHeld s (moveStation s m) m.ctx = true) : execMoveComplete k s = .next s := by
  simp only [execMoveComplete, hm, hwaits, if_true]

/-- Settles O38: a move that begins, one whose copy is there by now, those that are dropped, one that is complete and one that waits
for its grant. -/
theorem feederMovesComplete : Obligations.FeederMovesComplete := by
  unfold Obligations.FeederMovesComplete
  intro s
  refine ⟨fun m p t hm hroom hcopy hp => ?_, fun m x hm hroom hx hctx hregion hver hpage htier => ?_, ?_,
    fun k m x r src hm hgrant hx hr hsrc hne hmem => ?_, fun k m hm hwaits => execMoveComplete_held hm hwaits⟩
  · have hnone : ∀ x ∈ s.copies, madeBy m x = false := fun x hx => Bool.eq_false_iff.2 fun h => hcopy x hx (madeBy_iff.1 h)
    have hframe := stagingPage_frame hp
    have htime : t.time = s.time := (congrArg State.time hframe :)
    have hctxs : ∀ d, ctxOf t d = ctxOf s d := fun d => (congrArg (ctxOf · d) hframe :)
    refine ⟨_, execMoveIssue_begins hm hroom hnone hp, ?_, ?_, ?_, rfl, ?_, fun d hd => ?_, ?_, ?_, ?_, ?_⟩
    · exact congrArg (List.erase · m) (congrArg State.queued hframe :)
    · exact congrArg (· ++ [m]) (congrArg State.inflight hframe :)
    · exact congrArg (fun n => t.copies ++ [⟨m.ctx, m.region, m.page, m.ver, m.dest, p, false, [m.batch], n⟩]) htime
    · rw [ctxOf_bumpTier, ← hctxs]
      rfl
    · rw [ctxOf_bumpTier_ne _ _ hd, ← hctxs]
      rfl
    · exact (congrArg State.mem hframe :)
    · exact (congrArg State.poison hframe :)
    · exact (congrArg State.tiles hframe :)
    · exact (congrArg State.streams hframe :)
  · exact execMoveIssue_copied hm hroom ⟨x, hx, madeBy_iff.2 ⟨hctx, hregion, hver, hpage, htier⟩⟩
  · have hframe := dropMoves_frame { s with queued := s.queued.filter fun m => decide (s.time < m.deadline) }
      (s.queued.filter fun m => decide (m.deadline ≤ s.time))
    refine ⟨_, execMoveDeadline_eq s, ?_, fun m => ?_, fun c hc => ?_⟩
    · exact (congrArg (fun u : State => { u with queued := s.queued, ctxs := s.ctxs }) hframe :)
    · have hqueued : m ∈ _ ↔ m ∈ _ := iff_of_eq (congrArg (fun u : State => m ∈ u.queued) hframe)
      exact hqueued.trans (by simp)
    · have hsplit : (s.queued.filter fun m => decide (m.deadline ≤ s.time) && m.ctx == c) =
          (s.queued.filter fun m => decide (m.deadline ≤ s.time)).filter fun m => m.ctx == c := by
        simp only [List.filter_filter, Bool.and_comm]
      rw [hsplit] at hc ⊢
      rw [dropMoves_dropped, if_neg (Nat.pos_iff_ne_zero.1 hc)]
      rfl
  · obtain rfl : src = moveSource s m r := hsrc.trans (moveSource_eq s m r).symm
    obtain ⟨poison, hexec⟩ := execMoveComplete_copies hm hgrant hx hr
    refine ⟨_, hexec, rfl, fun i hi => cellRead_zeroPage_pageCopied hmem hi hne,
      fun a ha => cellRead_zeroPage_pageCopied_outside hmem ha, fun y hy hctx hregion hver hpage htier =>
        valid_of_madeBy hy (madeBy_iff.2 ⟨hctx, hregion, hver, hpage, htier⟩), moveEnded_late s k m, rfl, rfl, rfl⟩

end Sys2Proof.Proofs

namespace Sys2Proof.Proofs
open Sys2Proof Sys2Proof.Machine Sys2Proof.Safety

/-! ## Memory whose addresses rise: a read after a write of several bytes -/

theorem mapWf_cellsWrite {m : Cells} (a : Nat) (bs : Bytes) (h : mapWf m = true) : mapWf (cellsWrite m a bs) = true := by
  induction bs generalizing m a with
  | nil => exact h
  | cons b bs ih => exact ih _ (mapWf_cellWrite a b h)

theorem cellRead_cellsWrite_outside {m : Cells} {a c : Nat} (bs : Bytes) (h : mapWf m = true) (hc : c < a ∨ a + bs.length ≤ c) :
    cellRead (cellsWrite m a bs) c = cellRead m c := by
  induction bs generalizing m a with
  | nil => rfl
  | cons b bs ih =>
    rw [List.length_cons] at hc
    rw [cellsWrite, ih (mapWf_cellWrite a b h) (by omega), cellRead_cellWrite h, if_neg (by omega)]

theorem cellsRead_cellsWrite_same {m : Cells} (a : Nat) (bs : Bytes) (h : mapWf m = true) :
    cellsRead (cellsWrite m a bs) a bs.length = bs := by
  induction bs generalizing m a with
  | nil => rfl
  | cons b bs ih =>
    rw [List.length_cons, cellsRead, cellsWrite, ih _ (mapWf_cellWrite a b h),
      cellRead_cellsWrite_outside bs (mapWf_cellWrite a b h) (by omega), cellRead_cellWrite h, if_pos rfl]

theorem cellsRead_congr {m n : Cells} {a : Nat} (k : Nat) (h : ∀ c, a ≤ c → c < a + k → cellRead m c = cellRead n c) :
    cellsRead m a k = cellsRead n a k := by
  induction k generalizing a with
  | zero => rfl
  | succ k ih => rw [cellsRead, cellsRead, h a le_rfl (by omega), ih fun c hlo hhi => h c (by omega) (by omega)]

/-! ## The window map (R198, R402, R403)

Each page of the window has its own eight bytes of map in T0, so that an entry that is written leaves the others. -/

/-- Map entries written one after another. -/
def entriesWritten (f : Nat → Nat) (m : Cells) (ws : List Nat) : Cells :=
  ws.foldl (fun m w => cellsWrite m (8 * w) (leBytes 8 (f w))) m

section
variable {f : Nat → Nat}

theorem mapWf_entriesWritten {m : Cells} (ws : List Nat) (h : mapWf m = true) : mapWf (entriesWritten f m ws) = true := by
  induction ws generalizing m with
  | nil => exact h
  | cons w ws ih => exact ih (mapWf_cellsWrite _ _ h)

theorem cellRead_entriesWritten_outside {m : Cells} {ws : List Nat} {a : Nat} (h : mapWf m = true)
    (ha : ∀ w ∈ ws, a < 8 * w ∨ 8 * w + 8 ≤ a) : cellRead (entriesWritten f m ws) a = cellRead m a := by
  induction ws generalizing m with
  | nil => rfl
  | cons w ws ih =>
    obtain ⟨hw, hws⟩ := List.forall_mem_cons.1 ha
    have hone := cellRead_cellsWrite_outside (leBytes 8 (f w)) h (by rw [leBytes_length]; exact hw)
    exact (ih (mapWf_cellsWrite _ _ h) hws).trans hone

theorem cellsRead_entriesWritten_other {m : Cells} {ws : List Nat} {w : Nat} (h : mapWf m = true) (hw : w ∉ ws) :
    cellsRead (entriesWritten f m ws) (8 * w) 8 = cellsRead m (8 * w) 8 :=
  cellsRead_congr 8 fun c hlo hhi => cellRead_entriesWritten_outside h fun v hv => by
    have : v ≠ w := fun h => hw (h ▸ hv)
    omega

theorem cellsRead_entriesWritten_mem {m : Cells} {ws : List Nat} {w : Nat} (h : mapWf m = true) (hw : w ∈ ws) :
    cellsRead (entriesWritten f m ws) (8 * w) 8 = leBytes 8 (f w) := by
  induction ws generalizing m with
  | nil => cases hw
  | cons v ws ih =>
    by_cases hin : w ∈ ws
    · exact ih (mapWf_cellsWrite _ _ h) hin
    · obtain rfl : w = v := (List.mem_cons.1 hw).resolve_right hin
      have hsame := cellsRead_cellsWrite_same (8 * w) (leBytes 8 (f w)) h
      rw [leBytes_length] at hsame
      exact (cellsRead_entriesWritten_other (mapWf_cellsWrite _ _ h) hin).trans hsame

end

/-- The window pages whose entry a new map changes. -/
def changedPages (old m : SMap WinPage) : List Nat := ((old ++ m).map (·.1)).filter fun w => mapFind old w != mapFind m w

theorem mem_changedPages {old m : SMap WinPage} {w : Nat} : w ∈ changedPages old m ↔ mapFind old w ≠ mapFind m w := by
  unfold changedPages
  rw [List.mem_filter, bne_iff_ne, and_iff_right_of_imp]
  intro hne
  by_contra hnot
  rw [List.map_append, List.mem_append, not_or] at hnot
  exact hne ((mapFind_none hnot.1).trans (mapFind_none hnot.2).symm)

/-- Writes of memory one after another change memory and its marks alone. -/
theorem foldl_memWrite_frame (l : List Nat) (at_ : Nat → Nat) (bs : Nat → Bytes) (s : State) :
    { l.foldl (fun s w => memWrite s (at_ w) (bs w) false) s with mem := s.mem, poison := s.poison } = s := by
  induction l generalizing s with
  | nil => rfl
  | cons w l ih =>
    exact ((congrArg (fun u : State => { u with mem := s.mem, poison := s.poison }) (ih (memWrite s (at_ w) (bs w) false)) :)).trans
      (memWrite_frame ..)

theorem setWindow_frame (s : State) (m : SMap WinPage) :
    { setWindow s m with mem := s.mem, poison := s.poison } = { s with host.window := m } := foldl_memWrite_frame ..

theorem setWindow_mem (s : State) (m : SMap WinPage) : (setWindow s m).mem =
    entriesWritten (fun w => mapWord (mapFind m w)) s.mem (changedPages s.host.window m) := by
  suffices h : ∀ (ws : List Nat) (t : State),
      (ws.foldl (fun s w => memWrite s (8 * w) (leBytes 8 (mapWord (mapFind m w))) false) t).mem =
        entriesWritten (fun w => mapWord (mapFind m w)) t.mem ws from h _ { s with host.window := m }
  intro ws
  induction ws with
  | nil => exact fun _ => rfl
  | cons w ws ih =>
    intro t
    rw [List.foldl_cons, ih, memWrite_mem]
    rfl

theorem setWindow_window (s : State) (m : SMap WinPage) : (setWindow s m).host.window = m :=
  (congrArg (fun u : State => u.host.window) (setWindow_frame s m) :)

theorem leBytes_zero (n : Nat) : leBytes n 0 = zeros n := by
  induction n with
  | zero => rfl
  | succ n ih => rw [leBytes, Nat.zero_div, ih]; rfl

/-- Pages have left the window: the entry of each that did is zero, the others are as they were, and memory is kept but for the
entries of the pages that were mapped. -/
structure Unmapped (s t : State) : Prop where
  memRises : mapWf t.mem = true
  windowRises : mapWf t.host.window = true
  entry : ∀ w, mapFind t.host.window w = mapFind s.host.window w ∨
    mapFind t.host.window w = none ∧ cellsRead t.mem (8 * w) 8 = zeros 8
  kept : ∀ a, (∀ w ∈ s.host.window, a < 8 * w.1 ∨ 8 * w.1 + 8 ≤ a) → cellRead t.mem a = cellRead s.mem a

theorem Unmapped.refl {s : State} (hm : mapWf s.mem = true) (hw : mapWf s.host.window = true) : Unmapped s s :=
  ⟨hm, hw, fun _ => .inl rfl, fun _ _ => rfl⟩

theorem Unmapped.of_eq {s t u : State} (h : Unmapped s t) (hm : u.mem = t.mem) (hw : u.host.window = t.host.window) : Unmapped s u :=
  ⟨hm ▸ h.memRises, hw ▸ h.windowRises, hm ▸ hw ▸ h.entry, hm ▸ h.kept⟩

/-- A map that some pages have left. -/
theorem Unmapped.setWindow {s t : State} {m : SMap WinPage} (h : Unmapped s t) (hm : mapWf m = true)
    (hsub : ∀ w, mapFind m w = mapFind t.host.window w ∨ mapFind m w = none) : Unmapped s (setWindow t m) := by
  refine ⟨?_, ?_, fun w => ?_, fun a ha => ?_⟩
  · rw [setWindow_mem]
    exact mapWf_entriesWritten _ h.memRises
  · rw [setWindow_window]
    exact hm
  · rw [setWindow_window, setWindow_mem]
    by_cases hw : mapFind t.host.window w = mapFind m w
    · rw [cellsRead_entriesWritten_other h.memRises fun hin => mem_changedPages.1 hin hw, ← hw]
      exact h.entry w
    · have hnone : mapFind m w = none := (hsub w).resolve_left (Ne.symm hw)
      refine .inr ⟨hnone, ?_⟩
      rw [cellsRead_entriesWritten_mem h.memRises (mem_changedPages.2 hw), hnone]
      exact leBytes_zero 8
  · rw [setWindow_mem, cellRead_entriesWritten_outside h.memRises fun w hw => ?_, h.kept a ha]
    have hleft : mapFind t.host.window w ≠ mapFind m w := mem_changedPages.1 hw
    have hthere : mapFind t.host.window w ≠ none := fun hn => hleft (hn.trans (((hsub w).elim (·.trans hn) id)).symm)
    have hlisted : w ∈ s.host.window.map (·.1) := by
      by_contra hnot
      exact hthere (((h.entry w).elim (·.trans (mapFind_none hnot)) (·.1)))
    obtain ⟨x, hx, rfl⟩ := List.mem_map.1 hlisted
    exact ha x hx

theorem Unmapped.unmapPage {s t : State} (h : Unmapped s t) (c w : Nat) : Unmapped s (unmapPage t c w) := by
  unfold Sys2Proof.Machine.unmapPage
  split
  · split
    · refine Unmapped.of_eq (Unmapped.setWindow (h.of_eq ?_ ?_) (mapWf_mapDrop w h.windowRises) fun v => ?_) rfl rfl
      · rfl
      · rfl
      · rw [mapFind_mapDrop _ _ h.windowRises]
        split
        · exact .inr rfl
        · exact .inl rfl
    · exact h
  · exact h

/-- The pages that clearing the map takes out of it one by one. -/
theorem Unmapped.foldl {α : Type} {s t : State} {g : State → α → State} (h : Unmapped s t)
    (hg : ∀ u a, Unmapped s u → Unmapped s (g u a)) (l : List α) : Unmapped s (l.foldl g t) := by
  induction l generalizing t with
  | nil => exact h
  | cons a l ih => exact ih (hg t a h)

/-! ### The decoder (R402) -/

/-- Admin commands that are done one after another post their completions and change nothing else. -/
theorem foldl_adminDone_frame (s : State) (cids : List Nat) :
    { cids.foldl (fun s c => adminDone s c) s with host.cqs := s.host.cqs, host.posted := s.host.posted } = s := by
  induction cids generalizing s with
  | nil => rfl
  | cons c cids ih =>
    exact ((congrArg (fun u : State => { u with host.cqs := s.host.cqs, host.posted := s.host.posted })
      (ih (adminDone s c)) :)).trans (adminDone_frame ..)

/-- The pages that no delivery ring holds have left the map. -/
def pagesLeft (s : State) : State :=
  s.host.window.foldl (fun s p => if ringPage s p.2 then s else unmapPage s p.2.owner p.1) s

/-- The map once it is cleared, before the unmaps that were held complete. -/
def mapCleared (s : State) : State := { setWindow (pagesLeft s) [] with host.heldUnmaps := [] }

theorem clearWindow_frame (s : State) :
    { clearWindow s with host.cqs := (mapCleared s).host.cqs, host.posted := (mapCleared s).host.posted } = mapCleared s :=
  foldl_adminDone_frame (mapCleared s) _

theorem clearWindow_window (s : State) : (clearWindow s).host.window = [] :=
  ((congrArg (fun u : State => u.host.window) (clearWindow_frame s) :)).trans (setWindow_window _ [])

theorem clearWindow_heldUnmaps (s : State) : (clearWindow s).host.heldUnmaps = [] :=
  (congrArg (fun u : State => u.host.heldUnmaps) (clearWindow_frame s) :)

/-- The cleared map: every entry that was there is zero, and memory is kept but for those entries. -/
theorem unmapped_clearWindow {s : State} (hm : mapWf s.mem = true) (hw : mapWf s.host.window = true) : Unmapped s (clearWindow s) := by
  have hleft : Unmapped s (pagesLeft s) := (Unmapped.refl hm hw).foldl (fun u a hu => by
    split
    · exact hu
    · exact hu.unmapPage _ _) _
  have hcleared : Unmapped s (setWindow (pagesLeft s) []) := hleft.setWindow rfl fun _ => .inr rfl
  have hmem : (clearWindow s).mem = (mapCleared s).mem := (congrArg State.mem (clearWindow_frame s) :)
  exact hcleared.of_eq hmem ((clearWindow_window s).trans (setWindow_window _ []).symm)

/-- The window at a size and base that the host has committed. -/
def decoderSet (s : State) (base n : Nat) : State :=
  sendReply { s with host.winSize := n, host.mapSize := n, host.winBase := base } .decoder 0 []

section
variable {s : State} {base n : Nat}

/-- A size that the rules allow and the map has, or may take. -/
theorem execDecoderCommit_allowed (hlo : 1 ≤ n) (hhi : n ≤ 1024)
    (hfree : s.host.mapSize = 0 ∨ s.host.mapSize = n ∨ windowUsed s = false) :
    execDecoderCommit base (n * 2 ^ 28) s =
      .next (decoderSet (if s.host.mapSize ≠ 0 ∧ s.host.mapSize ≠ n then clearWindow s else s) base n) := by
  have hdiv : n * 2 ^ 28 / 2 ^ 28 = n := Nat.mul_div_cancel n (by decide)
  have hmod : n * 2 ^ 28 % 2 ^ 28 = 0 := Nat.mul_mod_left n _
  unfold execDecoderCommit
  simp only [hdiv, hmod, Bool.and_eq_true, bne_iff_ne]
  rw [if_neg]
  · rfl
  · rintro (h | h | h | ⟨⟨h0, hn⟩, hused⟩)
    · exact h rfl
    · omega
    · omega
    · rcases hfree with h | h | h
      · exact h0 h
      · exact hn h
      · exact absurd (h.symm.trans hused) (by decide)

theorem execDecoderCommit_barred {bytes : Nat} (h : bytes = 0 ∨ bytes % 2 ^ 28 ≠ 0 ∨ 1024 < bytes / 2 ^ 28 ∨
      s.host.mapSize ≠ 0 ∧ s.host.mapSize ≠ bytes / 2 ^ 28 ∧ windowUsed s = true) :
    execDecoderCommit base bytes s = .next (sendReply { s with host.winSize := 0 } .decoder 1 []) := by
  unfold execDecoderCommit
  simp only [Bool.and_eq_true, bne_iff_ne]
  rw [if_pos]
  rcases h with h | h | h | ⟨h0, hn, hused⟩
  · exact .inr (.inl (by omega))
  · exact .inl h
  · exact .inr (.inr (.inl h))
  · exact .inr (.inr (.inr ⟨⟨h0, hn⟩, hused⟩))

end

/-! ### Accesses within one page of the window (R199, R401, R449, R450) -/

section
variable {s : State} {off n : Nat}

theorem windowPages_onePage (hn : 1 ≤ n) (hpage : off / 2097152 = (off + n - 1) / 2097152) : windowPages off n = [off / 2097152] := by
  unfold windowPages pagesTouched
  rw [if_neg (by omega), Config.pageBytes, ← hpage, Nat.add_sub_cancel_left]
  rfl

theorem windowParts_onePage (hn : 1 ≤ n) (hpage : off / 2097152 = (off + n - 1) / 2097152) : windowParts off n = [(off, n)] := by
  have hlo : max off (off / 2097152 * Config.pageBytes) = off := by rw [Config.pageBytes]; omega
  have hlen : min (off + n) ((off / 2097152 + 1) * Config.pageBytes) - off = n := by rw [Config.pageBytes]; omega
  unfold windowParts
  rw [windowPages_onePage hn hpage]
  simp only [List.map_cons, List.map_nil, hlo, hlen]

/-- The lines that an access touches and of which a unit is poisoned (R450). -/
def badLines (s : State) (off n : Nat) : List Nat :=
  ((List.range ((off + n + 63) / 64 - off / 64)).map (off / 64 + ·)).filter fun l =>
    ((windowAddr s (l * 64)).map fun a => poisonedAt s (a / 256 * 256) 256).getD false

/-- The record of the first line of which a unit is poisoned. -/
def badLineRecord (s : State) : List Nat → State
  | [] => s
  | l :: _ => recordErr s { cls := .consumed, unitKind := 9, op := 0, address := s.host.winBase + l * 64, detailA := 5 }

theorem execHostWindowRead_closed (h : windowOpen s off n = false) :
    execHostWindowRead off n s = .next (sendReply s .windowRead 2 []) := by
  simp [execHostWindowRead, h]

theorem execHostWindowRead_held (hopen : windowOpen s off n = true) (hheld : windowHeld s = true) :
    execHostWindowRead off n s = .next s := by
  simp [execHostWindowRead, hopen, hheld]

theorem execHostWindowWrite_held {data : Bytes} (hopen : windowOpen s off data.length = true) (hheld : windowHeld s = true) :
    execHostWindowWrite off data s = .next s := by
  simp [execHostWindowWrite, hopen, hheld]

theorem execHostWindowRead_onePage (hn : 1 ≤ n) (hpage : off / 2097152 = (off + n - 1) / 2097152)
    (hopen : windowOpen s off n = true) (hheld : windowHeld s = false) :
    execHostWindowRead off n s = .next (sendReply
      (badLineRecord (if (windowAddr s off).isNone then protWindow s off false else s) (badLines s off n)) .windowRead 0
      (match windowAddr s off with | some a => cellsRead s.mem a n | none => zeros n)
      ((badLines s off n).map (· - off / 64))) := by
  unfold execHostWindowRead
  rw [windowParts_onePage hn hpage, if_neg (by simp [hopen]), if_neg (by simp [hheld])]
  simp only [List.flatMap_cons, List.flatMap_nil, List.append_nil, List.foldl_cons, List.foldl_nil]
  rfl

/-- The lines that an access within one page touches lie in that page. -/
theorem windowAddr_line (hpage : off / 2097152 = (off + n - 1) / 2097152) {l : Nat} (hlo : off / 64 ≤ l) (hhi : l < (off + n + 63) / 64) :
    windowAddr s (l * 64) =
      (mapFind s.host.window (off / 2097152)).map fun x => x.page * 2097152 + l * 64 % 2097152 := by
  have hline : l * 64 / 2097152 = off / 2097152 := by omega
  unfold windowAddr
  rw [Config.pageBytes, hline]

theorem windowAddr_eq (s : State) (off : Nat) : windowAddr s off =
    (mapFind s.host.window (off / 2097152)).map fun x => x.page * 2097152 + off % 2097152 := rfl

theorem mem_touchedLines {l : Nat} : l ∈ (List.range ((off + n + 63) / 64 - off / 64)).map (off / 64 + ·) ↔
    off / 64 ≤ l ∧ l < (off + n + 63) / 64 := by
  rw [List.mem_map]
  constructor
  · rintro ⟨i, hi, rfl⟩
    rw [List.mem_range] at hi
    omega
  · rintro ⟨hlo, hhi⟩
    exact ⟨l - off / 64, List.mem_range.2 (by omega), by omega⟩

theorem badLines_unmapped (hpage : off / 2097152 = (off + n - 1) / 2097152) (ha : windowAddr s off = none) : badLines s off n = [] := by
  rw [windowAddr_eq, Option.map_eq_none_iff] at ha
  refine List.filter_eq_nil_iff.2 fun l hl => ?_
  obtain ⟨hlo, hhi⟩ := mem_touchedLines.1 hl
  rw [windowAddr_line hpage hlo hhi, ha]
  exact Bool.false_ne_true

theorem badLines_clean (hpage : off / 2097152 = (off + n - 1) / 2097152) {a : Nat} (ha : windowAddr s off = some a)
    (hclean : ∀ c ∈ s.poison, c.1 < a / 256 * 4 ∨ (a + n - 1) / 256 * 4 + 3 < c.1) : badLines s off n = [] := by
  rw [windowAddr_eq] at ha
  obtain ⟨x, hx, rfl⟩ := Option.map_eq_some_iff.1 ha
  refine List.filter_eq_nil_iff.2 fun l hl => ?_
  obtain ⟨hlo, hhi⟩ := mem_touchedLines.1 hl
  rw [windowAddr_line hpage hlo hhi, hx, Option.map_some, Option.map_some, Option.getD_some, Bool.not_eq_true, poisonedAt,
    Bool.and_eq_false_iff, List.any_eq_false]
  refine .inr fun c hc => ?_
  have hout := hclean c hc
  simp only [Bool.and_eq_true, decide_eq_true_eq]
  omega

theorem badLines_aligned {a : Nat} (ha : windowAddr s off = some a) (halign : off % 64 = 0)
    (hbad : poisonedAt s (a / 256 * 256) 256 = true) : badLines s off 64 = [off / 64] := by
  have hone : (off + 64 + 63) / 64 - off / 64 = 1 := by omega
  have hline : off / 64 * 64 = off := by omega
  unfold badLines
  rw [hone, List.range_one, List.map_cons, List.map_nil, Nat.add_zero, List.filter_cons_of_pos, List.filter_nil]
  rw [hline, ha]
  exact hbad

theorem protWindow_records (s : State) (off : Nat) (write : Bool) : SameButReports s (protWindow s off write) ∧
    ∃ r rs, (protWindow s off write).integ.recs = r :: rs ∧ r.cls = .protection ∧ r.unitKind = 9 := by
  obtain ⟨r, rs, hr, hcls, hkind, -⟩ := recordErr_head_named s
    { cls := .protection, unitKind := 9, op := b2n write, address := s.host.winBase + off, detailA := b2n write }
  exact ⟨recordErr_frame .., r, rs, hr, hcls, hkind⟩

theorem badLineRecord_records (s : State) (l : Nat) (ls : List Nat) : SameButReports s (badLineRecord s (l :: ls)) ∧
    ∃ r rs, (badLineRecord s (l :: ls)).integ.recs = r :: rs ∧ r.cls = .consumed ∧ r.unitKind = 9 := by
  obtain ⟨r, rs, hr, hcls, hkind, -⟩ := recordErr_head_named s
    { cls := .consumed, unitKind := 9, op := 0, address := s.host.winBase + l * 64, detailA := 5 }
  exact ⟨recordErr_frame .., r, rs, hr, hcls, hkind⟩

theorem slice_zero_length (b : Bytes) : slice b 0 b.length = b := List.take_length

/-- A write within one page that takes it (R178, R199). -/
theorem execHostWindowWrite_taken {data : Bytes} (hlen : data.length = n) (hn : 1 ≤ n) (hpage : off / 2097152 = (off + n - 1) / 2097152)
    (hopen : windowOpen s off n = true) (hheld : windowHeld s = false) {x : WinPage}
    (hx : mapFind s.host.window (off / 2097152) = some x) (hw : x.hostWrite = true) :
    execHostWindowWrite off data s = .next (memWrite s (x.page * 2097152 + off % 2097152) data false) := by
  subst hlen
  have hx' : mapFind s.host.window (off / Config.pageBytes) = some x := hx
  unfold execHostWindowWrite
  rw [if_neg (by simp [hopen]), if_neg (by simp [hheld]), windowParts_onePage hn hpage]
  simp only [List.foldl_cons, List.foldl_nil, hx', hw, if_true, Nat.sub_self, slice_zero_length]
  rfl

/-- A write to a page that is unmapped, or not marked HOST_WRITE. -/
theorem execHostWindowWrite_refused {data : Bytes} (hlen : data.length = n) (hn : 1 ≤ n)
    (hpage : off / 2097152 = (off + n - 1) / 2097152) (hopen : windowOpen s off n = true) (hheld : windowHeld s = false)
    (hx : ∀ x, mapFind s.host.window (off / 2097152) = some x → x.hostWrite = false) :
    execHostWindowWrite off data s = .next (protWindow s off true) := by
  subst hlen
  unfold execHostWindowWrite
  rw [if_neg (by simp [hopen]), if_neg (by simp [hheld]), windowParts_onePage hn hpage, List.foldl_cons, List.foldl_nil]
  split
  next x hf => rw [if_neg (by simp [hx x hf])]
  · rfl

end

/-! ### Writes of memory -/

section
variable {s : State} {a : Nat} {bs : Bytes}

theorem memWrite_reads (mark : Bool) (hm : mapWf s.mem = true) :
    cellsRead (memWrite s a bs mark).mem a bs.length = bs ∧
    ∀ c, (c < a ∨ a + bs.length ≤ c) → cellRead (memWrite s a bs mark).mem c = cellRead s.mem c := by
  rw [memWrite_mem]
  exact ⟨cellsRead_cellsWrite_same a bs hm, fun c hc => cellRead_cellsWrite_outside bs hm hc⟩

/-- A write that does not mark takes the mark of each line wholly written, and no other (R449). -/
theorem mem_memWrite_poison (hbs : 1 ≤ bs.length) (c : Nat × Unit) :
    c ∈ (memWrite s a bs false).poison ↔ c ∈ s.poison ∧ ¬(a ≤ c.1 * 64 ∧ c.1 * 64 + 64 ≤ a + bs.length) := by
  unfold memWrite
  dsimp only
  rw [if_neg (by omega), if_neg Bool.false_ne_true, List.mem_filter]
  simp only [Bool.not_eq_true', Bool.and_eq_false_iff, decide_eq_false_iff_not, not_and_or]

/-- A marked write of one whole line marks it. -/
theorem memWrite_line_marked {l : Nat} (hbs : bs.length = 64) : mapFind (memWrite s (l * 64) bs true).poison l = some () := by
  have hone : (l * 64 + 64 - 1) / 64 + 1 - l * 64 / 64 = 1 := by omega
  have hline : l * 64 / 64 = l := by omega
  unfold memWrite
  dsimp only
  rw [hbs, if_neg (by decide), if_pos rfl, hone, hline]
  exact mapFind_mapPut_same ..

end

/-! ### The answer to a back-invalidate snoop (R404) -/

theorem listDrop_append {α : Type} (pre post : List α) (x : α) : listDrop (pre ++ x :: post) pre.length = pre ++ post := by
  induction pre with
  | nil => rfl
  | cons y pre ih => exact congrArg (y :: ·) ih

/-- The oldest write held for a line proceeds. -/
theorem execBackInvalidateResponse_held {s : State} {pre post : List Snoop} {x : Snoop} (hs : s.host.snoops = pre ++ x :: post)
    (hpre : ∀ y ∈ pre, y.line ≠ x.line) : execBackInvalidateResponse x.line s =
      .next (memWrite { s with host.snoops := pre ++ post } (x.line * 64) x.data x.poison) := by
  have hfirst : s.host.snoops.findIdx? (fun y => y.line == x.line) = some pre.length := by
    have hnone : pre.findIdx? (fun y => y.line == x.line) = none := List.findIdx?_eq_none_iff.2 fun y hy => by simpa using hpre y hy
    rw [hs, List.findIdx?_append, hnone, List.findIdx?_cons]
    simp
  have hat : s.host.snoops[pre.length]? = some x := by simp [hs]
  have hdrop : listDrop s.host.snoops pre.length = pre ++ post := hs ▸ listDrop_append pre post x
  simp only [execBackInvalidateResponse, hfirst, hat, hdrop]

/-- Settles O36: the sizes of the decoder, the accesses of one page by what the map says of it, and the answer to a snoop. -/
theorem windowAccessesComplete : Obligations.WindowAccessesComplete := by
  unfold Obligations.WindowAccessesComplete
  intro s
  refine ⟨fun base n hlo hhi hsize => ?_, fun base n hlo hhi h0 hother hused => ?_, fun base bytes => execDecoderCommit_barred, rfl,
    fun off n hn hpage => ⟨execHostWindowRead_closed, fun hopen hheld a ha hclean => ?_, fun hopen hheld => ?_,
      fun hopen hheld ha => ?_, fun hopen hheld a ha halign hn64 hbad => ?_, fun data hlen hopen hheld x hx hwrite hm => ?_,
      fun data hlen hopen hheld hx => ?_⟩, fun pre x post hs hpre hlen hm => ?_⟩
  · refine (execDecoderCommit_allowed hlo hhi (hsize.imp_right .inl)).trans ?_
    rw [if_neg fun h => hsize.elim h.1 h.2]
    rfl
  · refine ⟨_, execDecoderCommit_allowed hlo hhi (.inr (.inr hused)), ?_⟩
    rw [if_pos ⟨h0, hother⟩]
    refine ⟨clearWindow_window s, clearWindow_heldUnmaps s, rfl, rfl, rfl, fun hm hw => ?_⟩
    have hun := unmapped_clearWindow (Bool.and_eq_true_iff.1 hm).1 hw
    refine ⟨fun w hin => ?_, hun.kept⟩
    refine (hun.entry w.1).elim (fun hsame => ?_) And.right
    rw [clearWindow_window, mapFind_of_mem hw hin] at hsame
    cases hsame
  · refine (execHostWindowRead_onePage hn hpage hopen hheld).trans ?_
    rw [ha, badLines_clean hpage ha hclean]
    rfl
  · exact ⟨execHostWindowRead_held hopen hheld, fun data hlen => execHostWindowWrite_held (hlen ▸ hopen) hheld⟩
  · refine ⟨_, execHostWindowRead_onePage hn hpage hopen hheld, ?_⟩
    rw [ha, badLines_unmapped hpage ha]
    obtain ⟨hsame, hrec⟩ := protWindow_records s off false
    exact ⟨hsame, rfl, hrec⟩
  · subst hn64
    refine ⟨_, execHostWindowRead_onePage hn hpage hopen hheld, ?_⟩
    rw [ha, badLines_aligned ha halign hbad]
    obtain ⟨hsame, hrec⟩ := badLineRecord_records s (off / 64) []
    refine ⟨hsame, ?_, hrec⟩
    simp [sendReply]
  · obtain ⟨hin, hout⟩ := memWrite_reads (s := s) (a := x.page * 2097152 + off % 2097152) (bs := data) false hm
    rw [hlen] at hin hout
    refine ⟨_, execHostWindowWrite_taken hlen hn hpage hopen hheld hx hwrite, memWrite_frame .., hin, hout, fun c => ?_⟩
    rw [mem_memWrite_poison (hlen ▸ hn), hlen]
  · exact ⟨_, execHostWindowWrite_refused hlen hn hpage hopen hheld hx, protWindow_records s off true⟩
  · obtain ⟨hin, hout⟩ := memWrite_reads (s := { s with host.snoops := pre ++ post }) (a := x.line * 64) (bs := x.data) x.poison hm
    rw [hlen] at hin hout
    have hframe := memWrite_frame { s with host.snoops := pre ++ post } (x.line * 64) x.data x.poison
    refine ⟨_, execBackInvalidateResponse_held hs hpre, (congrArg (fun u : State => u.host.snoops) hframe :),
      (congrArg (fun u : State => { u with host.snoops := s.host.snoops }) hframe :), hin, hout, fun hp => ?_, fun hp c hc => ?_⟩
    · rw [hp]
      exact memWrite_line_marked hlen
    · rw [hp, mem_memWrite_poison (by omega), hlen] at hc
      omega

end Sys2Proof.Proofs

namespace Sys2Proof.Proofs
open Sys2Proof Sys2Proof.Machine Sys2Proof.Safety

/-! ## Tier reads that return, or are late (R182, R191 to R193, R213, R371, R447) -/

theorem mem_of_mapFind {α : Type} {m : SMap α} {k : Nat} {a : α} (h : mapFind m k = some a) : (k, a) ∈ m := by
  induction m with
  | nil => cases h
  | cons x m ih =>
    obtain ⟨j, b⟩ := x
    rw [mapFind] at h
    split_ifs at h with hj
    · cases h
      exact hj ▸ List.mem_cons_self
    · exact List.mem_cons_of_mem _ (ih h)

theorem getElem?_listUpd_ne {α : Type} {l : List α} {i j : Nat} (h : j ≠ i) (f : α → α) : (listUpd l i f)[j]? = l[j]? := by
  induction l generalizing i j with
  | nil => rfl
  | cons a l ih =>
    cases i with
    | zero => cases j with
      | zero => exact absurd rfl h
      | succ j => rfl
    | succ i => cases j with
      | zero => rfl
      | succ j => exact ih fun hij => h (hij ▸ rfl)

/-! ### Runs (R196, R213) -/

theorem emitAll_runs (s : State) (n : Nat) (xs : List Sheet) : (emitAll s n xs).runs = s.runs :=
  field_of_view State.runs .moves (view_emitAll (by decide))

theorem emitAll_reads (s : State) (n : Nat) (xs : List Sheet) : (emitAll s n xs).reads = s.reads :=
  field_of_view State.reads .moves (view_emitAll (by decide))

/-- Runs that leave take nothing from the reads under way. -/
theorem emitRuns_reads (s : State) (c k fuel : Nat) : (emitRuns s c k fuel).reads = s.reads := by
  induction fuel generalizing s with
  | zero => rfl
  | succ fuel ih =>
    unfold emitRuns
    split
    · rfl
    · split
      · rfl
      · dsimp only
        split
        · rw [ih, emitAll_reads]
        · rw [ih]

/-- A run of which a part is missing stays while the runs of a program leave. -/
theorem emitRuns_waiting {s : State} {i : Nat} {q : Run} (c k fuel : Nat) (hw : mapWf s.runs = true) (hq : mapFind s.runs i = some q)
    (hwaits : q.parts.any Option.isNone = true) : mapFind (emitRuns s c k fuel).runs i = some q := by
  induction fuel generalizing s with
  | zero => exact hq
  | succ fuel ih =>
    unfold emitRuns
    split
    · exact hq
    next j r hfirst =>
      split
      · exact hq
      next hready =>
        have hj : i ≠ j := by
          rintro rfl
          rw [mapFind_of_mem hw (List.mem_of_find?_eq_some hfirst)] at hq
          cases hq
          exact hready hwaits
        have hw' : mapWf (mapDrop s.runs j) = true := mapWf_mapDrop j hw
        have hq' : mapFind (mapDrop s.runs j) i = some q := by rw [mapFind_mapDrop _ _ hw, if_neg hj, hq]
        dsimp only
        split
        · exact ih (by rw [emitAll_runs]; exact hw') (by rw [emitAll_runs]; exact hq')
        · exact ih hw' hq'

/-- A run with part `j` missing takes part `i` and waits. -/
theorem pumpRuns_putPart {s : State} {n i j : Nat} {run : Run} {p : Part} (c k : Nat) (hw : mapWf s.runs = true)
    (hrun : mapFind s.runs n = some run) (hj : j ≠ i) (hmissing : run.parts[j]? = some none) :
    mapFind (pumpRuns (putPart s n i p) c k).runs n = some { run with parts := listUpd run.parts i fun _ => some p } := by
  refine emitRuns_waiting c k _ (mapWf_mapUpd _ _ hw) ?_ ?_
  · exact (mapFind_mapUpd ..).trans (by rw [hrun]; rfl)
  · refine List.any_eq_true.2 ⟨none, ?_, rfl⟩
    exact List.mem_of_getElem? ((getElem?_listUpd_ne hj _).trans hmissing)

theorem readPart_eq (s : State) (r : TierRead) (p : Part) (checkFailed : Bool) : readPart s r p checkFailed =
    putPart (if checkFailed then detected s stnFeed r.ctx 0 0 0 0 true else s) r.run r.part
      (if checkFailed then spoilPart p else p) := by
  unfold readPart
  cases checkFailed <;> rfl

/-- With no scatter program and no DRAINING version, nothing settles. -/
theorem settleTables_idle {s : State} (hs : s.scatters = []) (ht : ∀ y ∈ s.tables, y.2.drain = none) : settleTables s = s := by
  have hfree : ∀ y : Nat × Table, freeDrainedTable s y.1 = s := fun y => by
    unfold freeDrainedTable
    split
    next t hf => rw [ht _ (mem_of_mapFind hf)]
    · rfl
  have hfold : s.tables.foldl (fun s p => freeDrainedTable s p.1) s = s := List.foldl_fixed' hfree _
  unfold settleTables
  rw [hfold, drainScatter, closeIdle, hs]
  simp [hs]

/-! ### Late reads -/

/-- The reads that STATION_DEADLINE finds late. -/
def lateAt (s : State) (ctx station batch : Nat) (r : TierRead) : Bool :=
  r.ctx == ctx && r.batch == batch && !r.late && (r.deadline.map fun e => decide (e ≤ s.time)).getD false &&
    (((mapFind s.runs r.run).bind fun run => feedStream s ctx run.feed).map fun p =>
      (if r.row.isSome then deadlineStation s ctx p.2 else stnFeed) == station).getD false

/-- A read that is late: replaced, or under way as late. -/
def lateOne (s : State) (r : TierRead) : State :=
  let (t, gone) := lateRead s r
  if gone then t else { t with reads := t.reads ++ [{ r with late := true }] }

theorem lateOne_replaced {s t : State} {r : TierRead} (h : lateRead s r = (t, true)) : lateOne s r = t := by
  rw [lateOne, h]
  rfl

theorem lateOne_waits {s t : State} {r : TierRead} (h : lateRead s r = (t, false)) :
    lateOne s r = { t with reads := t.reads ++ [{ r with late := true }] } := by
  rw [lateOne, h]
  rfl

theorem execStationDeadline_eq (s : State) (ctx station batch : Nat) : execStationDeadline ctx station batch s =
    .next ((s.reads.filter (lateAt s ctx station batch)).foldl lateOne
      { s with reads := s.reads.filter fun r => !lateAt s ctx station batch r }) := rfl

/-- Where one read of a batch is late for the station, it alone is taken. -/
theorem execStationDeadline_one {s : State} {pre post : List TierRead} {r : TierRead} {station : Nat} (hs : s.reads = pre ++ r :: post)
    (hr : lateAt s r.ctx station r.batch r = true)
    (hothers : ∀ y ∈ pre ++ post, y.ctx ≠ r.ctx ∨ y.batch ≠ r.batch ∨ y.late = true) :
    execStationDeadline r.ctx station r.batch s = .next (lateOne { s with reads := pre ++ post } r) := by
  have hnot : ∀ y ∈ pre ++ post, lateAt s r.ctx station r.batch y = false := fun y hy => by
    rcases hothers y hy with h | h | h <;> simp [lateAt, h]
  rw [List.forall_mem_append] at hnot
  obtain ⟨hpre, hpost⟩ := hnot
  have hhit : s.reads.filter (lateAt s r.ctx station r.batch) = [r] := by
    rw [hs, List.filter_append, List.filter_cons_of_pos hr, List.filter_eq_nil_iff.2 (by simpa using hpre),
      List.filter_eq_nil_iff.2 (by simpa using hpost)]
    rfl
  have hrest : (s.reads.filter fun y => !lateAt s r.ctx station r.batch y) = pre ++ post := by
    rw [hs, List.filter_append, List.filter_cons_of_neg (by simp [hr]), List.filter_eq_self.2 (by simpa using hpre),
      List.filter_eq_self.2 (by simpa using hpost)]
  rw [execStationDeadline_eq, hhit, hrest]
  rfl

/-- A read that is no row's has no draft path (R192). -/
theorem lateRead_noRow {s : State} {r : TierRead} {run : Run} (hrun : mapFind s.runs r.run = some run) (hrow : r.row = none) :
    lateRead s r = (s, false) := by
  unfold lateRead
  simp only [hrun, hrow]
  split
  next h => cases h
  · rfl

/-- A row for a consumer on the SKETCH_SCORE path is replaced at once, and counted (R193): it becomes a part of its run. -/
theorem lateRead_scored {s : State} {r : TierRead} {run : Run} {n i : Nat} {x : Stream} {d : DraftEntry} {f : FeedEntry}
    {reg : RegionEntry} (hrun : mapFind s.runs r.run = some run) (hrow : r.row = some i)
    (hstream : feedStream s r.ctx run.feed = some (n, x)) (hprog : feedProg s r.ctx run.feed = some f)
    (hreg : regionOf s r.ctx f.region = some reg) (hdraft : draftOf s r.ctx x.cons = some d) (hkind : d.kind = 1) :
    ∃ t, lateRead s r = (pumpRuns t r.ctx run.feed, true) ∧ t.reads = s.reads ∧
      t.ctxs = (bumpTier s r.ctx fun m => { m with draftReads := satAdd (ones 32) m.draftReads 1 }).ctxs := by
  unfold lateRead
  simp only [hrun, hprog, hstream, hrow, hreg, hdraft, hkind, Option.map_some, Option.getD_some, beq_self_eq_true, if_true]
  split
  · exact ⟨_, rfl, rfl, rfl⟩
  · exact ⟨_, rfl, rfl, rfl⟩

/-! ### Reads that return -/

theorem feedProg_bumpTier (s : State) (c k : Nat) (f : TierMon → TierMon) : feedProg (bumpTier s c f) c k = feedProg s c k := by
  unfold feedProg
  rw [ctxOf_bumpTier]

theorem feedStream_bumpTier (s : State) (c k : Nat) (f : TierMon → TierMon) : feedStream (bumpTier s c f) c k = feedStream s c k := by
  unfold feedStream
  rw [feedProg_bumpTier]
  rfl

theorem readReplica_runs (s : State) (r : TierRead) (reg : RegionEntry) (origin : Nat) : (readReplica s r reg origin).runs = s.runs := by
  unfold readReplica
  (repeat' split) <;> rfl

/-- The state in which the `k`-th read has left those under way, and did not keep its consumer waiting (R203). -/
def readReturned (s : State) (k : Nat) (r : TierRead) : State :=
  bumpTier { s with reads := listDrop s.reads k } r.ctx fun m => { m with waits := satAdd (ones 32) m.waits (b2n false) }

/-- What a read of a region supplies: a row, or the sheets of a SWEEP. -/
def supplied (s : State) (r : TierRead) (reg : RegionEntry) (x : Stream) (run : Run) : Part × State :=
  match r.row with
  | some i => rowPart s r reg x (versionOrigin s r.ctx r.batch run.origin.toNat) i
  | none => (.sheets (sweepPart s r reg x run).1, (sweepPart s r reg x run).2)

theorem supplied_runs (s : State) (r : TierRead) (reg : RegionEntry) (x : Stream) (run : Run) :
    (supplied s r reg x run).2.runs = s.runs := by
  unfold supplied
  split
  · exact field_of_view State.runs .moves (view_rowPart (by decide))
  · exact field_of_view State.runs .moves (view_sweepPart (by decide))

section
variable {s : State} {k : Nat} {r : TierRead}

theorem execTierReadReturn_held {obs : ReadObs} (hr : s.reads[k]? = some r) (hwaits : tierHeld s stnFeed r.ctx = true) :
    execTierReadReturn k obs s = .next s := by
  simp only [execTierReadReturn, hr, hwaits, if_true]

theorem execTierReadReturn_noRun (hr : s.reads[k]? = some r) (hgrant : tierHeld s stnFeed r.ctx = false)
    (hrun : mapFind s.runs r.run = none) (cf : Bool) :
    execTierReadReturn k ⟨[], cf⟩ s = .next { s with reads := listDrop s.reads k } := by
  simp only [execTierReadReturn, hr, hgrant, Bool.false_eq_true, if_false, List.foldl_nil, hrun]

variable {run : Run} (hr : s.reads[k]? = some r) (hgrant : tierHeld s stnFeed r.ctx = false) (hdeadline : r.deadline = none)
  (hmove : r.moveDeadline = none) (hrun : mapFind s.runs r.run = some run)
include hr hgrant hdeadline hmove hrun

/-- A unit's span returns (R371). -/
theorem execTierReadReturn_span (hspan : r.region = 0xFFFF) (cf : Bool) :
    execTierReadReturn k ⟨[], cf⟩ s = .next (settleTables (pumpRuns (readPart (readReturned s k r) r (.span
      (slice (((List.range (ceilDiv (r.offset % 4096 + r.bytes) 4096)).map (r.offset / 4096 + ·)).flatMap (readSector s))
        (r.offset % 4096) r.bytes)
      (((List.range (ceilDiv (r.offset % 4096 + r.bytes) 4096)).map (r.offset / 4096 + ·)).any (sectorPoisoned s))) cf)
      r.ctx run.feed)) := by
  simp only [execTierReadReturn, hr, hgrant, Bool.false_eq_true, if_false, List.foldl_nil, hrun, hdeadline, hmove, hspan, if_true]
  rfl

/-- What a region supplies returns, as a row's part or a SWEEP's. -/
theorem execTierReadReturn_region {n : Nat} {x : Stream} {reg : RegionEntry} (hregion : r.region ≠ 0xFFFF)
    (hstream : feedStream s r.ctx run.feed = some (n, x)) (hreg : regionOf s r.ctx r.region = some reg) :
    ∃ p t, execTierReadReturn k ⟨[], false⟩ s = .next (settleTables (ringRead
      (pumpRuns (putPart t r.run r.part p) r.ctx run.feed) r.ctx r.region r.offset r.bytes)) ∧ t.runs = s.runs := by
  have hstream' : feedStream (readReturned s k r) r.ctx run.feed = some (n, x) := (feedStream_bumpTier ..).trans hstream
  have hreg' : regionOf (readReturned s k r) r.ctx r.region = some reg := (regionOf_bumpTier ..).trans hreg
  unfold readReturned bumpTier at hstream' hreg'
  simp only [execTierReadReturn, hr, hgrant, Bool.false_eq_true, if_false, List.foldl_nil, hrun, hdeadline, hmove, hregion,
    Option.map_none, Option.getD_none, Bool.false_or, Bool.false_and, hstream', hreg', readPart_eq]
  refine ⟨(supplied (readReturned s k r) r reg x run).1, _, rfl, ?_⟩
  have hruns : (supplied (readReturned s k r) r reg x run).2.runs = s.runs := supplied_runs ..
  split
  · exact (readReplica_runs ..).trans hruns
  · exact hruns

end

/-- The state in which a part that has returned is put in its run: where FEED's check has failed twice its record is written (R447). -/
def partChecked (s : State) (k : Nat) (r : TierRead) (checkFailed : Bool) : State :=
  if checkFailed then detected (readReturned s k r) stnFeed r.ctx 0 0 0 0 true else readReturned s k r

theorem view_partChecked {q : Area} (hq : q ∉ [.moves, .contexts, .host, .integrity, .easel, .draws]) (s : State) (k : Nat) (r : TierRead)
    (checkFailed : Bool) : view q (partChecked s k r checkFailed) = view q s := by
  simp at hq
  unfold partChecked readReturned
  split <;> simp [hq]

theorem partChecked_runs (s : State) (k : Nat) (r : TierRead) (checkFailed : Bool) : (partChecked s k r checkFailed).runs = s.runs := by
  unfold partChecked
  split
  · exact field_of_view (s := readReturned s k r) State.runs .moves (view_detected (by decide))
  · rfl

theorem partChecked_reads (s : State) (k : Nat) (r : TierRead) (checkFailed : Bool) :
    (partChecked s k r checkFailed).reads = listDrop s.reads k := by
  unfold partChecked
  split
  · exact field_of_view (s := readReturned s k r) State.reads .moves (view_detected (by decide))
  · rfl

/-- What the return of a span leaves, with `p` in its place in the run (R371). -/
theorem spanReturned {s : State} {k : Nat} {r : TierRead} {run : Run} {j : Nat} (p : Part) (cf : Bool) (hscatters : s.scatters = [])
    (htables : ∀ y ∈ s.tables, y.2.drain = none) (hw : mapWf s.runs = true) (hrun : mapFind s.runs r.run = some run)
    (hj : j ≠ r.part) (hmissing : run.parts[j]? = some none) {u : State}
    (hu : u = pumpRuns (putPart (partChecked s k r cf) r.run r.part p) r.ctx run.feed) :
    settleTables u = u ∧ u.reads = listDrop s.reads k ∧ u.mem = s.mem ∧ u.tiles = s.tiles ∧ u.integ = (partChecked s k r cf).integ ∧
    mapFind u.runs r.run = some { run with parts := listUpd run.parts r.part fun _ => some p } := by
  subst hu
  have hpumped {q : Area} (hq : q ∉ [.moves, .streams, .fabric]) :
      view q (pumpRuns (putPart (partChecked s k r cf) r.run r.part p) r.ctx run.feed) = view q (partChecked s k r cf) := by
    simp at hq
    simp [hq]
  have hkept {q : Area} (hq : q ∉ [.moves, .streams, .fabric, .contexts, .host, .integrity, .easel, .draws]) :
      view q (pumpRuns (putPart (partChecked s k r cf) r.run r.part p) r.ctx run.feed) = view q s := by
    simp at hq
    exact (hpumped (by simp [hq])).trans (view_partChecked (by simp [hq]) ..)
  have hruns : (partChecked s k r cf).runs = s.runs := partChecked_runs ..
  refine ⟨settleTables_idle ?_ ?_, (emitRuns_reads ..).trans (partChecked_reads ..), mem_of_view (hkept (by decide)),
    tiles_of_view (hkept (by decide)), integ_of_view (hpumped (by decide)), pumpRuns_putPart _ _ (hruns ▸ hw) (hruns ▸ hrun) hj hmissing⟩
  · exact (field_of_view State.scatters .tables (hkept (by decide))).trans hscatters
  · rw [field_of_view State.tables .tables (hkept (by decide))]
    exact htables

/-- Settles O39: a read that waits, a row that is replaced, the returns of a span and of a region's bytes, and a read that waits for
its grant or has no run. -/
theorem readsReturnOrAreLate : Obligations.ReadsReturnOrAreLate := by
  unfold Obligations.ReadsReturnOrAreLate
  intro s
  refine ⟨fun pre post r run n e x hs hrow hlate hdeadline he hrun hstream hothers => ?_,
    fun pre post r run n e i x d f reg hs hrow hlate hdeadline he hrun hstream hprog hreg hdraft hkind hothers => ?_,
    fun k r run j hr hgrant hscatters htables hdeadline hmove hrun hw hj hmissing hctx =>
      ⟨fun hspan => ?_, fun hspan => ?_, fun n x reg hregion hstream hreg => ?_⟩,
    fun k r obs hr hwaits => execTierReadReturn_held hr hwaits, fun k r hr hgrant hrun cf => execTierReadReturn_noRun hr hgrant hrun cf⟩
  · have hhit : lateAt s r.ctx stnFeed r.batch r = true := by simp [lateAt, hlate, hdeadline, he, hrun, hstream, hrow]
    have hend := lateOne_waits (lateRead_noRow (s := { s with reads := pre ++ post }) hrun hrow)
    exact (execStationDeadline_one hs hhit hothers).trans (congrArg _ hend)
  · have hhit : lateAt s r.ctx x.cons r.batch r = true := by
      simp [lateAt, hlate, hdeadline, he, hrun, hstream, hrow, deadlineStation, hdraft, hkind]
    obtain ⟨t, hread, hreads, hctxs⟩ := lateRead_scored (s := { s with reads := pre ++ post }) hrun hrow hstream hprog hreg hdraft hkind
    have hkept {q : Area} (hq : q ∉ [.moves, .contexts, .requests, .streams, .fabric]) :
        view q (pumpRuns t r.ctx run.feed) = view q { s with reads := pre ++ post } := by
      have h := view_lateRead (s := { s with reads := pre ++ post }) (r := r) hq
      rwa [hread] at h
    have hpumped : (pumpRuns t r.ctx run.feed).ctxs = t.ctxs := field_of_view State.ctxs .contexts (view_pumpRuns (by decide))
    have hcounted := congrArg (fun m => (mapGet m r.ctx Ctx.empty).tier.draftReads) (hpumped.trans hctxs)
    exact ⟨_, (execStationDeadline_one hs hhit hothers).trans (congrArg _ (lateOne_replaced hread)), (emitRuns_reads ..).trans hreads,
      mem_of_view (hkept (by decide)), tiles_of_view (hkept (by decide)),
      hcounted.trans (congrArg (fun y : Ctx => y.tier.draftReads) (ctxOf_bumpTier ..))⟩
  · have hexec := execTierReadReturn_span hr hgrant hdeadline hmove hrun hspan false
    rw [readPart_eq] at hexec
    obtain ⟨hsettled, hreads, hmem, htiles, -, hplaced⟩ := spanReturned _ false hscatters htables hw hrun hj hmissing rfl
    exact ⟨_, hexec.trans (congrArg _ hsettled), hreads, hmem, htiles, hplaced⟩
  · have hexec := execTierReadReturn_span hr hgrant hdeadline hmove hrun hspan true
    rw [readPart_eq] at hexec
    obtain ⟨hsettled, hreads, hmem, htiles, hinteg, hplaced⟩ := spanReturned _ true hscatters htables hw hrun hj hmissing rfl
    refine ⟨_, _, hexec.trans (congrArg _ hsettled), hreads, hmem, htiles, hplaced, ?_⟩
    rw [hinteg]
    exact recordErr_head ..
  · obtain ⟨p, t, hexec, hruns⟩ := execTierReadReturn_region hr hgrant hdeadline hmove hrun hregion hstream hreg
    have hplaced := pumpRuns_putPart (s := t) (p := p) r.ctx run.feed (hruns ▸ hw) (hruns ▸ hrun) hj hmissing
    refine ⟨_, p, hexec, tiles_of_view (view_execTierReadReturn (by decide) hexec), ?_⟩
    rw [field_of_view State.runs .moves (view_settleTables (by decide)), field_of_view State.runs .moves (view_ringRead (by decide))]
    exact hplaced

end Sys2Proof.Proofs

namespace Sys2Proof.Proofs
open Sys2Proof Sys2Proof.Machine Sys2Proof.Safety

/-! ## Loading and unloading objects (R205, R216, R254, R257, R285, R411, R413) -/

/-! ### Admin commands that the controller takes -/

theorem adminBut_trans {s t u : State} (h : AdminBut s t) (h' : AdminBut t u) : AdminBut s u := by
  unfold AdminBut at *
  rw [← h, ← h']

theorem taken_adminBut (s : State) : AdminBut s (taken s) :=
  (congrArg (fun u : State => { u with host.cqs := s.host.cqs, host.posted := s.host.posted, easel := s.easel })
    (takeSq_frame s 0) :)

theorem adminDone_adminBut (s : State) (cid hi dw1 : Nat) : AdminBut s (adminDone s cid hi dw1) :=
  (congrArg (fun u : State => { u with host.sqs := s.host.sqs, easel := s.easel }) (adminDone_frame s cid hi dw1) :)

theorem adminRefuse_adminBut (s : State) (cid : Nat) (st : Status) (reason : Nat) : AdminBut s (adminRefuse s cid st reason) :=
  (congrArg (fun u : State => { u with host.sqs := s.host.sqs, easel := s.easel }) (adminRefuse_frame s cid st reason) :)

theorem condBit_ne_zero (st : Status) : condBit st ≠ 0 := by cases st <;> decide

theorem statusOfMask_condBit (st : Status) : statusOfMask (condBit st) = st := by cases st <;> decide

theorem adminRefuse_posts (s : State) {cid : Nat} (st : Status) (reason : Nat) (h : cid < orphanCid) :
    Posts (adminRefuse s cid st reason) cid (statusField st).1 (statusField st).2.1 := by
  have hposts := vendorCpl_answers s cid (condBit st) reason 0 h (condBit_ne_zero st)
  rwa [statusOfMask_condBit] at hposts

section
variable {s : State} {cid : Nat}

/-- A command that the controller takes now is carried out in the state in which Easel serves it (R410, R421, R548). -/
theorem adminCmd_ready (h : AdminReady s cid) (f : State → State) : adminCmd s cid false f = f (taken s) := by
  obtain ⟨hready, hrestart, hrefuses, hhead, -⟩ := h
  have hrestart' : (takeSq s 0).easel.restarting = false :=
    (congrArg (fun u : State => u.easel.restarting) (takeSq_frame s 0) :).trans hrestart
  have hrefuses' : easelRefuses (takeSq s 0) = false := (congrArg easelRefuses (takeSq_frame s 0) :).trans hrefuses
  have hhead' : isHead (takeSq s 0) = true := (congrArg isHead (takeSq_frame s 0) :).trans hhead
  simp only [adminCmd, hready, hrestart', hrefuses', hhead', Bool.not_true, Bool.false_and, Bool.false_eq_true, if_false]
  rfl

theorem adminDone_succeeds (h : AdminReady s cid) (t : State) : Succeeds t (adminDone t cid) cid := by
  obtain ⟨-, -, -, -, hcid⟩ := h
  exact ⟨adminDone_adminBut .., adminDone_posts _ _ _ _ hcid⟩

theorem adminRefuse_endsWith (h : AdminReady s cid) (st : Status) : EndsWith s (adminRefuse (taken s) cid st) cid st := by
  obtain ⟨-, -, -, -, hcid⟩ := h
  exact ⟨adminBut_trans (taken_adminBut s) (adminRefuse_adminBut ..), adminRefuse_posts _ _ _ hcid⟩

/-! ### How a load ends (R413) -/

/-- An object load as a command: what `load` makes of the record decides its completion. -/
theorem load_ok (h : AdminReady s cid) {load : State → Except Status State} {t : State} (ht : load (taken s) = .ok t) :
    (.next (adminCmd s cid false fun s => endLoad s cid (load s)) : Host.Outcome State Fault Refusal) = .next (adminDone t cid) := by
  rw [adminCmd_ready h, ht]
  rfl

theorem load_error (h : AdminReady s cid) {load : State → Except Status State} {st : Status} (ht : load (taken s) = .error st) :
    ∃ u, (.next (adminCmd s cid false fun s => endLoad s cid (load s)) : Host.Outcome State Fault Refusal) = .next u ∧
      EndsWith s u cid st := by
  rw [adminCmd_ready h, ht]
  exact ⟨_, rfl, adminRefuse_endsWith h st⟩

end

section
variable {s t : State} {r b : Bytes} {st : Status}

theorem loadTable_error (h : objectContents s r 0 192 = .error st) : loadTable s r = .error st := by
  rw [loadTable, h]

theorem loadIndex_error (h : objectContents s r 1 256 = .error st) : loadIndex s r = .error st := by
  rw [loadIndex, h]

theorem loadLexical_error {kind : Nat} (h : objectContents s r kind 0 = .error st) : loadLexical s r kind = .error st := by
  rw [loadLexical, h]

theorem loadLexical_vocab (h : objectContents s r 2 0 = .ok b) : loadLexical s r 2 = takeVocab s b := by
  simp only [loadLexical, h]

theorem loadLexical_norm (h : objectContents s r 3 0 = .ok b) : loadLexical s r 3 = takeNorm s b := by
  simp only [loadLexical, h]

theorem loadLexical_grammar (h : objectContents s r 4 0 = .ok b) : loadLexical s r 4 = takeGrammar s b := by
  simp only [loadLexical, h]

/-! ### Tables and indexes (R205, R216, R254) -/

theorem tableOf_id {id : BitVec 64} {k : Nat} {x : Table} (h : tableOf s id = some (k, x)) : x.id = id := by
  simpa using List.find?_some h

theorem indexOf_id {id : BitVec 64} {k : Nat} {x : Index} (h : indexOf s id = some (k, x)) : x.id = id := by
  simpa using List.find?_some h

/-- A table that has been loaded: its descriptor is that of the slot's CURRENT version, or of its PENDING one (R205, R216). -/
def HasTable (u : State) (d : TableDesc) : Prop :=
  ∃ k x, mapFind u.tables k = some x ∧ x.id = d.tableId ∧ (x.cur.desc = d ∨ x.pend.map (·.desc) = some d)

/-- The same of an index (R254). -/
def HasIndex (u : State) (d : IndexDesc) : Prop :=
  ∃ k x, mapFind u.indexes k = some x ∧ x.id = d.indexId ∧ (x.cur.desc = d ∨ x.pend.map (·.desc) = some d)

theorem takeTable_hasTable {raw : Bytes} (h : takeTable s raw b = .ok t) : HasTable t (tableDescOf raw) := by
  rw [takeTable] at h
  replace h := ok_of_ite_error h
  extract_lets s₁ at h
  split at h
  · cases h
  · replace h := ok_of_ite_error h
    dsimp only at h
    split at h <;> cases h
    next k x hold =>
      have hid := tableOf_id hold
      exact ⟨k, _, mapFind_mapPut_same .., hid, .inr rfl⟩
    · exact ⟨_, _, mapFind_mapPut_same .., rfl, .inl rfl⟩

theorem loadTable_hasTable (h : loadTable s r = .ok t) : HasTable t (tableDescOf (slice r 128 192)) := by
  unfold loadTable at h
  split at h
  · cases h
  · exact takeTable_hasTable h

theorem takeIndex_hasIndex {raw : Bytes} (h : takeIndex s raw b = .ok t) : HasIndex t (indexDescOf raw) := by
  revert h
  fun_cases takeIndex s raw b
  case case1 | case2 | case3 => exact fun h => nomatch h
  case case4 d _ _ _ _ _ _ _ hv _ k x hold _ =>
    intro h
    cases h
    have hid := indexOf_id hold
    exact ⟨k, _, mapFind_mapPut_same .., hid, .inr (congrArg some (newIndexVer_desc hv))⟩
  case case5 d _ _ _ _ _ _ _ hv _ _ _ _ _ =>
    intro h
    cases h
    exact ⟨_, _, mapFind_mapPut_same .., rfl, .inl (newIndexVer_desc hv)⟩

theorem loadIndex_hasIndex (h : loadIndex s r = .ok t) : HasIndex t (indexDescOf (slice r 128 256)) := by
  unfold loadIndex at h
  split at h
  · cases h
  · exact takeIndex_hasIndex h

theorem adminDone_hasTable {cid : Nat} {d : TableDesc} (h : HasTable t d) : HasTable (adminDone t cid) d := by
  have hkept : (adminDone t cid).tables = t.tables := field_of_view State.tables .tables (view_adminDone (by decide))
  rwa [HasTable, hkept]

theorem adminDone_hasIndex {cid : Nat} {d : IndexDesc} (h : HasIndex t d) : HasIndex (adminDone t cid) d := by
  have hkept : (adminDone t cid).indexes = t.indexes := field_of_view State.indexes .indexes (view_adminDone (by decide))
  rwa [HasIndex, hkept]

/-! ### Lettering objects (R285) -/

theorem takeVocab_hasVocab (h : takeVocab s b = .ok t) :
    ∃ k v, mapFind t.vocabs k = some v ∧ v.id = BitVec.ofNat 64 (u64 b 0) := by
  unfold takeVocab at h
  replace h := ok_of_ite_error h
  split at h <;> cases h
  exact ⟨_, _, mapFind_mapPut_same .., rfl⟩

theorem takeNorm_hasNorm (h : takeNorm s b = .ok t) :
    ∃ k v, mapFind t.norms k = some v ∧ v.id = BitVec.ofNat 64 (u64 b 0) := by
  unfold takeNorm at h
  replace h := ok_of_ite_error h
  split at h <;> cases h
  exact ⟨_, _, mapFind_mapPut_same .., rfl⟩

theorem takeGrammar_hasGrammar (h : takeGrammar s b = .ok t) :
    ∃ k v, mapFind t.grammars k = some v ∧ v.id = BitVec.ofNat 64 (u64 b 0) := by
  unfold takeGrammar at h
  replace h := ok_of_ite_error h
  split at h <;> cases h
  exact ⟨_, _, mapFind_mapPut_same .., rfl⟩

/-! ### Unloads (R285, R411) -/

theorem length_mapDrop {α : Type} {m : SMap α} {k : Nat} {a : α} (h : mapFind m k = some a) :
    (mapDrop m k).length + 1 = m.length := by
  induction m with
  | nil => cases h
  | cons x m ih =>
    obtain ⟨j, c⟩ := x
    rw [mapFind] at h
    rw [mapDrop]
    split_ifs at h ⊢
    · rfl
    · rw [List.length_cons, ih h, List.length_cons]

theorem length_mapDrop_of_find? {α : Type} {m : SMap α} {q : Nat × α → Bool} {p : Nat × α} (hw : mapWf m = true)
    (h : m.find? q = some p) : (mapDrop m p.1).length + 1 = m.length :=
  length_mapDrop (mapFind_of_mem hw (List.mem_of_find?_eq_some h))

theorem unloadObject_none {kind : Nat} {id : BitVec 64} (h : imageNames s kind id = true) : unloadObject s kind id = none :=
  if_pos h

/-- Whether pages are those of an object, of any version. -/
def isObjectUse (kind : Nat) (id : BitVec 64) (u : PageUse) : Bool :=
  match u with
  | .object k i _ => k == kind && i == id
  | _ => false

theorem unloadObject_pages {kind : Nat} {id : BitVec 64} (h : unloadObject s kind id = some t) :
    t.pages = s.pages.filter fun p => !isObjectUse kind id p.2 := by
  unfold unloadObject at h
  dsimp only at h
  split at h
  · cases h
  split at h
  case h_1 | h_2 | h_3 =>
    obtain ⟨p, -, h⟩ := Option.bind_eq_some_iff.1 h
    split at h <;> cases h
    rfl
  case h_4 | h_5 =>
    obtain ⟨p, -, h⟩ := Option.map_eq_some_iff.1 h
    cases h
    rfl
  case h_6 => cases h

theorem unloadObject_leaves_no_page {kind : Nat} {id : BitVec 64} (h : unloadObject s kind id = some t) :
    ∀ y ∈ t.pages, ∀ v, y.2 ≠ .object kind id v := by
  intro y hy v huse
  rw [unloadObject_pages h, List.mem_filter, huse] at hy
  simp [isObjectUse] at hy

theorem unloadObject_table {id : BitVec 64} (h : unloadObject s 0 id = some t) (hw : mapWf s.tables = true) :
    t.tables.length + 1 = s.tables.length := by
  obtain ⟨p, hp, h⟩ := Option.bind_eq_some_iff.1 (Option.ite_none_left_eq_some.1 h).2
  dsimp only at h
  split at h <;> cases h
  exact length_mapDrop_of_find? hw hp

theorem unloadObject_index {id : BitVec 64} (h : unloadObject s 1 id = some t) (hw : mapWf s.indexes = true) :
    t.indexes.length + 1 = s.indexes.length := by
  obtain ⟨p, hp, h⟩ := Option.bind_eq_some_iff.1 (Option.ite_none_left_eq_some.1 h).2
  dsimp only at h
  split at h <;> cases h
  exact length_mapDrop_of_find? hw hp

end

theorem execObjectUnload_some {s t : State} {cid kind : Nat} {id : BitVec 64} (h : AdminReady s cid)
    (ht : unloadObject (taken s) kind id = some t) : execObjectUnload cid kind id s = .next (adminDone t cid) := by
  rw [execObjectUnload, adminCmd_ready h, ht]

theorem execObjectUnload_none {s : State} {cid kind : Nat} {id : BitVec 64} (h : AdminReady s cid)
    (ht : unloadObject (taken s) kind id = none) :
    execObjectUnload cid kind id s = .next (adminRefuse (taken s) cid .format) := by
  rw [execObjectUnload, adminCmd_ready h, ht]

/-- Settles O26: each load by what its contents come to, and an unload by whether an image names the object. -/
theorem objectCommandsComplete : Obligations.ObjectCommandsComplete := by
  unfold Obligations.ObjectCommandsComplete
  intro s cid record hadmin
  have hdone := adminDone_succeeds hadmin
  refine ⟨fun t ht => ?_, fun st ht => load_error hadmin (loadTable_error ht),
    fun t ht => ?_, fun st ht => load_error hadmin (loadIndex_error ht),
    fun t b hb ht => ?_, fun t b hb ht => ?_, fun t b hb ht => ?_,
    fun st => ⟨fun ht => load_error hadmin (loadLexical_error ht), fun ht => load_error hadmin (loadLexical_error ht),
      fun ht => load_error hadmin (loadLexical_error ht)⟩,
    fun kind id t ht => ?_, fun kind id hnames => ?_⟩
  · have hexec : execTableLoad cid record s = .next (adminDone t cid) := load_ok hadmin ht
    exact ⟨_, hexec, hdone t, tiles_of_view (view_execTableLoad (by decide) hexec),
      field_of_view State.ctxs .contexts (view_execTableLoad (by decide) hexec),
      field_of_view State.indexes .indexes (view_execTableLoad (by decide) hexec), adminDone_hasTable (loadTable_hasTable ht)⟩
  · have hexec : execIndexLoad cid record s = .next (adminDone t cid) := load_ok hadmin ht
    exact ⟨_, hexec, hdone t, tiles_of_view (view_execIndexLoad (by decide) hexec),
      field_of_view State.ctxs .contexts (view_execIndexLoad (by decide) hexec),
      field_of_view State.tables .tables (view_execIndexLoad (by decide) hexec), adminDone_hasIndex (loadIndex_hasIndex ht)⟩
  · obtain ⟨k, v, hv, hid⟩ := takeVocab_hasVocab ((loadLexical_vocab hb).symm.trans ht)
    have hkept : (adminDone t cid).vocabs = t.vocabs := field_of_view State.vocabs .lexical (view_adminDone (by decide))
    exact ⟨_, load_ok hadmin ht, hdone t, k, v, hkept ▸ hv, hid⟩
  · obtain ⟨k, v, hv, hid⟩ := takeNorm_hasNorm ((loadLexical_norm hb).symm.trans ht)
    have hkept : (adminDone t cid).norms = t.norms := field_of_view State.norms .lexical (view_adminDone (by decide))
    exact ⟨_, load_ok hadmin ht, hdone t, k, v, hkept ▸ hv, hid⟩
  · obtain ⟨k, v, hv, hid⟩ := takeGrammar_hasGrammar ((loadLexical_grammar hb).symm.trans ht)
    have hkept : (adminDone t cid).grammars = t.grammars := field_of_view State.grammars .lexical (view_adminDone (by decide))
    exact ⟨_, load_ok hadmin ht, hdone t, k, v, hkept ▸ hv, hid⟩
  · have hexec := execObjectUnload_some hadmin ht
    have hpages : (adminDone t cid).pages = t.pages := field_of_view State.pages .pages (view_adminDone (by decide))
    have htables : (adminDone t cid).tables = t.tables := field_of_view State.tables .tables (view_adminDone (by decide))
    have hindexes : (adminDone t cid).indexes = t.indexes := field_of_view State.indexes .indexes (view_adminDone (by decide))
    refine ⟨_, hexec, hdone t, mem_of_view (view_execObjectUnload (by decide) hexec),
      field_of_view State.ctxs .contexts (view_execObjectUnload (by decide) hexec), ?_, ?_, ?_⟩
    · rw [hpages]
      exact unloadObject_leaves_no_page ht
    · rintro rfl hw
      rw [htables]
      have htaken : (taken s).tables = s.tables := field_of_view State.tables .tables (by simp [taken])
      rw [← htaken] at hw ⊢
      exact unloadObject_table ht hw
    · rintro rfl hw
      rw [hindexes]
      have htaken : (taken s).indexes = s.indexes := field_of_view State.indexes .indexes (by simp [taken])
      rw [← htaken] at hw ⊢
      exact unloadObject_index ht hw
  · have hnamed : imageNames (taken s) kind id = true := (congrArg (imageNames · kind id) (taken_adminBut s) :).trans hnames
    exact ⟨_, execObjectUnload_none hadmin (unloadObject_none hnamed), adminRefuse_endsWith hadmin .format⟩

end Sys2Proof.Proofs

namespace Sys2Proof.Proofs
open Sys2Proof Sys2Proof.Machine Sys2Proof.Safety

/-! ## Hot rows (R227 to R229, R231) -/

/-! ### A run of pages: what a read finds after a write

The lines of a run of distinct pages lie apart, so that each is read as it was written. -/

theorem flatten_pieces {α : Type} {k : Nat} (hk : 0 < k) (l : List α) : (pieces k l).flatten = l := by
  by_cases h : l = []
  · rw [h, Laws.pieces_nil k hk]; rfl
  · have hdrop : (pieces k (l.drop k)).flatten = l.drop k := flatten_pieces hk _
    rw [Laws.pieces_cons k hk l h, List.flatten_cons, hdrop, List.take_append_drop]
termination_by l.length
decreasing_by
  have := List.length_pos_iff.2 h
  rw [List.length_drop]
  omega

/-- Lines written one after another, line `k` at `at_ k`. -/
def linesWritten (at_ : Nat → Nat) (line : Nat → Bytes) (ks : List Nat) (m : Cells) : Cells :=
  ks.foldl (fun m k => cellsWrite m (at_ k) (line k)) m

section
variable {at_ : Nat → Nat} {line : Nat → Bytes} {ks : List Nat} {m : Cells}

theorem cellRead_linesWritten_outside {a : Nat} (hm : mapWf m = true)
    (h : ∀ k ∈ ks, a < at_ k ∨ at_ k + (line k).length ≤ a) : cellRead (linesWritten at_ line ks m) a = cellRead m a := by
  induction ks generalizing m with
  | nil => rfl
  | cons k ks ih =>
    obtain ⟨hk, hks⟩ := List.forall_mem_cons.1 h
    have hrest := ih (mapWf_cellsWrite (at_ k) (line k) hm) hks
    exact hrest.trans (cellRead_cellsWrite_outside _ hm hk)

theorem cellsRead_linesWritten {k : Nat} (hm : mapWf m = true) (hk : k ∈ ks) (hdistinct : ks.Nodup)
    (hapart : ∀ j ∈ ks, j ≠ k → at_ j + (line j).length ≤ at_ k ∨ at_ k + (line k).length ≤ at_ j) :
    cellsRead (linesWritten at_ line ks m) (at_ k) (line k).length = line k := by
  induction ks generalizing m with
  | nil => cases hk
  | cons j ks ih =>
    obtain ⟨hj, hdistinct⟩ := List.nodup_cons.1 hdistinct
    obtain ⟨-, hrest⟩ := List.forall_mem_cons.1 hapart
    have hwf := mapWf_cellsWrite (at_ j) (line j) hm
    rcases List.mem_cons.1 hk with rfl | hk
    · have hlater : cellsRead (linesWritten at_ line ks (cellsWrite m (at_ k) (line k))) (at_ k) (line k).length =
          cellsRead (cellsWrite m (at_ k) (line k)) (at_ k) (line k).length := by
        refine cellsRead_congr _ fun c hlo hhi => cellRead_linesWritten_outside hwf fun i hi => ?_
        have := hrest i hi fun h => hj (h ▸ hi)
        omega
      exact hlater.trans (cellsRead_cellsWrite_same _ _ hm)
    · exact ih hwf hk hdistinct hrest

end

/-- Line `k` of a byte string. -/
def lineOf (bs : Bytes) (k : Nat) : Bytes := (bs.drop (k * 64)).take 64

section
variable {s : State} {pages : List Nat} {off n : Nat}

theorem lineOf_length {bs : Bytes} {k : Nat} (hlen : bs.length = n * 64) (hk : k < n) : (lineOf bs k).length = 64 := by
  rw [lineOf, List.length_take, List.length_drop]
  omega

theorem ceilDiv_lines (n : Nat) : ceilDiv (n * 64) 64 = n := by
  unfold ceilDiv
  omega

theorem pieces_lines {bs : Bytes} (hlen : bs.length = n * 64) : pieces 64 bs = (List.range n).map (lineOf bs) := by
  have hcount : (bs.length + 64 - 1) / 64 = n := by omega
  rw [pieces, hcount]
  rfl

/-- The lines of a run of pages. -/
theorem pagesRead_lines (s : State) (pages : List Nat) (off n : Nat) :
    pagesRead s pages off (n * 64) = (List.range n).flatMap fun k => cellsRead s.mem (pageAddr pages (off + 64 * k)) 64 := by
  rw [pagesRead, ceilDiv_lines]
  refine List.flatMap_congr fun k hk => ?_
  have hk := List.mem_range.1 hk
  rw [Nat.min_eq_left (by omega)]

/-- A read of pages reads memory alone. -/
theorem pagesRead_of_mem {u : State} (h : u.mem = s.mem) (pages : List Nat) (off len : Nat) :
    pagesRead u pages off len = pagesRead s pages off len := by
  rw [pagesRead, pagesRead, h]

theorem pagesRead_length (s : State) (pages : List Nat) (off n : Nat) : (pagesRead s pages off (n * 64)).length = n * 64 := by
  rw [pagesRead_lines, List.length_flatMap]
  simp [cellsRead_length]

theorem pagesWrite_lines {bs : Bytes} (mark : Bool) (hlen : bs.length = n * 64) :
    (pagesWrite s pages off bs mark).mem =
      linesWritten (fun k => pageAddr pages (off + 64 * k)) (lineOf bs) (List.range n) s.mem := by
  have hfold (l : List (Bytes × Nat)) (t : State) :
      (l.foldl (fun s p => memWrite s (pageAddr pages (off + 64 * p.2)) p.1 mark) t).mem =
        l.foldl (fun m p => cellsWrite m (pageAddr pages (off + 64 * p.2)) p.1) t.mem := by
    induction l generalizing t with
    | nil => rfl
    | cons p l ih => rw [List.foldl_cons, ih, memWrite_mem]; rfl
  have hpairs : ((List.range n).map (lineOf bs)).zipIdx = (List.range n).map fun k => (lineOf bs k, k) :=
    List.ext_getElem (by simp) (by simp)
  rw [pagesWrite, hfold, pieces_lines hlen, hpairs, List.foldl_map]
  rfl

/-- Where line `k` of a run of pages lies: in the page that the offset names, and there at the offset's place. -/
theorem pageAddr_line {k : Nat} (hfit : off + 64 * k < pages.length * 2097152) :
    ∃ (h : (off + 64 * k) / 2097152 < pages.length),
      pageAddr pages (off + 64 * k) = pages[(off + 64 * k) / 2097152] * 2097152 + (off + 64 * k) % 2097152 := by
  have h : (off + 64 * k) / 2097152 < pages.length := by omega
  refine ⟨h, ?_⟩
  simp only [pageAddr, Config.pageBytes, List.getD_eq_getElem _ _ h]

theorem pageAddr_lines_apart {j k : Nat} (hpages : pages.Nodup) (hoff : off % 64 = 0)
    (hj : off + 64 * j < pages.length * 2097152) (hk : off + 64 * k < pages.length * 2097152) (hne : j ≠ k) :
    pageAddr pages (off + 64 * j) + 64 ≤ pageAddr pages (off + 64 * k) ∨
      pageAddr pages (off + 64 * k) + 64 ≤ pageAddr pages (off + 64 * j) := by
  obtain ⟨hj', ej⟩ := pageAddr_line hj
  obtain ⟨hk', ek⟩ := pageAddr_line hk
  rw [ej, ek]
  by_cases hpage : (off + 64 * j) / 2097152 = (off + 64 * k) / 2097152
  · simp only [hpage]
    omega
  · have hdiff : pages[(off + 64 * j) / 2097152] ≠ pages[(off + 64 * k) / 2097152] := fun h =>
      hpage ((hpages.getElem_inj_iff).1 h)
    omega

/-- What is written to a run of distinct pages is read there, and no byte outside those pages changes. -/
theorem pagesWrite_reads {bs : Bytes} (mark : Bool) (hm : mapWf s.mem = true) (hpages : pages.Nodup) (hoff : off % 64 = 0)
    (hlen : bs.length = n * 64) (hfit : off + n * 64 ≤ pages.length * 2097152) :
    pagesRead (pagesWrite s pages off bs mark) pages off (n * 64) = bs ∧
    ∀ a, a / 2097152 ∉ pages → cellRead (pagesWrite s pages off bs mark).mem a = cellRead s.mem a := by
  rw [pagesRead_lines, pagesWrite_lines mark hlen]
  refine ⟨?_, fun a ha => cellRead_linesWritten_outside hm fun k hk => ?_⟩
  · have hline : ∀ k ∈ List.range n,
        cellsRead (linesWritten (fun k => pageAddr pages (off + 64 * k)) (lineOf bs) (List.range n) s.mem)
          (pageAddr pages (off + 64 * k)) 64 = lineOf bs k := fun k hk => by
      have hk' := List.mem_range.1 hk
      have hread := cellsRead_linesWritten (at_ := fun k => pageAddr pages (off + 64 * k)) (line := lineOf bs) hm hk
        List.nodup_range fun j hj hne => by
          have hj' := List.mem_range.1 hj
          rw [lineOf_length hlen hj', lineOf_length hlen hk']
          exact pageAddr_lines_apart hpages hoff (by omega) (by omega) hne
      rwa [lineOf_length hlen hk'] at hread
    rw [List.flatMap_congr hline, List.flatMap_def, ← pieces_lines hlen, flatten_pieces (by decide)]
  · have hk' := List.mem_range.1 hk
    obtain ⟨hin, haddr⟩ := pageAddr_line (pages := pages) (off := off) (k := k) (by omega)
    have hne : pages[(off + 64 * k) / 2097152] ≠ a / 2097152 := fun h => ha (h ▸ List.getElem_mem hin)
    rw [lineOf_length hlen hk']
    simp only [haddr]
    omega

end

/-! ### Tables but for their hot rows

Promotions and moves change of a version only which rows are hot and which wait. How many batches use a version rests on the rest. -/

/-- A version without its hot rows. -/
def verShape (v : TableVer) : TableVer := { v with hot := [], wanting := [] }

/-- A table without its hot rows and its count of updates. -/
def tableShape (t : Table) : Table := { t with cur := verShape t.cur, drain := t.drain.map verShape, updates := 0 }

/-- A state with the tables' shapes alone. -/
def tablesShape (s : State) : State := { s with tables := mapAll s.tables fun _ => tableShape }

theorem mapAll_mapPut {α β : Type} (m : SMap α) (k : Nat) (a : α) (f : Nat → α → β) :
    mapAll (mapPut m k a) f = mapPut (mapAll m f) k (f k a) := by
  induction m with
  | nil => rfl
  | cons x m ih =>
    obtain ⟨j, b⟩ := x
    unfold mapAll at ih ⊢
    simp only [mapPut, List.map_cons]
    split_ifs
    · rfl
    · rfl
    · rw [List.map_cons, ih]

/-- A value is changed in what `f` does not see of it. -/
theorem mapAll_mapUpd {α β : Type} (m : SMap α) (k : Nat) (g : α → α) {f : Nat → α → β} (h : ∀ a, f k (g a) = f k a) :
    mapAll (mapUpd m k g) f = mapAll m f := by
  unfold mapUpd
  split
  next a ha =>
    have hfind : mapFind (mapAll m f) k = some (f k a) := by rw [mapFind_mapAll, ha]; rfl
    rw [mapAll_mapPut, h, mapPut_of_mapFind hfind]
  · rfl

theorem updTable_shape (s : State) (k : Nat) {f : Table → Table} (h : ∀ t, tableShape (f t) = tableShape t) :
    tablesShape (updTable s k f) = tablesShape s :=
  congrArg (fun m => { s with tables := m }) (mapAll_mapUpd s.tables k f h)

theorem updVersion_shape (t : Table) (n : Nat) {f : TableVer → TableVer} (h : ∀ v, verShape (f v) = verShape v) :
    tableShape (t.updVersion n f) = tableShape t := by
  unfold Table.updVersion
  split
  · simp only [tableShape, h]
  · have hver : ∀ v : TableVer, verShape (if v.desc.version = n then f v else v) = verShape v := fun v => by
      split
      · exact h v
      · rfl
    simp only [tableShape, Option.map_map, Function.comp_def, hver]

theorem tableOf_shape (s : State) (id : BitVec 64) :
    tableOf (tablesShape s) id = (tableOf s id).map fun p => (p.1, tableShape p.2) := by
  simp only [tableOf, tablesShape, mapAll, List.find?_map]
  rfl

theorem verAt_shape (t : Table) (origin : Nat) : (tableShape t).verAt origin = verShape (t.verAt origin) := by
  unfold Table.verAt tableShape
  dsimp only
  split
  · rfl
  · cases t.drain <;> rfl

theorem tableAndParts_shape (s : State) (id : BitVec 64) : tableAndParts (tablesShape s) id = tableAndParts s id := by
  unfold tableAndParts
  rw [tableOf_shape]
  cases tableOf s id <;> rfl

/-- How many batches use a version does not rest on hot rows (R219). -/
theorem versionBatches_shape (s : State) (t : Table) (v : TableVer) :
    versionBatches (tablesShape s) (tableShape t) (verShape v) = versionBatches s t v := by
  unfold versionBatches feedBatches
  simp only [tableAndParts_shape, verAt_shape]
  rfl

/-- Every DRAINING version is in use. -/
def DrainsUsed (s : State) : Prop := ∀ y ∈ s.tables, ∀ d, y.2.drain = some d → 0 < versionBatches s y.2 d

theorem drainsUsed_of_shape {s u : State} (h : tablesShape u = tablesShape s) (hs : DrainsUsed s) : DrainsUsed u := by
  intro y hy d hd
  have hmem : (y.1, tableShape y.2) ∈ (tablesShape u).tables := List.mem_map_of_mem hy
  rw [h] at hmem
  obtain ⟨z, hz, hshape⟩ := List.mem_map.1 hmem
  have htable : tableShape z.2 = tableShape y.2 := congrArg Prod.snd hshape
  have hdrain : z.2.drain.map verShape = some (verShape d) := by
    have hdrain := congrArg Table.drain htable
    simpa only [tableShape, hd, Option.map_some] using hdrain
  obtain ⟨e, he, hver⟩ := Option.map_eq_some_iff.1 hdrain
  rw [← versionBatches_shape, h, ← htable, ← hver, versionBatches_shape]
  exact hs z hz e he

theorem freeDrainedTable_used {s : State} (h : DrainsUsed s) (k : Nat) : freeDrainedTable s k = s := by
  unfold freeDrainedTable
  split
  next t ht =>
    split
    next v hv =>
      have hused := h (k, t) (mem_of_mapFind ht) v hv
      exact if_neg fun hfree => absurd hfree.1 (Nat.ne_of_gt hused)
    · rfl
  · rfl

/-- With no scatter program and every DRAINING version in use, nothing settles. -/
theorem settleTables_used {s : State} (hscatters : s.scatters = []) (h : DrainsUsed s) : settleTables s = s := by
  rw [settleTables_of_no_scatter hscatters]
  exact List.foldl_fixed' (fun y => freeDrainedTable_used h y.1) _

/-! ### Promotions (R227) -/

theorem startMove_eq {s u : State} {k n row : Nat} (h : startMove s k n row = some u) :
    ∃ slot, u = updTable s k fun t => t.updVersion n fun v => { v with hot := mapPut v.hot row ⟨slot, false, 0⟩ } := by
  unfold startMove at h
  obtain ⟨t, -, h⟩ := Option.bind_eq_some_iff.1 h
  obtain ⟨v, -, h⟩ := Option.bind_eq_some_iff.1 h
  split at h
  · cases h
  · obtain ⟨slot, -, h⟩ := Option.map_eq_some_iff.1 h
    exact ⟨slot, h.symm⟩

/-- What a promotion by reads can do: nothing, the row's entry in MOVING, or the row among those that wait. -/
theorem promoteRow_cases (s : State) (k n row : Nat) :
    promoteRow s k n row = s ∨
    (∃ v slot, ((mapFind s.tables k).bind fun t => t.version n) = some v ∧ mapFind v.hot row = none ∧ promoteRow s k n row =
      updTable s k fun t => t.updVersion n fun v => { v with hot := mapPut v.hot row ⟨slot, false, 0⟩ }) ∨
    promoteRow s k n row = updTable s k fun t => t.updVersion n fun v =>
      { v with wanting := if v.wanting.contains row then v.wanting else v.wanting ++ [row] } := by
  unfold promoteRow
  split
  · exact .inl rfl
  next v hv =>
    split
    · exact .inl rfl
    next hcold =>
      have hnone : mapFind v.hot row = none := by
        rw [Bool.or_eq_true, not_or, Option.not_isSome_iff_eq_none] at hcold
        exact hcold.1
      split
      next u hu =>
        obtain ⟨slot, rfl⟩ := startMove_eq hu
        exact .inr (.inl ⟨v, slot, hv, hnone, rfl⟩)
      · exact .inr (.inr rfl)

theorem promoteRow_shape (s : State) (k n row : Nat) : tablesShape (promoteRow s k n row) = tablesShape s := by
  rcases promoteRow_cases s k n row with h | ⟨v, slot, -, -, h⟩ | h <;> rw [h]
  all_goals exact updTable_shape s k fun t => updVersion_shape t n fun v => rfl

/-- The hot area's entry of a row of a version of the table in slot `k`. -/
def hotEntry (s : State) (k n row : Nat) : Option HotEntry :=
  ((mapFind s.tables k).bind fun t => t.version n).bind fun v => mapFind v.hot row

/-- A version's number is looked up as before it was passed through `f`. -/
theorem version_updVersion (t : Table) (n m : Nat) {f : TableVer → TableVer} (hf : ∀ v, (f v).desc = v.desc) :
    (t.updVersion m f).version n = if n = m then (t.version n).map f else t.version n := by
  unfold Table.updVersion Table.version
  by_cases hn : n = m
  · subst hn
    by_cases hcur : t.cur.desc.version = n
    · simp [hcur, hf]
    · cases t.drain with
      | none => simp [hcur]
      | some d => by_cases hd : d.desc.version = n <;> simp [hcur, hd, hf]
  · by_cases hcur : t.cur.desc.version = m
    · simp [hcur, hf, hn, Ne.symm hn]
    · cases t.drain with
      | none => simp [hcur, hn]
      | some d => by_cases hd : d.desc.version = m <;> simp [hcur, hd, hf, hn, Ne.symm hn]

section
variable {s : State} {k n row : Nat} {e : HotEntry}

theorem hotEntry_eq_some : hotEntry s k n row = some e ↔
    ∃ v, ((mapFind s.tables k).bind fun t => t.version n) = some v ∧ mapFind v.hot row = some e :=
  Option.bind_eq_some_iff

/-- A row's entry stays where the versions of a table are passed through `f` that keeps it. -/
theorem hotEntry_updVersion {j m : Nat} {f : TableVer → TableVer} (h : hotEntry s k n row = some e) (hf : ∀ v, (f v).desc = v.desc)
    (hkept : ∀ v, ((mapFind s.tables j).bind fun t => t.version m) = some v → mapFind v.hot row = some e →
      mapFind (f v).hot row = some e) :
    hotEntry (updTable s j fun t => t.updVersion m f) k n row = some e := by
  obtain ⟨v, hv, he⟩ := hotEntry_eq_some.1 h
  obtain ⟨t, ht, hver⟩ := Option.bind_eq_some_iff.1 hv
  rw [hotEntry_eq_some]
  by_cases hk : k = j
  · subst hk
    have hfind : mapFind (updTable s k fun t => t.updVersion m f).tables k = some (t.updVersion m f) := by
      rw [updTable_tables, mapFind_mapUpd, ht]; rfl
    rw [hfind, Option.bind_some, version_updVersion _ _ _ hf, hver]
    split_ifs with hn
    · exact ⟨f v, rfl, hkept v (hn ▸ hv) he⟩
    · exact ⟨v, rfl, he⟩
  · have hfind : mapFind (updTable s j fun t => t.updVersion m f).tables k = some t := by
      rw [updTable_tables, mapFind_mapUpd_ne _ _ hk, ht]
    rw [hfind]
    exact ⟨v, hver, he⟩

/-- A promotion leaves the rows that have an entry. -/
theorem hotEntry_promoteRow (j m r : Nat) (h : hotEntry s k n row = some e) : hotEntry (promoteRow s j m r) k n row = some e := by
  rcases promoteRow_cases s j m r with hp | ⟨w, slot, hw, hcold, hp⟩ | hp <;> rw [hp]
  · exact h
  · refine hotEntry_updVersion h (fun v => rfl) fun v hv he => ?_
    obtain rfl : w = v := Option.some.inj (hw.symm.trans hv)
    have hne : row ≠ r := by
      rintro rfl
      cases hcold.symm.trans he
    exact (mapFind_mapPut_other _ _ hne).trans he
  · exact hotEntry_updVersion h (fun v => rfl) fun v _ he => he

end

/-- A state whose tables differ in hot rows alone, and where a row has its entry. -/
def KeepsHot (k n row : Nat) (e : HotEntry) (s u : State) : Prop := tablesShape u = tablesShape s ∧ hotEntry u k n row = some e

/-- The promotions that wait for a version, tried again. -/
def retryVersion (s : State) (j : Nat) (v : TableVer) : State :=
  v.wanting.foldl (fun s r => promoteRow s j v.desc.version r)
    (updTable s j fun t => t.updVersion v.desc.version fun v => { v with wanting := [] })

theorem retryPromotions_eq (s : State) : retryPromotions s =
    s.tables.foldl (fun s p => (p.2.cur :: p.2.drain.toList).foldl (fun s v => retryVersion s p.1 v) s) s := rfl

section
variable {s u : State} {k n row : Nat} {e : HotEntry}

theorem keepsHot_retryVersion (h : KeepsHot k n row e s u) (j : Nat) (v : TableVer) :
    KeepsHot k n row e s (retryVersion u j v) := by
  obtain ⟨hshape, hentry⟩ := h
  refine List.foldlRecOn (motive := KeepsHot k n row e s) _ _ ⟨?_, ?_⟩ fun t ht r _ => ?_
  · refine (updTable_shape u j fun t => ?_).trans hshape
    exact updVersion_shape t _ fun _ => rfl
  · exact hotEntry_updVersion hentry (fun _ => rfl) fun _ _ he => he
  · obtain ⟨hshape', hentry'⟩ := ht
    exact ⟨(promoteRow_shape ..).trans hshape', hotEntry_promoteRow _ _ _ hentry'⟩

/-- Promotions tried again leave the shape of the tables, and the rows that have an entry. -/
theorem keepsHot_retryPromotions (h : hotEntry s k n row = some e) : KeepsHot k n row e s (retryPromotions s) := by
  rw [retryPromotions_eq]
  refine List.foldlRecOn (motive := KeepsHot k n row e s) _ _ ⟨rfl, h⟩ fun t ht p _ => ?_
  exact List.foldlRecOn (motive := KeepsHot k n row e s) _ _ ht fun t' ht' v _ => keepsHot_retryVersion ht' p.1 v

end

/-! ### The copy of a row is complete (R228, R229, R231) -/

/-- The state in which a row's bytes and poison are in its slot. -/
def rowCopied (s : State) (v : TableVer) (slot off : Nat) : State :=
  pagesWrite s v.hotPages (slot * v.desc.stride) (pagesRead s v.pages off v.desc.stride) (pagesPoison s v.pages off v.desc.stride)

theorem rowCopied_frame (s : State) (v : TableVer) (slot off : Nat) :
    { rowCopied s v slot off with mem := s.mem, poison := s.poison } = s := pagesWrite_frame ..

/-- The row's entry flips to MOVED with its stamp. -/
def rowMoved (s : State) (k n row slot : Nat) : State :=
  updTable s k fun t =>
    { t.updVersion n fun v => { v with hot := mapPut v.hot row ⟨slot, true, s.time⟩ } with updates := satAdd (ones 32) t.updates 0 }

section
variable {s : State} {id : BitVec 64} {k n row : Nat} {t : Table} {v : TableVer} {h : HotEntry}

theorem execHotRowCopyEnd_moved (ht : tableOf s id = some (k, t)) (hv : t.version n = some v) (hh : mapFind v.hot row = some h)
    (hmoved : h.moved = true) : execHotRowCopyEnd id n row s = .next s := by
  simp only [execHotRowCopyEnd, ht, hv, Option.bind_some, hh, Option.map_some, hmoved, if_true]

theorem retryUpdates_none (hupdates : s.updates = []) : retryUpdates s = s := by
  have hsame : { s with updates := [] } = s := by rw [← hupdates]
  rw [retryUpdates, hupdates, List.foldl_nil, hsame]

/-- With nothing in the migration log and no update that waits. -/
theorem execHotRowCopyEnd_moving {off : Nat} (ht : tableOf s id = some (k, t)) (hv : t.version n = some v)
    (hh : mapFind v.hot row = some h) (hmoving : h.moved = false) (hoff : v.desc.rowOffset s.folio.number row = some off)
    (hlog : s.migLog = []) (hupdates : s.updates = []) :
    execHotRowCopyEnd id n row s =
      .next (settleTables (retryPromotions (rowMoved (rowCopied s v h.slot off) k n row h.slot))) := by
  have hcopied : pagesWrite s v.hotPages (h.slot * v.desc.stride) (pagesRead s v.pages off v.desc.stride)
    (pagesPoison s v.pages off v.desc.stride) = rowCopied s v h.slot off := rfl
  have hlog' : (rowCopied s v h.slot off).migLog = [] := (congrArg State.migLog (rowCopied_frame ..) :).trans hlog
  have hupdates' : (rowCopied s v h.slot off).updates = [] := (congrArg State.updates (rowCopied_frame ..) :).trans hupdates
  have hsame : { rowCopied s v h.slot off with migLog := [] } = rowCopied s v h.slot off := by rw [← hlog']
  simp only [execHotRowCopyEnd, ht, hv, Option.bind_some, hh, Option.map_some, hmoving, Bool.false_eq_true, if_false, hoff, hcopied,
    hlog', List.filter_nil, List.foldl_nil, hsame]
  rw [retryUpdates_none]
  · rfl
  · exact hupdates'

/-- The move makes the row's entry, and changes nothing else but the count of updates. -/
theorem rowMoved_shape (s : State) (k n row slot : Nat) : tablesShape (rowMoved s k n row slot) = tablesShape s := by
  refine updTable_shape s k fun t => ?_
  exact updVersion_shape t n fun v => rfl

theorem rowMoved_entry (slot : Nat) (ht : mapFind s.tables k = some t) (hv : t.version n = some v) :
    hotEntry (rowMoved s k n row slot) k n row = some ⟨slot, true, s.time⟩ := by
  have hver := version_updVersion t n n (f := fun v => { v with hot := mapPut v.hot row ⟨slot, true, s.time⟩ }) fun _ => rfl
  rw [if_pos rfl, hv] at hver
  refine hotEntry_eq_some.2 ⟨{ v with hot := mapPut v.hot row ⟨slot, true, s.time⟩ }, ?_, mapFind_mapPut_same ..⟩
  rw [rowMoved, updTable_tables, mapFind_mapUpd, ht]
  exact hver

theorem rowCopied_drainsUsed {slot off : Nat} (hs : DrainsUsed s) : DrainsUsed (rowCopied s v slot off) :=
  (congrArg DrainsUsed (rowCopied_frame s v slot off)).mpr hs

/-- States whose tables have one shape differ in their tables alone. -/
theorem frame_of_shape {s u : State} (hshape : tablesShape u = tablesShape s) : { u with tables := s.tables } = s :=
  (congrArg (fun x : State => { x with tables := s.tables }) hshape :)

end

/-- What HOT_ROW_COPY_END leaves where nothing waits on the row: its bytes in the slot, its entry MOVED (R228, R231). -/
theorem hotRowCopyEnd_spec {s : State} {id : BitVec 64} {k n row off : Nat} {t : Table} {v : TableVer} {h : HotEntry}
    (ht : tableOf s id = some (k, t)) (hw : mapWf s.tables = true) (hv : t.version n = some v) (hh : mapFind v.hot row = some h)
    (hmoving : h.moved = false) (hoff : v.desc.rowOffset s.folio.number row = some off) (hlog : s.migLog = [])
    (hupdates : s.updates = []) (hscatters : s.scatters = []) (hdrains : DrainsUsed s) :
    ∃ u, execHotRowCopyEnd id n row s = .next u ∧ hotEntry u k n row = some ⟨h.slot, true, s.time⟩ ∧
      { u with tables := s.tables } = rowCopied s v h.slot off := by
  have hframe := rowCopied_frame s v h.slot off
  have htables : (rowCopied s v h.slot off).tables = s.tables := (congrArg State.tables hframe :)
  have htime : (rowCopied s v h.slot off).time = s.time := (congrArg State.time hframe :)
  have hfind : mapFind (rowCopied s v h.slot off).tables k = some t := by
    rw [htables]
    exact mapFind_of_mem hw (List.mem_of_find?_eq_some ht)
  have hentry := rowMoved_entry (row := row) h.slot hfind hv
  obtain ⟨hshape, hkept⟩ := keepsHot_retryPromotions hentry
  have hshape := hshape.trans (rowMoved_shape ..)
  have hsame := frame_of_shape hshape
  have hsettled : settleTables (retryPromotions (rowMoved (rowCopied s v h.slot off) k n row h.slot)) =
      retryPromotions (rowMoved (rowCopied s v h.slot off) k n row h.slot) := by
    refine settleTables_used ?_ (drainsUsed_of_shape hshape (rowCopied_drainsUsed hdrains))
    exact ((congrArg State.scatters hsame :).trans (congrArg State.scatters hframe :)).trans hscatters
  rw [htables] at hsame
  rw [htime] at hkept
  exact ⟨_, (execHotRowCopyEnd_moving ht hv hh hmoving hoff hlog hupdates).trans (congrArg _ hsettled), hkept, hsame⟩

/-- Settles O40: the window that has ended or not, the copy of a row that is MOVING, and a row that has been MOVED. -/
theorem hotRowsMove : Obligations.HotRowsMove := by
  unfold Obligations.HotRowsMove
  intro s
  refine ⟨fun h => congrArg _ (if_neg h), fun h => congrArg _ (if_pos h),
    fun id k n row off t v h ht hw hv hh hmoving hoff hlog hupdates hscatters hm hdrains hpages hfit => ?_,
    fun id k n row t v h ht hv hh hmoved => execHotRowCopyEnd_moved ht hv hh hmoved⟩
  obtain ⟨u, hu, hentry, hsame⟩ := hotRowCopyEnd_spec ht hw hv hh hmoving hoff hlog hupdates hscatters hdrains
  obtain ⟨w, hw', hhot⟩ := hotEntry_eq_some.1 hentry
  obtain ⟨t', ht', hver⟩ := Option.bind_eq_some_iff.1 hw'
  have hmem : u.mem = (rowCopied s v h.slot off).mem := (congrArg State.mem hsame :)
  obtain ⟨lines, hstride⟩ : ∃ lines, v.desc.stride = lines * 64 := ⟨_, rfl⟩
  obtain ⟨hread, hkept⟩ := pagesWrite_reads (s := s) (off := h.slot * v.desc.stride) (n := lines)
    (bs := pagesRead s v.pages off v.desc.stride) (pagesPoison s v.pages off v.desc.stride) hm hpages
    (by rw [hstride, ← Nat.mul_assoc]; exact Nat.mul_mod_left ..) (by rw [hstride]; exact pagesRead_length ..)
    (by rw [← hstride, ← Nat.succ_mul]; exact hfit)
  rw [← hstride] at hread
  refine ⟨u, t', hu, ht', by rw [hver]; exact hhot, ?_, fun a ha => ?_, ?_⟩
  · exact (pagesRead_of_mem hmem ..).trans hread
  · rw [hmem]
    exact hkept a ha
  · exact (congrArg (fun x : State => { x with mem := s.mem, poison := s.poison }) hsame :).trans (rowCopied_frame ..)

end Sys2Proof.Proofs

namespace Sys2Proof.Proofs
open Sys2Proof Sys2Proof.Machine Sys2Proof.Safety

/-! ## A step that ends its sequence: a listing of the sequences that is not canonical -/

/-- A vocabulary whose one token ends a sequence (R286, R315). -/
def endingVocab : Vocab :=
  { id := 5, tokens := 1, byteBase := 0, maxBytes := 1, ends := [0], nodes := [], strings := [], pages := [] }

/-- An open sequence of context 0 whose last mask allows token 0. -/
def endingFront : FrontSeq :=
  { gen := 0, rid := 3, ctx := 0, vocab := 5, grammar := none, stops := [], maxTokens := 4, bufOffset := 0, bufSize := 65536, tag := 0,
    stepN := 1, gstate := 0, stack := [], charBuf := [], cand := [], total := 0, mask := [1], fin := .open_ }

/-- The request that opened the sequence. -/
def endingReq : Req := { newReq 3 0 .front ⟨none, 1, 7⟩ [] [] 0 with admitted := true }

/-- Context 0 is RUNNING and its sequence is open in slot 1. Slot 0 is listed after slot 1, so that a search of the listing does not
reach it. -/
def hiddenFront : State :=
  { State.reset with
    host.ready := true
    host.sqs := [(1, ⟨8, 0, 1⟩)]
    host.window := [(0, ⟨true, 70, 0⟩)]
    ctxs := [(0, { Ctx.empty with st := .running })]
    reqs := [(3, endingReq)]
    vocabs := [(0, endingVocab)]
    fronts := [(1, endingFront), (0, endingFront)] }

theorem hiddenFront_ioReady : IoReady hiddenFront 1 7 := by
  unfold IoReady
  decide +kernel

/-- The module once the sequence of slot 1 has ended with token 0. -/
def frontEnded : State := match exec (.frontStep (.queue 1 7) 0 1 0) hiddenFront with
  | .next u => u
  | _ => hiddenFront

theorem exec_hiddenFront : exec (.frontStep (.queue 1 7) 0 1 0) hiddenFront = .next frontEnded := rfl

/-- With slot 1 gone from the listing, a search finds slot 0. -/
theorem frontEnded_slot : mapFind hiddenFront.fronts 0 = none ∧ (mapFind frontEnded.fronts 0).isSome = true := by decide +kernel

/-- Refutes O29: the statement speaks of every state, and its clause of FRONT_STEP has every slot but the sequence's own found as before.
It asks for a canonical listing of the sequences for FRONT_CLOSE and not for FRONT_STEP. Where the listing is not canonical, dropping the
slot of a sequence that ends with the step lets a search find another slot. (`mapPut` and `mapDrop`, by which the model's steps list and
drop sequences, keep a canonical listing so.) -/
theorem not_requestsAreOffered : ¬ Obligations.RequestsAreOffered := by
  intro h
  obtain ⟨-, -, -, hstep, -⟩ := h hiddenFront 1 7 0 (by decide)
  obtain ⟨u, z, hu, -, -, -, hothers, -⟩ := hstep 1 endingFront endingVocab 0 endingReq 1 hiddenFront_ioReady rfl rfl rfl
    (by decide +kernel) (by decide) (by decide +kernel) rfl
  obtain rfl : frontEnded = u := Host.Outcome.next.inj (exec_hiddenFront.symm.trans hu)
  obtain ⟨hbefore, hafter⟩ := frontEnded_slot
  rw [hothers 0 (by decide), hbefore] at hafter
  exact absurd hafter (by decide)

end Sys2Proof.Proofs

namespace Sys2Proof.Proofs
open Sys2Proof Sys2Proof.Machine Sys2Proof.Safety

/-! ## Probe passes and folio merges (R268 to R273, R280, R447)

A pass works on one request after another, and writes of a request only what the search found. So each query of the pass keeps its
index, and what the pass did for it stays whatever the pass does for the others. -/

/-- A round of a loop that makes a property of the state, which the other rounds keep: after the loop it holds. -/
theorem foldl_makes {α : Type} {f : State → α → State} {I J : State → Prop} {a : α} {l : List α} {s : State} (ha : a ∈ l)
    (keep : ∀ t b, I t → I (f t b)) (make : ∀ t, I t → J (f t a)) (stay : ∀ t b, J t → J (f t b)) (h : I s) :
    J (l.foldl f s) := by
  induction l generalizing s with
  | nil => cases ha
  | cons b l ih =>
    rcases List.mem_cons.1 ha with rfl | ha
    · exact List.foldlRecOn (motive := J) l f (make s h) fun t ht b _ => stay t b ht
    · exact ih ha (keep s b h)

theorem queryIndex_of_indexes {s u : State} (h : u.indexes = s.indexes) (q : Req) : queryIndex u q = queryIndex s q := by
  rw [queryIndex, queryIndex, indexOf, indexOf, h]

/-- A query's index is a matter of the object that it names and of its first ORIGIN. -/
theorem queryIndex_congr (s : State) {q z : Req} (hid : z.objectId = q.objectId) (ho : z.firstOrigin = q.firstOrigin) :
    queryIndex s z = queryIndex s q := by
  rw [queryIndex, queryIndex, hid, ho]

/-! ### The queries of a pass -/

/-- Request `z` is `q` but for what a search leaves. -/
def SameQuery (q z : Req) : Prop :=
  { z with localRecs := q.localRecs, probed := q.probed, scanned := q.scanned, cond := q.cond } = q

theorem SameQuery.trans {q y z : Req} (h₁ : SameQuery q y) (h₂ : SameQuery y z) : SameQuery q z :=
  (congrArg (fun r : Req => { r with localRecs := q.localRecs, probed := q.probed, scanned := q.scanned, cond := q.cond }) h₂ :).trans h₁

theorem SameQuery.kind {q z : Req} (h : SameQuery q z) : z.kind = q.kind := (congrArg Req.kind h :)
theorem SameQuery.batch {q z : Req} (h : SameQuery q z) : z.batch = q.batch := (congrArg Req.batch h :)
theorem SameQuery.queryIndex {q z : Req} (h : SameQuery q z) (s : State) : queryIndex s z = queryIndex s q :=
  queryIndex_congr s (congrArg Req.objectId h :) (congrArg Req.firstOrigin h :)

/-- Request `rid` is the query `q` still, with an index to search, and the records found for it satisfy `P`. -/
def QueryHolds (rid : Nat) (q : Req) (P : Option (List ResultRec) → Prop) (s : State) : Prop :=
  ∃ z, reqOf s rid = some z ∧ SameQuery q z ∧ (queryIndex s z).isSome ∧ P z.localRecs

/-- A query holds the records of its search, and all of them are poisoned (R447). -/
def AllPoisoned (rs : Option (List ResultRec)) : Prop := ∃ l, rs = some l ∧ ∀ x ∈ l, x.poison = true

namespace QueryHolds

variable {rid : Nat} {q : Req} {P P' : Option (List ResultRec) → Prop} {s : State}

/-- What leaves the requests and the indexes leaves the query. -/
theorem of_eq {u : State} (hr : u.reqs = s.reqs) (hi : u.indexes = s.indexes) (h : QueryHolds rid q P s) : QueryHolds rid q P u := by
  obtain ⟨z, hz, hsame, hx, hP⟩ := h
  exact ⟨z, by rw [reqOf, hr]; exact hz, hsame, by rw [queryIndex_of_indexes hi]; exact hx, hP⟩

/-- An update of another request leaves the query. -/
theorem updReq_ne {r : Nat} (hr : rid ≠ r) (f : Req → Req) (h : QueryHolds rid q P s) : QueryHolds rid q P (updReq s r f) := by
  obtain ⟨z, hz, hsame, hx, hP⟩ := h
  exact ⟨z, (reqOf_updReq_ne s f hr).trans hz, hsame, by rwa [queryIndex_of_indexes (updReq_indexes ..)], hP⟩

/-- An update of the query's own request. -/
theorem updReq_same {f : Req → Req} (hf : ∀ z, SameQuery z (f z)) (hP : ∀ z : Req, P z.localRecs → P' (f z).localRecs)
    (h : QueryHolds rid q P s) : QueryHolds rid q P' (updReq s rid f) := by
  obtain ⟨z, hz, hsame, hx, hz'⟩ := h
  refine ⟨f z, by rw [reqOf_updReq, hz]; rfl, hsame.trans (hf z), ?_, hP z hz'⟩
  rwa [queryIndex_of_indexes (updReq_indexes ..), (hf z).queryIndex]

end QueryHolds

/-- What the search of a query leaves in its request (R269 to R273, R280, R281). -/
def searchedReq (f : Found) (q : Req) : Req :=
  { q with localRecs := some f.recs, probed := f.probed, scanned := f.scanned,
           cond := q.cond ||| if f.poison then condBit .poisoned else 0 }

/-- What the search of query `q` finds in version `w` of its index. -/
def foundFor (s : State) (q : Req) (w : IndexVer) : Found := search s w q.record (q.sketch.getD 0) q.snapshot q.firstOrigin

theorem searchQuery_eq {s : State} {rid i : Nat} {q : Req} {x : Index} {w : IndexVer} (hq : reqOf s rid = some q)
    (hx : queryIndex s q = some (i, x, w)) : searchQuery s rid = updReq s rid (searchedReq (foundFor s q w)) := by
  simp only [searchQuery, hq, hx, Option.bind_some, Option.map_some]
  rfl

/-- A search writes of its request only what it found, and of nothing else. -/
theorem searchQuery_cases (s : State) (r : Nat) : searchQuery s r = s ∨ ∃ f, searchQuery s r = updReq s r (searchedReq f) := by
  unfold searchQuery
  split
  next q w _ => exact .inr ⟨foundFor s q w, rfl⟩
  · exact .inl rfl

theorem searchQuery_frame (s : State) (r : Nat) : { searchQuery s r with reqs := s.reqs } = s := by
  rcases searchQuery_cases s r with h | ⟨f, h⟩
  · rw [h]
  · rw [h]
    rfl

theorem foldl_searchQuery_frame (l : List Nat) (s : State) : { l.foldl searchQuery s with reqs := s.reqs } = s :=
  List.foldlRecOn (motive := fun t : State => { t with reqs := s.reqs } = s) l searchQuery rfl fun t ht r _ =>
    (congrArg (fun u : State => { u with reqs := s.reqs }) (searchQuery_frame t r) :).trans ht

theorem foldl_spoilFound_frame (l : List Nat) (s : State) : { l.foldl spoilFound s with reqs := s.reqs } = s :=
  List.foldlRecOn (motive := fun t : State => { t with reqs := s.reqs } = s) l spoilFound rfl fun _ ht _ _ => ht

section
variable {rid : Nat} {q : Req} {s : State}

theorem holds_searchQuery_self {P : Option (List ResultRec) → Prop} (h : QueryHolds rid q P s) :
    QueryHolds rid q (·.isSome = true) (searchQuery s rid) := by
  have ⟨z, hz, _, hx, _⟩ := h
  obtain ⟨⟨i, x, w⟩, hx⟩ := Option.isSome_iff_exists.1 hx
  rw [searchQuery_eq hz hx]
  exact h.updReq_same (fun _ => rfl) fun _ _ => rfl

/-- A search for any query keeps what holds of whatever a search finds. -/
theorem holds_searchQuery {P : Option (List ResultRec) → Prop} (hP : ∀ rs, P (some rs)) (r : Nat) (h : QueryHolds rid q P s) :
    QueryHolds rid q P (searchQuery s r) := by
  rcases searchQuery_cases s r with hs | ⟨f, hs⟩ <;> rw [hs]
  · exact h
  · by_cases hr : rid = r
    · subst hr
      exact h.updReq_same (fun _ => rfl) fun _ _ => hP _
    · exact h.updReq_ne hr _

/-- Each query of a pass is searched for. -/
theorem foldl_searchQuery_holds {l : List Nat} (hl : rid ∈ l) (hq : reqOf s rid = some q) (hx : (queryIndex s q).isSome) :
    QueryHolds rid q (·.isSome = true) (l.foldl searchQuery s) :=
  foldl_makes (I := QueryHolds rid q fun _ => True) hl (fun _ r => holds_searchQuery (fun _ => trivial) r)
    (fun _ => holds_searchQuery_self) (fun _ r => holds_searchQuery (fun _ => rfl) r) ⟨q, hq, rfl, hx, trivial⟩

theorem allPoisoned_map {rs : Option (List ResultRec)} (h : rs.isSome = true) :
    AllPoisoned (rs.map fun l => l.map fun r => { r with poison := true }) := by
  obtain ⟨l, rfl⟩ := Option.isSome_iff_exists.1 h
  refine ⟨_, rfl, fun x hx => ?_⟩
  obtain ⟨r, -, rfl⟩ := List.mem_map.1 hx
  rfl

theorem AllPoisoned.isSome {rs : Option (List ResultRec)} (h : AllPoisoned rs) : rs.isSome = true := by
  obtain ⟨l, rfl, -⟩ := h
  rfl

/-- Poisoning a query's records. -/
theorem holds_spoilFound_self (h : QueryHolds rid q (·.isSome = true) s) : QueryHolds rid q AllPoisoned (spoilFound s rid) :=
  h.updReq_same (fun _ => rfl) fun _ => allPoisoned_map

/-- Poisoning any query's records keeps what poisoned records satisfy as well. -/
theorem holds_spoilFound {P : Option (List ResultRec) → Prop}
    (hP : ∀ rs : Option (List ResultRec), P rs → P (rs.map fun l => l.map fun r => { r with poison := true })) (r : Nat)
    (h : QueryHolds rid q P s) : QueryHolds rid q P (spoilFound s r) := by
  by_cases hr : rid = r
  · subst hr
    exact h.updReq_same (fun _ => rfl) fun z => hP z.localRecs
  · exact h.updReq_ne hr _

/-- What the pass formed is poisoned for each of its queries. -/
theorem foldl_spoilFound_holds {l : List Nat} (hl : rid ∈ l) (h : QueryHolds rid q (·.isSome = true) s) :
    QueryHolds rid q AllPoisoned (l.foldl spoilFound s) :=
  foldl_makes hl (fun _ r => holds_spoilFound (fun rs h => by rw [Option.isSome_map]; exact h) r) (fun _ => holds_spoilFound_self)
    (fun _ r => holds_spoilFound (fun _ h => allPoisoned_map h.isSome) r) h

end

/-! ### The end of a pass -/

/-- The slots of the sketches of a pass's `n` queries are free (R131, R268). -/
def sketchesFreed (s : State) (c n : Nat) (p : ProbeSec) : State :=
  match localStream s c p.qsketchStream with
  | some m => freeSlots s m n
  | none => s

theorem sketchesFreed_frame (s : State) (c n : Nat) (p : ProbeSec) : { sketchesFreed s c n p with streams := s.streams } = s := by
  unfold sketchesFreed freeSlots
  split
  · split <;> rfl
  · rfl

/-- What a pass over index `k` leaves of context `c` and of the index, once the queries `rids` have been searched for: they wait no
more, and the index has served one more pass. -/
def passCounted (s : State) (c k : Nat) (rids : List Nat) : State :=
  updCtx (updIndex s k fun x => { x with passes := satAdd (ones 32) x.passes 1 }) c fun x =>
    { x with probeWait := x.probeWait.filter fun w => !rids.contains w.1 }

/-- A pass that ends: its queries are counted and the slots of their sketches are free. -/
def passEnded (s : State) (c k : Nat) (rids : List Nat) (p : ProbeSec) : State :=
  sketchesFreed (passCounted s c k rids) c rids.length p

section
variable (s : State) (c k : Nat) (rids : List Nat) (p : ProbeSec)

theorem passEnded_frame :
    { passEnded s c k rids p with streams := s.streams, ctxs := s.ctxs, indexes := s.indexes } = s :=
  (congrArg (fun u : State => { u with streams := s.streams, ctxs := s.ctxs, indexes := s.indexes })
    (sketchesFreed_frame (passCounted s c k rids) c rids.length p) :)

theorem ctxOf_passEnded (d : Nat) : ctxOf (passEnded s c k rids p) d = ctxOf (passCounted s c k rids) d :=
  (congrArg (fun u => ctxOf u d) (sketchesFreed_frame (passCounted s c k rids) c rids.length p) :)

theorem passEnded_indexes : (passEnded s c k rids p).indexes =
    mapUpd s.indexes k fun x => { x with passes := satAdd (ones 32) x.passes 1 } :=
  (congrArg State.indexes (sketchesFreed_frame (passCounted s c k rids) c rids.length p) :)

theorem passEnded_waits : (ctxOf (passEnded s c k rids p) c).probeWait =
    (ctxOf s c).probeWait.filter fun w => !rids.contains w.1 := by
  rw [ctxOf_passEnded, passCounted, ctxOf_updCtx]
  rfl

theorem ctxOf_passEnded_ne {d : Nat} (hd : d ≠ c) : ctxOf (passEnded s c k rids p) d = ctxOf s d := by
  rw [ctxOf_passEnded, passCounted, ctxOf_updCtx_ne _ _ hd]
  rfl

theorem reqOf_passEnded (r : Nat) : reqOf (passEnded s c k rids p) r = reqOf s r :=
  (congrArg (fun u => reqOf u r) (passEnded_frame s c k rids p) :)

end

/-! ### PROBE_PASS -/

/-- What a pass formed, when its check has failed twice: all of it poisoned, and the failure recorded (R447). -/
def passSpoiled (s : State) (c : Nat) (rids : List Nat) : State := detected (rids.foldl spoilFound s) stnProbe c 0 0 0 0 true

theorem detected_head (s : State) (stn c n seq a b : Nat) (made : Bool) :
    ∃ r rs, (detected s stn c n seq a b made).integ.recs = r :: rs ∧ r.cls = .detected ∧ r.station = stn := by
  unfold detected recordErr
  dsimp only
  split
  next rs h =>
    split at h
    · cases h
    · split_ifs at h with hm
      cases h
      simp only [recMerges, Bool.and_eq_true, beq_iff_eq] at hm
      obtain ⟨⟨⟨⟨⟨⟨hcls, -⟩, -⟩, -⟩, -⟩, hstn⟩, -⟩ := hm
      exact ⟨_, _, rfl, hcls, hstn⟩
  · exact ⟨_, _, reportRec_recs _ _, rfl, rfl⟩

theorem passSpoiled_holds {s : State} {c rid : Nat} {q : Req} {rids : List Nat} (hr : rid ∈ rids)
    (h : QueryHolds rid q (·.isSome = true) s) : QueryHolds rid q AllPoisoned (passSpoiled s c rids) :=
  (foldl_spoilFound_holds hr h).of_eq (field_of_view State.reqs .requests (view_detected (by simp)))
    (field_of_view State.indexes .indexes (view_detected (by simp)))

section
variable {s : State} {c k v : Nat} {p : ProbeSec}

/-- A pass that has queries of one version of index `k`, and whose dies have power (R268, R37). -/
theorem execProbePass_runs (hc : c < 16) (hp : probeSec s c = some p) (hk : (nextPass s c p).head?.bind (passKey s) = some (k, v))
    (hd : ∀ d, d ∈ [14, 15, 16] → domainOn s d = true) (cf : Bool) :
    exec (.probePass ⟨c, cf⟩) s = .next (passEnded
      (if cf then passSpoiled ((nextPass s c p).foldl searchQuery s) c (nextPass s c p) else (nextPass s c p).foldl searchQuery s)
      c k (nextPass s c p) p) := by
  have h14 := hd 14 (by decide)
  have h15 := hd 15 (by decide)
  have h16 := hd 16 (by decide)
  change execProbePass ⟨c, cf⟩ s = _
  simp only [execProbePass, onUnit_next (decide_eq_true hc), hp, hk, h14, h15, h16, Bool.and_self, Bool.not_true, Bool.false_eq_true,
    if_false]
  rfl

/-- A pass of a context that probes nothing, or that a die without power holds up (log entry 130). -/
theorem execProbePass_idle (hc : c < 16) (h : probeSec s c = none ∨ ∃ d ∈ [14, 15, 16], domainOn s d = false) (cf : Bool) :
    exec (.probePass ⟨c, cf⟩) s = .next s := by
  change execProbePass ⟨c, cf⟩ s = _
  rw [execProbePass, onUnit_next (decide_eq_true hc)]
  dsimp only
  split
  · rfl
  next p hp =>
    split
    · rfl
    · refine congrArg _ (if_pos ?_)
      obtain ⟨d, hd, hoff⟩ := h.resolve_left (by simp [hp])
      rcases List.mem_cons.1 hd with rfl | hd
      · simp [hoff]
      · rcases List.mem_pair.1 hd with rfl | rfl <;> simp [hoff]

/-- A query that is alone in its pass is searched for in the state before the pass. -/
theorem reqOf_searched_alone {rid i : Nat} {q : Req} {x : Index} {w : IndexVer} (hq : reqOf s rid = some q)
    (hx : queryIndex s q = some (i, x, w)) :
    reqOf ([rid].foldl searchQuery s) rid = some (searchedReq (foundFor s q w) q) := by
  rw [List.foldl_cons, List.foldl_nil, searchQuery_eq hq hx, reqOf_updReq, hq]
  rfl

end

/-! ### PACK's result -/

/-- The result of a query as it is written, or withheld once the context's NaN trap has fired (R115). -/
def resultWritten (s : State) (q : Req) (header body : Bytes) (bad : List Bool) : State :=
  if trapFired s q.ctx then s else writeResult s q header body bad

/-- What PACK does with a query that has all it needs: it verifies the sheets that wait, writes the result, counts the query in its
index, and puts the completion into the request, whose records stay. -/
theorem packResult_form (s : State) (q : Req) (p : PackSec) (k : Nat) (v : IndexVer) (rs : List ResultRec) :
    ∃ header body bad f g, packResult s q p k v rs =
      updReq (updIndex (resultWritten (resultMarks s q.ctx q.batch).2 q header body bad) k f) q.rid g ∧ ∀ z : Req, (g z).recs = z.recs :=
  ⟨_, _, _, _, _, rfl, fun _ => rfl⟩

@[simp] theorem view_resultWritten {p : Area} (h : p ∉ [.host]) {s q header body bad} :
    view p (resultWritten s q header body bad) = view p s := by
  simp [resultWritten, view_writeResult h]

/-! ### Completions that come of error records

PACK's own work posts no completion: it puts the query's completion into its request. What it may post answers an event request, when
it writes an error record. -/

/-- Nothing has been posted without a new error record. -/
structure PostsOnlyForRecords (s u : State) : Prop where
  counts : s.integ.nextSeq ≤ u.integ.nextSeq
  posted : u.integ.nextSeq = s.integ.nextSeq → u.host.posted = s.host.posted

namespace PostsOnlyForRecords

theorem of_eq {s u : State} (hi : u.integ = s.integ) (hp : u.host.posted = s.host.posted) : PostsOnlyForRecords s u :=
  ⟨by rw [hi], fun _ => hp⟩

theorem of_view {s u : State} (hi : view .integrity u = view .integrity s) (hh : view .host u = view .host s) :
    PostsOnlyForRecords s u :=
  of_eq (integ_of_view hi) (field_of_view (fun t => t.host.posted) .host hh)

theorem refl (s : State) : PostsOnlyForRecords s s := of_eq rfl rfl

theorem trans {s t u : State} (h₁ : PostsOnlyForRecords s t) (h₂ : PostsOnlyForRecords t u) : PostsOnlyForRecords s u where
  counts := h₁.counts.trans h₂.counts
  posted h := by
    have hu : u.integ.nextSeq = t.integ.nextSeq := le_antisymm (h.le.trans h₁.counts) h₂.counts
    exact (h₂.posted hu).trans (h₁.posted (hu.symm.trans h))

theorem reportRec_nextSeq (s : State) (r : ErrRec) : (reportRec s r).integ.nextSeq = s.integ.nextSeq :=
  (congrArg Integrity.nextSeq (reportRec_integ s r) :)

/-- A record is new and counted, or merges into the newest and is not reported again (R462). -/
theorem recordErr (s : State) (a : RecArgs) : PostsOnlyForRecords s (recordErr s a) := by
  unfold Machine.recordErr
  dsimp only
  split
  · exact ⟨le_rfl, fun _ => rfl⟩
  · refine ⟨?_, fun h => absurd h ?_⟩ <;> rw [reportRec_nextSeq]
    · exact Nat.le_succ _
    · exact Nat.succ_ne_self _

theorem exitCheck (s : State) (stn c n : Nat) (sh : Sheet) : PostsOnlyForRecords s (exitCheck s stn c n sh).2 := by
  unfold Machine.exitCheck
  split
  · exact refl s
  · exact recordErr _ _

theorem resultMarks (s : State) (c b : Nat) : PostsOnlyForRecords s (resultMarks s c b).2 :=
  List.foldlRecOn (motive := fun a : List Bool × State => PostsOnlyForRecords s a.2) _ _ (refl s) fun a ha x _ =>
    ha.trans (exitCheck a.2 stnResult c x.1 x.2)

theorem windowWrite (s : State) (off : Nat) (bs : Bytes) (poison : Bool) (r : Option Nat) :
    PostsOnlyForRecords s (windowWrite s off bs poison r) := by
  refine List.foldlRecOn (motive := PostsOnlyForRecords s) _ _ (refl s) fun t ht x _ => ht.trans ?_
  split
  · exact of_eq rfl rfl
  · exact refl t

theorem writeResult (s : State) (q : Req) (header body : Bytes) (bad : List Bool) :
    PostsOnlyForRecords s (writeResult s q header body bad) :=
  (windowWrite ..).trans <|
    List.foldlRecOn (motive := PostsOnlyForRecords _) _ _ (refl _) fun t ht _ _ => ht.trans (windowWrite t ..)

theorem resultWritten (s : State) (q : Req) (header body : Bytes) (bad : List Bool) :
    PostsOnlyForRecords s (resultWritten s q header body bad) := by
  unfold Proofs.resultWritten
  split
  · exact refl s
  · exact writeResult ..

theorem packResult (s : State) (q : Req) (p : PackSec) (k : Nat) (v : IndexVer) (rs : List ResultRec) :
    PostsOnlyForRecords s (packResult s q p k v rs) := by
  obtain ⟨header, body, bad, f, g, hform, -⟩ := packResult_form s q p k v rs
  rw [hform]
  exact ((resultMarks ..).trans (resultWritten ..)).trans (of_eq rfl rfl)

theorem tryPack (s : State) (rid : Nat) : PostsOnlyForRecords s (tryPack s rid) := by
  unfold Machine.tryPack
  split
  · exact refl s
  · split
    · split
      · exact packResult ..
      · exact refl s
    · exact refl s

end PostsOnlyForRecords

/-! ### PACK leaves a query's merged records -/

theorem packResult_recs {s : State} {q z : Req} (hz : reqOf s q.rid = some z) (p : PackSec) (k : Nat) (v : IndexVer)
    (rs : List ResultRec) : ∃ y, reqOf (packResult s q p k v rs) q.rid = some y ∧ y.recs = z.recs := by
  obtain ⟨header, body, bad, f, g, hform, hg⟩ := packResult_form s q p k v rs
  have hreqs : (updIndex (resultWritten (resultMarks s q.ctx q.batch).2 q header body bad) k f).reqs = s.reqs :=
    field_of_view State.reqs .requests (by simp)
  refine ⟨g z, ?_, hg z⟩
  rw [hform, reqOf_updReq, reqOf, hreqs]
  exact congrArg (Option.map g) hz

theorem tryPack_recs {s : State} {rid : Nat} {z : Req} (hz : reqOf s rid = some z) (hr : z.rid = rid) :
    ∃ y, reqOf (tryPack s rid) rid = some y ∧ y.recs = z.recs := by
  unfold tryPack
  rw [hz]
  dsimp only
  split
  · split
    · subst hr
      exact packResult_recs hz ..
    · exact ⟨z, hz, rfl⟩
  · exact ⟨z, hz, rfl⟩

/-! ### FOLIO_MERGE -/

/-- A record that member `m` sent (R280). -/
def remoteRec (bits m : Nat) (r : RemoteRec) : ResultRec :=
  ⟨r.h, r.margin, r.list, r.pos, m, r.key, fp32Exact (.sub (.ofInt 1) (.ofIntExp (2 * r.h) (-(bits.log2 : Int)))), false, false, r.poison⟩

/-- What the other members in service found (R280, R476). -/
def servedFound (s : State) (remote : List RemoteFound) : List RemoteFound :=
  remote.filter fun f => inFolio s && f.module != s.folio.number && inService s f.module

/-- The merge of this member's records and of at most `k` of each other member, in the order of R252: the first `k`. -/
def mergedRecs (s : State) (bits k : Nat) (mine : List ResultRec) (remote : List RemoteFound) : List ResultRec :=
  (sortRecs (mine ++ (servedFound s remote).flatMap fun f => (f.recs.take k).map (remoteRec bits f.module))).take k

/-- What a merge leaves in the query's request. -/
def mergedReq (rs : List ResultRec) (others : List RemoteFound) (q : Req) : Req :=
  { q with recs := some rs, scanned := q.scanned + (others.map (·.scanned)).sum,
           cond := q.cond ||| if others.any fun f => f.poison || f.recs.any (·.poison) then condBit .poisoned else 0 }

/-- A merge: its records `rs` are in the request, and on their way to PACK. -/
def mergePacked (s : State) (rid : Nat) (q : Req) (rs : List ResultRec) (others : List RemoteFound) : State :=
  tryPack (emitMerged (updReq s rid (mergedReq rs others)) q rs) rid

section
variable {s : State} {bits k : Nat} {mine : List ResultRec} {remote : List RemoteFound}

theorem mergedRecs_length : (mergedRecs s bits k mine remote).length ≤ k := List.length_take_le ..

theorem mergedRecs_alone (h : inFolio s = false) : mergedRecs s bits k mine remote = (sortRecs mine).take k := by
  simp [mergedRecs, servedFound, h]

/-- Each record kept is this member's, or one of another member in service. -/
theorem mem_mergedRecs {x : ResultRec} (hx : x ∈ mergedRecs s bits k mine remote) :
    x ∈ mine ∨ ∃ f ∈ remote, f.module = x.module ∧ f.module ≠ s.folio.number ∧ inService s f.module = true := by
  have hx := (Sys2Proof.Laws.sortBy_perm _ _).mem_iff.1 (List.mem_of_mem_take hx)
  refine (List.mem_append.1 hx).imp_right fun hx => ?_
  obtain ⟨f, hf, hx⟩ := List.mem_flatMap.1 hx
  obtain ⟨r, -, rfl⟩ := List.mem_map.1 hx
  obtain ⟨hf, hserves⟩ := List.mem_filter.1 hf
  simp only [Bool.and_eq_true, bne_iff_ne] at hserves
  obtain ⟨⟨-, hother⟩, hservice⟩ := hserves
  exact ⟨f, hf, rfl, hother, hservice⟩

theorem execFolioMerge_merges {rid i : Nat} {q : Req} {x : Index} {w : IndexVer} (hq : reqOf s rid = some q)
    (hmine : q.localRecs = some mine) (hrecs : q.recs = none) (hx : queryIndex s q = some (i, x, w)) :
    exec (.folioMerge rid remote) s =
      .next (mergePacked s rid q (mergedRecs s w.desc.sketchBits (u16 q.record 24) mine remote) (servedFound s remote)) := by
  change execFolioMerge rid remote s = _
  simp only [execFolioMerge, hq, hmine, hrecs, hx]
  rfl

/-- PACK takes the merged records, which stay in the request; only an error record may post anything. -/
theorem mergePacked_spec {rid : Nat} {q : Req} (hq : reqOf s rid = some q) (hr : q.rid = rid) (rs : List ResultRec)
    (others : List RemoteFound) :
    (∃ z, reqOf (mergePacked s rid q rs others) rid = some z ∧ z.recs = some rs) ∧
      PostsOnlyForRecords s (mergePacked s rid q rs others) := by
  have hreqs : (emitMerged (updReq s rid (mergedReq rs others)) q rs).reqs = (updReq s rid (mergedReq rs others)).reqs :=
    field_of_view State.reqs .requests (view_emitMerged (by simp))
  have hz : reqOf (emitMerged (updReq s rid (mergedReq rs others)) q rs) rid = some (mergedReq rs others q) := by
    rw [reqOf, hreqs]
    exact (reqOf_updReq ..).trans (congrArg _ hq)
  refine ⟨tryPack_recs hz hr, PostsOnlyForRecords.trans ?_ (.tryPack _ _)⟩
  exact .of_view (by simp) (by simp)

end

/-- Settles O41: the pass that runs, with its check passed or failed, the pass that waits, and the merge. -/
theorem searchesComplete : Obligations.SearchesComplete := by
  unfold Obligations.SearchesComplete
  refine fun s => ⟨fun c k v p hc hp hk hd => ?_, fun c k v p hc hp hk hd => ?_, fun c hc h cf => execProbePass_idle hc h cf,
    fun rid remote q mine hq hr hmine hrecs hx => ?_⟩
  · have hu := execProbePass_runs hc hp hk hd false
    have hsearch := foldl_searchQuery_frame (nextPass s c p) s
    rw [if_neg Bool.false_ne_true] at hu
    refine ⟨_, hu, ?_, fun d hdc => ?_, fun x hx => ?_, fun rid q hr hq hx => ?_, fun rid q i x w hr hq hx => ?_,
      exec_field State.mem .memory hu rfl rfl, exec_field State.tiles .tiles hu rfl rfl, ?_⟩
    · rw [passEnded_waits]
      exact (congrArg (fun t => (ctxOf t c).probeWait.filter _) hsearch :)
    · rw [ctxOf_passEnded_ne _ _ _ _ _ hdc]
      exact (congrArg (ctxOf · d) hsearch :)
    · rw [passEnded_indexes, mapFind_mapUpd]
      exact (congrArg (fun t : State => (mapFind t.indexes k).map _) hsearch :).trans (congrArg _ hx)
    · obtain ⟨z, hz, hsame, -, hfound⟩ := foldl_searchQuery_holds hr hq hx
      exact ⟨z, (reqOf_passEnded ..).trans hz, hfound, hsame.kind, hsame.batch⟩
    · rw [reqOf_passEnded, hr, reqOf_searched_alone hq hx]
      exact ⟨_, rfl, rfl⟩
    · exact (congrArg State.host (passEnded_frame ..) :).trans (congrArg State.host hsearch :)
  · have hu := execProbePass_runs hc hp hk hd true
    rw [if_pos rfl] at hu
    refine ⟨_, hu, exec_field State.mem .memory hu rfl rfl, exec_field State.tiles .tiles hu rfl rfl, ?_, fun rid q hr hq hx => ?_⟩
    · obtain ⟨e, es, hrecs, hcls, hstn⟩ := detected_head ((nextPass s c p).foldl spoilFound ((nextPass s c p).foldl searchQuery s))
        stnProbe c 0 0 0 0 true
      exact ⟨e, es, (congrArg (fun t : State => t.integ.recs) (passEnded_frame ..) :).trans hrecs, hcls, hstn⟩
    · obtain ⟨z, hz, -, -, rs, hrs, hpoison⟩ := passSpoiled_holds (c := c) hr (foldl_searchQuery_holds hr hq hx)
      exact ⟨z, rs, (reqOf_passEnded ..).trans hz, hrs, hpoison⟩
  · obtain ⟨⟨i, x, w⟩, hx⟩ := Option.isSome_iff_exists.1 hx
    have hu := execFolioMerge_merges (remote := remote) hq hmine hrecs hx
    obtain ⟨⟨z, hz, hrs⟩, hposts⟩ := mergePacked_spec hq hr (mergedRecs s w.desc.sketchBits (u16 q.record 24) mine remote)
      (servedFound s remote)
    exact ⟨_, z, _, hu, hz, hrs, mergedRecs_length, mergedRecs_alone, fun _ => mem_mergedRecs, exec_field State.mem .memory hu rfl rfl,
      exec_field State.tiles .tiles hu rfl rfl, fun h => hposts.posted (congrArg Integrity.nextSeq h)⟩

end Sys2Proof.Proofs

namespace Sys2Proof.Proofs
open Sys2Proof Sys2Proof.Machine Sys2Proof.Safety

/-! ## The training path (R320 to R338) -/

theorem ctxOf_of_view {s u : State} (h : view .contexts u = view .contexts s) (c : Nat) : ctxOf u c = ctxOf s c :=
  field_of_view (ctxOf · c) .contexts h

theorem host_of_view {s u : State} (h : view .host u = view .host s) : u.host = s.host :=
  field_of_view State.host .host h

theorem folio_of_view {s u : State} (h : view .folio u = view .folio s) : u.folio = s.folio :=
  field_of_view State.folio .folio h

theorem engines_of_view {s u : State} (h : view .stations u = view .stations s) : u.engines = s.engines :=
  field_of_view State.engines .stations h

@[simp] theorem ctxOf_bumpDec (s : State) (c : Nat) (f : DecMon → DecMon) :
    ctxOf (bumpDec s c f) c = { ctxOf s c with dec := f (ctxOf s c).dec } := ctxOf_updCtx ..

theorem ctxOf_bumpDec_ne (s : State) {c j : Nat} (f : DecMon → DecMon) (h : j ≠ c) : ctxOf (bumpDec s c f) j = ctxOf s j :=
  ctxOf_updCtx_ne s _ h

@[simp] theorem ctxOf_setEnd (s : State) (c : Nat) (e : EndRec) : ctxOf (setEnd s c e) c =
    { ctxOf s c with ends := ((ctxOf s c).ends.filter fun y => y.position != e.position) ++ [e] } := ctxOf_updCtx ..

theorem ctxOf_setEnd_ne (s : State) {c j : Nat} (e : EndRec) (h : j ≠ c) : ctxOf (setEnd s c e) j = ctxOf s j :=
  ctxOf_updCtx_ne s _ h

/-! ### DECODE_ENGINE_GRANT (R142, R328) -/

theorem mem_mapPut {α : Type} {m : SMap α} {k : Nat} {v : α} {q : Nat × α} (h : q ∈ mapPut m k v) : q = (k, v) ∨ q ∈ m := by
  induction m with
  | nil => exact .inl (List.mem_singleton.1 h)
  | cons a m ih =>
    obtain ⟨j, b⟩ := a
    unfold mapPut at h
    split_ifs at h
    · exact List.mem_cons.1 h
    · exact (List.mem_cons.1 h).imp_right (List.mem_cons_of_mem _)
    · obtain rfl | h := List.mem_cons.1 h
      · exact .inr (List.mem_cons_self ..)
      · exact (ih h).imp_right (List.mem_cons_of_mem _)

/-- One requester alone is chosen, whatever its priority. -/
theorem arbChoice_single (bank : Bool) (k : Nat) (r : Requester) : arbChoice bank [(k, r)] 0 = some r := by
  simp [arbChoice]

/-- An engine that has taken a sheet of its unit. -/
def engineFed (e : Engine) (sh : Sheet) : Engine :=
  { e with
    bytes := e.bytes ++ sh.data.take sh.valid.toNat
    poison := e.poison ++ if sh.poison then [(e.bytes.length, e.bytes.length + sh.valid.toNat)] else [] }

/-- The sheet has left the stream, and its slot is free. -/
def unitFed (s : State) (n k : Nat) (e : Engine) (sh : Sheet) : State :=
  freeSlots (updStream { s with engines := mapPut s.engines k (engineFed e sh) } n fun x => { x with inbox := x.inbox.drop 1 }) n 1

theorem unitFed_engines (s : State) (n k : Nat) (e : Engine) (sh : Sheet) :
    (unitFed s n k e sh).engines = mapPut s.engines k (engineFed e sh) :=
  engines_of_view (s := { s with engines := mapPut s.engines k (engineFed e sh) }) (by simp [unitFed])

/-- A unit's bytes go into the engine that takes them: it stays bound, and the others are as before. -/
theorem takeUnit_engines (s : State) (n k fuel : Nat) {e : Engine} (h : mapFind s.engines k = some e) :
    (∃ e', mapFind (takeUnit s n k fuel).engines k = some e' ∧ e'.stream = e.stream ∧ e'.ctx = e.ctx) ∧
      ∀ j, j ≠ k → mapFind (takeUnit s n k fuel).engines j = mapFind s.engines j := by
  induction fuel generalizing s e with
  | zero => exact ⟨⟨e, h, rfl, rfl⟩, fun _ _ => rfl⟩
  | succ fuel ih =>
    unfold takeUnit
    split
    next e₀ sh he _ =>
      obtain rfl : e₀ = e := Option.some.inj (he.symm.trans h)
      split
      · exact ⟨⟨e₀, h, rfl, rfl⟩, fun _ _ => rfl⟩
      · have hengines := unitFed_engines s n k e₀ sh
        obtain ⟨hbound, hothers⟩ := ih (unitFed s n k e₀ sh) (e := engineFed e₀ sh) (by rw [hengines, mapFind_mapPut_same])
        refine ⟨hbound, fun j hj => (hothers j hj).trans ?_⟩
        rw [hengines, mapFind_mapPut_other _ _ hj]
    · exact ⟨⟨e, h, rfl, rfl⟩, fun _ _ => rfl⟩

/-- The sheets that wait for a stream's unit go to no engine but the one that is bound to the stream. -/
theorem pumpUnit_engines {s : State} {n k : Nat} {e : Engine} (h : mapFind s.engines k = some e)
    (honly : ∀ q ∈ s.engines, q.2.stream = n → q.1 = k) :
    (∃ e', mapFind (pumpUnit s n).engines k = some e' ∧ e'.stream = e.stream ∧ e'.ctx = e.ctx) ∧
      ∀ j, j ≠ k → mapFind (pumpUnit s n).engines j = mapFind s.engines j := by
  unfold pumpUnit
  split
  next j hj =>
    obtain ⟨q, hq, rfl⟩ := Option.map_eq_some_iff.1 hj
    rw [honly q (List.mem_of_find?_eq_some hq) (by simpa using List.find?_some hq)]
    exact takeUnit_engines s n k _ h
  · exact ⟨⟨e, h, rfl, rfl⟩, fun _ _ => rfl⟩

section
variable {s : State} {k n : Nat} {x : Stream}

/-- No engine is bound to a stream whose unit waits for one. -/
theorem engine_stream_ne_of_ready (hr : (n, x) ∈ readyStreams s) : ∀ q ∈ s.engines, q.2.stream ≠ n := by
  intro q hq hn
  simp only [readyStreams, List.mem_filter, Bool.and_eq_true, engineOf, Option.isNone_iff_eq_none, Option.map_eq_none_iff,
    List.find?_eq_none] at hr
  exact hr.2.2 q hq (by simp [hn])

/-- The only ready stream gets the engine: it is registered alone, and nothing of higher priority passes it over. -/
theorem execDecodeEngineGrant_grants (hk : k < 8) (he : mapFind s.engines k = none) (hd : domainOn s 18 = true)
    (hr : readyStreams s = [(n, x)]) (ha : mapFind s.arbiters engineArbiter = none) :
    ∃ arbiters tag, exec (.decodeEngineGrant k) s =
      .next (pumpUnit { s with arbiters := arbiters, engines := mapPut s.engines k ⟨x.ctx, n, tag, [], []⟩ } n) := by
  refine ⟨mapPut s.arbiters engineArbiter ⟨[], n + 1, some n⟩, (((streamOf s n).bind fun x => x.inbox.head?).map (·.tag)).getD 0, ?_⟩
  change execDecodeEngineGrant k s = _
  rw [execDecodeEngineGrant, onUnit_next (decide_eq_true hk)]
  simp [he, hd, hr, ha, mapGet, mapFilter, register, mapFind, mapPut, arbChoice_single, mapDrop, mapAll, countEscalation, streamOf]

/-- An engine that is bound, or that has no power (R37, log entry 130), is not granted. -/
theorem execDecodeEngineGrant_idle (hk : k < 8) (h : (mapFind s.engines k).isSome ∨ domainOn s 18 = false) :
    exec (.decodeEngineGrant k) s = .next s := by
  change execDecodeEngineGrant k s = _
  rw [execDecodeEngineGrant, onUnit_next (decide_eq_true hk), if_pos (by simpa using h)]

theorem decodeEngineGrant_binds (hk : k < 8) (he : mapFind s.engines k = none) (hd : domainOn s 18 = true)
    (hr : readyStreams s = [(n, x)]) (ha : mapFind s.arbiters engineArbiter = none) :
    ∃ u e, exec (.decodeEngineGrant k) s = .next u ∧ mapFind u.engines k = some e ∧ e.stream = n ∧ e.ctx = x.ctx ∧
      (∀ j, j ≠ k → mapFind u.engines j = mapFind s.engines j) ∧ u.mem = s.mem ∧ u.tiles = s.tiles ∧ u.ctxs = s.ctxs := by
  obtain ⟨arbiters, tag, hu⟩ := execDecodeEngineGrant_grants hk he hd hr ha
  have hfree := engine_stream_ne_of_ready (s := s) (n := n) (x := x) (by simp [hr])
  obtain ⟨⟨e, hbound, hstream, hctx⟩, hothers⟩ :=
    pumpUnit_engines (s := { s with arbiters := arbiters, engines := mapPut s.engines k ⟨x.ctx, n, tag, [], []⟩ }) (n := n)
      (mapFind_mapPut_same ..) fun q hq hn => by
        obtain rfl | hq := mem_mapPut hq
        · rfl
        · exact absurd hn (hfree q hq)
  exact ⟨_, e, hu, hbound, hstream, hctx, fun j hj => (hothers j hj).trans (mapFind_mapPut_other _ _ hj),
    mem_of_view (by simp), tiles_of_view (by simp), field_of_view State.ctxs .contexts (by simp)⟩

end

/-! ### DECODE_UNIT_END (R320, R321, R326 to R331, R339, R447) -/

/-- The frames of a unit: none of one that is skipped whole (R320). -/
def unitFrames (e : Engine) (obs : UnitObs) : List Frame := if unitSkipped (tsUnit e.bytes) obs then [] else obs.frames

/-- What a unit adds to the counts of its context (R339). -/
def countUnit (e : Engine) (obs : UnitObs) (m : DecMon) : DecMon :=
  { m with
    pixels := satAdd (ones 64) m.pixels (((unitFrames e obs).filter (·.decoded)).map (·.luma)).sum
    pictErr := satAdd (ones 32) m.pictErr (pictureErrors (tsUnit e.bytes) (unitFrames e obs)).length
    skipped := satAdd 0xFFFF m.skipped (b2n (unitSkipped (tsUnit e.bytes) obs))
    resync := satAdd 0xFFFF m.resync (tsUnit e.bytes).searches }

/-- The engine of a unit that has ended is free, and the unit is counted. -/
def unitFreed (s : State) (k : Nat) (e : Engine) (obs : UnitObs) : State :=
  bumpDec { s with engines := mapDrop s.engines k } e.ctx (countUnit e obs)

/-- The frames that R327 samples leave, in order; `marked` are the pictures whose sheets carry POISON. -/
def samplesEmitted (s : State) (e : Engine) (obs : UnitObs) (d : DecodeSec) (marked : List Nat) : State :=
  (sampledFrames d (e.bytes.take 64) obs.pts0 (unitFrames e obs) (pictureErrors (tsUnit e.bytes) (unitFrames e obs))).foldl
    (fun s n => match (unitFrames e obs)[n]? with
      | some f => emitSample s e.ctx d (e.bytes.take 64) f (marked.contains n) n ((frameTimes obs.pts0 (unitFrames e obs)).getD n 0)
      | none => s) s

theorem view_samplesEmitted {p : Area} (h : p ∉ [.contexts, .streams, .fabric, .tiles, .calibration]) {s e obs d marked} :
    view p (samplesEmitted s e obs d marked) = view p s :=
  view_foldl fun t n => by
    split
    · exact view_emitSample h
    · rfl

theorem formBatch_dec (s : State) (c j : Nat) : (ctxOf (formBatch s c).2 j).dec = (ctxOf s j).dec := by
  have hc : ctxOf (formBatch s c).2 j = ctxOf (newBatch s c).2 j := ctxOf_of_view (view_openWindows (by simp)) j
  rw [hc, newBatch]
  by_cases hj : j = c
  · rw [hj, ctxOf_setCtx]
  · rw [ctxOf_setCtx_ne _ _ hj]

theorem emitSample_dec (s : State) (c : Nat) (d : DecodeSec) (hdr : Bytes) (f : Frame) (poison : Bool) (n : Nat) (time : Int) (j : Nat) :
    (ctxOf (emitSample s c d hdr f poison n time) j).dec = (ctxOf s j).dec := by
  have emitted : view .contexts (emitSample s c d hdr f poison n time) = view .contexts s ∨
      view .contexts (emitSample s c d hdr f poison n time) = view .contexts (formBatch s c).2 := by
    unfold emitSample
    split
    · exact .inl rfl
    · refine .inr ?_
      dsimp only
      (repeat' split) <;> simp
  obtain h | h := emitted
  · rw [ctxOf_of_view h]
  · rw [ctxOf_of_view h, formBatch_dec]

theorem samplesEmitted_dec (s : State) (e : Engine) (obs : UnitObs) (d : DecodeSec) (marked : List Nat) (c : Nat) :
    (ctxOf (samplesEmitted s e obs d marked) c).dec = (ctxOf s c).dec := by
  refine List.foldlRecOn (motive := fun t => (ctxOf t c).dec = (ctxOf s c).dec) _ _ rfl fun t ht n _ => ?_
  split
  · rw [emitSample_dec, ht]
  · exact ht

section
variable {s : State} {k : Nat} {e : Engine} {d : DecodeSec} {obs : UnitObs}

/-- A unit that has all its bytes: its samples leave, a check that failed twice is recorded (R447, log
entry 152), and the captions and the end record leave. -/
theorem execDecodeUnitEnd_ends (hk : k < 8) (he : mapFind s.engines k = some e) (hd : decodeSec s e.ctx = some d)
    (hcomplete : e.complete = true) (hon : domainOn s 18 = true) :
    ∃ marked t, t = (formBatch (samplesEmitted (unitFreed s k e obs) e obs d marked) e.ctx).2 ∧
      ∃ flags tag origin text sh, exec (.decodeUnitEnd k obs) s = .next (emitLocal
        (sendBytes (if obs.checkFailed then detected t stnDecode e.ctx 0 0 0 0 true else t) e.ctx d.caption flags tag origin text)
        e.ctx d.recordStream sh) := by
  refine ⟨if obs.checkFailed then List.range (unitFrames e obs).length else poisonedPictures e.poison (unitFrames e obs), _, rfl, ?_⟩
  change ∃ _ _ _ _ _, execDecodeUnitEnd k obs s = _
  rw [execDecodeUnitEnd, onUnit_next (decide_eq_true hk)]
  simp only [he, hd, Option.bind_some, Option.map_some, hcomplete, hon, Bool.not_true, Bool.or_self, Bool.false_eq_true, if_false]
  exact ⟨_, _, _, _, _, rfl⟩

/-- A unit without all its bytes, or whose engine has no power (R37, log entry 130), does not end. -/
theorem execDecodeUnitEnd_waits (hk : k < 8) (he : mapFind s.engines k = some e) (h : e.complete = false ∨ domainOn s 18 = false) :
    exec (.decodeUnitEnd k obs) s = .next s := by
  change execDecodeUnitEnd k obs s = _
  rw [execDecodeUnitEnd, onUnit_next (decide_eq_true hk)]
  simp only [he, Option.bind_some]
  cases hd : decodeSec s e.ctx with
  | none => rfl
  | some d => exact congrArg _ (if_pos (by simpa using h))

theorem decodeUnitEnd_completes (hk : k < 8) (he : mapFind s.engines k = some e) (hw : mapWf s.engines = true)
    (hd : decodeSec s e.ctx = some d) (hcomplete : e.complete = true) (hon : domainOn s 18 = true) :
    ∃ u, exec (.decodeUnitEnd k obs) s = .next u ∧ mapFind u.engines k = none ∧ u.mem = s.mem ∧
      (obs.checkFailed = false → u.host = s.host) ∧
      (obs.checkFailed = true → ∃ r rs, u.integ.recs = r :: rs ∧ r.cls = .detected ∧ r.station = stnDecode) ∧
      (ctxOf u e.ctx).dec = countUnit e obs (ctxOf s e.ctx).dec := by
  obtain ⟨marked, t, ht, flags, tag, origin, text, sh, hu⟩ := execDecodeUnitEnd_ends (obs := obs) hk he hd hcomplete hon
  have hleft : ∀ p, p ∉ [Area.contexts, .streams, .fabric, .tiles, .calibration] → view p t = view p (unitFreed s k e obs) :=
    fun p hp => by
      rw [ht, view_formBatch (by simp_all)]
      exact view_samplesEmitted hp
  refine ⟨_, hu, ?_, ?_, fun hf => ?_, fun hf => ?_, ?_⟩
  · have hengines : t.engines = mapDrop s.engines k := engines_of_view (hleft .stations (by simp))
    rw [engines_of_view (s := t) (by split <;> simp), hengines, mapFind_mapDrop _ _ hw, if_pos rfl]
  · exact exec_field State.mem .memory hu rfl rfl
  · rw [host_of_view (s := t) (by simp [hf])]
    exact host_of_view (hleft .host (by simp))
  · obtain ⟨r, rs, hrecs, hr⟩ := detected_head t stnDecode e.ctx 0 0 0 0 true
    exact ⟨r, rs, (congrArg Integrity.recs (integ_of_view (by simp [hf]))).trans hrecs, hr⟩
  · rw [ctxOf_of_view (s := t) (by split <;> simp), ht, formBatch_dec, samplesEmitted_dec, unitFreed, ctxOf_bumpDec]
    rfl

end

/-! ### SHUFFLE_ISSUE (R323, R324, R447, R450) -/

/-- A row that another member is asked for is a frame to it: the rest of the host interface is as before. -/
theorem anyRow_host (s : State) (v : TableVer) (r origin : Nat) :
    { (anyRow s v r origin).2.host with replies := s.host.replies } = s.host := by
  unfold anyRow
  split
  · rfl
  · split <;> rfl

/-- What a position's way out leaves of the state in which it has been issued: the job, the other contexts, and the host interface
unless a check has failed. -/
structure SentFrom (s u : State) (c : Nat) (checkFailed : Bool) : Prop where
  job : (ctxOf u c).delivery = (ctxOf s c).delivery
  others : ∀ j, j ≠ c → ctxOf u j = ctxOf s j
  host : checkFailed = false → u.host = s.host

namespace SentFrom

theorem of_view {s u : State} {c : Nat} {checkFailed : Bool} (hc : view .contexts u = view .contexts s)
    (hh : checkFailed = false → view .host u = view .host s) : SentFrom s u c checkFailed :=
  ⟨by rw [ctxOf_of_view hc], fun j _ => ctxOf_of_view hc j, fun hf => host_of_view (hh hf)⟩

theorem trans {s t u : State} {c : Nat} {checkFailed : Bool} (h₁ : SentFrom s t c checkFailed) (h₂ : SentFrom t u c checkFailed) :
    SentFrom s u c checkFailed :=
  ⟨h₂.job.trans h₁.job, fun j hj => (h₂.others j hj).trans (h₁.others j hj), fun hf => (h₂.host hf).trans (h₁.host hf)⟩

theorem bumpDec (s : State) (c : Nat) (f : DecMon → DecMon) (checkFailed : Bool) : SentFrom s (bumpDec s c f) c checkFailed :=
  ⟨by rw [ctxOf_bumpDec], fun _ hj => ctxOf_bumpDec_ne s f hj, fun _ => rfl⟩

theorem emptyPosition (s : State) (c : Nat) (d : Delivery) (flags p r : Nat) (checkFailed : Bool) :
    SentFrom s (emptyPosition s c d flags p r) c checkFailed :=
  ⟨by rw [Machine.emptyPosition, ctxOf_setEnd], fun _ hj => ctxOf_setEnd_ne s _ hj, fun _ => rfl⟩

end SentFrom

/-- A position that is issued for the first time: `bad` says that its row carries poison. -/
def issuedJob (d : Delivery) (k q : Nat) (bad : Bool) : Delivery :=
  { d with
    nextQ := mapPut d.nextQ k (q + 1)
    open_ := d.open_ ++ [(q * d.shards + k, permute d.seed k (shardCount d.rows d.shards k) q * d.shards + k)]
    poison := d.poison || bad }

section
variable {s : State} {c k q i : Nat} {d : Delivery} {h : ShuffleSec} {t : Table} {v : TableVer}
variable (hc : c < 16) (hd : (ctxOf s c).delivery = some d) (hh : ((ctxOf s c).loaded.bind fun l => l.image.shuffle) = some h)
  (ht : tableOf s d.manifest = some (i, t)) (hv : t.version d.version = some v) (hn : nextPosition s d v.desc = some (k, q))
  (ha : d.again = []) (hs : d.stopped = false) (hroom : d.open_.length < h.lookahead)
include hc hd hh ht hv hn ha hs hroom

/-- The next position is issued, and goes out as an end record or as a request to FEED. -/
theorem execShuffleIssue_issues (cf : Bool) :
    ∃ r origin u, exec (.shuffleIssue ⟨c, cf⟩) s = .next u ∧
      SentFrom (setCtx (anyRow s v r origin).2 c { ctxOf s c with delivery := some (issuedJob d k q (anyRow s v r origin).1.2) }) u c cf := by
  refine ⟨permute d.seed k (shardCount d.rows d.shards k) q * d.shards + k, ((reqOf s d.rid).map (·.firstOrigin)).getD 0, ?_⟩
  have hfirst : (d.again != []) = false := by simp [ha]
  have hgo : (d.stopped || decide (h.lookahead ≤ d.open_.length)) = false := by simp [hs, hroom]
  change ∃ u, execShuffleIssue ⟨c, cf⟩ s = _ ∧ _
  rw [execShuffleIssue, onUnit_next (decide_eq_true hc)]
  simp only [hd, hh, ht, hv, hn, hfirst, hgo, Option.bind_some, Option.map_some, Bool.and_false, Bool.false_eq_true, if_false]
  refine ⟨_, rfl, ?_⟩
  split
  · exact .emptyPosition ..
  · split
    · exact (SentFrom.bumpDec ..).trans (.emptyPosition ..)
    · exact .of_view (by split <;> simp [issuedJob]) fun hf => by simp [hf, issuedJob]

theorem shuffleIssue_completes (cf : Bool) :
    ∃ u d', exec (.shuffleIssue ⟨c, cf⟩) s = .next u ∧ (ctxOf u c).delivery = some d' ∧
      d'.open_ = d.open_ ++ [(q * d.shards + k, permute d.seed k (shardCount d.rows d.shards k) q * d.shards + k)] ∧
      d'.nextQ = mapPut d.nextQ k (q + 1) ∧ d'.ended = d.ended ∧ d'.rid = d.rid ∧ u.mem = s.mem ∧ u.tiles = s.tiles ∧
      (cf = false → { u.host with replies := s.host.replies } = s.host) ∧ ∀ j, j ≠ c → ctxOf u j = ctxOf s j := by
  obtain ⟨r, origin, u, hu, hsent⟩ := execShuffleIssue_issues hc hd hh ht hv hn ha hs hroom cf
  refine ⟨u, issuedJob d k q (anyRow s v r origin).1.2, hu, ?_, rfl, rfl, rfl, rfl, exec_field State.mem .memory hu rfl rfl,
    exec_field State.tiles .tiles hu rfl rfl, fun hf => ?_, fun j hj => ?_⟩
  · rw [hsent.job, ctxOf_setCtx]
  · rw [hsent.host hf]
    exact anyRow_host s v r origin
  · rw [hsent.others j hj, ctxOf_setCtx_ne _ _ hj]
    exact ctxOf_of_view (by simp) j

end

/-! ### What records leave of the host interface -/

theorem postCpl_snoops (s : State) (x : Completion) : (postCpl s x).host.snoops = s.host.snoops :=
  (congrArg (fun u : State => u.host.snoops) (postCpl_frame s x) :)

theorem raiseEvent_snoops (s : State) (key lid : Nat) : (raiseEvent s key lid).host.snoops = s.host.snoops := by
  unfold raiseEvent
  dsimp only
  split_ifs
  · rfl
  · split
    · rfl
    · exact postCpl_snoops ..

theorem reportRec_snoops (s : State) (r : ErrRec) : (reportRec s r).host.snoops = s.host.snoops := by
  unfold reportRec forwardRecs
  split
  · dsimp only
    rw [raiseEvent_snoops]
    split_ifs <;> rfl
  · rfl

theorem recordErr_snoops (s : State) (a : RecArgs) : (recordErr s a).host.snoops = s.host.snoops := by
  unfold recordErr
  dsimp only
  split
  · rfl
  · rw [reportRec_snoops]
    rfl

/-! ### DELIVER_WRITE (R333 to R336) -/

/-- Context `c` is now `x`; the folio and the lines that wait for the host are as before. -/
structure Becomes (s u : State) (c : Nat) (x : Ctx) : Prop where
  ctx : ctxOf u c = x
  folio : u.folio = s.folio
  snoops : u.host.snoops = s.host.snoops

namespace Becomes
variable {s t u : State} {c : Nat} {x y : Ctx}

theorem refl (s : State) (c : Nat) : Becomes s s c (ctxOf s c) := ⟨rfl, rfl, rfl⟩

theorem trans (h₁ : Becomes s t c x) (h₂ : Becomes t u c y) : Becomes s u c y :=
  ⟨h₂.ctx, h₂.folio.trans h₁.folio, h₂.snoops.trans h₁.snoops⟩

theorem trapFired (h : Becomes s t c x) (hx : x.nan = (ctxOf s c).nan) : trapFired t c = trapFired s c := by
  rw [Machine.trapFired, Machine.trapFired, h.ctx, hx]

theorem updCtx (h : Becomes s t c x) (f : Ctx → Ctx) : Becomes s (updCtx t c f) c (f x) :=
  ⟨by rw [ctxOf_updCtx, h.ctx], h.folio, h.snoops⟩

theorem recordErr (h : Becomes s t c x) (a : RecArgs) : Becomes s (recordErr t a) c x :=
  ⟨(ctxOf_of_view (by simp) c).trans h.ctx, (folio_of_view (by simp)).trans h.folio, (recordErr_snoops ..).trans h.snoops⟩

theorem exitCheck (h : Becomes s t c x) (stn n : Nat) (sh : Sheet) : Becomes s (exitCheck t stn c n sh).2 c x := by
  unfold Machine.exitCheck
  split
  · exact h
  · exact h.recordErr _

theorem freeSlots (h : Becomes s t c x) (n k : Nat) : Becomes s (freeSlots t n k) c x :=
  ⟨(ctxOf_of_view (by simp) c).trans h.ctx, (folio_of_view (by simp)).trans h.folio,
    (congrArg HostIf.snoops (host_of_view (by simp))).trans h.snoops⟩

theorem releaseSample (h : Becomes s t c x) (d : DecodeSec) (y : Sample) :
    Becomes s (releaseSample t c d y) c { x with samples := x.samples.filter fun z => z.batch != y.batch } := by
  have free {v : State} {z : Ctx} (l k : Nat) (hv : Becomes s v c z) :
      Becomes s (match localStream v c l with | some n => Machine.freeSlots v n k | none => v) c z := by
    split
    · exact hv.freeSlots ..
    · exact hv
  exact free _ _ (free _ _ (free _ _ (h.updCtx _)))

theorem setEnd (h : Becomes s t c x) (e : EndRec) :
    Becomes s (setEnd t c e) c { x with ends := (x.ends.filter fun y => y.position != e.position) ++ [e] } := h.updCtx _

end Becomes

/-- The sheets of a sample, each with whether it enters the ring marked (R125). -/
def sheetsChecked (s : State) (c n : Nat) (shs : List Sheet) : List (Sheet × Bool) × State :=
  shs.foldl (fun a sh =>
    (a.1 ++ [(sh, (exitCheck a.2 stnDeliver c n sh).1)], (exitCheck a.2 stnDeliver c n sh).2)) ([], s)

theorem sheetsChecked_becomes (s : State) (c n : Nat) (shs : List Sheet) : Becomes s (sheetsChecked s c n shs).2 c (ctxOf s c) :=
  List.foldlRecOn (motive := fun a : List (Sheet × Bool) × State => Becomes s a.2 c (ctxOf s c)) _ _ (.refl s c)
    fun _ ha sh _ => ha.exitCheck stnDeliver n sh

/-- A sample leaves DELIVER: it is kept, unless the NaN trap withholds it (R115). -/
def sampleTaken (s : State) (c : Nat) (d : DecodeSec) (y : Sample) (poison : Bool) : State :=
  let t := if poison && !trapFired s c then biteRecord s c stnDeliver else s
  let e := endOf (ctxOf t c) y.position
  updCtx (setEnd (releaseSample t c d y) c { e with kept := e.kept + b2n !trapFired s c }) c fun x =>
    { x with
      delivery := x.delivery.map fun j => { j with poison := j.poison || poison }
      dec := { x.dec with kept := satAdd (ones 32) x.dec.kept (b2n !trapFired s c) } }

theorem sampleTaken_becomes (s : State) (c : Nat) (d : DecodeSec) (y : Sample) (poison : Bool) :
    ∃ ends delivery, Becomes s (sampleTaken s c d y poison) c { ctxOf s c with
      samples := (ctxOf s c).samples.filter fun z => z.batch != y.batch, ends := ends, delivery := delivery,
      dec := { (ctxOf s c).dec with kept := satAdd (ones 32) (ctxOf s c).dec.kept (b2n !trapFired s c) } } := by
  have bitten : Becomes s (if poison && !trapFired s c then biteRecord s c stnDeliver else s) c (ctxOf s c) := by
    split
    · exact (Becomes.refl s c).recordErr _
    · exact .refl s c
  unfold sampleTaken
  exact ⟨_, _, ((bitten.releaseSample d y).setEnd _).updCtx _⟩

/-- A sample's slot is written when its sheets are checked and it has left DELIVER. -/
theorem putSample_form (s : State) (c port : Nat) (p : PortEntry) (pages : List Nat) (k : Nat) (d : DecodeSec) (y : Sample) :
    ∃ t ends delivery parts, putSample s c port p pages k d y = writeSlot t c port p pages k parts ∧
      Becomes s t c { ctxOf s c with
        samples := (ctxOf s c).samples.filter fun z => z.batch != y.batch, ends := ends, delivery := delivery,
        dec := { (ctxOf s c).dec with kept := satAdd (ones 32) (ctxOf s c).dec.kept (b2n !trapFired s c) } } := by
  have written : ∃ poison parts, putSample s c port p pages k d y =
      writeSlot (sampleTaken (sheetsChecked s c ((localStream s c d.copy).getD 0) y.sheets).2 c d y poison) c port p pages k parts :=
    ⟨_, _, rfl⟩
  obtain ⟨poison, parts, hwritten⟩ := written
  have hchecked := sheetsChecked_becomes s c ((localStream s c d.copy).getD 0) y.sheets
  obtain ⟨ends, delivery, htaken⟩ := sampleTaken_becomes (sheetsChecked s c ((localStream s c d.copy).getD 0) y.sheets).2 c d y poison
  rw [hchecked.ctx, hchecked.trapFired rfl] at htaken
  exact ⟨_, ends, delivery, parts, hwritten, hchecked.trans htaken⟩

/-- An end record that leaves DELIVER is counted, and its slot is written last. -/
theorem putEnd_form (s : State) (c port : Nat) (p : PortEntry) (pages : List Nat) (k : Nat) (e : EndRec) (tokens : List Nat) :
    ∃ t captions delivery parts, putEnd s c port p pages k e tokens = writeSlot t c port p pages k parts ∧
      Becomes s t c { ctxOf s c with
        ends := (ctxOf s c).ends.filter fun y => y.position != e.position, captions := captions, delivery := delivery,
        dec := { (ctxOf s c).dec with ended := satAdd (ones 32) (ctxOf s c).dec.ended 1 } } := by
  refine ⟨_, _, _, _, rfl, Becomes.updCtx ?_ _⟩
  split
  · exact (Becomes.refl s c).recordErr _
  · exact .refl s c

/-! The slot itself. -/

section
variable {s : State} {c port k : Nat} {p : PortEntry} {pages : List Nat} {parts : List (Bytes × Bool)}

theorem writeSlot_withheld (h : trapFired s c = true) : writeSlot s c port p pages k parts = s := if_pos h

theorem writeSlot_ctx (h : trapFired s c = false) : ctxOf (writeSlot s c port p pages k parts) c =
    { ctxOf s c with produced := mapPut (ctxOf s c).produced port (k + 1) } := by
  rw [← ctxOf_updCtx s c fun x => { x with produced := mapPut x.produced port (k + 1) }]
  refine ctxOf_of_view ?_ c
  simp only [writeSlot, h, Bool.false_eq_true, if_false]
  split <;> simp

/-- PRODUCED is the last line that waits for the host (R335). -/
theorem writeSlot_mine (h : trapFired s c = false) (hm : p.module = s.folio.number) :
    (writeSlot s c port p pages k parts).host.snoops.getLast? = some ⟨pageAddr pages 0 / 64, leBytes 8 (k + 1), false, none⟩ := by
  rw [writeSlot, if_neg (by simp [h]), if_neg (by simpa using hm)]
  exact List.getLast?_concat

/-- A slot of a ring on another member goes out as a frame (R333). -/
theorem writeSlot_far (h : trapFired s c = false) (hm : p.module ≠ s.folio.number) :
    (∃ f, (writeSlot s c port p pages k parts).host.replies.head? = some f ∧ f.channel = .hatchFrame ∧ f.status = 0) ∧
      (writeSlot s c port p pages k parts).host.snoops = s.host.snoops := by
  rw [writeSlot, if_neg (by simp [h]), if_pos (by simpa using hm)]
  exact ⟨⟨_, rfl, rfl, rfl⟩, rfl⟩

end

/-! The command. -/

/-- The pages of a port's ring. -/
def ringPages (s : State) (c : Nat) (p : PortEntry) : List Nat := ((ctxOf s c).loaded.map fun l => mapGet l.regionPages p.region []).getD []

/-- The next item of a port goes into slot `k` of its ring. -/
def putItem (s : State) (c port : Nat) (p : PortEntry) (pages : List Nat) (k : Nat) (d : DecodeSec) : RingItem → State
  | .sample y => putSample s c port p pages k d y
  | .ending e ts => putEnd s c port p pages k e ts

/-- A usage error is recorded where the host has put CONSUMED above PRODUCED (R335). -/
def consumedChecked (s : State) (c port : Nat) (p : PortEntry) : State :=
  if p.module == s.folio.number && decide (mapGet (ctxOf s c).produced port 0 < consumedOf s (ringPages s c p)) then
    usageStn s stnDeliver c 0 0
  else s

theorem consumedChecked_becomes (s : State) (c port : Nat) (p : PortEntry) : Becomes s (consumedChecked s c port p) c (ctxOf s c) := by
  unfold consumedChecked
  split
  · exact (Becomes.refl s c).recordErr _
  · exact .refl s c

section
variable {s : State} {c port : Nat} {d : DecodeSec} {v : DeliverSec} {p : PortEntry} {item : RingItem}

theorem consumedChecked_of_le (h : consumedOf s (ringPages s c p) ≤ mapGet (ctxOf s c).produced port 0) : consumedChecked s c port p = s :=
  if_neg (by simp [h])

theorem consumedChecked_of_far (h : p.module ≠ s.folio.number) : consumedChecked s c port p = s := if_neg (by simp [h])

variable (hc : c < 16) (hd : decodeSec s c = some d) (hv : deliverSec s c = some v) (hp : v.ports[port]? = some p)
  (hi : nextItem (ctxOf s c) d v.ports.length port = some item)
include hc hd hv hp hi

theorem execDeliverWrite_item :
    exec (.deliverWrite c port) s = .next (
      if p.module == s.folio.number && !trapFired (consumedChecked s c port p) c &&
        decide (min (consumedOf s (ringPages s c p)) (mapGet (ctxOf s c).produced port 0) + p.slots ≤ mapGet (ctxOf s c).produced port 0)
      then consumedChecked s c port p
      else putItem (consumedChecked s c port p) c port p (ringPages s c p) (mapGet (ctxOf s c).produced port 0) d item) := by
  change execDeliverWrite c port s = _
  rw [execDeliverWrite, onUnit_next (decide_eq_true hc)]
  simp only [hd, hv, hp, hi, Option.bind_some, Option.map_some]
  cases item <;> rfl

theorem execDeliverWrite_far (hm : p.module ≠ s.folio.number) :
    exec (.deliverWrite c port) s =
      .next (putItem s c port p (ringPages s c p) (mapGet (ctxOf s c).produced port 0) d item) := by
  rw [execDeliverWrite_item hc hd hv hp hi, if_neg (by simp [hm]), consumedChecked_of_far hm]

theorem execDeliverWrite_trapped (ht : trapFired s c = true) :
    exec (.deliverWrite c port) s = .next (putItem (consumedChecked s c port p) c port p (ringPages s c p)
      (mapGet (ctxOf s c).produced port 0) d item) := by
  have htrap := ((consumedChecked_becomes s c port p).trapFired rfl).trans ht
  rw [execDeliverWrite_item hc hd hv hp hi, if_neg (by simp [htrap])]

theorem execDeliverWrite_room (hle : consumedOf s (ringPages s c p) ≤ mapGet (ctxOf s c).produced port 0)
    (hroom : mapGet (ctxOf s c).produced port 0 < consumedOf s (ringPages s c p) + p.slots) :
    exec (.deliverWrite c port) s =
      .next (putItem s c port p (ringPages s c p) (mapGet (ctxOf s c).produced port 0) d item) := by
  rw [execDeliverWrite_item hc hd hv hp hi, consumedChecked_of_le hle, Nat.min_eq_left hle, if_neg (by simp [hroom])]

/-- A full ring holds DELIVER's writes to it (R335). -/
theorem execDeliverWrite_full (hm : p.module = s.folio.number) (ht : trapFired s c = false)
    (hfull : consumedOf s (ringPages s c p) + p.slots ≤ mapGet (ctxOf s c).produced port 0) : exec (.deliverWrite c port) s = .next s := by
  have hle : consumedOf s (ringPages s c p) ≤ mapGet (ctxOf s c).produced port 0 := by omega
  rw [execDeliverWrite_item hc hd hv hp hi, consumedChecked_of_le hle, Nat.min_eq_left hle, if_pos (by simp [hm, ht, hfull])]

end

/-! What an item's slot leaves. -/

section
variable {s : State} {c port k : Nat} {p : PortEntry} {pages : List Nat} {d : DecodeSec} {y : Sample}

theorem putSample_withheld (ht : trapFired s c = true) :
    (ctxOf (putSample s c port p pages k d y) c).produced = (ctxOf s c).produced ∧
      (ctxOf (putSample s c port p pages k d y) c).dec.kept = satAdd (ones 32) (ctxOf s c).dec.kept 0 ∧
      (∀ z ∈ (ctxOf (putSample s c port p pages k d y) c).samples, z.batch ≠ y.batch) ∧
      (putSample s c port p pages k d y).host.snoops = s.host.snoops := by
  obtain ⟨t, ends, delivery, parts, hput, htaken⟩ := putSample_form s c port p pages k d y
  rw [hput, writeSlot_withheld ((htaken.trapFired rfl).trans ht), htaken.ctx, ht]
  exact ⟨rfl, rfl, fun z hz => by simpa using (List.mem_filter.1 hz).2, htaken.snoops⟩

theorem putSample_written (ht : trapFired s c = false) (hm : p.module = s.folio.number) :
    mapGet (ctxOf (putSample s c port p pages k d y) c).produced port 0 = k + 1 ∧
      (ctxOf (putSample s c port p pages k d y) c).dec.kept = satAdd (ones 32) (ctxOf s c).dec.kept 1 ∧
      (∀ z ∈ (ctxOf (putSample s c port p pages k d y) c).samples, z.batch ≠ y.batch) ∧
      (putSample s c port p pages k d y).host.snoops.getLast? =
        some ⟨pageAddr pages 0 / 64, leBytes 8 (k + 1), false, none⟩ := by
  obtain ⟨t, ends, delivery, parts, hput, htaken⟩ := putSample_form s c port p pages k d y
  have htrap := (htaken.trapFired rfl).trans ht
  rw [hput, writeSlot_ctx htrap, htaken.ctx, ht, writeSlot_mine htrap (htaken.folio ▸ hm)]
  exact ⟨mapGet_mapPut_same .., rfl, fun z hz => by simpa using (List.mem_filter.1 hz).2, rfl⟩

theorem putEnd_written {e : EndRec} {tokens : List Nat} (ht : trapFired s c = false) :
    mapGet (ctxOf (putEnd s c port p pages k e tokens) c).produced port 0 = k + 1 ∧
      (ctxOf (putEnd s c port p pages k e tokens) c).dec.ended = satAdd (ones 32) (ctxOf s c).dec.ended 1 ∧
      ∀ z ∈ (ctxOf (putEnd s c port p pages k e tokens) c).ends, z.position ≠ e.position := by
  obtain ⟨t, captions, delivery, parts, hput, htaken⟩ := putEnd_form s c port p pages k e tokens
  rw [hput, writeSlot_ctx ((htaken.trapFired rfl).trans ht), htaken.ctx]
  exact ⟨mapGet_mapPut_same .., rfl, fun z hz => by simpa using (List.mem_filter.1 hz).2⟩

/-- Whatever the item, it has left its context when its slot is written, and the NaN trap is as before. -/
theorem putItem_form (s : State) (c port : Nat) (p : PortEntry) (pages : List Nat) (k : Nat) (d : DecodeSec) (item : RingItem) :
    ∃ t x parts, putItem s c port p pages k d item = writeSlot t c port p pages k parts ∧ Becomes s t c x ∧
      x.nan = (ctxOf s c).nan := by
  cases item with
  | sample y =>
    obtain ⟨t, ends, delivery, parts, hput, htaken⟩ := putSample_form s c port p pages k d y
    exact ⟨t, _, parts, hput, htaken, rfl⟩
  | ending e tokens =>
    obtain ⟨t, captions, delivery, parts, hput, htaken⟩ := putEnd_form s c port p pages k e tokens
    exact ⟨t, _, parts, hput, htaken, rfl⟩

theorem putItem_far {item : RingItem} (ht : trapFired s c = false) (hm : p.module ≠ s.folio.number) :
    (∃ f, (putItem s c port p pages k d item).host.replies.head? = some f ∧ f.channel = .hatchFrame ∧ f.status = 0) ∧
      mapGet (ctxOf (putItem s c port p pages k d item) c).produced port 0 = k + 1 ∧
      (putItem s c port p pages k d item).host.snoops = s.host.snoops := by
  obtain ⟨t, x, parts, hput, htaken, hnan⟩ := putItem_form s c port p pages k d item
  have htrap : trapFired t c = false := (htaken.trapFired hnan).trans ht
  obtain ⟨hframe, hsnoops⟩ := writeSlot_far (port := port) (k := k) (pages := pages) (parts := parts) htrap (htaken.folio ▸ hm)
  rw [hput, writeSlot_ctx htrap]
  exact ⟨hframe, mapGet_mapPut_same .., hsnoops.trans htaken.snoops⟩

end

/-! DELIVER_WRITE by what the ring and the NaN trap allow. -/

section
variable {s : State} {c port : Nat} {d : DecodeSec} {v : DeliverSec} {p : PortEntry}
variable (hc : c < 16) (hd : decodeSec s c = some d) (hv : deliverSec s c = some v) (hp : v.ports[port]? = some p)
include hc hd hv hp

/-- Once the NaN trap has fired, a sample leaves DELIVER and reaches no ring (R115). -/
theorem deliverWrite_withholds {y : Sample} (hi : nextItem (ctxOf s c) d v.ports.length port = some (.sample y))
    (ht : trapFired s c = true) :
    ∃ u, exec (.deliverWrite c port) s = .next u ∧ mapGet (ctxOf u c).produced port 0 = mapGet (ctxOf s c).produced port 0 ∧
      (ctxOf u c).dec.kept = satAdd (ones 32) (ctxOf s c).dec.kept 0 ∧ (∀ z ∈ (ctxOf u c).samples, z.batch ≠ y.batch) ∧
      u.host.snoops = s.host.snoops ∧ u.mem = s.mem ∧ u.tiles = s.tiles := by
  have hu := execDeliverWrite_trapped hc hd hv hp hi ht
  have hchecked := consumedChecked_becomes s c port p
  obtain ⟨hproduced, hkept, hsamples, hsnoops⟩ := putSample_withheld (p := p) (port := port) (d := d) (y := y)
    (k := mapGet (ctxOf s c).produced port 0) (pages := ringPages s c p) ((hchecked.trapFired rfl).trans ht)
  rw [hchecked.ctx] at hproduced hkept
  exact ⟨_, hu, congrArg (mapGet · port 0) hproduced, hkept, hsamples, hsnoops.trans hchecked.snoops,
    exec_field State.mem .memory hu rfl rfl, exec_field State.tiles .tiles hu rfl rfl⟩

section
variable (ht : trapFired s c = false) (hle : consumedOf s (ringPages s c p) ≤ mapGet (ctxOf s c).produced port 0)
  (hroom : mapGet (ctxOf s c).produced port 0 < consumedOf s (ringPages s c p) + p.slots)
include ht hle hroom

theorem deliverWrite_sample {y : Sample} (hm : p.module = s.folio.number)
    (hi : nextItem (ctxOf s c) d v.ports.length port = some (.sample y)) :
    ∃ u, exec (.deliverWrite c port) s = .next u ∧
      mapGet (ctxOf u c).produced port 0 = mapGet (ctxOf s c).produced port 0 + 1 ∧
      (ctxOf u c).dec.kept = satAdd (ones 32) (ctxOf s c).dec.kept 1 ∧ (∀ z ∈ (ctxOf u c).samples, z.batch ≠ y.batch) ∧
      u.host.snoops.getLast? = some ⟨pageAddr (ringPages s c p) 0 / 64, leBytes 8 (mapGet (ctxOf s c).produced port 0 + 1), false, none⟩ ∧
      u.mem = s.mem ∧ u.tiles = s.tiles := by
  have hu := execDeliverWrite_room hc hd hv hp hi hle hroom
  obtain ⟨hproduced, hkept, hsamples, hsnoops⟩ := putSample_written (port := port) (d := d) (y := y)
    (k := mapGet (ctxOf s c).produced port 0) (pages := ringPages s c p) ht hm
  exact ⟨_, hu, hproduced, hkept, hsamples, hsnoops, exec_field State.mem .memory hu rfl rfl, exec_field State.tiles .tiles hu rfl rfl⟩

theorem deliverWrite_ending {e : EndRec} {tokens : List Nat}
    (hi : nextItem (ctxOf s c) d v.ports.length port = some (.ending e tokens)) :
    ∃ u, exec (.deliverWrite c port) s = .next u ∧
      mapGet (ctxOf u c).produced port 0 = mapGet (ctxOf s c).produced port 0 + 1 ∧
      (ctxOf u c).dec.ended = satAdd (ones 32) (ctxOf s c).dec.ended 1 ∧ (∀ z ∈ (ctxOf u c).ends, z.position ≠ e.position) ∧
      u.mem = s.mem ∧ u.tiles = s.tiles := by
  have hu := execDeliverWrite_room hc hd hv hp hi hle hroom
  obtain ⟨hproduced, hended, hends⟩ := putEnd_written (port := port) (p := p) (e := e) (tokens := tokens)
    (k := mapGet (ctxOf s c).produced port 0) (pages := ringPages s c p) ht
  exact ⟨_, hu, hproduced, hended, hends, exec_field State.mem .memory hu rfl rfl, exec_field State.tiles .tiles hu rfl rfl⟩

end

theorem deliverWrite_far (hm : p.module ≠ s.folio.number) (ht : trapFired s c = false)
    (hi : (nextItem (ctxOf s c) d v.ports.length port).isSome) :
    ∃ u f, exec (.deliverWrite c port) s = .next u ∧ u.host.replies.head? = some f ∧ f.channel = .hatchFrame ∧ f.status = 0 ∧
      mapGet (ctxOf u c).produced port 0 = mapGet (ctxOf s c).produced port 0 + 1 ∧ u.host.snoops = s.host.snoops ∧
      u.mem = s.mem ∧ u.tiles = s.tiles := by
  obtain ⟨item, hi⟩ := Option.isSome_iff_exists.1 hi
  have hu := execDeliverWrite_far hc hd hv hp hi hm
  obtain ⟨⟨f, hhead, hchannel, hstatus⟩, hproduced, hsnoops⟩ := putItem_far (port := port) (d := d) (item := item)
    (k := mapGet (ctxOf s c).produced port 0) (pages := ringPages s c p) ht hm
  exact ⟨_, f, hu, hhead, hchannel, hstatus, hproduced, hsnoops, exec_field State.mem .memory hu rfl rfl,
    exec_field State.tiles .tiles hu rfl rfl⟩

end

/-- Settles O42: the grant of an engine, the end of a unit, the next position, and the next item of a ring on this member and on
another. -/
theorem trainingPathCompletes : Obligations.TrainingPathCompletes := by
  unfold Obligations.TrainingPathCompletes
  refine fun s => ⟨fun k n x => decodeEngineGrant_binds, fun k => execDecodeEngineGrant_idle,
    fun k obs e d hk he hw hd hcomplete hon => ?_, fun k obs e => execDecodeUnitEnd_waits, fun c k q d h t i v => shuffleIssue_completes,
    fun c port d v p l hc hd hv hp hm hl => ?_, fun c port d v p => deliverWrite_far⟩
  · obtain ⟨u, hu, hfree, hmem, hhost, hrec, hdec⟩ := decodeUnitEnd_completes (obs := obs) hk he hw hd hcomplete hon
    exact ⟨u, hu, hfree, hmem, hhost, hrec, hdec ▸ ⟨rfl, rfl, rfl, rfl⟩⟩
  · have hring : mapGet l.regionPages p.region [] = ringPages s c p := by simp [ringPages, hl]
    rw [hring]
    refine ⟨fun y => deliverWrite_withholds hc hd hv hp, fun y hi ht hle hroom => deliverWrite_sample hc hd hv hp ht hle hroom hm hi,
      fun e ts hi ht hle hroom => deliverWrite_ending hc hd hv hp ht hle hroom hi, fun hi ht hfull => ?_⟩
    obtain ⟨item, hi⟩ := Option.isSome_iff_exists.1 hi
    exact execDeliverWrite_full hc hd hv hp hi hm ht hfull

end Sys2Proof.Proofs
